-- ==== Sys2Proof/Word.lean ====
section
/-!
DEFINITION. The plain words of the UXT9 model: bytes, registers, accumulator lanes, addresses, and the
little-endian and bit-field readings of R4. Nothing here knows the machine.
-/

namespace Sys2Proof

/-- One byte. -/
abbrev Byte := BitVec 8
/-- One 32-bit register word (R5). -/
abbrev Word := BitVec 32
/-- A 64-bit quantity: ring counts, scalar registers, route words. -/
abbrev DWord := BitVec 64
/-- One L48 accumulator lane, its 48-bit two's complement code (R71). -/
abbrev L48 := BitVec 48
/-- A sparse table: key and value pairs, keys strictly rising, no value equal to the table's default. -/
abbrev SMap (α : Type) := List (Nat × α)

/-- Bits `[hi:lo]` of a number, bit 0 least significant (R4). -/
def bitsOf (x hi lo : Nat) : Nat := (x >>> lo) % 2 ^ (hi + 1 - lo)

/-- Bit `i` of a number. -/
def bitOf (x i : Nat) : Bool := (x >>> i) % 2 == 1

/-- The signed reading of the low `n` bits of a number. -/
def signedOf (n x : Nat) : Int :=
  let y := x % 2 ^ n
  if 2 * y < 2 ^ n then (y : Int) else (y : Int) - (2 ^ n : Nat)

/-- The `n`-bit two's complement code of an integer, as a number. -/
def codeOf (n : Nat) (z : Int) : Nat := (z % (2 ^ n : Nat)).toNat

/-- A bit as a number. -/
def natOfBool (b : Bool) : Nat := if b then 1 else 0

/-- Ceiling division. -/
def ceilDiv (a b : Nat) : Nat := (a + b - 1) / b

/-- The little-endian number that a byte string spells (R4). -/
def leNat : List Byte → Nat
  | [] => 0
  | b :: bs => b.toNat + 256 * leNat bs

/-- The `n` bytes of a number, little-endian (R4). -/
def leBytes : Nat → Nat → List Byte
  | 0, _ => []
  | n + 1, x => BitVec.ofNat 8 x :: leBytes n (x / 256)

/-- `n` bytes of a string from offset `i`; bytes past its end read zero. -/
def sliceBytes (bs : List Byte) (i n : Nat) : List Byte :=
  (List.range n).map fun k => bs.getD (i + k) 0

/-- The little-endian number in `n` bytes from offset `i`. -/
def leAt (bs : List Byte) (i n : Nat) : Nat := leNat (sliceBytes bs i n)

/-- `n` zero bytes. -/
def zeroBytes (n : Nat) : List Byte := List.replicate n 0

/-- The bytes of an ASCII string. -/
def asciiBytes (s : String) : List Byte := s.toList.map fun c => BitVec.ofNat 8 c.toNat

/-- Padding a byte string with zeros to a multiple of `m`. -/
def padTo (m : Nat) (bs : List Byte) : List Byte :=
  bs ++ zeroBytes ((m - bs.length % m) % m)

end Sys2Proof
end

