-- ==== Sys2Proof/Syntax.lean ====
section
/-!
DEFINITION. The commands of the UXT9 block: one constructor of `Instr` for each row of spec/opcode_table.json,
with the operands that the row's rule names. A command of a glade's control processor names the glade alone: the
instruction's words stand in that glade's program store (R171). A command of a link carries the bytes or words that
arrive. A command that stands for a measurement carries what was measured.
-/

namespace Sys2Proof

/-- The two moments of an instruction that a glade hands to a unit of its own (R225, R261): the glade issues it into
its transfer queue, and, once the unit has accepted it, the unit runs it. `poison`: a device range address that came poisoned as
the unit read it, and whether it did again on the retry (R308). -/
inductive Stage where
  | issue
  | run (poison : Option (Nat × Bool))
  deriving DecidableEq, Repr

/-- The eye widths that training measures on one lane of a stack pseudo-channel, and on the redundant lane that may
take its place, in 1/256 UI (R294). -/
structure LaneEye where
  pc : BitVec 5
  lane : Byte
  read : Byte
  write : Byte
  spareRead : Byte
  spareWrite : Byte
  deriving DecidableEq, Repr

/-- What training finds on one stack (R294, R295): its temperature, the lanes at 8.0 Gbit/s and at 6.4 Gbit/s, and
whether the sweep of step 7 finds an uncorrected error at either rate. -/
structure StackTrain where
  temp : Byte
  eyes80 : List LaneEye
  eyes64 : List LaneEye
  sweepErr80 : Bool
  sweepErr64 : Bool
  deriving DecidableEq, Repr

/-- What training finds on one understory channel (R294, R295): the read and write eye widths of its lanes at 8,533 and at
6,400 MT/s, in 1/256 UI, and whether the sweep of step 7 finds an uncorrected error at either rate. -/
structure ChanTrain where
  eyes8533 : List (Byte × Byte)
  sweepErr8533 : Bool
  eyes6400 : List (Byte × Byte)
  sweepErr6400 : Bool
  deriving DecidableEq, Repr

/-- Corrected errors of one lane since the last report (R290, R297): of stack `unit`, 0 to 7, or of understory channel
`unit − 8`; `parity`: accesses that the controller retried for a parity error (Table 11.2). -/
structure CeCount where
  unit : Nat
  pc : Byte
  lane : Byte
  count : Nat
  parity : Bool
  deriving DecidableEq, Repr

/-- What the far end of a Skajor port announces at training (R340, R343, R358). -/
structure PortHello where
  addr : BitVec 24
  slice : Byte
  dir : BitVec 3
  vmask : BitVec 2
  deriving DecidableEq, Repr

/-- What the regulators and sensors report at a Warden period (R415, R421): for each of the 30 domains the reports of
its rails (`none`: unchanged since the previous period), the Ranger's PMBus readings of the same rails, the input
power, the input voltage in 10 mV (R15, R31), the hottest junction of each die and stack in °C, and the corrected errors that
the memory controllers report. -/
structure WardenReport where
  rails : List (List (Option (BitVec 16)))
  pmbus : List (List (BitVec 16))
  pin : BitVec 16
  vin : BitVec 16
  dieTemp : List Byte
  stackTemp : List Byte
  ce : List CeCount
  deriving DecidableEq, Repr

/-- A JTAG instruction of one TAP (R27): the four that are always available, or another, named by its code. -/
inductive JtagIr where
  | bypass
  | idcode
  | samplePreload (cells : List Bool)
  | extest
  | other (code : Nat)
  deriving DecidableEq, Repr

/-- The commands of the block. DESIGN CHOICE, safe: log entry 4. -/
inductive Instr where
  /-- LOW_WORD_READ_LATCH (R6). A read of the low word of a 64-bit register latches its high word for the next high-word read. -/
  | lowWordReadLatch (addr : BitVec 32)
  /-- READ_CLEAR_READ (R8). A read of an RC register returns its value and clears it in the same frame, keeping any increment from that frame. -/
  | readClearRead (addr : BitVec 32)
  /-- REGISTER_WRITE (R8). A write to a register that has no row of its own takes effect under its access code (RW, W1C, LK), and LK writes are ignored while an image is applied. -/
  | registerWrite (addr data : BitVec 32)
  /-- POWER_FAIL_WARNING (R14). The input falls below 57 V: the module gates the groves, stops new NOR operations and sets the power-fail flag. -/
  | powerFailWarning (v : BitVec 16)
  /-- INPUT_RECOVERY (R15). The input recovers above 58.5 V before reaching 56 V, and no state is cleared. -/
  | inputRecovery (v : BitVec 16)
  /-- GROVE_CLOCK_RESUME (R15). Grove clocks resume once the Ranger has read four in-range regulator reports in a row. -/
  | groveClockResume
  /-- UNDER_VOLTAGE_OFF (R15). The input falls below 56 V and every domain except the Ranger domain turns off. -/
  | underVoltageOff (v : BitVec 16)
  /-- RANGER_DOMAIN_CUTOFF (R15). The input falls below 40 V and the Ranger domain turns off. -/
  | rangerDomainCutoff (v : BitVec 16)
  /-- INPUT_RETURN (R15). The input returns above 58.5 V and the module runs a full power-on sequence. -/
  | inputReturn (v : BitVec 16)
  /-- OVER_VOLTAGE_SHUTDOWN (R16). Above 82 V every rail, the Ranger domain included, turns off within 20 µs. -/
  | overVoltageShutdown (v : BitVec 16)
  /-- OVER_VOLTAGE_RECOVERY (R16). The input falls below 81 V after an over-voltage shutdown and a full power-on sequence starts. -/
  | overVoltageRecovery (v : BitVec 16)
  /-- POWER_ON_SEQUENCE (R398). The power-on sequence of Table 1.3 starts and raises domains in order. -/
  | powerOnSequence
  /-- SEQUENCE_STEP_POWER_GOOD (R17). A rail reports power-good and the next step of the power-on sequence may begin. -/
  | sequenceStepPowerGood
  /-- RAIL_POWER_GOOD_MISS (R17). A rail misses its power-good window: the raised domains turn off in reverse order and the fault is logged. -/
  | railPowerGoodMiss (rail : BitVec 8)
  /-- POWER_DOWN_SEQUENCE (R18). The power-on sequence runs in reverse from step 8 to step 3. -/
  | powerDownSequence
  /-- PERST_N_FALL (R19). PERST_N falls: the sequence stops, domains power down and the whole module is held in reset. -/
  | perstNFall
  /-- PERST_N_RISE (R19). PERST_N rises, GA is sampled and the power-on sequence restarts at step 1. -/
  | perstNRise (ga : BitVec 5)
  /-- RACK_REFERENCE_LOSS (R24). No RREF edge arrives for 1 µs: a clock fault of cause 1 is recorded and the ring enters HOLDOVER. -/
  | rackReferenceLoss
  /-- OREF_LOSS (R24). OREF is lost: both host links go down and a clock fault of cause 2 is recorded. -/
  | orefLoss
  /-- OREF_RETURN (R24). OREF returns and the host links retrain. -/
  | orefReturn
  /-- SVC_HOLD_ASSERT (R29). SVC_HOLD_N goes low: the Ranger is held in reset and the flash is connected to J5. -/
  | svcHoldAssert
  /-- SVC_HOLD_RELEASE (R29). SVC_HOLD_N rises: the flash is reconnected to the Ranger and step 1 of Table 1.3 starts. -/
  | svcHoldRelease
  /-- SMBUS_PART_NUMBER (R31). SMBus command 0x00 returns the part number. -/
  | smbusPartNumber
  /-- SMBUS_SERIAL_NUMBER (R31). SMBus command 0x01 returns the serial number. -/
  | smbusSerialNumber
  /-- SMBUS_INPUT_VOLTAGE (R31). SMBus command 0x02 returns the input voltage. -/
  | smbusInputVoltage
  /-- SMBUS_INPUT_POWER (R31). SMBus command 0x03 returns the mean input power. -/
  | smbusInputPower
  /-- SMBUS_JUNCTION_TEMP (R31). SMBus command 0x04 returns the hottest junction temperature. -/
  | smbusJunctionTemp
  /-- SMBUS_BOARD_STATUS (R32). SMBus command 0x05 reads the board status or clears its bits by W1C, which drives SMB_ALERT_N. -/
  | smbusBoardStatus (clear : Option Byte)
  /-- SMBUS_RESTART (R33). SMBus command 0x06 with value 0x01 restarts from step 3 of Table 1.3, unless a trip or leak bit is set. -/
  | smbusRestart
  /-- SMBUS_FULL_RESTART (R33). SMBus command 0x06 with value 0x02 runs a full restart from step 1, unless a trip or leak bit is set. -/
  | smbusFullRestart
  /-- SMBUS_ALERT_RESPONSE (R32). The module answers the SMBus alert response address with its own address. -/
  | smbusAlertResponse
  /-- SMBUS_WINDOW_WRITE (R495). SMBus command 0x10 sets the window pointer and writes words to the global and mailbox registers. -/
  | smbusWindowWrite (bytes : List Byte)
  /-- SMBUS_WINDOW_READ (R495). SMBus command 0x10 reads up to 32 bytes from the window pointer, with a latch of its own for RING_HI. -/
  | smbusWindowRead (n : Nat)
  /-- THERMAL_TRIP (R35). A die reaches 110 °C or a stack 105 °C: all domains except the Ranger domain turn off and the trip is recorded. -/
  | thermalTrip (stack : Bool) (unit : BitVec 3) (temp : BitVec 8)
  /-- LEAK_DETECT (R36). The leak sensor detects liquid: the leak bit is set and the domains power down within 100 ms. -/
  | leakDetect (wet : Bool)
  /-- STEP_BOUNDARY (R45). The ring count reaches S_n in ALIGNED or HOLDOVER and step n begins, or the boundary is missed. -/
  | stepBoundary
  /-- STEP_PERIOD_WRITE (R46). A write of a non-zero P while STEP_PERIOD reads zero starts stepping, or is rejected if P is below 1,000 rt. -/
  | stepPeriodWrite (data : BitVec 32)
  /-- STEP_BASE_WRITE (R46). A write to STEP_BASE is accepted only while STEP_PERIOD reads zero. -/
  | stepBaseWrite (hi : Bool) (data : BitVec 32)
  /-- STEP_STOP (R47). A write of zero to a non-zero STEP_PERIOD stops stepping after the current clearing. -/
  | stepStop
  /-- BATCH_RELEASE (R236). Once every copy is complete, the serving block writes the input block and broadcasts the batch descriptor. -/
  | batchRelease
  /-- BROADCAST_ARRIVAL (R191). A broadcast lands at GLD_BCAST in every glade and adds one to counter 62. -/
  | broadcastArrival
  /-- NUM_LREC_BASE_WRITE (R80). A write of NUM_LREC_BASE_LO zeroes the cumulative fields of the layer records. -/
  | numLrecBaseWrite (data : BitVec 32)
  /-- THK_LDW (R85). Loads a weight tile through the expander into the shadow buffer, with format checks. -/
  | thkLdw (g : BitVec 10)
  /-- THK_MM (R87). Passes activation vectors through the active tile into accumulator tiles or the hash-indexed accumulator. -/
  | thkMm (g : BitVec 10)
  /-- ACC_OPEN (R91). Opens tiles with tags and zero lanes, unordered or as ordered atomic targets. -/
  | accOpen (g : BitVec 10)
  /-- ACC_LOAD (R91). Opens tiles and loads their lanes from the scratchpad. -/
  | accLoad (g : BitVec 10)
  /-- ACC_SAVE (R91). Writes tile lanes to the scratchpad, and closes the tiles when the close bit is set. -/
  | accSave (g : BitVec 10)
  /-- CHAIN_ADD (R95). Adds arriving running sums into tiles under the saturation rules. -/
  | chainAdd (g : BitVec 10)
  /-- CHAIN_SEND (R94). Sends tiles as 768-byte running-sum messages to the next glade of a chain. -/
  | chainSend (g : BitVec 10)
  /-- ATOM_ADD (R96). Sends tiles as 832-byte atomic contributions to a destination glade. -/
  | atomAdd (g : BitVec 10)
  /-- ATOMIC_CONTRIBUTION_ARRIVAL (R98). An atomic contribution arrives and is applied at an unordered tile, or staged at an ordered tile, or faults. -/
  | atomicContributionArrival (src dst : BitVec 10)
  /-- ACC_HCFG (R101). Turns tiles into a hash-indexed accumulator. -/
  | accHcfg (g : BitVec 10)
  /-- ACC_HDRN (R104). Drains every resident hash entry as spill records and frees the tiles. -/
  | accHdrn (g : BitVec 10)
  /-- OUT (R77). Requantises tiles through outflow into An rows, with an optional fused operation. -/
  | outTile (g : BitVec 10)
  /-- GRF_UPD (R134). Updates shadow and ternary weights of the next training copy from gradient tiles. -/
  | grfUpd (g : BitVec 10)
  /-- GRF_UPD_HOLD (R135). With hold = 1, copies the update units unchanged to the other training copy. -/
  | grfUpdHold (g : BitVec 10)
  /-- SPU_EW (R146). Forms element-wise serial products into tiles. -/
  | spuEw (g : BitVec 10)
  /-- SPU_OP (R146). Forms outer-product weight gradients for a TP5 matrix. -/
  | spuOp (g : BitVec 10)
  /-- SPU_GM (R146). Forms weight gradients of a TS16 matrix at its mask slots. -/
  | spuGm (g : BitVec 10)
  /-- BOLE_LDW (R159). Loads a W8 tile into the bole shadow buffer. -/
  | boleLdw (g : BitVec 10)
  /-- BOLE_MM (R159). Runs bole passes into accumulator rows, with an optional selection merge. -/
  | boleMm (g : BitVec 10)
  /-- BOLE_EW (R164). Forms element-wise int8 products into bole rows. -/
  | boleEw (g : BitVec 10)
  /-- BOLE_OUT (R164). Writes bole rows through outflow. -/
  | boleOut (g : BitVec 10)
  /-- BOLE_SELW (R162). Writes and empties the selection lists. -/
  | boleSelw (g : BitVec 10)
  /-- NOP (R171). Does nothing. -/
  | nop (g : BitVec 10)
  /-- ADD (R171). gp[d] receives gp[a] + gp[b]. -/
  | addOp (g : BitVec 10)
  /-- SUB (R171). gp[d] receives gp[a] − gp[b]. -/
  | subOp (g : BitVec 10)
  /-- AND (R171). gp[d] receives gp[a] AND gp[b]. -/
  | andOp (g : BitVec 10)
  /-- OR (R171). gp[d] receives gp[a] OR gp[b]. -/
  | orOp (g : BitVec 10)
  /-- XOR (R171). gp[d] receives gp[a] XOR gp[b]. -/
  | xorOp (g : BitVec 10)
  /-- SHL (R171). Shifts left by gp[b][5:0]. -/
  | shl (g : BitVec 10)
  /-- SHR (R171). Shifts right logically. -/
  | shr (g : BitVec 10)
  /-- SHA (R171). Shifts right arithmetically. -/
  | sha (g : BitVec 10)
  /-- SLT (R171). Signed set-less-than. -/
  | slt (g : BitVec 10)
  /-- SLTU (R171). Unsigned set-less-than. -/
  | sltu (g : BitVec 10)
  /-- ADDI (R171). Adds a signed 14-bit immediate. -/
  | addi (g : BitVec 10)
  /-- LD (R168). Loads 8 bytes from the scratchpad. -/
  | ld (g : BitVec 10)
  /-- ST (R168). Stores 8 bytes to the scratchpad. -/
  | st (g : BitVec 10)
  /-- LD4 (R168). Loads 4 bytes, zero-extended. -/
  | ld4 (g : BitVec 10)
  /-- ST4 (R168). Stores 4 bytes. -/
  | st4 (g : BitVec 10)
  /-- BEQ (R171). Branches if equal. -/
  | beq (g : BitVec 10)
  /-- BNE (R171). Branches if not equal. -/
  | bne (g : BitVec 10)
  /-- BLT (R171). Branches if less than. -/
  | blt (g : BitVec 10)
  /-- BGE (R171). Branches if greater or equal. -/
  | bge (g : BitVec 10)
  /-- JAL (R171). Jumps and links the return byte address. -/
  | jal (g : BitVec 10)
  /-- JR (R171). Jumps to the byte address in a register. -/
  | jr (g : BitVec 10)
  /-- SR_RD (R169). Reads a special register, clearing the RC ones. -/
  | srRd (g : BitVec 10)
  /-- SR_WR (R169). Writes a special register, and faults on RO or RC registers. -/
  | srWr (g : BitVec 10)
  /-- AC_WAIT (R181). Waits until a counter reaches a target, then subtracts the target. -/
  | acWait (g : BitVec 10)
  /-- AC_WAIT_SATISFIED (R181). A waiting counter reaches its target: the target is subtracted and issue continues. -/
  | acWaitSatisfied (g : BitVec 10)
  /-- AC_POLL (R171). Reads a counter without waiting. -/
  | acPoll (g : BitVec 10)
  /-- AC_ADD (R180). Adds an immediate to a counter. -/
  | acAdd (g : BitVec 10)
  /-- XC_WAIT (R183). Waits for a scheduled ring count, then for a counter target. -/
  | xcWait (g : BitVec 10)
  /-- XC_WAIT_TIME_REACHED (R183). The ring count reaches the scheduled count of a waiting XC.WAIT, which then waits on its counter and counts a late exchange. -/
  | xcWaitTimeReached (g : BitVec 10)
  /-- WAIT_EXPIRY (R182). A wait reaches its deadline and raises a wait-expiry fault. -/
  | waitExpiry (g : BitVec 10)
  /-- ENG_FENCE (R174). Waits until earlier instructions of the named queues have completed their writes. -/
  | engFence (g : BitVec 10)
  /-- LS_ACQ (R192). Requests a lease and is granted at once or waits. -/
  | lsAcq (g : BitVec 10)
  /-- LS_REN (R193). Renews a lease held by the plot. -/
  | lsRen (g : BitVec 10)
  /-- LS_REL (R193). Releases a lease. -/
  | lsRel (g : BitVec 10)
  /-- LEASE_GRANT (R194). A freed lease is granted to the first waiting request. -/
  | leaseGrant (res : BitVec 32)
  /-- LEASE_REQUEST_TIMEOUT (R192). A waiting lease request reaches its deadline and is withdrawn with code 1. -/
  | leaseRequestTimeout (g : BitVec 10)
  /-- LEASE_EXPIRY (R194). A lease reaches its expiry, is freed and its ordered tiles and queued canopy work are discarded. -/
  | leaseExpiry (res : BitVec 32)
  /-- STEP_END (R167). Ends the step's program. -/
  | stepEnd (g : BitVec 10)
  /-- LI (R171). Loads a sign-extended 48-bit immediate. -/
  | li (g : BitVec 10)
  /-- MSG_SEND (R186). Sends a message of 1 to 256 flits to another glade. -/
  | msgSend (g : BitVec 10)
  /-- MEM_RD (R173). Reads device range data into the scratchpad, with optional checks. -/
  | memRd (g : BitVec 10)
  /-- MEM_RD_COMPLETE (R173). A MEM.RD has written and checked every byte, or retried poison, and increments its counter. -/
  | memRdComplete (g : BitVec 10) (k : Nat) (bad again : List Nat)
  /-- MEM_WR (R173). Writes scratchpad data to the device range, with optional check tables. -/
  | memWr (g : BitVec 10)
  /-- MEM_WR_COMPLETE (R173). A MEM.WR's bytes are visible in the device range and its counter increments. -/
  | memWrComplete (g : BitVec 10) (k : Nat)
  /-- MESSAGE_ARRIVAL (R187). A mesh write message arrives: it is tag-checked and written, or refused, and its counter is incremented. -/
  | messageArrival (src dst : BitVec 10)
  /-- REFUSAL_ARRIVAL (R190). A refusal reaches the sender, which latches SR_NACK and sends a message-refused record. -/
  | refusalArrival (src dst : BitVec 10)
  /-- GLADE_FAILURE (R443). An uncorrectable ECC or parity error fails a glade and leads to abandonment and remap. -/
  | gladeFailure (phys : BitVec 11) (cause : BitVec 8)
  /-- GLADE_REMAP_REFILL_DONE (R196). The resident regions of a remapped glade have been refilled. -/
  | gladeRemapRefillDone (g : BitVec 10)
  /-- CNP_APP (R212). Appends K and V rows of new tokens into page slices. -/
  | cnpApp (stage : Stage) (u : BitVec 10)
  /-- CNP_ATT (R207). Computes one-pass attention for the queries of the length table rows. -/
  | cnpAtt (stage : Stage) (u : BitVec 10)
  /-- CANOPY_INSTRUCTION_ACCEPT (R225). The canopy pipeline accepts a queued instruction, checking lease and descriptors. -/
  | canopyInstructionAccept (g : BitVec 10)
  /-- SLICE_READ_COMPLETE (R215). A page slice arrives, its slot checks are verified and its round may run. -/
  | sliceReadComplete (grove : BitVec 4) (k : Nat) (bad1 bad2 : Bool)
  /-- LATE_PAGE (R219). A slice passes its deadline before its round: the round waits or substitutes the digest. -/
  | latePage (grove : BitVec 4) (badDigest : Bool)
  /-- CLEARING (R248). Once R167 is met, the clearing runs its fifteen actions. -/
  | clearing
  /-- CLEARING_COMPLETE (R250). The clearing completes at the later of its work and its span. -/
  | clearingComplete
  /-- ADMIT (R377). An ADMIT record admits a request into a FREE ledger entry, with initial tokens or a fork. -/
  | admitReq (rec : List Byte)
  /-- APPEND (R377). An APPEND record writes tokens to the input ring. -/
  | appendReq (rec : List Byte)
  /-- CANCEL (R230). A CANCEL record sets cancel pending. -/
  | cancelReq (rec : List Byte)
  /-- PAUSE (R253). A PAUSE record sets pause pending with a time-to-live. -/
  | pauseReq (rec : List Byte)
  /-- RESUME (R255). A RESUME record returns an entry to LIVE, or starts a restore from a bundle. -/
  | resumeReq (rec : List Byte)
  /-- LOAD_GRAFT (R258). A LOAD_GRAFT record makes a FREE slot LOADING. -/
  | loadGraft (rec : List Byte)
  /-- LOAD_GRAFT_ABORT (R259). A LOAD_GRAFT record with abort = 1 returns a LOADING slot to FREE. -/
  | loadGraftAbort (rec : List Byte)
  /-- GRAFT_DATA (R379). A GRAFT_DATA record delivers graft bytes to a LOADING slot. -/
  | graftData (rec : List Byte)
  /-- GRAFT_VERIFY_COMPLETE (R478). The hash and signature check of a graft ends, and the slot goes CURRENT at the next clearing or back to FREE. -/
  | graftVerifyComplete (slot : BitVec 8)
  /-- GRAFT_LOAD_TIMEOUT (R259). No GRAFT_DATA has arrived for SRV_GTMO rt and the slot returns to FREE. -/
  | graftLoadTimeout (slot : BitVec 8)
  /-- PHASE_HINT (R423). A PHASE_HINT record enters the Warden hint table. -/
  | phaseHint (rec : List Byte)
  /-- OP_POINT (R425). An OP_POINT record sets the preferred operating point of batch groves. -/
  | opPoint (rec : List Byte)
  /-- HOST_ACK (R375). An ACK record from the host acknowledges records and names discards to resend. -/
  | hostAck (rec : List Byte)
  /-- OHMIP_ACK_SEND (R375). The module sends an ACK at least once per µs while it has records to acknowledge. -/
  | ohmipAckSend
  /-- LOAD (R381). A LOAD record writes data into the device range. -/
  | loadRec (rec : List Byte)
  /-- BUNDLE_IN (R389). A BUNDLE_IN record is decrypted, checked and written into a restoring entry. -/
  | bundleIn (rec : List Byte)
  /-- REPAIR (R382). A REPAIR record supplies a host copy of a block under repair. -/
  | repairRec (rec : List Byte)
  /-- SEAL_BUNDLE (R254). The sealing engine compresses, seals and sends the bundle of a SEALING entry, or waits for a key or the stream. -/
  | sealBundle (index : BitVec 14)
  /-- RTE_ROUTE (R263). Scores tokens, selects experts, forms gates and builds the own token lists. -/
  | rteRoute (stage : Stage) (g : BitVec 10)
  /-- ROUTING_INSTRUCTION_ACCEPT (R261). The routing engine accepts a routing or scout instruction and tests its shape-word indices and lease. -/
  | routingInstructionAccept (g : BitVec 10)
  /-- RTE_SEND (R267). Sends copies and end marks to peer modules. -/
  | rteSend (stage : Stage) (g : BitVec 10)
  /-- RTE_RET (R273). Sends answers for the received copies. -/
  | rteRet (stage : Stage) (g : BitVec 10)
  /-- ROUTE_COPY_ARRIVAL (R271). A copy arrives and is written to its slot, dropped as VOID or held until the layer's RTE.ROUTE. -/
  | routeCopyArrival (p : BitVec 3) (item : List Byte)
  /-- END_MARK_ARRIVAL (R272). An end mark with the copy count arrives from a peer. -/
  | endMarkArrival (p : BitVec 3) (item : List Byte)
  /-- ROUTE_ANSWER_ARRIVAL (R273). An answer arrives and is written, or counted as stale. -/
  | routeAnswerArrival (p : BitVec 3) (item : List Byte)
  /-- LAYER_FINALISE (R272). All end marks are complete: the engine writes the token lists and shape words. -/
  | layerFinalise (plot : BitVec 6) (layer : BitVec 10)
  /-- SHP_LD (R281). Loads a shape word. -/
  | shpLd (g : BitVec 10) (poison : Option Bool)
  /-- ENG_N (R282). Overrides the count of the next engine instruction. -/
  | engN (g : BitVec 10)
  /-- SHP_ST (R280). Stores a shape word under its lease. -/
  | shpSt (g : BitVec 10)
  /-- SCT_MASK (R283). Writes per-group token lists predicted active. -/
  | sctMask (stage : Stage) (g : BitVec 10)
  /-- SCT_AUD (R286). Audits the hidden rows and updates the scout statistics. -/
  | sctAud (stage : Stage) (g : BitVec 10)
  /-- MEMORY_TRAINING (R294). Stacks and understory channels train, repairing or degrading lanes. -/
  | memoryTraining (sts : List StackTrain) (chans : List ChanTrain)
  /-- MEM_RETRAIN (R297). A write of MEM_TRN.retrain retrains memory while no image is applied. -/
  | memRetrain (data : BitVec 32)
  /-- MEM_HINT (R311). Hints granules HOT, COLD or clear. -/
  | memHint (g : BitVec 10)
  /-- MIGRATION_VISIT (R313). The migration engine visits a granule and may start a move. -/
  | migrationVisit
  /-- MIGRATION_COPY_COMPLETE (R314). A granule copy ends, and the move commits or is abandoned if the granule was written. -/
  | migrationCopyComplete (k : Nat)
  /-- COUNT_HALVING_TICK (R310). At each multiple of 2^decay rt the access counts are halved. -/
  | countHalvingTick
  /-- HINT_LAPSE (R311). A granule's hint lapses when the ring count reaches hexp. -/
  | hintLapse (granule : BitVec 28)
  /-- REPAIR_RETRY_COMPLETE (R320). The retry read of a failed block returns and is checked. -/
  | repairRetryComplete (k : Nat) (bad : Bool)
  /-- REPAIR_MIRROR_COMPLETE (R320). The mirror read of a failed block returns and is checked. -/
  | repairMirrorComplete (k : Nat) (bad : Bool)
  /-- WRITEBACK_VERIFY_COMPLETE (R321). The verification read after a write-back returns, and may mark the block weak. -/
  | writebackVerifyComplete (k : Nat) (bad : Bool)
  /-- REPAIR_HOST_TIMEOUT (R323). The host has not answered a fetch within MEM_REP_TMO: the block is declared failed and the fetch is re-sent. -/
  | repairHostTimeout (k : Nat)
  /-- PATROL_READ (R325). Every patrol interval one heartwood block is read, checked and repaired. -/
  | patrolRead (bad : Bool)
  /-- MEM_TG_START (R318). MEM_TG_CTL.start starts a traffic generator run, or refuses it. -/
  | memTgStart (data : BitVec 32)
  /-- MEM_TG_STOP (R318). MEM_TG_CTL.stop stops the generator at the next unit. -/
  | memTgStop (data : BitVec 32)
  /-- MEM_TG_RUN_COMPLETE (R318). A generator run ends and sets done and the error fields. -/
  | memTgRunComplete (chan : BitVec 8) (flips : List (Nat × Byte)) (poisoned : List Nat)
  /-- UNDERSTORY_RETIMING (R292). Every 8,192 rt the WCK2DQ oscillator is tracked and the timing re-centred. -/
  | understoryRetiming
  /-- FAB_SEND (R333). Sends one fabric message of class 0, 1 or 3. -/
  | fabSend (g : BitVec 10)
  /-- FABRIC_MESSAGE_ARRIVAL (R335). A fabric message arrives and is accepted or discarded under Table 12.8. -/
  | fabricMessageArrival (p : BitVec 3) (item : List Byte)
  /-- RESEND_REQUEST (R336). A resend request makes the source resend a kept message once. -/
  | resendRequest (p : BitVec 3) (w0 w1 : BitVec 64)
  /-- SKAJOR_LINK_STATUS (R330). A link status item acknowledges blocks, returns credits or requests a lane switch. -/
  | skajorLinkStatus (p : BitVec 3) (w0 : BitVec 64) (got : List Byte)
  /-- SKAJOR_REPLAY_REQUEST (R330). A replay request makes the sender resend from the named block. -/
  | skajorReplayRequest (p : BitVec 3) (w0 : BitVec 64)
  /-- SKAJOR_UNCORRECTABLE_BLOCK (R330). An uncorrectable block is discarded and a replay is requested. -/
  | skajorUncorrectableBlock (p : BitVec 3) (block : BitVec 16)
  /-- SWITCH_BLOCK (R331). A switch block moves the direction's stream to the other lane. -/
  | switchBlock (p : BitVec 3)
  /-- LANE_LOCK_LOSS (R331). The active lane loses block lock and a lane switch is requested, or the port goes down. -/
  | laneLockLoss (p : BitVec 3) (spare : Bool)
  /-- SKAJOR_PORT_TRAINING (R340). A port trains, negotiates its version and checks its neighbour's address and slice. -/
  | skajorPortTraining (p : BitVec 3) (nbr : Option PortHello)
  /-- DOWN_ITEM (R354). A down item marks the neighbour as not ALIGNED. -/
  | downItem (p : BitVec 3) (w0 : BitVec 64)
  /-- FRAME_MARKER_PULSE (R347). An RFRM pulse gives marker lock, or counts as irregular in RING_MISS. -/
  | frameMarkerPulse
  /-- PHASE_MEASUREMENT_TIMER (R350). At each measurement period the module sends a phase request. -/
  | phaseMeasurementTimer (p : BitVec 3)
  /-- PHASE_REQUEST (R350). A phase request is timestamped and answered with a phase response. -/
  | phaseRequest (p : BitVec 3) (w0 t1 : BitVec 64)
  /-- PHASE_RESPONSE (R351). A phase response gives an offset that aligns, slews or slips the ring count. -/
  | phaseResponse (p : BitVec 3) (w0 t2 t3 t4 : BitVec 64)
  /-- ROOT_RING_LOAD (R349). A root with RING_LOAD armed and no ALIGNED neighbour for 2^24 rt loads its count and aligns. -/
  | rootRingLoad
  /-- RING_LOAD_ARM (R349). A write of RING_LOAD_HI arms the root load. -/
  | ringLoadArm (data : BitVec 32)
  /-- RACK_REFERENCE_RETURN (R353). RREF returns during HOLDOVER and the ring goes back to ALIGNED, or to FAULT. -/
  | rackReferenceReturn (off : Int)
  /-- HOLDOVER_EXPIRY (R353). HOLDOVER exceeds 2^hold rt and the ring enters FAULT. -/
  | holdoverExpiry
  /-- FREQ_ROUND_SEND (R355). At A + 1,000·i each ALIGNED module sends a frequency round item. -/
  | freqRoundSend
  /-- FREQ_FINAL_SEND (R355). At A + 1,000·rounds each module sends its final frequency item. -/
  | freqFinalSend
  /-- FREQ_ROUND_ITEM (R355). A received round item lowers v. -/
  | freqRoundItem (p : BitVec 3) (w0 w1 : BitVec 64)
  /-- FREQ_FINAL_ITEM (R355). A received final item that differs is merged and counted in FREQ_SPLIT. -/
  | freqFinalItem (p : BitVec 3) (w0 w1 : BitVec 64)
  /-- FREQ_LOWER_ITEM (R356). A received lower item is forwarded and scheduled for its apply count. -/
  | freqLowerItem (p : BitVec 3) (w0 w1 : BitVec 64)
  /-- FREQ_RAIL_PRERAISE (R429). 50 µs before a rising frequency applies, the grove rails are raised. -/
  | freqRailPreraise
  /-- FREQ_APPLY (R356). At the apply count the stand frequency changes and the clocks switch. -/
  | freqApply
  /-- ALAPOR_FRAME (R364). A host frame is received, its operations are executed in order and the module frame answers them. -/
  | alaporFrame (frame : List Byte)
  /-- WAKE (R366). A wake bit in a good frame requests S0. -/
  | wake
  /-- ALAPOR_RESTART (R366). Reset code 1 in two consecutive good frames restarts from step 3 of Table 1.3. -/
  | alaporRestart
  /-- ALAPOR_FULL_RESTART (R366). Reset code 2 in two consecutive good frames runs a full restart. -/
  | alaporFullRestart
  /-- ALAPOR_TRAINING (R368). The link locks, negotiates a version and comes up. -/
  | alaporTraining (frames : List (List Byte))
  /-- ALAPOR_LINK_DOWN (R368). Sixteen bad frames in a row take the link down and training restarts. -/
  | alaporLinkDown (frames : List (List Byte))
  /-- OHMIP_TRAINING (R372). The Ohmip lanes equalise, lock, deskew and exchange hellos. -/
  | ohmipTraining (ok : Bool)
  /-- HELLO (R373). A hello sets credits and the last accepted sequences, and triggers the resend of records. -/
  | hello (w0 w1 w2 : BitVec 64)
  /-- OHMIP_LINK_STATUS (R370). An Ohmip link status item acknowledges blocks and returns credits, which releases queued output. -/
  | ohmipLinkStatus (w0 w1 : BitVec 64)
  /-- OHMIP_REPLAY_REQUEST (R369). An Ohmip replay request resends blocks. -/
  | ohmipReplayRequest (w0 : BitVec 64)
  /-- OHMIP_UNCORRECTABLE_BLOCK (R369). An uncorrectable Ohmip block is discarded and a replay is requested. -/
  | ohmipUncorrectableBlock (block : BitVec 16)
  /-- OHMIP_LANE_LOSS (R372). An Ohmip lane loses block lock, the stream goes down and both ends retrain. -/
  | ohmipLaneLoss (lane : BitVec 3)
  /-- VERIFY (R397). Image command VERIFY checks the staged container. -/
  | verifyImage
  /-- STORE (R397). Image command STORE writes the verified container to a NOR slot. -/
  | storeImage (slot : Bool)
  /-- STAGE (R397). Image command STAGE copies a slot into staging and verifies it. -/
  | stageImage (slot : Bool)
  /-- APPLY (R399). Image command APPLY runs an initial application, or schedules an update. -/
  | applyImage (bad : Bool)
  /-- ROLLBACK (R407). Image command ROLLBACK schedules an update to the retained image. -/
  | rollback
  /-- RELOAD (R409). Image command RELOAD schedules a one-phase rewrite of the named plots. -/
  | reload
  /-- IMAGE_CANCEL (R397). Image command CANCEL withdraws a pending operation whose first phase has not begun. -/
  | imageCancel
  /-- BOOT (R397). Image command BOOT sets the boot flag of a slot. -/
  | bootSlot (slot : Bool)
  /-- BOOT_IMAGE_APPLY (R398). After power-on and training, the Ranger stages and applies the boot slot, or the other slot. -/
  | bootImageApply (bad bad2 : Bool)
  /-- DRAIN_LIMIT_EXPIRY (R406). The drain limit passes and the remaining in-flight work is aborted. -/
  | drainLimitExpiry
  /-- WARDEN_PERIOD (R416). Every 2,500 rt the Warden latches the reports and sets the grove operating points. -/
  | wardenPeriod (report : WardenReport)
  /-- RAIL_SETTLED (R420). The regulator reaches the raised voltage and grove issue widens. -/
  | railSettled (grove : BitVec 4)
  /-- DROOP_DETECT (R422). A droop detector fires and the grove clock period doubles. -/
  | droopDetect (grove : BitVec 4)
  /-- DROOP_RECOVERY (R422). After rec cycles above the threshold the grove clock returns to its normal period. -/
  | droopRecovery (grove : BitVec 4) (cycles : Nat)
  /-- AGEING_REPORT (R426). The ageing monitor reports and may lower the glade's fmax and make it marginal. -/
  | ageingReport (phys : BitVec 11) (mhz : BitVec 11)
  /-- MARGINAL_GRACE_EXPIRY (R427). The grace of a marginal glade ends and the glade enters the fmax. -/
  | marginalGraceExpiry (phys : BitVec 11)
  /-- LATENCY_TOLERANCE_WRITE (R492). A write to GBL_LTR re-decides the idle state in its frame. -/
  | latencyToleranceWrite (data : BitVec 32)
  /-- SUSPEND_ARM (R431). A write of PWR_SUSP_HI arms the suspension of stepping. -/
  | suspendArm (data : BitVec 32)
  /-- RESUME_ARM (R431). A write of PWR_RES_HI arms the resume step. -/
  | resumeArm (data : BitVec 32)
  /-- IDLE_ENTRY (R433). The module enters the deepest allowed idle state. -/
  | idleEntry
  /-- S1_EXIT (R432). 50 rt before a boundary the module leaves S1. -/
  | s1Exit
  /-- IDLE_EXIT (R435). On wake, an approaching resume or a condition, the module exits an idle state. -/
  | idleExit
  /-- REPLAY_START (R444). After the drain and the quiet interval the abandoned step is replayed. -/
  | replayStart (plot : BitVec 6)
  /-- LEASE_REVOKE (R450). A write of LEASE_REV revokes one lease. -/
  | leaseRevoke (data : BitVec 32)
  /-- LEASE_REVOKE_PLOT (R450). A write of LEASE_REVP revokes every lease of a plot. -/
  | leaseRevokePlot (data : BitVec 32)
  /-- LIFETIME_SNAPSHOT (R456). At each multiple of 2^36 rt a lifetime snapshot is written to NOR. -/
  | lifetimeSnapshot (writeOk retryOk : Bool)
  /-- LIFE_FLUSH (R456). A write of LIFE_CTL.flush writes a snapshot now. -/
  | lifeFlush (data : BitVec 32) (writeOk retryOk : Bool)
  /-- HISTORY_ENTRY_WRITE (R458). A history entry is written within 10 ms of its event, with consolidation when space runs low. -/
  | historyEntryWrite
  /-- CALENDAR_COMMIT (R460). A write of CAL_AT_HI commits the calendar. -/
  | calendarCommit (data : BitVec 32)
  /-- CERT_READ (R468). Mailbox command CERT_READ returns the certificate chain. -/
  | certRead (smb : Bool) (len : BitVec 13)
  /-- QUOTE (R480). Mailbox command QUOTE returns a signed quote. -/
  | quote (smb : Bool) (len : BitVec 13)
  /-- OP_ENROLL (R470). Mailbox command OP_ENROLL adds or removes an operator key. -/
  | opEnroll (smb : Bool) (len : BitVec 13)
  /-- TEN_ENROLL (R472). Mailbox command TEN_ENROLL installs a tenant public key. -/
  | tenEnroll (smb : Bool) (len : BitVec 13)
  /-- TEN_KEY (R473). Mailbox command TEN_KEY installs a bundle key version. -/
  | tenKey (smb : Bool) (len : BitVec 13)
  /-- TEN_DROP (R474). Mailbox command TEN_DROP erases a bundle key version. -/
  | tenDrop (smb : Bool) (len : BitVec 13)
  /-- DBG_CHAL (R479). Mailbox command DBG_CHAL returns a debug challenge. -/
  | dbgChal (smb : Bool) (len : BitVec 13)
  /-- DBG_AUTH (R479). Mailbox command DBG_AUTH accepts a debug grant. -/
  | dbgAuth (smb : Bool) (len : BitVec 13)
  /-- FW_STORE (R466). Mailbox command FW_STORE verifies and stores a firmware image. -/
  | fwStore (smb : Bool) (len : BitVec 13)
  /-- SVN_COMMIT (R467). Mailbox command SVN_COMMIT raises the fused minimum security version. -/
  | svnCommit (smb : Bool) (len : BitVec 13)
  /-- MAILBOX_UNKNOWN_CODE (R494). A mailbox start with an unknown code or bad length completes at once with status 0x01. -/
  | mailboxUnknownCode (smb : Bool) (code : Byte) (len : BitVec 13)
  /-- FAULT_WINDOW_LATCH (R493). A read of FLT_WIN0 latches the head fault record. -/
  | faultWindowLatch
  /-- FAULT_POP (R493). A write to FLT_POP removes the head record if its seq matches. -/
  | faultPop (data : BitVec 32)
  /-- JTAG_INSTRUCTION (R27). An instruction shifted in through the J5 TAP runs: BYPASS, IDCODE, SAMPLE/PRELOAD and EXTEST always, other instructions only under a debug grant. -/
  | jtagInstruction (die0 die1 die2 die3 ranger : JtagIr)
  /-- FRAME_MARKER_ABSENT (R347). An RREF edge at which Lc mod 2^16 = 0 passes with no RFRM pulse, and RING_MISS rises by one. -/
  | frameMarkerAbsent
  /-- MAILBOX_COMMAND_COMPLETE (R494). A running mailbox command ends: the reply, status and rlen are written, done is set, busy is cleared and GBL_STAT.mbx is set. -/
  | mailboxCommandComplete
  /-- IMAGE_COMMAND_COMPLETE (R397). A running image command (VERIFY, STORE, STAGE, BOOT) ends: IMG_STAT.busy clears, staged or slot state is set and GBL_STAT.image is raised. -/
  | imageCommandComplete
  /-- LANE_RETRAIN_COMPLETE (R331). A failed Skajor lane that is retraining with idle blocks ends its training, and becomes the spare if it passes or sets SKp_STAT.spare_bad if it fails. -/
  | laneRetrainComplete (p : BitVec 3) (pass : Bool)
  deriving DecidableEq, Repr

end Sys2Proof
end

