-- ==== Sys2Proof/Decode.lean ====
section
/-!
DEFINITION. The words of the opcode table. No row of this block's table has bits: a command is an event, a record, a
frame or an access, and no word spells one.
-/

namespace Sys2Proof

/-- The command that a word of the table's bits spells: none, since no row of the table gives bits. -/
def decodeTableWord (_nbits _w : Nat) : Option Instr := none

end Sys2Proof
end

