-- ==== Sys2Proof/Machine/Flags.lean ====
section
/-!
DEFINITION. The arithmetic that every engine shares: rounding (R76), L48 lanes and saturation (R71 to R75), the widths
of activation forms (R68), and the check codes: CRC-32C (R63), CRC-64 (R241) and CRC-16 (R363).
-/

namespace Sys2Proof.Machine

/-- Rounding an integer to the scale `2^k`: to nearest, ties to even, for `k ≥ 1`; an exact left shift otherwise (R76). -/
def rne (x : Int) (k : Int) : Int :=
  if k ≤ 0 then x * 2 ^ (-k).toNat
  else
    let d : Int := 2 ^ k.toNat
    let q := x / d
    let rem := x - q * d
    let half := d / 2
    if rem > half ∨ (rem = half ∧ q % 2 = 1) then q + 1 else q

/-- The sign of an integer as −1, 0 or 1. -/
def sgn (x : Int) : Int := if x < 0 then -1 else if x = 0 then 0 else 1

/-- Positive saturation (Table 3.5). -/
def satPos : L48 := 0x7FFFFFFFFFFF
/-- Negative saturation (Table 3.5). -/
def satNeg : L48 := 0x800000000001
/-- The largest magnitude of an unsaturated lane. -/
def laneMax : Int := 2 ^ 47 - 2

/-- Whether a lane is saturated, and whether positively; 0x8000_0000_0000 reads as negative saturation (Table 3.5). -/
def laneSat (v : L48) : Option Bool :=
  if v = satPos then some true
  else if v = satNeg then some false
  else if v = 0x800000000000 then some false
  else none

/-- The saturation code of a sign. -/
def satOf (pos : Bool) : L48 := if pos then satPos else satNeg

/-- What enters a lane: a saturation of some sign, or an exact amount (R74, R87). -/
inductive Update where
  | sat (pos : Bool)
  | val (x : Int)
  deriving DecidableEq, Repr

/-- An exact sum as a lane code (R74 rule 3). -/
def laneOf (x : Int) : L48 :=
  if x > laneMax then satPos else if x < -laneMax then satNeg else BitVec.ofInt 48 x

/-- A lane after an update under R74. -/
def addLane (a : L48) (b : Update) : L48 :=
  match laneSat a with
  | some p => satOf p
  | none =>
    match b with
    | .sat p => satOf p
    | .val x => laneOf (a.toInt + x)

/-- An arriving lane as an update (R95, R97). -/
def laneUpdate (b : L48) : Update :=
  match laneSat b with
  | some p => .sat p
  | none => .val b.toInt

/-- Whether an update saturates a lane that was not saturated (R75). -/
def newlySat (a a' : L48) : Bool := (laneSat a).isNone && (laneSat a').isSome

/-- A 16-bit count that saturates at 0xFFFF. -/
def addCnt (c : BitVec 16) (n : Nat) : BitVec 16 := BitVec.ofNat 16 (min (c.toNat + n) 0xFFFF)

/-- A 32-bit count that saturates. -/
def addCnt32 (c : BitVec 32) (n : Nat) : BitVec 32 := BitVec.ofNat 32 (min (c.toNat + n) 0xFFFFFFFF)

/-- Element bits of an activation form: 0 A2, 1 A3, 2 A4, 3 A8 (Table 3.4, Table 4.9). -/
def formBits (f : Nat) : Nat :=
  match f with
  | 0 => 2
  | 1 => 3
  | 2 => 4
  | _ => 8

/-- Whether an integer fits `n` signed bits. -/
def fitsBits (n : Nat) (m : Int) : Bool := decide (-(2 ^ (n - 1) : Int) ≤ m ∧ m ≤ 2 ^ (n - 1) - 1)

/-- The `n`-bit extreme of a sign. -/
def extreme (n : Nat) (pos : Bool) : Int := if pos then 2 ^ (n - 1) - 1 else -(2 ^ (n - 1))

/-- Clamping to the `n`-bit range. -/
def clampBits (n : Nat) (m : Int) : Int :=
  if m > 2 ^ (n - 1) - 1 then 2 ^ (n - 1) - 1 else if m < -(2 ^ (n - 1)) then -(2 ^ (n - 1)) else m

/-- One step of a reflected CRC. -/
def crcBit (poly c : Nat) : Nat := if c % 2 = 1 then (c / 2) ^^^ poly else c / 2

/-- A byte into a reflected CRC. -/
def crcByte (poly c : Nat) (b : Byte) : Nat := (List.range 8).foldl (fun c _ => crcBit poly c) (c ^^^ b.toNat)

/-- CRC-32C, polynomial 0x1EDC_6F41 as used in iSCSI (R63). -/
def crc32c (bs : List Byte) : Nat := (bs.foldl (crcByte 0x82F63B78) 0xFFFFFFFF) ^^^ 0xFFFFFFFF

/-- The CRC-64 of R241. -/
def crc64 (bs : List Byte) : Nat :=
  (bs.foldl (crcByte 0xC96C5795D7870F42) 0xFFFFFFFFFFFFFFFF) ^^^ 0xFFFFFFFFFFFFFFFF

/-- One step of the CRC-16 of R363, most significant bit first. -/
def crc16Bit (c : Nat) : Nat := if c / 32768 % 2 = 1 then (c * 2 % 65536) ^^^ 0x1021 else c * 2 % 65536

/-- The CRC-16 of R363. -/
def crc16 (bs : List Byte) : Nat :=
  bs.foldl (fun c b => (List.range 8).foldl (fun c _ => crc16Bit c) (c ^^^ (b.toNat * 256))) 0xFFFF

end Sys2Proof.Machine
end

