-- ==== Sys2Proof/Machine/Maps.lean ====
section
/-!
DEFINITION. Reading and writing the sparse tables in which the state keeps memories, counters and records. A table in
canonical form has strictly rising keys and no value equal to its default, so that equal contents are equal data.
-/

namespace Sys2Proof.Machine

/-- The value a table holds at a key; its default where it lists none. -/
def mget {α : Type} (d : α) : SMap α → Nat → α
  | [], _ => d
  | (k', v) :: m, k => if k = k' then v else mget d m k

/-- A table with a value written at a key; writing the default removes the entry. -/
def mset {α : Type} [DecidableEq α] (d : α) : SMap α → Nat → α → SMap α
  | [], k, v => if v = d then [] else [(k, v)]
  | (k', v') :: m, k, v =>
    if k < k' then (if v = d then (k', v') :: m else (k, v) :: (k', v') :: m)
    else if k = k' then (if v = d then m else (k, v) :: m)
    else (k', v') :: mset d m k v

/-- Every key of a table is at least a bound, keys rise strictly, and no value is the default. -/
def mwfFrom {α : Type} [DecidableEq α] (d : α) : Nat → SMap α → Bool
  | _, [] => true
  | lo, (k, v) :: m => decide (lo ≤ k) && decide (v ≠ d) && mwfFrom d (k + 1) m

/-- The canonical form of a table. -/
def mwf {α : Type} [DecidableEq α] (d : α) (m : SMap α) : Bool := mwfFrom d 0 m

/-- A run of bytes read from a byte table. -/
def mread (d : Byte) (m : SMap Byte) (a n : Nat) : List Byte := (List.range n).map fun i => mget d m (a + i)

/-- A run of bytes written to a byte table. -/
def mwrite (d : Byte) : SMap Byte → Nat → List Byte → SMap Byte
  | m, _, [] => m
  | m, a, b :: bs => mwrite d (mset d m a b) (a + 1) bs

/-- A byte merged under a mask: the mask's bits come from the new byte. -/
def maskByte (old new mask : Byte) : Byte := (old &&& ~~~mask) ||| (new &&& mask)

/-- A list with the element at an index replaced. -/
def setAt {α : Type} : List α → Nat → α → List α
  | [], _, _ => []
  | _ :: xs, 0, v => v :: xs
  | x :: xs, i + 1, v => x :: setAt xs i v

end Sys2Proof.Machine
end

