-- ==== Sys2Proof/Machine/RegTable.lean ====
section
/-!
DEFINITION. The register map: the addresses of Table 18.3, and for each register the bits of each access code (Table
0.4, from the field maps of the owning chapters) and the reset value. Bits in no mask are RO or reserved (R7, R487).
-/

namespace Sys2Proof.Machine

/-- One row of the register map: `count` registers 4 bytes apart from `base`; the masks of its RW, LK, W1C, RC and WO
bits; the reset value (R488). -/
structure RegSpec where
  base : Nat
  count : Nat
  rw : Word
  lk : Word
  w1c : Word
  rc : Word
  wo : Word
  reset : Word
  deriving DecidableEq, Repr

/-- GBL_IDCODE. -/
def Reg.gblIdcode : Nat := 0x0
/-- GBL_SERIALk. -/
def Reg.gblSerial : Nat := 0x4
/-- RING_LO. -/
def Reg.ringLo : Nat := 0x10
/-- RING_HI. -/
def Reg.ringHi : Nat := 0x14
/-- GBL_STAT. -/
def Reg.gblStat : Nat := 0x20
/-- GBL_ALMASK. -/
def Reg.gblAlmask : Nat := 0x24
/-- GBL_LTR. -/
def Reg.gblLtr : Nat := 0x28
/-- FLT_STAT. -/
def Reg.fltStat : Nat := 0x30
/-- FLT_DROP. -/
def Reg.fltDrop : Nat := 0x34
/-- FLT_POP. -/
def Reg.fltPop : Nat := 0x38
/-- FLT_WINk. -/
def Reg.fltWin : Nat := 0x40
/-- MBX_CMD. -/
def Reg.mbxCmd : Nat := 0x80
/-- MBX_STAT. -/
def Reg.mbxStat : Nat := 0x84
/-- MBX_DATAk. -/
def Reg.mbxData : Nat := 0x1000
/-- STEP_BASE_LO. -/
def Reg.stepBaseLo : Nat := 0x10000
/-- STEP_BASE_HI. -/
def Reg.stepBaseHi : Nat := 0x10004
/-- STEP_PERIOD. -/
def Reg.stepPeriod : Nat := 0x10008
/-- STEP_NUM_LO. -/
def Reg.stepNumLo : Nat := 0x1000C
/-- STEP_NUM_HI. -/
def Reg.stepNumHi : Nat := 0x10010
/-- STEP_STAT. -/
def Reg.stepStat : Nat := 0x10014
/-- NUM_CTL. -/
def Reg.numCtl : Nat := 0x11000
/-- NUM_LREC_BASE_LO. -/
def Reg.numLrecBaseLo : Nat := 0x11004
/-- NUM_LREC_BASE_HI. -/
def Reg.numLrecBaseHi : Nat := 0x11008
/-- NUM_SAT. -/
def Reg.numSat : Nat := 0x1100C
/-- NUM_ZERO. -/
def Reg.numZero : Nat := 0x11010
/-- NUM_UNDER. -/
def Reg.numUnder : Nat := 0x11014
/-- NUM_FMT. -/
def Reg.numFmt : Nat := 0x11018
/-- ACC_CTL. -/
def Reg.accCtl : Nat := 0x12000
/-- ACC_FENCE. -/
def Reg.accFence : Nat := 0x12004
/-- ACC_PTAG. -/
def Reg.accPtag : Nat := 0x12008
/-- ACC_SPILL. -/
def Reg.accSpill : Nat := 0x1200C
/-- ACC_ATOM_ORD. -/
def Reg.accAtomOrd : Nat := 0x12010
/-- EXP_STALL. -/
def Reg.expStall : Nat := 0x12040
/-- EXP_RAW. -/
def Reg.expRaw : Nat := 0x12044
/-- GRF_GEN. -/
def Reg.grfGen : Nat := 0x12048
/-- GRF_UPD. -/
def Reg.grfUpd : Nat := 0x1204C
/-- GRF_FLIP. -/
def Reg.grfFlip : Nat := 0x12050
/-- GRF_SKIP. -/
def Reg.grfSkip : Nat := 0x12054
/-- GRF_CLAMP. -/
def Reg.grfClamp : Nat := 0x12058
/-- GRF_PIDX. -/
def Reg.grfPidx : Nat := 0x1205C
/-- SPU_LANE_LO. -/
def Reg.spuLaneLo : Nat := 0x12080
/-- SPU_LANE_HI. -/
def Reg.spuLaneHi : Nat := 0x12084
/-- SPU_IDLE_LO. -/
def Reg.spuIdleLo : Nat := 0x12088
/-- SPU_IDLE_HI. -/
def Reg.spuIdleHi : Nat := 0x1208C
/-- SPU_STOCH. -/
def Reg.spuStoch : Nat := 0x12090
/-- SPU_XOVR. -/
def Reg.spuXovr : Nat := 0x12094
/-- BOLE_OPS. -/
def Reg.boleOps : Nat := 0x12098
/-- BOLE_MASTERg. -/
def Reg.boleMaster : Nat := 0x120C0
/-- GLD_ISA. -/
def Reg.gldIsa : Nat := 0x13000
/-- GLD_BCAST. -/
def Reg.gldBcast : Nat := 0x13004
/-- GLD_WLIM. -/
def Reg.gldWlim : Nat := 0x13008
/-- GLD_BANK. -/
def Reg.gldBank : Nat := 0x1300C
/-- GLD_NACK. -/
def Reg.gldNack : Nat := 0x13010
/-- GLD_IFAULT. -/
def Reg.gldIfault : Nat := 0x13014
/-- GLD_WEXP. -/
def Reg.gldWexp : Nat := 0x13018
/-- GLD_CTRO. -/
def Reg.gldCtro : Nat := 0x1301C
/-- LEASE_ACT. -/
def Reg.leaseAct : Nat := 0x13020
/-- LEASE_EXP. -/
def Reg.leaseExp : Nat := 0x13024
/-- LEASE_BUSY. -/
def Reg.leaseBusy : Nat := 0x13028
/-- GLD_MAPg. -/
def Reg.gldMap : Nat := 0x13040
/-- CNP_PGEOM. -/
def Reg.cnpPgeom : Nat := 0x14000
/-- CNP_LATE. -/
def Reg.cnpLate : Nat := 0x14004
/-- CNP_ROWS. -/
def Reg.cnpRows : Nat := 0x14008
/-- CNP_PAGES_LO. -/
def Reg.cnpPagesLo : Nat := 0x1400C
/-- CNP_PAGES_HI. -/
def Reg.cnpPagesHi : Nat := 0x14010
/-- CNP_EMPTY. -/
def Reg.cnpEmpty : Nat := 0x14014
/-- CNP_APX. -/
def Reg.cnpApx : Nat := 0x14018
/-- CNP_APXQ. -/
def Reg.cnpApxq : Nat := 0x1401C
/-- CNP_XOVR. -/
def Reg.cnpXovr : Nat := 0x14020
/-- CNP_STALL. -/
def Reg.cnpStall : Nat := 0x14024
/-- CNP_DIG. -/
def Reg.cnpDig : Nat := 0x14028
/-- CNP_PLBH. -/
def Reg.cnpPlbh : Nat := 0x1402C
/-- CNP_PLBM. -/
def Reg.cnpPlbm : Nat := 0x14030
/-- CNP_AFAULT. -/
def Reg.cnpAfault : Nat := 0x14034
/-- CNP_TWINg. -/
def Reg.cnpTwin : Nat := 0x14040
/-- SRV_CTL. -/
def Reg.srvCtl : Nat := 0x15000
/-- SRV_ROT. -/
def Reg.srvRot : Nat := 0x15004
/-- SRV_BMAX. -/
def Reg.srvBmax : Nat := 0x15008
/-- SRV_PT_BASE_LO. -/
def Reg.srvPtBaseLo : Nat := 0x15010
/-- SRV_PT_BASE_HI. -/
def Reg.srvPtBaseHi : Nat := 0x15014
/-- SRV_PAGE_BASE_LO. -/
def Reg.srvPageBaseLo : Nat := 0x15018
/-- SRV_PAGE_BASE_HI. -/
def Reg.srvPageBaseHi : Nat := 0x1501C
/-- SRV_PLIST_BASE_LO. -/
def Reg.srvPlistBaseLo : Nat := 0x15020
/-- SRV_PLIST_BASE_HI. -/
def Reg.srvPlistBaseHi : Nat := 0x15024
/-- SRV_IN_BASE_LO. -/
def Reg.srvInBaseLo : Nat := 0x15028
/-- SRV_IN_BASE_HI. -/
def Reg.srvInBaseHi : Nat := 0x1502C
/-- SRV_INB_BASE_LO. -/
def Reg.srvInbBaseLo : Nat := 0x15030
/-- SRV_INB_BASE_HI. -/
def Reg.srvInbBaseHi : Nat := 0x15034
/-- SRV_CPC_BASE_LO. -/
def Reg.srvCpcBaseLo : Nat := 0x15038
/-- SRV_CPC_BASE_HI. -/
def Reg.srvCpcBaseHi : Nat := 0x1503C
/-- SRV_GT_BASE_LO. -/
def Reg.srvGtBaseLo : Nat := 0x15040
/-- SRV_GT_BASE_HI. -/
def Reg.srvGtBaseHi : Nat := 0x15044
/-- SRV_PAGE_CNT. -/
def Reg.srvPageCnt : Nat := 0x15048
/-- SRV_FREE. -/
def Reg.srvFree : Nat := 0x1504C
/-- SRV_LOWW. -/
def Reg.srvLoww : Nat := 0x15050
/-- SRV_IN. -/
def Reg.srvIn : Nat := 0x15054
/-- SRV_CPC. -/
def Reg.srvCpc : Nat := 0x15058
/-- SRV_CLR. -/
def Reg.srvClr : Nat := 0x1505C
/-- LEDGER_STAT. -/
def Reg.ledgerStat : Nat := 0x15060
/-- LEDGER_EPOCH. -/
def Reg.ledgerEpoch : Nat := 0x15064
/-- SRV_LIDX. -/
def Reg.srvLidx : Nat := 0x15068
/-- SRV_GIDX. -/
def Reg.srvGidx : Nat := 0x1506C
/-- SRV_GTMO. -/
def Reg.srvGtmo : Nat := 0x15070
/-- SRV_LWINk. -/
def Reg.srvLwin : Nat := 0x15080
/-- SRV_GWINk. -/
def Reg.srvGwin : Nat := 0x150C0
/-- SRV_DEFER. -/
def Reg.srvDefer : Nat := 0x15100
/-- SRV_NOPAGE. -/
def Reg.srvNopage : Nat := 0x15104
/-- SRV_COW. -/
def Reg.srvCow : Nat := 0x15108
/-- SRV_CPCH. -/
def Reg.srvCpch : Nat := 0x1510C
/-- SRV_CPCM. -/
def Reg.srvCpcm : Nat := 0x15110
/-- SRV_CPCDUP. -/
def Reg.srvCpcdup : Nat := 0x15114
/-- SRV_CPCFULL. -/
def Reg.srvCpcfull : Nat := 0x15118
/-- SRV_RECL. -/
def Reg.srvRecl : Nat := 0x1511C
/-- SRV_SEAL. -/
def Reg.srvSeal : Nat := 0x15120
/-- SRV_RESUME. -/
def Reg.srvResume : Nat := 0x15124
/-- SRV_REFUSE. -/
def Reg.srvRefuse : Nat := 0x15128
/-- SRV_LATECMD. -/
def Reg.srvLatecmd : Nat := 0x1512C
/-- SRV_DLATE. -/
def Reg.srvDlate : Nat := 0x15130
/-- RTE_CTL. -/
def Reg.rteCtl : Nat := 0x16000
/-- RTE_BIAS. -/
def Reg.rteBias : Nat := 0x16004
/-- RTE_BIAS_BASE_LO. -/
def Reg.rteBiasBaseLo : Nat := 0x16008
/-- RTE_BIAS_BASE_HI. -/
def Reg.rteBiasBaseHi : Nat := 0x1600C
/-- RTE_LOAD_BASE_LO. -/
def Reg.rteLoadBaseLo : Nat := 0x16010
/-- RTE_LOAD_BASE_HI. -/
def Reg.rteLoadBaseHi : Nat := 0x16014
/-- RTE_SHP_BASE_LO. -/
def Reg.rteShpBaseLo : Nat := 0x16018
/-- RTE_SHP_BASE_HI. -/
def Reg.rteShpBaseHi : Nat := 0x1601C
/-- RTE_RX_BASE_LO. -/
def Reg.rteRxBaseLo : Nat := 0x16020
/-- RTE_RX_BASE_HI. -/
def Reg.rteRxBaseHi : Nat := 0x16024
/-- RTE_RX_LIM_LO. -/
def Reg.rteRxLimLo : Nat := 0x16028
/-- RTE_RX_LIM_HI. -/
def Reg.rteRxLimHi : Nat := 0x1602C
/-- RTE_SHP. -/
def Reg.rteShp : Nat := 0x16030
/-- RTE_TOK. -/
def Reg.rteTok : Nat := 0x16040
/-- RTE_COPY. -/
def Reg.rteCopy : Nat := 0x16044
/-- RTE_TIE. -/
def Reg.rteTie : Nat := 0x16048
/-- RTE_SCLAMP. -/
def Reg.rteSclamp : Nat := 0x1604C
/-- RTE_STALE. -/
def Reg.rteStale : Nat := 0x16050
/-- RTE_DUP. -/
def Reg.rteDup : Nat := 0x16054
/-- RTE_VOID. -/
def Reg.rteVoid : Nat := 0x16058
/-- RTE_UNANS. -/
def Reg.rteUnans : Nat := 0x1605C
/-- RTE_XOVR. -/
def Reg.rteXovr : Nat := 0x16060
/-- SCT_CTL. -/
def Reg.sctCtl : Nat := 0x16080
/-- SCT_CFG. -/
def Reg.sctCfg : Nat := 0x16084
/-- SCT_BASE_LO. -/
def Reg.sctBaseLo : Nat := 0x16088
/-- SCT_BASE_HI. -/
def Reg.sctBaseHi : Nat := 0x1608C
/-- SCT_STAT. -/
def Reg.sctStat : Nat := 0x16090
/-- SCT_SKIP. -/
def Reg.sctSkip : Nat := 0x16094
/-- SCT_MISS. -/
def Reg.sctMiss : Nat := 0x16098
/-- SCT_WASTE. -/
def Reg.sctWaste : Nat := 0x1609C
/-- SCT_XOVR. -/
def Reg.sctXovr : Nat := 0x160A0
/-- MEM_STKs. -/
def Reg.memStk : Nat := 0x17000
/-- MEM_UCH. -/
def Reg.memUch : Nat := 0x17020
/-- MEM_UCHR. -/
def Reg.memUchr : Nat := 0x17024
/-- MEM_TRN. -/
def Reg.memTrn : Nat := 0x17028
/-- MEM_TG_SEL. -/
def Reg.memTgSel : Nat := 0x17040
/-- MEM_TG_CTL. -/
def Reg.memTgCtl : Nat := 0x17044
/-- MEM_TG_BASE_LO. -/
def Reg.memTgBaseLo : Nat := 0x17048
/-- MEM_TG_BASE_HI. -/
def Reg.memTgBaseHi : Nat := 0x1704C
/-- MEM_TG_LEN. -/
def Reg.memTgLen : Nat := 0x17050
/-- MEM_TG_SEED. -/
def Reg.memTgSeed : Nat := 0x17054
/-- MEM_TG_STAT. -/
def Reg.memTgStat : Nat := 0x17058
/-- MEM_TG_ERR. -/
def Reg.memTgErr : Nat := 0x1705C
/-- MEM_TG_FADDR_LO. -/
def Reg.memTgFaddrLo : Nat := 0x17060
/-- MEM_TG_FADDR_HI. -/
def Reg.memTgFaddrHi : Nat := 0x17064
/-- MEM_TG_FBITS. -/
def Reg.memTgFbits : Nat := 0x17068
/-- MEM_RIDX. -/
def Reg.memRidx : Nat := 0x17080
/-- MEM_RWINk. -/
def Reg.memRwin : Nat := 0x170C0
/-- MEM_GTAB_OFF. -/
def Reg.memGtabOff : Nat := 0x17100
/-- MEM_GTAB_CNT. -/
def Reg.memGtabCnt : Nat := 0x17104
/-- MEM_DIG_BASE_LO. -/
def Reg.memDigBaseLo : Nat := 0x17108
/-- MEM_DIG_BASE_HI. -/
def Reg.memDigBaseHi : Nat := 0x1710C
/-- MEM_DIG. -/
def Reg.memDig : Nat := 0x17110
/-- MEM_MIG_CTL. -/
def Reg.memMigCtl : Nat := 0x17114
/-- MEM_MIG_THR. -/
def Reg.memMigThr : Nat := 0x17118
/-- MEM_MIG_BW. -/
def Reg.memMigBw : Nat := 0x1711C
/-- MEM_REP_TMO. -/
def Reg.memRepTmo : Nat := 0x17120
/-- MEM_PATROL. -/
def Reg.memPatrol : Nat := 0x17124
/-- MEM_CE. -/
def Reg.memCe : Nat := 0x17140
/-- MEM_UE. -/
def Reg.memUe : Nat := 0x17144
/-- MEM_CHKF. -/
def Reg.memChkf : Nat := 0x17148
/-- MEM_RETRY. -/
def Reg.memRetry : Nat := 0x1714C
/-- MEM_REPM. -/
def Reg.memRepm : Nat := 0x17150
/-- MEM_REPH. -/
def Reg.memReph : Nat := 0x17154
/-- MEM_REPF. -/
def Reg.memRepf : Nat := 0x17158
/-- MEM_WEAK. -/
def Reg.memWeak : Nat := 0x1715C
/-- MEM_PROMO. -/
def Reg.memPromo : Nat := 0x17160
/-- MEM_DEMO. -/
def Reg.memDemo : Nat := 0x17164
/-- MEM_MABRT. -/
def Reg.memMabrt : Nat := 0x17168
/-- MEM_NOSLOT. -/
def Reg.memNoslot : Nat := 0x1716C
/-- MEM_GLBM. -/
def Reg.memGlbm : Nat := 0x17170
/-- MEM_LHINT. -/
def Reg.memLhint : Nat := 0x17174
/-- FAB_ADDR. -/
def Reg.fabAddr : Nat := 0x18000
/-- FAB_DIM. -/
def Reg.fabDim : Nat := 0x18004
/-- FAB_CTL. -/
def Reg.fabCtl : Nat := 0x18008
/-- SKp_CFG. -/
def Reg.skCfg : Nat := 0x18040
/-- SKp_STAT. -/
def Reg.skStat : Nat := 0x18060
/-- SKp_NBR. -/
def Reg.skNbr : Nat := 0x18080
/-- SKp_FECC. -/
def Reg.skFecc : Nat := 0x180A0
/-- SKp_FECU. -/
def Reg.skFecu : Nat := 0x180C0
/-- SKp_RPLY. -/
def Reg.skRply : Nat := 0x180E0
/-- SKp_SW. -/
def Reg.skSw : Nat := 0x18100
/-- FAB_FBRK. -/
def Reg.fabFbrk : Nat := 0x18120
/-- FAB_LDF. -/
def Reg.fabLdf : Nat := 0x18124
/-- FAB_STALE. -/
def Reg.fabStale : Nat := 0x18128
/-- FAB_DUP. -/
def Reg.fabDup : Nat := 0x1812C
/-- FAB_NREF. -/
def Reg.fabNref : Nat := 0x18130
/-- FAB_RSND. -/
def Reg.fabRsnd : Nat := 0x18134
/-- FAB_RFLT. -/
def Reg.fabRflt : Nat := 0x18138
/-- RING_STAT. -/
def Reg.ringStat : Nat := 0x18140
/-- RING_CFG. -/
def Reg.ringCfg : Nat := 0x18144
/-- RING_LOAD_LO. -/
def Reg.ringLoadLo : Nat := 0x18148
/-- RING_LOAD_HI. -/
def Reg.ringLoadHi : Nat := 0x1814C
/-- RING_PHASE. -/
def Reg.ringPhase : Nat := 0x18150
/-- RING_OFS. -/
def Reg.ringOfs : Nat := 0x18154
/-- RING_DLY. -/
def Reg.ringDly : Nat := 0x18158
/-- RING_SLEW. -/
def Reg.ringSlew : Nat := 0x1815C
/-- RING_MISS. -/
def Reg.ringMiss : Nat := 0x18160
/-- RING_HOLD. -/
def Reg.ringHold : Nat := 0x18164
/-- FREQ_CFG. -/
def Reg.freqCfg : Nat := 0x18180
/-- FREQ_STAT. -/
def Reg.freqStat : Nat := 0x18184
/-- FREQ_APPLY_LO. -/
def Reg.freqApplyLo : Nat := 0x18188
/-- FREQ_APPLY_HI. -/
def Reg.freqApplyHi : Nat := 0x1818C
/-- FREQ_SPLIT. -/
def Reg.freqSplit : Nat := 0x18190
/-- ALP_CTL. -/
def Reg.alpCtl : Nat := 0x19000
/-- ALP_STAT. -/
def Reg.alpStat : Nat := 0x19004
/-- ALP_CRCE. -/
def Reg.alpCrce : Nat := 0x19008
/-- OHM_CTL. -/
def Reg.ohmCtl : Nat := 0x1900C
/-- OHM_STAT. -/
def Reg.ohmStat : Nat := 0x19010
/-- OHM_RPLY. -/
def Reg.ohmRply : Nat := 0x19014
/-- OHM_LDF. -/
def Reg.ohmLdf : Nat := 0x19018
/-- OHM_DUP. -/
def Reg.ohmDup : Nat := 0x1901C
/-- OHM_CMD. -/
def Reg.ohmCmd : Nat := 0x19020
/-- OHM_INBOX. -/
def Reg.ohmInbox : Nat := 0x19024
/-- OHM_OUTQ. -/
def Reg.ohmOutq : Nat := 0x19028
/-- OHM_BPRS. -/
def Reg.ohmBprs : Nat := 0x1902C
/-- IMG_CMD. -/
def Reg.imgCmd : Nat := 0x1A000
/-- IMG_APPLY_LO. -/
def Reg.imgApplyLo : Nat := 0x1A004
/-- IMG_APPLY_HI. -/
def Reg.imgApplyHi : Nat := 0x1A008
/-- IMG_RELOAD_LO. -/
def Reg.imgReloadLo : Nat := 0x1A00C
/-- IMG_RELOAD_HI. -/
def Reg.imgReloadHi : Nat := 0x1A010
/-- IMG_STAT. -/
def Reg.imgStat : Nat := 0x1A014
/-- IMG_CAP. -/
def Reg.imgCap : Nat := 0x1A018
/-- IMG_SLOTs. -/
def Reg.imgSlot : Nat := 0x1A01C
/-- IMG_CSTEP_LO. -/
def Reg.imgCstepLo : Nat := 0x1A024
/-- IMG_CSTEP_HI. -/
def Reg.imgCstepHi : Nat := 0x1A028
/-- IMG_PHC. -/
def Reg.imgPhc : Nat := 0x1A02C
/-- IMG_HOLD. -/
def Reg.imgHold : Nat := 0x1A030
/-- IMG_DABRT. -/
def Reg.imgDabrt : Nat := 0x1A034
/-- IMG_IDk. -/
def Reg.imgId : Nat := 0x1A040
/-- IMG_RIDk. -/
def Reg.imgRid : Nat := 0x1A080
/-- WARDEN_CAP. -/
def Reg.wardenCap : Nat := 0x1B000
/-- WARDEN_CFG. -/
def Reg.wardenCfg : Nat := 0x1B004
/-- WARDEN_PIN. -/
def Reg.wardenPin : Nat := 0x1B008
/-- WARDEN_POOL. -/
def Reg.wardenPool : Nat := 0x1B00C
/-- WARDEN_THROT. -/
def Reg.wardenThrot : Nat := 0x1B010
/-- WARDEN_OVER. -/
def Reg.wardenOver : Nat := 0x1B014
/-- WARDEN_HDROP. -/
def Reg.wardenHdrop : Nat := 0x1B018
/-- WARDEN_TMISS. -/
def Reg.wardenTmiss : Nat := 0x1B01C
/-- PWR_DROOP. -/
def Reg.pwrDroop : Nat := 0x1B020
/-- PWR_STRETCH. -/
def Reg.pwrStretch : Nat := 0x1B024
/-- PWR_DOM. -/
def Reg.pwrDom : Nat := 0x1B028
/-- PWR_STATE. -/
def Reg.pwrState : Nat := 0x1B02C
/-- PWR_SUSP_LO. -/
def Reg.pwrSuspLo : Nat := 0x1B030
/-- PWR_SUSP_HI. -/
def Reg.pwrSuspHi : Nat := 0x1B034
/-- PWR_RES_LO. -/
def Reg.pwrResLo : Nat := 0x1B038
/-- PWR_RES_HI. -/
def Reg.pwrResHi : Nat := 0x1B03C
/-- PWR_IDLE. -/
def Reg.pwrIdle : Nat := 0x1B040
/-- PWR_IDLECk. -/
def Reg.pwrIdlec : Nat := 0x1B044
/-- GLD_FIDX. -/
def Reg.gldFidx : Nat := 0x1B054
/-- GLD_FMAX. -/
def Reg.gldFmax : Nat := 0x1B058
/-- PWR_FCFG. -/
def Reg.pwrFcfg : Nat := 0x1B05C
/-- PWR_FMOD. -/
def Reg.pwrFmod : Nat := 0x1B060
/-- WARDEN_FRACg. -/
def Reg.wardenFrac : Nat := 0x1B080
/-- WARDEN_OPg. -/
def Reg.wardenOp : Nat := 0x1B0C0
/-- WARDEN_PWRg. -/
def Reg.wardenPwr : Nat := 0x1B100
/-- REC_CFG. -/
def Reg.recCfg : Nat := 0x1C000
/-- REC_ABND. -/
def Reg.recAbnd : Nat := 0x1C004
/-- REC_REPLAY. -/
def Reg.recReplay : Nat := 0x1C008
/-- REC_HALT. -/
def Reg.recHalt : Nat := 0x1C00C
/-- REC_SUPP. -/
def Reg.recSupp : Nat := 0x1C010
/-- LEASE_REV. -/
def Reg.leaseRev : Nat := 0x1C014
/-- LEASE_REVP. -/
def Reg.leaseRevp : Nat := 0x1C018
/-- LEASE_RVK. -/
def Reg.leaseRvk : Nat := 0x1C01C
/-- LIFE_STAT. -/
def Reg.lifeStat : Nat := 0x1C020
/-- LIFE_SEQ. -/
def Reg.lifeSeq : Nat := 0x1C024
/-- LIFE_CTL. -/
def Reg.lifeCtl : Nat := 0x1C028
/-- LIFE_PON_LO. -/
def Reg.lifePonLo : Nat := 0x1C02C
/-- LIFE_PON_HI. -/
def Reg.lifePonHi : Nat := 0x1C030
/-- LIFE_ENERGY_LO. -/
def Reg.lifeEnergyLo : Nat := 0x1C034
/-- LIFE_ENERGY_HI. -/
def Reg.lifeEnergyHi : Nat := 0x1C038
/-- LIFE_TCYC. -/
def Reg.lifeTcyc : Nat := 0x1C03C
/-- LIFE_IDX. -/
def Reg.lifeIdx : Nat := 0x1C040
/-- LIFE_WIN. -/
def Reg.lifeWin : Nat := 0x1C044
/-- LIFE_WEAR. -/
def Reg.lifeWear : Nat := 0x1C048
/-- LIFE_NOR. -/
def Reg.lifeNor : Nat := 0x1C04C
/-- CAL_SET_LO. -/
def Reg.calSetLo : Nat := 0x1C050
/-- CAL_SET_HI. -/
def Reg.calSetHi : Nat := 0x1C054
/-- CAL_AT_LO. -/
def Reg.calAtLo : Nat := 0x1C058
/-- CAL_AT_HI. -/
def Reg.calAtHi : Nat := 0x1C05C
/-- CAL_NOW_LO. -/
def Reg.calNowLo : Nat := 0x1C060
/-- CAL_NOW_HI. -/
def Reg.calNowHi : Nat := 0x1C064
/-- CAL_STAT. -/
def Reg.calStat : Nat := 0x1C068
/-- SEC_STAT. -/
def Reg.secStat : Nat := 0x1D000
/-- SEC_SVN. -/
def Reg.secSvn : Nat := 0x1D004
/-- SEC_TEN. -/
def Reg.secTen : Nat := 0x1D008
/-- SEC_QSEQ. -/
def Reg.secQseq : Nat := 0x1D00C
/-- SEC_VFAIL. -/
def Reg.secVfail : Nat := 0x1D010

/-- Table 18.3, part 1. -/
def regRows0 : List RegSpec := [
  ⟨0x0, 1, 0x0, 0x0, 0x0, 0x0, 0x0, 0x19C0976B⟩,
  ⟨0x4, 3, 0x0, 0x0, 0x0, 0x0, 0x0, 0x0⟩,
  ⟨0x10, 1, 0x0, 0x0, 0x0, 0x0, 0x0, 0x0⟩,
  ⟨0x14, 1, 0x0, 0x0, 0x0, 0x0, 0x0, 0x0⟩,
  ⟨0x20, 1, 0x0, 0x0, 0x77C, 0x0, 0x0, 0x80⟩,
  ⟨0x24, 1, 0x7FF, 0x0, 0x0, 0x0, 0x0, 0x700⟩,
  ⟨0x28, 1, 0xFFFFFF, 0x0, 0x0, 0x0, 0x0, 0x0⟩,
  ⟨0x30, 1, 0x0, 0x0, 0x0, 0x0, 0x0, 0x0⟩,
  ⟨0x34, 1, 0x0, 0x0, 0x0, 0xFFFFFFFF, 0x0, 0x0⟩,
  ⟨0x38, 1, 0x0, 0x0, 0x0, 0x0, 0xFFFFFFFF, 0x0⟩,
  ⟨0x40, 16, 0x0, 0x0, 0x0, 0x0, 0x0, 0x0⟩,
  ⟨0x80, 1, 0x0, 0x0, 0x0, 0x0, 0x1FFF00FF, 0x0⟩,
  ⟨0x84, 1, 0x0, 0x0, 0x0, 0x0, 0x0, 0x0⟩,
  ⟨0x1000, 1024, 0xFFFFFFFF, 0x0, 0x0, 0x0, 0x0, 0x0⟩,
  ⟨0x10000, 1, 0x0, 0xFFFFFFFF, 0x0, 0x0, 0x0, 0x0⟩,
  ⟨0x10004, 1, 0x0, 0xFFFFFFFF, 0x0, 0x0, 0x0, 0x0⟩,
  ⟨0x10008, 1, 0x0, 0xFFFFFFFF, 0x0, 0x0, 0x0, 0x0⟩,
  ⟨0x1000C, 1, 0x0, 0x0, 0x0, 0x0, 0x0, 0x0⟩,
  ⟨0x10010, 1, 0x0, 0x0, 0x0, 0x0, 0x0, 0x0⟩,
  ⟨0x10014, 1, 0x0, 0x0, 0x0, 0xFFFFFFFF, 0x0, 0x0⟩,
  ⟨0x11000, 1, 0x0, 0x1, 0x0, 0x0, 0x0, 0x0⟩,
  ⟨0x11004, 1, 0x0, 0xFFFFF000, 0x0, 0x0, 0x0, 0x0⟩,
  ⟨0x11008, 1, 0x0, 0xFFFF, 0x0, 0x0, 0x0, 0x0⟩,
  ⟨0x1100C, 1, 0x0, 0x0, 0x0, 0xFFFFFFFF, 0x0, 0x0⟩]

/-- Table 18.3, part 2. -/
def regRows1 : List RegSpec := [
  ⟨0x11010, 1, 0x0, 0x0, 0x0, 0xFFFFFFFF, 0x0, 0x0⟩,
  ⟨0x11014, 1, 0x0, 0x0, 0x0, 0xFFFFFFFF, 0x0, 0x0⟩,
  ⟨0x11018, 1, 0x0, 0x0, 0x0, 0xFFFFFFFF, 0x0, 0x0⟩,
  ⟨0x12000, 1, 0x0, 0x1, 0x0, 0x0, 0x0, 0x0⟩,
  ⟨0x12004, 1, 0x0, 0x0, 0x0, 0xFFFFFFFF, 0x0, 0x0⟩,
  ⟨0x12008, 1, 0x0, 0x0, 0x0, 0xFFFFFFFF, 0x0, 0x0⟩,
  ⟨0x1200C, 1, 0x0, 0x0, 0x0, 0xFFFFFFFF, 0x0, 0x0⟩,
  ⟨0x12010, 1, 0x0, 0x0, 0x0, 0xFFFFFFFF, 0x0, 0x0⟩,
  ⟨0x12040, 1, 0x0, 0x0, 0x0, 0xFFFFFFFF, 0x0, 0x0⟩,
  ⟨0x12044, 1, 0x0, 0x0, 0x0, 0xFFFFFFFF, 0x0, 0x0⟩,
  ⟨0x12048, 1, 0x0, 0x0, 0x0, 0x0, 0x0, 0x0⟩,
  ⟨0x1204C, 1, 0x0, 0x0, 0x0, 0xFFFFFFFF, 0x0, 0x0⟩,
  ⟨0x12050, 1, 0x0, 0x0, 0x0, 0xFFFFFFFF, 0x0, 0x0⟩,
  ⟨0x12054, 1, 0x0, 0x0, 0x0, 0xFFFFFFFF, 0x0, 0x0⟩,
  ⟨0x12058, 1, 0x0, 0x0, 0x0, 0xFFFFFFFF, 0x0, 0x0⟩,
  ⟨0x1205C, 1, 0x3F, 0x0, 0x0, 0x0, 0x0, 0x0⟩,
  ⟨0x12080, 1, 0x0, 0x0, 0x0, 0x0, 0x0, 0x0⟩,
  ⟨0x12084, 1, 0x0, 0x0, 0x0, 0x0, 0x0, 0x0⟩,
  ⟨0x12088, 1, 0x0, 0x0, 0x0, 0x0, 0x0, 0x0⟩,
  ⟨0x1208C, 1, 0x0, 0x0, 0x0, 0x0, 0x0, 0x0⟩,
  ⟨0x12090, 1, 0x0, 0x0, 0x0, 0xFFFFFFFF, 0x0, 0x0⟩,
  ⟨0x12094, 1, 0x0, 0x0, 0x0, 0xFFFFFFFF, 0x0, 0x0⟩,
  ⟨0x12098, 1, 0x0, 0x0, 0x0, 0xFFFFFFFF, 0x0, 0x0⟩,
  ⟨0x120C0, 16, 0x0, 0x3FF, 0x0, 0x0, 0x0, 0x3FF⟩]

/-- Table 18.3, part 3. -/
def regRows2 : List RegSpec := [
  ⟨0x13000, 1, 0x0, 0x0, 0x0, 0x0, 0x0, 0x3⟩,
  ⟨0x13004, 1, 0x0, 0xFFFF, 0x0, 0x0, 0x0, 0xF000⟩,
  ⟨0x13008, 1, 0x0, 0xFFFFFFFF, 0x0, 0x0, 0x0, 0x0⟩,
  ⟨0x1300C, 1, 0x0, 0x0, 0x0, 0xFFFFFFFF, 0x0, 0x0⟩,
  ⟨0x13010, 1, 0x0, 0x0, 0x0, 0xFFFFFFFF, 0x0, 0x0⟩,
  ⟨0x13014, 1, 0x0, 0x0, 0x0, 0xFFFFFFFF, 0x0, 0x0⟩,
  ⟨0x13018, 1, 0x0, 0x0, 0x0, 0xFFFFFFFF, 0x0, 0x0⟩,
  ⟨0x1301C, 1, 0x0, 0x0, 0x0, 0xFFFFFFFF, 0x0, 0x0⟩,
  ⟨0x13020, 1, 0x0, 0x0, 0x0, 0x0, 0x0, 0x0⟩,
  ⟨0x13024, 1, 0x0, 0x0, 0x0, 0xFFFFFFFF, 0x0, 0x0⟩,
  ⟨0x13028, 1, 0x0, 0x0, 0x0, 0xFFFFFFFF, 0x0, 0x0⟩,
  ⟨0x13040, 16, 0x0, 0x7F7F, 0x0, 0x0, 0x0, 0x7F7F⟩,
  ⟨0x14000, 1, 0x0, 0xFFFFFFFF, 0x0, 0x0, 0x0, 0x0⟩,
  ⟨0x14004, 1, 0x0, 0x1FFFF, 0x0, 0x0, 0x0, 0x64⟩,
  ⟨0x14008, 1, 0x0, 0x0, 0x0, 0xFFFFFFFF, 0x0, 0x0⟩,
  ⟨0x1400C, 1, 0x0, 0x0, 0x0, 0x0, 0x0, 0x0⟩,
  ⟨0x14010, 1, 0x0, 0x0, 0x0, 0x0, 0x0, 0x0⟩,
  ⟨0x14014, 1, 0x0, 0x0, 0x0, 0xFFFFFFFF, 0x0, 0x0⟩,
  ⟨0x14018, 1, 0x0, 0x0, 0x0, 0xFFFFFFFF, 0x0, 0x0⟩,
  ⟨0x1401C, 1, 0x0, 0x0, 0x0, 0xFFFFFFFF, 0x0, 0x0⟩,
  ⟨0x14020, 1, 0x0, 0x0, 0x0, 0xFFFFFFFF, 0x0, 0x0⟩,
  ⟨0x14024, 1, 0x0, 0x0, 0x0, 0xFFFFFFFF, 0x0, 0x0⟩,
  ⟨0x14028, 1, 0x0, 0x0, 0x0, 0xFFFFFFFF, 0x0, 0x0⟩,
  ⟨0x1402C, 1, 0x0, 0x0, 0x0, 0xFFFFFFFF, 0x0, 0x0⟩]

/-- Table 18.3, part 4. -/
def regRows3 : List RegSpec := [
  ⟨0x14030, 1, 0x0, 0x0, 0x0, 0xFFFFFFFF, 0x0, 0x0⟩,
  ⟨0x14034, 1, 0x0, 0x0, 0x0, 0xFFFFFFFF, 0x0, 0x0⟩,
  ⟨0x14040, 16, 0x0, 0x3F, 0x0, 0x0, 0x0, 0x0⟩,
  ⟨0x15000, 1, 0x0, 0xF, 0x0, 0x0, 0x0, 0x0⟩,
  ⟨0x15004, 1, 0x0, 0xFF, 0x0, 0x0, 0x0, 0x0⟩,
  ⟨0x15008, 1, 0x0, 0x7FF, 0x0, 0x0, 0x0, 0x554⟩,
  ⟨0x15010, 1, 0x0, 0xFFFFF000, 0x0, 0x0, 0x0, 0x0⟩,
  ⟨0x15014, 1, 0x0, 0xFFFF, 0x0, 0x0, 0x0, 0x0⟩,
  ⟨0x15018, 1, 0x0, 0xFFFFF000, 0x0, 0x0, 0x0, 0x0⟩,
  ⟨0x1501C, 1, 0x0, 0xFFFF, 0x0, 0x0, 0x0, 0x0⟩,
  ⟨0x15020, 1, 0x0, 0xFFFFF000, 0x0, 0x0, 0x0, 0x0⟩,
  ⟨0x15024, 1, 0x0, 0xFFFF, 0x0, 0x0, 0x0, 0x0⟩,
  ⟨0x15028, 1, 0x0, 0xFFFFF000, 0x0, 0x0, 0x0, 0x0⟩,
  ⟨0x1502C, 1, 0x0, 0xFFFF, 0x0, 0x0, 0x0, 0x0⟩,
  ⟨0x15030, 1, 0x0, 0xFFFFF000, 0x0, 0x0, 0x0, 0x0⟩,
  ⟨0x15034, 1, 0x0, 0xFFFF, 0x0, 0x0, 0x0, 0x0⟩,
  ⟨0x15038, 1, 0x0, 0xFFFFF000, 0x0, 0x0, 0x0, 0x0⟩,
  ⟨0x1503C, 1, 0x0, 0xFFFF, 0x0, 0x0, 0x0, 0x0⟩,
  ⟨0x15040, 1, 0x0, 0xFFFFF000, 0x0, 0x0, 0x0, 0x0⟩,
  ⟨0x15044, 1, 0x0, 0xFFFF, 0x0, 0x0, 0x0, 0x0⟩,
  ⟨0x15048, 1, 0x0, 0x1FFFFFF, 0x0, 0x0, 0x0, 0x0⟩,
  ⟨0x1504C, 1, 0x0, 0x0, 0x0, 0x0, 0x0, 0x0⟩,
  ⟨0x15050, 1, 0x0, 0x1FFFFFF, 0x0, 0x0, 0x0, 0x0⟩,
  ⟨0x15054, 1, 0x0, 0x1F, 0x0, 0x0, 0x0, 0xA⟩]

/-- Table 18.3, part 5. -/
def regRows4 : List RegSpec := [
  ⟨0x15058, 1, 0x0, 0xFF1F, 0x0, 0x0, 0x0, 0x400A⟩,
  ⟨0x1505C, 1, 0x0, 0xFFFFFFFF, 0x0, 0x0, 0x0, 0x7D0⟩,
  ⟨0x15060, 1, 0x0, 0x0, 0x0, 0x0, 0x0, 0x0⟩,
  ⟨0x15064, 1, 0x0, 0x0, 0x0, 0x0, 0x0, 0x0⟩,
  ⟨0x15068, 1, 0x3FFF, 0x0, 0x0, 0x0, 0x0, 0x0⟩,
  ⟨0x1506C, 1, 0xFF, 0x0, 0x0, 0x0, 0x0, 0x0⟩,
  ⟨0x15070, 1, 0x0, 0xFFFFFFFF, 0x0, 0x0, 0x0, 0x5F5E100⟩,
  ⟨0x15080, 16, 0x0, 0x0, 0x0, 0x0, 0x0, 0x0⟩,
  ⟨0x150C0, 8, 0x0, 0x0, 0x0, 0x0, 0x0, 0x0⟩,
  ⟨0x15100, 1, 0x0, 0x0, 0x0, 0xFFFFFFFF, 0x0, 0x0⟩,
  ⟨0x15104, 1, 0x0, 0x0, 0x0, 0xFFFFFFFF, 0x0, 0x0⟩,
  ⟨0x15108, 1, 0x0, 0x0, 0x0, 0xFFFFFFFF, 0x0, 0x0⟩,
  ⟨0x1510C, 1, 0x0, 0x0, 0x0, 0xFFFFFFFF, 0x0, 0x0⟩,
  ⟨0x15110, 1, 0x0, 0x0, 0x0, 0xFFFFFFFF, 0x0, 0x0⟩,
  ⟨0x15114, 1, 0x0, 0x0, 0x0, 0xFFFFFFFF, 0x0, 0x0⟩,
  ⟨0x15118, 1, 0x0, 0x0, 0x0, 0xFFFFFFFF, 0x0, 0x0⟩,
  ⟨0x1511C, 1, 0x0, 0x0, 0x0, 0xFFFFFFFF, 0x0, 0x0⟩,
  ⟨0x15120, 1, 0x0, 0x0, 0x0, 0xFFFFFFFF, 0x0, 0x0⟩,
  ⟨0x15124, 1, 0x0, 0x0, 0x0, 0xFFFFFFFF, 0x0, 0x0⟩,
  ⟨0x15128, 1, 0x0, 0x0, 0x0, 0xFFFFFFFF, 0x0, 0x0⟩,
  ⟨0x1512C, 1, 0x0, 0x0, 0x0, 0xFFFFFFFF, 0x0, 0x0⟩,
  ⟨0x15130, 1, 0x0, 0x0, 0x0, 0xFFFFFFFF, 0x0, 0x0⟩,
  ⟨0x16000, 1, 0x0, 0x1, 0x0, 0x0, 0x0, 0x0⟩,
  ⟨0x16004, 1, 0x0, 0xFFFFFFFF, 0x0, 0x0, 0x0, 0x80010040⟩]

/-- Table 18.3, part 6. -/
def regRows5 : List RegSpec := [
  ⟨0x16008, 1, 0x0, 0xFFFFF000, 0x0, 0x0, 0x0, 0x0⟩,
  ⟨0x1600C, 1, 0x0, 0xFFFF, 0x0, 0x0, 0x0, 0x0⟩,
  ⟨0x16010, 1, 0x0, 0xFFFFF000, 0x0, 0x0, 0x0, 0x0⟩,
  ⟨0x16014, 1, 0x0, 0xFFFF, 0x0, 0x0, 0x0, 0x0⟩,
  ⟨0x16018, 1, 0x0, 0xFFFFF000, 0x0, 0x0, 0x0, 0x0⟩,
  ⟨0x1601C, 1, 0x0, 0xFFFF, 0x0, 0x0, 0x0, 0x0⟩,
  ⟨0x16020, 1, 0x0, 0xFFFFF000, 0x0, 0x0, 0x0, 0x0⟩,
  ⟨0x16024, 1, 0x0, 0xFFFF, 0x0, 0x0, 0x0, 0x0⟩,
  ⟨0x16028, 1, 0x0, 0xFFFFF000, 0x0, 0x0, 0x0, 0x0⟩,
  ⟨0x1602C, 1, 0x0, 0xFFFF, 0x0, 0x0, 0x0, 0x0⟩,
  ⟨0x16030, 1, 0x0, 0x1FFFF, 0x0, 0x0, 0x0, 0x0⟩,
  ⟨0x16040, 1, 0x0, 0x0, 0x0, 0xFFFFFFFF, 0x0, 0x0⟩,
  ⟨0x16044, 1, 0x0, 0x0, 0x0, 0xFFFFFFFF, 0x0, 0x0⟩,
  ⟨0x16048, 1, 0x0, 0x0, 0x0, 0xFFFFFFFF, 0x0, 0x0⟩,
  ⟨0x1604C, 1, 0x0, 0x0, 0x0, 0xFFFFFFFF, 0x0, 0x0⟩,
  ⟨0x16050, 1, 0x0, 0x0, 0x0, 0xFFFFFFFF, 0x0, 0x0⟩,
  ⟨0x16054, 1, 0x0, 0x0, 0x0, 0xFFFFFFFF, 0x0, 0x0⟩,
  ⟨0x16058, 1, 0x0, 0x0, 0x0, 0xFFFFFFFF, 0x0, 0x0⟩,
  ⟨0x1605C, 1, 0x0, 0x0, 0x0, 0xFFFFFFFF, 0x0, 0x0⟩,
  ⟨0x16060, 1, 0x0, 0x0, 0x0, 0xFFFFFFFF, 0x0, 0x0⟩,
  ⟨0x16080, 1, 0x0, 0xFF03, 0x0, 0x0, 0x0, 0xC000⟩,
  ⟨0x16084, 1, 0x0, 0xFFFF000F, 0x0, 0x0, 0x0, 0x6⟩,
  ⟨0x16088, 1, 0x0, 0xFFFFF000, 0x0, 0x0, 0x0, 0x0⟩,
  ⟨0x1608C, 1, 0x0, 0xFFFF, 0x0, 0x0, 0x0, 0x0⟩]

/-- Table 18.3, part 7. -/
def regRows6 : List RegSpec := [
  ⟨0x16090, 1, 0x0, 0x0, 0x0, 0x0, 0x0, 0x0⟩,
  ⟨0x16094, 1, 0x0, 0x0, 0x0, 0xFFFFFFFF, 0x0, 0x0⟩,
  ⟨0x16098, 1, 0x0, 0x0, 0x0, 0xFFFFFFFF, 0x0, 0x0⟩,
  ⟨0x1609C, 1, 0x0, 0x0, 0x0, 0xFFFFFFFF, 0x0, 0x0⟩,
  ⟨0x160A0, 1, 0x0, 0x0, 0x0, 0xFFFFFFFF, 0x0, 0x0⟩,
  ⟨0x17000, 8, 0x0, 0x0, 0x0, 0x0, 0x0, 0x0⟩,
  ⟨0x17020, 1, 0x0, 0x0, 0x0, 0x0, 0x0, 0x0⟩,
  ⟨0x17024, 1, 0x0, 0x0, 0x0, 0x0, 0x0, 0x0⟩,
  ⟨0x17028, 1, 0xFFFF03, 0x0, 0x0, 0x0, 0x80000000, 0x4D0101⟩,
  ⟨0x17040, 1, 0xFF, 0x0, 0x0, 0x0, 0x0, 0x0⟩,
  ⟨0x17044, 1, 0x4FF, 0x0, 0x0, 0x0, 0x300, 0x0⟩,
  ⟨0x17048, 1, 0xFFFFF000, 0x0, 0x0, 0x0, 0x0, 0x0⟩,
  ⟨0x1704C, 1, 0x1F, 0x0, 0x0, 0x0, 0x0, 0x0⟩,
  ⟨0x17050, 1, 0x3FFFFFF, 0x0, 0x0, 0x0, 0x0, 0x0⟩,
  ⟨0x17054, 1, 0xFFFFFFFF, 0x0, 0x0, 0x0, 0x0, 0x1⟩,
  ⟨0x17058, 1, 0x0, 0x0, 0x0, 0x0, 0x0, 0x0⟩,
  ⟨0x1705C, 1, 0x0, 0x0, 0x0, 0xFFFFFFFF, 0x0, 0x0⟩,
  ⟨0x17060, 1, 0x0, 0x0, 0x0, 0x0, 0x0, 0x0⟩,
  ⟨0x17064, 1, 0x0, 0x0, 0x0, 0x0, 0x0, 0x0⟩,
  ⟨0x17068, 1, 0x0, 0x0, 0x0, 0x0, 0x0, 0x0⟩,
  ⟨0x17080, 1, 0x3F, 0x0, 0x0, 0x0, 0x0, 0x0⟩,
  ⟨0x170C0, 16, 0x0, 0x0, 0x0, 0x0, 0x0, 0x0⟩,
  ⟨0x17100, 1, 0x0, 0x1FFFFFF, 0x0, 0x0, 0x0, 0x0⟩,
  ⟨0x17104, 1, 0x0, 0xFFFFFFF, 0x0, 0x0, 0x0, 0x0⟩]

/-- Table 18.3, part 8. -/
def regRows7 : List RegSpec := [
  ⟨0x17108, 1, 0x0, 0xFFFFF000, 0x0, 0x0, 0x0, 0x0⟩,
  ⟨0x1710C, 1, 0x0, 0xFFFF, 0x0, 0x0, 0x0, 0x0⟩,
  ⟨0x17110, 1, 0x0, 0xFFFF, 0x0, 0x0, 0x0, 0x0⟩,
  ⟨0x17114, 1, 0x0, 0x3FFFFD, 0x0, 0x0, 0x0, 0x1A216C⟩,
  ⟨0x17118, 1, 0x0, 0xFFFFFFFF, 0x0, 0x0, 0x0, 0x40040⟩,
  ⟨0x1711C, 1, 0x0, 0xFF03FF, 0x0, 0x0, 0x0, 0x80040⟩,
  ⟨0x17120, 1, 0x0, 0xFFFFFFFF, 0x0, 0x0, 0x0, 0xF4240⟩,
  ⟨0x17124, 1, 0x0, 0x1FFFF, 0x0, 0x0, 0x0, 0x103E8⟩,
  ⟨0x17140, 1, 0x0, 0x0, 0x0, 0xFFFFFFFF, 0x0, 0x0⟩,
  ⟨0x17144, 1, 0x0, 0x0, 0x0, 0xFFFFFFFF, 0x0, 0x0⟩,
  ⟨0x17148, 1, 0x0, 0x0, 0x0, 0xFFFFFFFF, 0x0, 0x0⟩,
  ⟨0x1714C, 1, 0x0, 0x0, 0x0, 0xFFFFFFFF, 0x0, 0x0⟩,
  ⟨0x17150, 1, 0x0, 0x0, 0x0, 0xFFFFFFFF, 0x0, 0x0⟩,
  ⟨0x17154, 1, 0x0, 0x0, 0x0, 0xFFFFFFFF, 0x0, 0x0⟩,
  ⟨0x17158, 1, 0x0, 0x0, 0x0, 0xFFFFFFFF, 0x0, 0x0⟩,
  ⟨0x1715C, 1, 0x0, 0x0, 0x0, 0x0, 0x0, 0x0⟩,
  ⟨0x17160, 1, 0x0, 0x0, 0x0, 0xFFFFFFFF, 0x0, 0x0⟩,
  ⟨0x17164, 1, 0x0, 0x0, 0x0, 0xFFFFFFFF, 0x0, 0x0⟩,
  ⟨0x17168, 1, 0x0, 0x0, 0x0, 0xFFFFFFFF, 0x0, 0x0⟩,
  ⟨0x1716C, 1, 0x0, 0x0, 0x0, 0xFFFFFFFF, 0x0, 0x0⟩,
  ⟨0x17170, 1, 0x0, 0x0, 0x0, 0xFFFFFFFF, 0x0, 0x0⟩,
  ⟨0x17174, 1, 0x0, 0x0, 0x0, 0xFFFFFFFF, 0x0, 0x0⟩,
  ⟨0x18000, 1, 0x0, 0xFFFFFFFF, 0x0, 0x0, 0x0, 0x0⟩,
  ⟨0x18004, 1, 0x0, 0x3F3F3F, 0x0, 0x0, 0x0, 0x10101⟩]

/-- Table 18.3, part 9. -/
def regRows8 : List RegSpec := [
  ⟨0x18008, 1, 0x0, 0x7, 0x0, 0x0, 0x0, 0x6⟩,
  ⟨0x18040, 6, 0x0, 0xF, 0x0, 0x0, 0x0, 0x7⟩,
  ⟨0x18060, 6, 0x0, 0x0, 0x0, 0x0, 0x0, 0x0⟩,
  ⟨0x18080, 6, 0x0, 0x0, 0x0, 0x0, 0x0, 0x0⟩,
  ⟨0x180A0, 6, 0x0, 0x0, 0x0, 0xFFFFFFFF, 0x0, 0x0⟩,
  ⟨0x180C0, 6, 0x0, 0x0, 0x0, 0xFFFFFFFF, 0x0, 0x0⟩,
  ⟨0x180E0, 6, 0x0, 0x0, 0x0, 0xFFFFFFFF, 0x0, 0x0⟩,
  ⟨0x18100, 6, 0x0, 0x0, 0x0, 0xFFFF, 0x0, 0x0⟩,
  ⟨0x18120, 1, 0x0, 0x0, 0x0, 0xFFFFFFFF, 0x0, 0x0⟩,
  ⟨0x18124, 1, 0x0, 0x0, 0x0, 0xFFFFFFFF, 0x0, 0x0⟩,
  ⟨0x18128, 1, 0x0, 0x0, 0x0, 0xFFFFFFFF, 0x0, 0x0⟩,
  ⟨0x1812C, 1, 0x0, 0x0, 0x0, 0xFFFFFFFF, 0x0, 0x0⟩,
  ⟨0x18130, 1, 0x0, 0x0, 0x0, 0xFFFFFFFF, 0x0, 0x0⟩,
  ⟨0x18134, 1, 0x0, 0x0, 0x0, 0xFFFFFFFF, 0x0, 0x0⟩,
  ⟨0x18138, 1, 0x0, 0x0, 0x0, 0xFFFFFFFF, 0x0, 0x0⟩,
  ⟨0x18140, 1, 0x0, 0x0, 0x0, 0x0, 0x0, 0xE0⟩,
  ⟨0x18144, 1, 0x0, 0x1FFFFF, 0x0, 0x0, 0x0, 0x142086⟩,
  ⟨0x18148, 1, 0xFFFFFFFF, 0x0, 0x0, 0x0, 0x0, 0x0⟩,
  ⟨0x1814C, 1, 0xFFFFFFFF, 0x0, 0x0, 0x0, 0x0, 0x0⟩,
  ⟨0x18150, 1, 0x0, 0x0, 0x0, 0x0, 0x0, 0x0⟩,
  ⟨0x18154, 1, 0x0, 0x0, 0x0, 0x0, 0x0, 0x0⟩,
  ⟨0x18158, 1, 0x0, 0x0, 0x0, 0x0, 0x0, 0x0⟩,
  ⟨0x1815C, 1, 0x0, 0x0, 0x0, 0xFFFFFFFF, 0x0, 0x0⟩,
  ⟨0x18160, 1, 0x0, 0x0, 0x0, 0xFFFFFFFF, 0x0, 0x0⟩]

/-- Table 18.3, part 10. -/
def regRows9 : List RegSpec := [
  ⟨0x18164, 1, 0x0, 0x0, 0x0, 0xFFFFFFFF, 0x0, 0x0⟩,
  ⟨0x18180, 1, 0x0, 0x1FFF07FF, 0x0, 0x0, 0x0, 0x18300000⟩,
  ⟨0x18184, 1, 0x0, 0x0, 0x0, 0x0, 0x0, 0x320⟩,
  ⟨0x18188, 1, 0x0, 0x0, 0x0, 0x0, 0x0, 0x0⟩,
  ⟨0x1818C, 1, 0x0, 0x0, 0x0, 0x0, 0x0, 0x0⟩,
  ⟨0x18190, 1, 0x0, 0x0, 0x0, 0xFFFFFFFF, 0x0, 0x0⟩,
  ⟨0x19000, 1, 0x0, 0x7, 0x0, 0x0, 0x0, 0x7⟩,
  ⟨0x19004, 1, 0x0, 0x0, 0x0, 0x0, 0x0, 0x0⟩,
  ⟨0x19008, 1, 0x0, 0x0, 0x0, 0xFFFFFFFF, 0x0, 0x0⟩,
  ⟨0x1900C, 1, 0x0, 0x3, 0x0, 0x0, 0x0, 0x3⟩,
  ⟨0x19010, 1, 0x0, 0x0, 0x0, 0x0, 0x0, 0x0⟩,
  ⟨0x19014, 1, 0x0, 0x0, 0x0, 0xFFFFFFFF, 0x0, 0x0⟩,
  ⟨0x19018, 1, 0x0, 0x0, 0x0, 0xFFFFFFFF, 0x0, 0x0⟩,
  ⟨0x1901C, 1, 0x0, 0x0, 0x0, 0xFFFFFFFF, 0x0, 0x0⟩,
  ⟨0x19020, 1, 0x0, 0x0, 0x0, 0xFFFFFFFF, 0x0, 0x0⟩,
  ⟨0x19024, 1, 0x0, 0x0, 0x0, 0x0, 0x0, 0x0⟩,
  ⟨0x19028, 1, 0x0, 0x0, 0x0, 0x0, 0x0, 0x0⟩,
  ⟨0x1902C, 1, 0x0, 0x0, 0x0, 0xFFFFFFFF, 0x0, 0x0⟩,
  ⟨0x1A000, 1, 0x0, 0x0, 0x0, 0x0, 0x1F, 0x0⟩,
  ⟨0x1A004, 1, 0xFFFFFFFF, 0x0, 0x0, 0x0, 0x0, 0x0⟩,
  ⟨0x1A008, 1, 0xFFFFFFFF, 0x0, 0x0, 0x0, 0x0, 0x0⟩,
  ⟨0x1A00C, 1, 0xFFFFFFFF, 0x0, 0x0, 0x0, 0x0, 0x0⟩,
  ⟨0x1A010, 1, 0xFFFFFFFF, 0x0, 0x0, 0x0, 0x0, 0x0⟩,
  ⟨0x1A014, 1, 0x0, 0x0, 0x0, 0x0, 0x0, 0x0⟩]

/-- Table 18.3, part 11. -/
def regRows10 : List RegSpec := [
  ⟨0x1A018, 1, 0x0, 0x0, 0x0, 0x0, 0x0, 0x3⟩,
  ⟨0x1A01C, 2, 0x0, 0x0, 0x0, 0x0, 0x0, 0x0⟩,
  ⟨0x1A024, 1, 0x0, 0x0, 0x0, 0x0, 0x0, 0x0⟩,
  ⟨0x1A028, 1, 0x0, 0x0, 0x0, 0x0, 0x0, 0x0⟩,
  ⟨0x1A02C, 1, 0x0, 0x0, 0x0, 0xFFFFFFFF, 0x0, 0x0⟩,
  ⟨0x1A030, 1, 0x0, 0x0, 0x0, 0xFFFFFFFF, 0x0, 0x0⟩,
  ⟨0x1A034, 1, 0x0, 0x0, 0x0, 0xFFFFFFFF, 0x0, 0x0⟩,
  ⟨0x1A040, 16, 0x0, 0x0, 0x0, 0x0, 0x0, 0x0⟩,
  ⟨0x1A080, 16, 0x0, 0x0, 0x0, 0x0, 0x0, 0x0⟩,
  ⟨0x1B000, 1, 0x3FFF, 0xFF0000, 0x0, 0x0, 0x0, 0xB42710⟩,
  ⟨0x1B004, 1, 0x0, 0xFFFFFFFF, 0x0, 0x0, 0x0, 0x13881014⟩,
  ⟨0x1B008, 1, 0x0, 0x0, 0x0, 0x0, 0x0, 0x0⟩,
  ⟨0x1B00C, 1, 0x0, 0x0, 0x0, 0x0, 0x0, 0x0⟩,
  ⟨0x1B010, 1, 0x0, 0x0, 0x0, 0xFFFFFFFF, 0x0, 0x0⟩,
  ⟨0x1B014, 1, 0x0, 0x0, 0x0, 0xFFFFFFFF, 0x0, 0x0⟩,
  ⟨0x1B018, 1, 0x0, 0x0, 0x0, 0xFFFFFFFF, 0x0, 0x0⟩,
  ⟨0x1B01C, 1, 0x0, 0x0, 0x0, 0xFFFFFFFF, 0x0, 0x0⟩,
  ⟨0x1B020, 1, 0x0, 0xFFFF, 0x0, 0x0, 0x0, 0x2028⟩,
  ⟨0x1B024, 1, 0x0, 0x0, 0x0, 0xFFFFFFFF, 0x0, 0x0⟩,
  ⟨0x1B028, 1, 0x0, 0x0, 0x0, 0x0, 0x0, 0x20000000⟩,
  ⟨0x1B02C, 1, 0x0, 0x0, 0x0, 0x0, 0x0, 0x0⟩,
  ⟨0x1B030, 1, 0xFFFFFFFF, 0x0, 0x0, 0x0, 0x0, 0x0⟩,
  ⟨0x1B034, 1, 0xFFFFFFFF, 0x0, 0x0, 0x0, 0x0, 0x0⟩,
  ⟨0x1B038, 1, 0xFFFFFFFF, 0x0, 0x0, 0x0, 0x0, 0x0⟩]

/-- Table 18.3, part 12. -/
def regRows11 : List RegSpec := [
  ⟨0x1B03C, 1, 0xFFFFFFFF, 0x0, 0x0, 0x0, 0x0, 0x0⟩,
  ⟨0x1B040, 1, 0x0, 0xFFFF, 0x0, 0x0, 0x0, 0x64⟩,
  ⟨0x1B044, 4, 0x0, 0x0, 0x0, 0xFFFFFFFF, 0x0, 0x0⟩,
  ⟨0x1B054, 1, 0x7FF, 0x0, 0x0, 0x0, 0x0, 0x0⟩,
  ⟨0x1B058, 1, 0x0, 0x0, 0x0, 0x0, 0x0, 0x0⟩,
  ⟨0x1B05C, 1, 0x0, 0x3FFF, 0x0, 0x0, 0x0, 0x2432⟩,
  ⟨0x1B060, 1, 0x0, 0x0, 0x0, 0x0, 0x0, 0x7FF0320⟩,
  ⟨0x1B080, 16, 0x0, 0x1FFFF, 0x0, 0x0, 0x0, 0x1000⟩,
  ⟨0x1B0C0, 16, 0x0, 0x0, 0x0, 0x0, 0x0, 0x0⟩,
  ⟨0x1B100, 16, 0x0, 0x0, 0x0, 0x0, 0x0, 0x0⟩,
  ⟨0x1C000, 1, 0x0, 0xFFFF0003, 0x0, 0x0, 0x0, 0x1F40002⟩,
  ⟨0x1C004, 1, 0x0, 0x0, 0x0, 0xFFFFFFFF, 0x0, 0x0⟩,
  ⟨0x1C008, 1, 0x0, 0x0, 0x0, 0xFFFFFFFF, 0x0, 0x0⟩,
  ⟨0x1C00C, 1, 0x0, 0x0, 0x0, 0xFFFFFFFF, 0x0, 0x0⟩,
  ⟨0x1C010, 1, 0x0, 0x0, 0x0, 0xFFFFFFFF, 0x0, 0x0⟩,
  ⟨0x1C014, 1, 0x0, 0x0, 0x0, 0x0, 0xFFFFFFFF, 0x0⟩,
  ⟨0x1C018, 1, 0x0, 0x0, 0x0, 0x0, 0x3F, 0x0⟩,
  ⟨0x1C01C, 1, 0x0, 0x0, 0x0, 0xFFFFFFFF, 0x0, 0x0⟩,
  ⟨0x1C020, 1, 0x0, 0x0, 0x0, 0x0, 0x0, 0x0⟩,
  ⟨0x1C024, 1, 0x0, 0x0, 0x0, 0x0, 0x0, 0x0⟩,
  ⟨0x1C028, 1, 0x0, 0x0, 0x0, 0x0, 0x1, 0x0⟩,
  ⟨0x1C02C, 1, 0x0, 0x0, 0x0, 0x0, 0x0, 0x0⟩,
  ⟨0x1C030, 1, 0x0, 0x0, 0x0, 0x0, 0x0, 0x0⟩,
  ⟨0x1C034, 1, 0x0, 0x0, 0x0, 0x0, 0x0, 0x0⟩]

/-- Table 18.3, part 13. -/
def regRows12 : List RegSpec := [
  ⟨0x1C038, 1, 0x0, 0x0, 0x0, 0x0, 0x0, 0x0⟩,
  ⟨0x1C03C, 1, 0x0, 0x0, 0x0, 0x0, 0x0, 0x0⟩,
  ⟨0x1C040, 1, 0x3FF, 0x0, 0x0, 0x0, 0x0, 0x0⟩,
  ⟨0x1C044, 1, 0x0, 0x0, 0x0, 0x0, 0x0, 0x0⟩,
  ⟨0x1C048, 1, 0x0, 0x0, 0x0, 0x0, 0x0, 0x7FF⟩,
  ⟨0x1C04C, 1, 0x0, 0x0, 0x0, 0x0, 0x0, 0x0⟩,
  ⟨0x1C050, 1, 0xFFFFFFFF, 0x0, 0x0, 0x0, 0x0, 0x0⟩,
  ⟨0x1C054, 1, 0xFFFFFFFF, 0x0, 0x0, 0x0, 0x0, 0x0⟩,
  ⟨0x1C058, 1, 0xFFFFFFFF, 0x0, 0x0, 0x0, 0x0, 0x0⟩,
  ⟨0x1C05C, 1, 0xFFFFFFFF, 0x0, 0x0, 0x0, 0x0, 0x0⟩,
  ⟨0x1C060, 1, 0x0, 0x0, 0x0, 0x0, 0x0, 0x0⟩,
  ⟨0x1C064, 1, 0x0, 0x0, 0x0, 0x0, 0x0, 0x0⟩,
  ⟨0x1C068, 1, 0x0, 0x0, 0x0, 0x0, 0x0, 0x0⟩,
  ⟨0x1D000, 1, 0x0, 0x0, 0x0, 0x0, 0x0, 0x0⟩,
  ⟨0x1D004, 1, 0x0, 0x0, 0x0, 0x0, 0x0, 0x0⟩,
  ⟨0x1D008, 1, 0x0, 0x0, 0x0, 0x0, 0x0, 0x0⟩,
  ⟨0x1D00C, 1, 0x0, 0x0, 0x0, 0x0, 0x0, 0x0⟩,
  ⟨0x1D010, 1, 0x0, 0x0, 0x0, 0xFFFFFFFF, 0x0, 0x0⟩]

/-- Table 18.3, every register of the module. DESIGN CHOICE, safe: log entry 97. -/
def regTable : List RegSpec :=
  regRows0 ++ regRows1 ++ regRows2 ++ regRows3 ++ regRows4 ++ regRows5 ++ regRows6 ++ regRows7 ++ regRows8 ++ regRows9 ++ regRows10 ++ regRows11 ++ regRows12

/-- The register at an address, if there is one (R485). -/
def regSpec? (a : Nat) : Option RegSpec :=
  if a % 4 = 0 then regTable.find? fun r => decide (r.base ≤ a ∧ a < r.base + 4 * r.count) else none

/-- The reset value of the register at an address; zero where there is none. -/
def regReset (a : Nat) : Word :=
  match regSpec? a with
  | some r => r.reset
  | none => 0

/-- The power domain of the block an address lies in (Table 18.1). -/
def regDomain (a : Nat) : Nat :=
  if a < 0x11000 then 29
  else if a < 0x13000 then 28
  else if a < 0x14000 then 29
  else if a < 0x16000 then 28
  else if a < 0x17000 then 27
  else if a < 0x18000 then 29
  else if a < 0x18140 then 27
  else if a < 0x19000 then 29
  else if a < 0x1A000 then 26
  else 29

end Sys2Proof.Machine
end

