-- ==== Sys2Proof/Config.lean ====
section
/-!
DEFINITION. What one module fixes at manufacture, what the environment's cryptography answers, and the values the spec
leaves open. Every constant here is opaque: no proof can see its value, and a statement holds for every value of it.
A free value is drawn by applying `Config.freeBits` or `Config.freeBool` to the state's draw counter.
-/

namespace Sys2Proof

/-- A pin behind a boundary scan cell (R27) whose level the model holds, or another. -/
inductive BoardPin where
  | perstN
  | svcHoldN
  | slotAddr (bit : Fin 5)
  | smbAlertN
  | other
  deriving DecidableEq, Repr, Inhabited

namespace Config

/-- A free value: bits that the spec leaves open, for each draw number. -/
opaque freeBits : (n : Nat) → Nat → BitVec n
/-- A free truth value, for each draw number. -/
opaque freeBool : Nat → Bool
/-- The scalar output of the DRBG (Table 17.1), for each draw number. -/
opaque drbg : Nat → BitVec 8

/-- Year digits, week and sequence of the serial number (R38). DESIGN CHOICE, safe: log entry 124. -/
opaque serialYear : Fin 100
/-- Week of manufacture less one (R38). -/
opaque serialWeek : Fin 53
/-- Sequence of manufacture (R38). -/
opaque serialSeq : Fin 1000000

/-- The fused fmax of a physical glade, MHz (R426). -/
opaque fuseFmax : Nat → BitVec 11
/-- The fused minimum security version at manufacture (R465). -/
opaque fuseSvn : BitVec 16
/-- The SHA-512 digest of the firmware image as manufactured (Table 17.5). -/
opaque factoryDigest : List Byte
/-- A grove's fused core voltage at a frequency in MHz, in mV (R419). -/
opaque fusedVolt : Nat → Nat → BitVec 16
/-- The boot ROM version (Table 17.5). -/
opaque romVersion : BitVec 32
/-- A fused root key slot: the SHA-512 digest of its key (R465). -/
opaque rootSlot : Nat → List Byte
/-- Whether a fused root key slot is revoked (R465). -/
opaque rootRevoked : Nat → Bool
/-- The pin behind a cell of a TAP's boundary register (R27). DESIGN CHOICE, safe: log entry 18. -/
opaque boundaryPin : Nat → Nat → BoardPin
/-- The certificate chain of NOR region 0 (R468), up to the subject serialNumber of the identity certificate. -/
opaque certBefore : List Byte
/-- The certificate chain after that serialNumber. -/
opaque certAfter : List Byte
/-- The set of a granule look-aside buffer that a granule table entry belongs to (R302). DESIGN CHOICE, safe: log entry 106. -/
opaque glbSet : Nat → Nat
/-- Whether the generator of a degraded stack or channel takes modes 1 to 3, as R318 has it, or scrub-read only, as R295
has it. DESIGN CHOICE, safe: log entry 103. -/
opaque degradedModes : Bool

/-- What a read of the module's own finds at a device range address that no region or mapped granule holds.
DESIGN CHOICE, safe: log entry 107. -/
opaque unmapped : Nat → Byte
/-- The lane number that decorrelates a canopy product of a query head, a slot and a dimension (R149, R206).
DESIGN CHOICE, safe: log entry 71. -/
opaque canopyLane : Nat → Nat → Nat → BitVec 10
/-- The data pattern of a traffic generator: pattern 0 to 2, seed, channel-local byte address (Table 11.12).
DESIGN CHOICE, safe: log entry 103. -/
opaque tgPattern : Nat → Nat → Nat → Byte
/-- SHA-512. DESIGN CHOICE, safe: log entry 15. -/
opaque sha512 : List Byte → List Byte
/-- RSA-4096 PSS verification with SHA-512: key (512-byte modulus, 4-byte exponent), message, signature. -/
opaque rsaVerify : List Byte → List Byte → List Byte → Bool
/-- A PSS signature by the identity key over a message; PSS salts are drawn (draw number). -/
opaque rsaSign : List Byte → Nat → List Byte
/-- RSA-OAEP decryption under the wrap key. -/
opaque oaepOpen : List Byte → Option (List Byte)
/-- AES-256-GCM: key, IV, additional data, plaintext; the ciphertext and the 16-byte tag. -/
opaque gcmSeal : List Byte → List Byte → List Byte → List Byte → List Byte × List Byte
/-- AES-256-GCM opening: key, IV, additional data, ciphertext, tag. -/
opaque gcmOpen : List Byte → List Byte → List Byte → List Byte → List Byte → Option (List Byte)
/-- A Zstandard frame of some content under R387. -/
opaque zstdEncode : List Byte → List Byte
/-- The content of a Zstandard frame accepted under R387 or R393. -/
opaque zstdDecode : List Byte → Option (List Byte)

end Config

/-- The decimal digits of a number, `n` of them. -/
def digits : Nat → Nat → List Byte
  | 0, _ => []
  | n + 1, x => digits n (x / 10) ++ [BitVec.ofNat 8 (48 + x % 10)]

/-- The serial number (R38): "MD", YYWW and the sequence. -/
def serialBytes : List Byte :=
  asciiBytes "MD" ++ digits 2 Config.serialYear.val ++ digits 2 (Config.serialWeek.val + 1) ++ digits 6 Config.serialSeq.val

/-- The certificate chain of NOR region 0 (R468); its identity certificate carries the serial number (R38). -/
def certChain : List Byte := Config.certBefore ++ serialBytes ++ Config.certAfter

end Sys2Proof
end

