-- ==== Sys2Proof/Machine/StateBoard.lean ====
section
/-!
DEFINITION. What the board, the power system and the Ranger's records hold: input supply, reset pins, power sequence and
SMBus (R11 to R36), the Warden and the idle states (R414 to R437), the fault queue, the lifetime records and the
calendar (R438 to R464). Plain data.
-/

namespace Sys2Proof.Machine

/-- Which zone the input last fell into or rose into (Table 1.2, R14 to R16). `ok`: no warning pending; `warned`: fell
below 57 V and has not recovered; `recovering`: back above 58.5 V, grove clocks still gated; `under`: fell below 56 V;
`cutoff`: fell below 40 V; `over`: above 82 V. DESIGN CHOICE, safe: log entry 19. -/
inductive InputZone where
  | ok
  | warned
  | recovering
  | under
  | cutoff
  | over
  deriving DecidableEq, Repr

/-- Who is connected to the SPI NOR (R29). -/
inductive FlashMaster where
  | ranger
  | header
  | nobody
  deriving DecidableEq, Repr

/-- Where the power sequence of Table 1.3 stands (R17 to R19, R33, R35, R36): not running; due to begin at step 1 or
step 3; step `n` in progress, its rails raised, with the grove in turn at step 8; or due to run in reverse (R36). -/
inductive PowerSeq where
  | idle
  | due (step : Nat)
  | up (step grove : Nat)
  | down
  deriving DecidableEq, Repr

/-- The board. `vin` in 10 mV, `pins` the input power reports of the last 1 ms in 0.1 W, newest first; `hottest` the
hottest junction; `inRange` the regulator reports in a row with the input in range (R15); `rangerLog` the failing steps
and rails (R17); `bootRom`: the Ranger stays in its ROM (R465). SMBus (R31, R495): the bytes of the last answer, whether
the last byte was not acknowledged, the window pointer and the window's RING_HI latch. JTAG (R27): the bits shifted out
last, the cells preloaded for EXTEST in each TAP, and the pins driven by it. `cool`: the hottest die junction has been below 40 °C
since it last rose through 60 °C (Table 16.6). -/
structure Board where
  vin : BitVec 16
  zone : InputZone
  perstN : Bool
  svcHoldN : Bool
  ga : BitVec 5
  rangerReset : Bool
  flash : FlashMaster
  status : Byte
  wet : Bool
  on : BitVec 30
  asleep : BitVec 30
  seq : PowerSeq
  inRange : Nat
  rangerLog : List (Nat × Nat)
  pins : List (BitVec 16)
  hottest : Byte
  cool : Bool
  bootRom : Bool
  smbAnswer : List Byte
  smbNack : Bool
  winPtr : Nat
  winLatch : SMap Word
  jtagOut : List Bool
  cells : SMap (List Bool)
  driven : SMap (List Bool)
  deriving DecidableEq, Repr

/-- The groves are clock-gated for a power-fail warning (R14, R15). -/
def Board.grovesGated (b : Board) : Bool := decide (b.zone = .warned) || decide (b.zone = .recovering)

/-- No SPI NOR program or erase operation may start (R14). -/
def Board.norHold (b : Board) : Bool := decide (b.zone = .warned) || decide (b.zone = .under)

/-- The board at the rise of PERST_N (R488): input at 72 V, the Ranger domain up, the sequence due at step 1. The slot
address pins are pulled up (Table 1.4). PRESUMED, unsafe: log entry 12. -/
def Board.init : Board :=
  { vin := 7200, zone := .ok, perstN := true, svcHoldN := true, ga := 0x1F, rangerReset := false, flash := .ranger,
    status := 0, wet := false, on := 0x20000000, asleep := 0, seq := .due 1, inRange := 0, rangerLog := [], pins := [],
    hottest := 25, cool := false, bootRom := false, smbAnswer := [], smbNack := false, winPtr := 0, winLatch := [],
    jtagOut := [], cells := [], driven := [] }

/-- A hint of the Warden's table (R423). -/
structure Hint where
  start : DWord
  dur : BitVec 32
  mask : BitVec 16
  preset : BitVec 3
  id : Byte
  deriving DecidableEq, Repr

/-- An operating-point record that waits for its period (R425). -/
structure OpWait where
  at_ : DWord
  mask : BitVec 16
  op : BitVec 3
  id : Byte
  deriving DecidableEq, Repr

/-- What the Warden holds of one grove (Table 15.7, R416 to R424). `raising`: issue not widened yet, at the old point;
`rail`: the core rail in mV as it stood at ring count `railAt` (R419, R420). -/
structure GrovePower where
  op : BitVec 3
  floor : BitVec 3
  pref : BitVec 3
  seen : BitVec 3
  share : BitVec 16
  report : BitVec 16
  raising : Option (BitVec 3)
  droops : Nat
  stretched : Bool
  railUp : Bool
  rail : BitVec 16
  railAt : DWord
  deriving DecidableEq, Repr

/-- A grove after its domain rose. -/
def GrovePower.init : GrovePower :=
  { op := 0, floor := 0, pref := 0, seen := 0, share := 0, report := 0, raising := none, droops := 0, stretched := false,
    railUp := false, rail := 0, railAt := 0 }

/-- What the module holds of one physical glade (R426 to R428, R443, R457): the current fmax if the monitor has
reported since the grove rose, the marginal mark with the ring count at which its grace ends, whether it has failed, and
the ageing code of the lifetime records. -/
structure PhysGlade where
  cur : Option (BitVec 11)
  marginal : Bool
  graceEnd : Option DWord
  inFmax : Bool
  failed : Bool
  ageing : BitVec 11
  deriving DecidableEq, Repr

/-- A physical glade of which nothing is known. -/
def PhysGlade.init : PhysGlade :=
  { cur := none, marginal := false, graceEnd := none, inFmax := false, failed := false, ageing := 0x7FF }

/-- The power system. `therm`: the thermal floors of dies 0 to 3; `rails`: the latest report of every rail of every
domain, and `missing`: for how many periods in a row it has not changed (R415); `pin`, `png`, `pool`: as Table 15.7 shows
them; `fracBad`: R418 raises every floor to 7. Idle states (R430 to R436): the state, the armed suspend and resume
steps, whether stepping is suspended, whether a wake is held, and the ring count at which it reached S0. -/
structure Power where
  groves : SMap GrovePower
  phys : SMap PhysGlade
  therm : List (BitVec 3)
  hints : List Hint
  opWaits : List OpWait
  rails : List (List (BitVec 16))
  missing : List (List Nat)
  pin : BitVec 16
  png : BitVec 16
  pool : BitVec 16
  fracBad : Bool
  state : BitVec 3
  suspArmed : Option DWord
  resArmed : Option DWord
  suspended : Bool
  wakeHeld : Bool
  wakeRing : Option DWord
  deriving DecidableEq, Repr

/-- The power system after reset (Table 15.7, R453). -/
def Power.init : Power :=
  { groves := [], phys := [], therm := List.replicate 4 0, hints := [], opWaits := [], rails := [], missing := [],
    pin := 0, png := 0, pool := 0, fracBad := false, state := 0, suspArmed := none, resArmed := none,
    suspended := false, wakeHeld := false, wakeRing := none }

/-- A fault record before it is laid out (Table 16.1). -/
structure FaultRec where
  cls : Byte
  cause : Byte
  flags : Byte
  attempt : BitVec 2
  owner : BitVec 12
  plot : Byte
  ring : DWord
  step : DWord
  glade : BitVec 10
  rep : BitVec 16
  seq : BitVec 32
  index : BitVec 16
  epoch : BitVec 16
  pc : BitVec 32
  detail : List Byte
  deriving DecidableEq, Repr

/-- A history entry that waits to be written (R458); `isModule`: of a module-wide record (R438). -/
structure HistEvent where
  isModule : Bool
  kind : Byte
  unit : BitVec 16
  ring : DWord
  cal : DWord
  detail : DWord
  deriving DecidableEq, Repr

/-- The counters of a lifetime snapshot that are not kept elsewhere (Table 16.6). -/
structure LifeCounts where
  pon : DWord
  energy : DWord
  energyFrac : Nat
  pons : BitVec 32
  tcyc : BitVec 32
  replays : BitVec 32
  steps : DWord
  trips : BitVec 32
  gfail : BitVec 32
  pfail : BitVec 32
  rfault : BitVec 32
  leak : BitVec 32
  ovolt : BitVec 32
  stkCe : List (BitVec 32)
  stkUe : List (BitVec 32)
  stkWeak : List (BitVec 16)
  stkRep : List Byte
  stkSusp : List Byte
  uchUe : List (BitVec 32)
  fec : SMap (BitVec 32)
  deriving DecidableEq, Repr

/-- The lifetime counters when no valid snapshot exists (R456). -/
def LifeCounts.zero : LifeCounts :=
  { pon := 0, energy := 0, energyFrac := 0, pons := 0, tcyc := 0, replays := 0, steps := 0, trips := 0, gfail := 0,
    pfail := 0, rfault := 0, leak := 0, ovolt := 0, stkCe := List.replicate 8 0, stkUe := List.replicate 8 0,
    stkWeak := List.replicate 8 0, stkRep := List.replicate 8 0, stkSusp := List.replicate 8 0,
    uchUe := List.replicate 16 0, fec := [] }

/-- A unit that the history log keeps in force (R459): its entry type, unit and detail. -/
structure InForce where
  kind : Byte
  unit : BitVec 16
  detail : DWord
  deriving DecidableEq, Repr

/-- Dependability: logical glades that a remap has moved and that are not refilled yet (R196), the fault queue and window (R438 to R440, R493), lifetime records (R455 to R459, R463) and the
calendar (R460 to R462). -/
structure Depend where
  refills : List (BitVec 10)
  remaps : List (BitVec 10)
  queue : List FaultRec
  latched : Bool
  window : List Byte
  popmiss : Bool
  seq : BitVec 32
  life : LifeCounts
  lifeStat : BitVec 3
  snapSeq : BitVec 32
  snapSub : Nat
  newest : List Byte
  wear : BitVec 32
  nor : BitVec 32
  histQueue : List HistEvent
  histAt : Nat
  inForce : List InForce
  calState : BitVec 2
  calSet : DWord
  calAt : DWord
  deriving DecidableEq, Repr

/-- Dependability before the power-on sequence has read the lifetime records (Table 16.8, R453). -/
def Depend.init : Depend :=
  { refills := [], remaps := [], queue := [], latched := false, window := zeroBytes 64, popmiss := false, seq := 0, life := .zero,
    lifeStat := 0, snapSeq := 0, snapSub := 0, newest := [], wear := 0x7FF, nor := 0, histQueue := [], histAt := 0,
    inForce := [], calState := 0, calSet := 0, calAt := 0 }

end Sys2Proof.Machine
end

