-- ==== Sys2Proof/Machine/StateFabric.lean ====
section
/-!
DEFINITION. What the Skajor ports, the fabric router, the ring count and the stand frequency hold (R327 to R360).
Plain data.
-/

namespace Sys2Proof.Machine

/-- A fabric message that waits to enter a port's stream, or an item sent: its words and payload as bytes. -/
abbrev Item := List Byte

/-- A measurement in progress (R350): the sequence and t1, in 1/256 rt. -/
structure PhaseAsk where
  seq : Byte
  t1 : DWord
  hi : Byte
  deriving DecidableEq, Repr

/-- One Skajor port. Block numbers are those of R330: the next one to send, the oldest unacknowledged one, and the next
one expected; `txFill`: bytes of the stream in the block being filled; `rxSince`: blocks received since the last link status
was sent; `resendFrom`: the block from which a replay request made the port resend. `rxLane`, `txLane`: the active lane of the
receive and of the transmit direction. `fbrk`: the neighbour announced another slice (R343). `credits`, `used`, `returned`:
64-byte units, cumulative, that the neighbour has returned, that messages sent have taken, and that this port has returned
(R328). `out`: items that have entered the stream; `waiting`: items that wait for blocks to be acknowledged (R330).
`idleFar`: the neighbour has said that its optics go idle (R433). -/
structure Port where
  live : Bool
  fbrk : Bool
  ver : BitVec 2
  spareBad : Bool
  cabling : Bool
  vfault : Bool
  fbmis : Bool
  nalgn : Bool
  nbrAddr : BitVec 24
  nbrSlice : Byte
  txNext : BitVec 16
  txOld : BitVec 16
  rxNext : BitVec 16
  discarding : Bool
  txLane : Bool
  rxLane : Bool
  laneDown : List Bool
  retraining : Option Bool
  badBlocks : List (BitVec 16)
  credits : Nat
  used : Nat
  returned : BitVec 24
  txFill : Nat
  rxSince : Nat
  resendFrom : Option (BitVec 16)
  out : List Item
  waiting : List Item
  downSeen : Bool
  idleFar : Bool
  ask : Option PhaseAsk
  lastAsk : DWord
  seqOut : Byte
  nbrFreq : BitVec 12
  deriving DecidableEq, Repr

/-- A port before training. -/
def Port.init : Port :=
  { live := false, fbrk := false, ver := 0, spareBad := false, cabling := false, vfault := false, fbmis := false,
    nalgn := false, nbrAddr := 0, nbrSlice := 0, txNext := 0, txOld := 0, rxNext := 0, discarding := false,
    txLane := false, rxLane := false, laneDown := [false, false], retraining := none, badBlocks := [], credits := 0,
    used := 0, returned := 0, txFill := 0, rxSince := 0, resendFrom := none, out := [], waiting := [], downSeen := false, idleFar := false, ask := none, lastAsk := 0, seqOut := 0, nbrFreq := 0 }

/-- A send that the source router keeps (R336): its descriptor's bytes, the sender, the
form and block count of an elided row, and whether it has been resent. -/
structure KeptSend where
  dst : BitVec 24
  desc : List Byte
  xslot : Byte
  mslot : BitVec 12
  tstep : BitVec 16
  glade : BitVec 10
  plot : BitVec 6
  resent : Bool
  seq : BitVec 32
  shape : Option (Nat × Nat)
  deriving DecidableEq, Repr

/-- A set bit of a delivery map (R334): exchange slot, target step mod 2¹⁶, message slot. -/
structure Delivered where
  xslot : Byte
  tstep : BitVec 16
  mslot : BitVec 12
  deriving DecidableEq, Repr

/-- A message whose check failed once and for which a resend request was sent (R336): its source and slot. -/
structure AskedResend where
  src : BitVec 24
  slot : Delivered
  deriving DecidableEq, Repr

/-- The fabric router. `asked`: messages whose resend has been requested, a second failure of which is only reported. -/
structure Fabric where
  ports : List Port
  kept : List KeptSend
  delivered : List Delivered
  asked : List AskedResend
  rangerLog : List (BitVec 24)
  deriving DecidableEq, Repr

/-- The fabric router after reset. -/
def Fabric.init : Fabric := { ports := List.replicate 6 .init, kept := [], delivered := [], asked := [], rangerLog := [] }

/-- Ring states (Table 12.9). -/
inductive RingMode where
  | free
  | locl
  | aligned
  | holdover
  | fault
  deriving DecidableEq, Repr

/-- A lower item that waits for its apply count (R356). -/
structure LowerWait where
  value : BitVec 12
  at_ : DWord
  deriving DecidableEq, Repr

/-- The ring count (R347 to R354) and the stand frequency (R355 to R357). `okRun`: measurements in a row within tol.
`localAt`: the local count at which LOCAL was entered, or an ALIGNED neighbour was seen last. `faulted`: FAULT has been
entered since the count was last ALIGNED (R462). -/
structure Ring where
  lc : DWord
  delta : DWord
  phi : BitVec 8
  mode : RingMode
  rref : Bool
  oref : Bool
  marker : Bool
  loaded : Bool
  rejoin : Bool
  port : BitVec 3
  armed : Bool
  okRun : Nat
  localAt : DWord
  lossAt : DWord
  ofs : BitVec 32
  dly : BitVec 32
  cur : BitVec 11
  held : Bool
  pend : BitVec 11
  pendAt : DWord
  pendFromRounds : Bool
  roundV : BitVec 12
  roundA : DWord
  roundI : Nat
  roundOn : Bool
  lowers : List LowerWait
  preRaised : Bool
  faulted : Bool
  deriving DecidableEq, Repr

/-- The ring at reset: FREE, count 0 (R347, R453); 800 MHz (R357). -/
def Ring.init : Ring :=
  { lc := 0, delta := 0, phi := 0, mode := .free, rref := true, oref := true, marker := false, loaded := false,
    rejoin := false, port := 7, armed := false, okRun := 0, localAt := 0, lossAt := 0, ofs := 0, dly := 0, cur := 800,
    held := false, pend := 0, pendAt := 0, pendFromRounds := false, roundV := 0, roundA := 0, roundI := 0,
    roundOn := false, lowers := [], preRaised := false,
    faulted := false }

end Sys2Proof.Machine
end

