-- ==== Sys2Proof/Machine/StateMemory.lean ====
section
/-!
DEFINITION. What the memory tiers hold (R290 to R326): the bytes of the stacks and of the understory, the regions and the
granule table of the stand image, moves, repairs, traffic generators and training. Plain data.
-/

namespace Sys2Proof.Machine

/-- A region of the device range (Table 11.6). Sizes and offsets in 4 KiB units; `place`: 0 STACK, 1 UNDER, 2 MIGRATE. -/
structure Region where
  base : BitVec 48
  size : BitVec 32
  kind : BitVec 2
  place : BitVec 2
  ro : Bool
  mirror : Bool
  hrep : Bool
  leaseWr : Bool
  gran : BitVec 13
  plots : BitVec 64
  smask : BitVec 8
  umask : BitVec 16
  sOff : BitVec 32
  sLen : BitVec 32
  uOff : BitVec 32
  uLen : BitVec 32
  mOff : BitVec 32
  gt0 : BitVec 32
  deriving DecidableEq, Repr

/-- A granule table entry (Table 11.7). -/
structure Granule where
  slot : BitVec 28
  under : Bool
  valid : Bool
  moving : Bool
  dirty : Bool
  count : BitVec 16
  hint : BitVec 2
  hexp : DWord
  deriving DecidableEq, Repr

/-- An unmapped granule. -/
def Granule.init : Granule :=
  { slot := 0, under := false, valid := false, moving := false, dirty := false, count := 0, hint := 0, hexp := 0 }

/-- A move in progress (R314): the region, the granule in it, and the destination pool and slot. -/
structure Move where
  region : Nat
  gran : Nat
  toUnder : Bool
  slot : BitVec 28
  deriving DecidableEq, Repr

/-- Where the repair of a block stands (R320, R321, R323). `verify`: written back, to be read again; from the mirror or
from the host. `failed`: declared failed. -/
inductive RepairStep where
  | retry
  | mirror
  | host
  | verify (fromHost : Bool)
  | failed
  deriving DecidableEq, Repr

/-- How a block under repair is checked: TP5 or W8 with a check value, TS16 with a check value, a TVQ block, a TVQ
codebook, or a patrol block, whose check value the spec does not place. -/
inductive BlockCheck where
  | value (v : Word)
  | tp5 (v : Word)
  | ts16 (v : Word)
  | tvq
  | tvqIn (width : Nat) (entries : List (BitVec 16))
  | codebook
  | patrol
  deriving DecidableEq, Repr

/-- An entry of the repair table (R322): the block, how it is checked, whether the copy that failed is the mirror's (R325),
where its repair stands, since when the host has been asked, whether the other copy failed too, the cause once it has
failed, and the plots told. -/
structure RepairEntry where
  region : Nat
  off : Nat
  len : Nat
  chk : BlockCheck
  ofMirror : Bool
  step : RepairStep
  asked : DWord
  mirrorBad : Bool
  cause : Nat
  told : List (BitVec 6)
  deriving DecidableEq, Repr

/-- A traffic generator and checker (R318, Table 11.12). -/
structure TgUnit where
  mode : BitVec 3
  pattern : BitVec 3
  order : BitVec 2
  loop : Bool
  base : BitVec 37
  len : BitVec 26
  seed : Word
  busy : Bool
  stopping : Bool
  done : Bool
  refused : Bool
  err : Bool
  passes : BitVec 16
  errCount : Word
  faddr : BitVec 37
  fbits : Word
  deriving DecidableEq, Repr

/-- A generator after reset. -/
def TgUnit.init : TgUnit :=
  { mode := 0, pattern := 0, order := 0, loop := false, base := 0, len := 0, seed := 1, busy := false, stopping := false,
    done := false, refused := false, err := false, passes := 0, errCount := 0, faddr := 0, fbits := 0 }

/-- A stack as MEM_STKs shows it: state 0 off, 1 training, 2 in service, 3 degraded. -/
structure StackState where
  state : BitVec 2
  slow : Bool
  repairs : Byte
  temp : Byte
  deriving DecidableEq, Repr

/-- A stack that is off. -/
def StackState.init : StackState := { state := 0, slow := false, repairs := 0, temp := 0 }

/-- A lane of a stack that a repair has replaced (R294): stack, pseudo-channel, lane. -/
structure LaneRepair where
  stack : Nat
  pc : Nat
  lane : Nat
  deriving DecidableEq, Repr

/-- A read that waits for a block under repair, other than a MEM.RD's or a FAB.SEND's, which their transfers keep (R322): the
plot of the instruction that reads, if it is a plot's, and the extent. -/
structure HeldRead where
  plot : Option (BitVec 6)
  addr : Nat
  len : Nat
  deriving DecidableEq, Repr

/-- The slot on which a granule stood when a request was translated (R314): region, granule in it, pool and slot. -/
structure SlotHold where
  region : Nat
  gran : Nat
  under : Bool
  slot : BitVec 28
  deriving DecidableEq, Repr

/-- Corrected errors of a stack lane in the present lifetime persistence interval (R297). -/
structure LaneErrors where
  stack : Nat
  pc : Nat
  lane : Nat
  count : Nat
  deriving DecidableEq, Repr

/-- The memory tiers. `phys`: the bytes of stack s at s·2³⁷ and of understory channel c at (8 + c)·2³⁷. `errors`: device
addresses that the error history holds (R308). `weak`: where blocks marked weak start in `phys` (R321). `hinted`: granule
table indices in the order of hinting. `visits`: granules that the migration engine has still to visit. `copies`: when
and how many bytes the engine copied. `held`: reads that wait (R322). `late`: bytes written to a block under repair, which
wait for its end (R322). `glb`: the granule look-aside buffers (R302), granule table indices by die and set, the set `k` of
die `d` at 512·d + k. `laneErrs`: corrected errors by lane since the ring count `laneFrom` (R297). -/
structure Memory where
  phys : SMap Byte
  regions : List (Nat × Region)
  granules : SMap Granule
  hinted : List Nat
  visits : List (Nat × Nat)
  moves : List Move
  copies : List (DWord × Nat)
  halved : Nat
  repairs : List RepairEntry
  weak : List Nat
  errors : List Nat
  tg : SMap TgUnit
  stks : List StackState
  uch : List (BitVec 2)
  uslow : BitVec 16
  laneRepairs : List LaneRepair
  retrain : Bool
  patrolAt : Nat × Nat × Bool
  patrolDue : DWord
  held : List HeldRead
  late : List (Nat × Byte)
  glb : SMap (List Nat)
  laneErrs : List LaneErrors
  laneFrom : DWord
  deriving DecidableEq, Repr

/-- The staging region (R396): the top 640 units of every stack. It is none of the 64 regions of an image and has the
number 64 here; it permits no plot. -/
def stagingRegion : Region :=
  { base := 0xFFFFFEC00000, size := 5120, kind := 3, place := 0, ro := false, mirror := false, hrep := false,
    leaseWr := false, gran := 0, plots := 0, smask := 0xFF, umask := 0, sOff := 18873728, sLen := 640, uOff := 0,
    uLen := 0, mOff := 0, gt0 := 0 }

/-- The memory tiers after reset: nothing trained, no region but the staging region. -/
def Memory.init : Memory :=
  { phys := [], regions := [(64, stagingRegion)], granules := [], hinted := [], visits := [], moves := [], copies := [], halved := 0,
    repairs := [], weak := [], errors := [], tg := [], stks := List.replicate 8 .init, uch := List.replicate 16 0,
    uslow := 0, laneRepairs := [], retrain := false, patrolAt := (0, 0, false), patrolDue := 0, held := [],
    late := [], glb := [], laneErrs := [], laneFrom := 0 }

end Sys2Proof.Machine
end

