-- ==== Sys2Proof/Machine/StateGlade.lean ====
section
/-!
DEFINITION. What one glade holds (R166 to R199, R85 to R111, R140 to R157) and what travels on the mesh (R185).
Plain data. A table `SMap α` lists only the entries that differ from its default.
-/

namespace Sys2Proof.Machine

/-- The state of an accumulator tile (Table 4.4). -/
inductive TileMode where
  | free
  | opened
  | draining
  | hia
  deriving DecidableEq, Repr

/-- A tile's tags: the activation form, the anchor, S_acc (together the precision tag) and the layer tag, in the
widths of the tags word of R96. -/
structure Tags where
  form : BitVec 2
  eLo : BitVec 5
  sAcc : BitVec 10
  layer : BitVec 10
  deriving DecidableEq, Repr

/-- A contribution that an ordered tile holds staged (R98): its slot in the staging area, the sender, the sender's
issue sequence, the counter it names, and the sender's plot and attempt. `outside`: sent from another module, of the
rank given (R345). -/
structure StagedItem where
  slot : Nat
  src : BitVec 10
  seq : BitVec 32
  ctr : BitVec 6
  plot : BitVec 6
  rank : Option (BitVec 16)
  deriving DecidableEq, Repr

/-- The ordered-target part of a tile (R98): E, the staging area, the tile's place in it, how many contributions have
arrived, whether the batch has been applied, and what is staged. -/
structure OrderedTile where
  expect : Nat
  stage : BitVec 16
  place : Nat
  arrived : Nat
  applied : Bool
  staged : List StagedItem
  deriving DecidableEq, Repr

/-- One accumulator tile (R91). `lanes = []` stands for 128 zero lanes. -/
structure Tile where
  mode : TileMode
  tags : Tags
  lanes : List L48
  satFlag : Bool
  satCnt : BitVec 16
  zeroCnt : BitVec 16
  ordered : Option OrderedTile
  deriving DecidableEq, Repr

/-- A FREE tile. -/
def Tile.init : Tile :=
  { mode := .free, tags := { form := 0, eLo := 0, sAcc := 0, layer := 0 }, lanes := [], satFlag := false, satCnt := 0,
    zeroCnt := 0, ordered := none }

/-- Staged contributions that an abandonment keeps for the replay (R442 step 3 and step 5). -/
structure KeptStage where
  tile : Nat
  expect : Nat
  stage : BitVec 16
  place : Nat
  staged : List StagedItem
  deriving DecidableEq, Repr

/-- One entry of the hash-indexed accumulator, listed in the order of allocation: its tile and its key (R101, R102). -/
structure HiaEntry where
  tile : Nat
  key : Word
  deriving DecidableEq, Repr

/-- The hash-indexed accumulator of a glade (R101 to R104). -/
structure Hia where
  first : Nat
  count : Nat
  tags : Tags
  entries : List HiaEntry
  spPtr : Nat
  spLim : Nat
  deriving DecidableEq, Repr

/-- A weight tile in a thicket buffer: dense (TP5 or TVQ) as base-3 digits in tile order, or TS16 as the 48-bit groups
of R57 in the order of R59. An empty list is the all-zero tile of R85. -/
inductive WeightTile where
  | dense (transposed : Bool) (digits : List (BitVec 2))
  | sparse (transposed : Bool) (groups : List (BitVec 48))
  deriving DecidableEq, Repr

/-- The all-zero TP5 tile (R85). -/
def WeightTile.zero : WeightTile := .dense false []

/-- The codebook record that the expander holds (R121): the scratchpad address it was read from and the record's
words: the code width and the entries. -/
structure HeldCodebook where
  addr : Nat
  width : Nat
  entries : List (BitVec 16)
  number : Byte
  deriving DecidableEq, Repr

/-- What the control processor of a glade is doing (R166, R181 to R183, R192).
`idle`: before its first step start. `running`. `waitCtr`: AC.WAIT, or XC.WAIT after its ring count, `late` when the
counter was short at that count. `waitTime`: XC.WAIT before its ring count. `waitLease`: a lease request whose answer
goes to register `d`. `ended`: STEP.END executed. `stopped`: a fault or an abandonment stopped it. -/
inductive CpuMode where
  | idle
  | running
  | waitCtr (ctr : BitVec 6) (target : BitVec 16) (late : Bool)
  | waitTime (till : DWord) (ctr : BitVec 6) (target : BitVec 16)
  | waitLease (d : BitVec 5)
  | ended
  | stopped
  deriving DecidableEq, Repr

/-- A receive window (R187): first and last 8-byte unit, inclusive, and the mask of permitted plots; mask 0 = unused. -/
structure Window where
  first : BitVec 16
  last : BitVec 16
  plots : BitVec 64
  deriving DecidableEq, Repr

/-- A resident region of a glade (R196, Table 14.5). -/
structure Resident where
  spa : BitVec 16
  len : BitVec 16
  src : BitVec 48
  deriving DecidableEq, Repr

/-- An entry of a glade's engine or transfer queues: the program store address of the instruction, its opcode, its
instruction words, and the values read at issue: the count N of an engine instruction (R282), the scalar values that a
transfer instruction names (R172, R225, R261). -/
structure QueuedInstr where
  pc : Nat
  op : Byte
  words : BitVec 128
  args : List DWord
  deriving DecidableEq, Repr

/-- A memory transfer that has started and not completed (R173): a MEM.RD or MEM.WR, its fields, and the extent, or, with
`send`, a FAB.SEND that reads its payload from the device range (R333): `spa` is then its descriptor's scratchpad address.
`waiting`: the device addresses of the blocks it waits for (R322); `good`: those that a repair has delivered (R320);
`slots`: where granules stood when it was translated (R314). -/
structure Transfer where
  write : Bool
  spa : Nat
  len : Nat
  ctr : BitVec 6
  chk : BitVec 2
  addr : Nat
  table : Nat
  data : List Byte
  pc : Nat
  good : List Nat
  waiting : List Nat
  send : Option KeptSend
  slots : List SlotHold
  deriving DecidableEq, Repr

/-- Scratchpad bytes `lo` to `hi − 1` that something other than the control processor has written and that a control
processor load has not yet been ordered after (R168): the queue of the writer, by its bit in the mask of ENG.FENCE
(0 thicket, 1 serial product, 2 transfer, 3 bole), and the counter that the write increments. -/
structure Unseen where
  queue : Option (BitVec 2)
  ctr : Option (BitVec 6)
  lo : Nat
  hi : Nat
  deriving DecidableEq, Repr

/-- Where the bytes `lo` to `hi − 1` of a scratchpad came from (R117): a MEM.RD with a check, its extent in the
scratchpad, its device range address, its kind of check and its check table. -/
structure SourceRun where
  lo : Nat
  hi : Nat
  spa : Nat
  len : Nat
  addr : Nat
  chk : BitVec 2
  table : Nat
  deriving DecidableEq, Repr

/-- One glade. Scalar registers, arrival counters, program store and scratchpad are tables by number, default zero
(program store words: all ones). -/
structure Glade where
  -- structure given by the stand image (Table 14.5, R166, R187, R196)
  plot : BitVec 6
  inService : Bool
  program : List Word
  entry : BitVec 16
  windows : List Window
  resident : List Resident
  -- disabled by a drain (R405)
  drained : Bool
  -- control processor
  gp : SMap DWord
  pc : Nat
  mode : CpuMode
  wdl : DWord
  nack : DWord
  nackc : BitVec 4
  stepNum : DWord
  sBase : DWord
  genBit : Bool
  engN : Option (BitVec 16)
  -- scratchpad, counters, tiles
  spad : SMap Byte
  counters : SMap (BitVec 16)
  tiles : SMap Tile
  kept : List KeptStage
  hia : Option Hia
  -- thicket and expander
  active : WeightTile
  shadow : WeightTile
  shadowLoaded : Bool
  codebook : Option HeldCodebook
  -- serial product unit: 16 generators (R148), and the issue sequence of ATOM.ADD (R96)
  lfsr : SMap (BitVec 32)
  seq : BitVec 32
  -- engine instructions that wait in their queues, in program order (R90, R172); transfer queue; outstanding transfers
  engine : List QueuedInstr
  queue : List QueuedInstr
  transfers : List Transfer
  sources : List SourceRun
  unseen : List Unseen
  -- mesh writes accepted in the step per counter and sending plot, with the plot's attempt then (R442 step 5)
  accepted : List (BitVec 6 × BitVec 6 × BitVec 2)
  -- fabric messages of class 0 and 1 accepted: counter and target step mod 2¹⁶ (R338)
  acceptedFab : List (BitVec 6 × BitVec 16)
  deriving DecidableEq, Repr

/-- A glade after reset: no program, out of service, everything empty. DESIGN CHOICE, unsafe: log entry 9. -/
def Glade.init : Glade :=
  { plot := 0, inService := false, program := [], entry := 0, windows := [], resident := [], drained := false,
    gp := [], pc := 0, mode := .idle, wdl := 0, nack := 0, nackc := 0, stepNum := 0, sBase := 0, genBit := false,
    engN := none, spad := [], counters := [], tiles := [], kept := [], hia := none, active := .zero, shadow := .zero,
    shadowLoaded := false, codebook := none, lfsr := [], seq := 0, engine := [], queue := [], transfers := [],
    sources := [], unseen := [], accepted := [], acceptedFab := [] }

/-- A message on the mesh (R185): its route word and its flits' bytes. `rank`: the sending module of an atomic
contribution that the fabric carried (R345). `fabric`: written on behalf of a fabric message (R337). -/
structure MeshMsg where
  route : DWord
  bytes : List Byte
  rank : Option (BitVec 16)
  extra : List (Nat × Byte × Byte)
  deriving DecidableEq, Repr

end Sys2Proof.Machine
end

