-- ==== Sys2Proof/Machine/StateGrove.lean ====
section
/-!
DEFINITION. What a grove holds beside its glades: the bole unit (R158 to R165) and the canopy pipeline (R200 to R226).
Plain data.
-/

namespace Sys2Proof.Machine

/-! ### The bole unit -/

/-- A W8 tile of 256 output channels by 256 inputs, row-major, with the output channel of its row 0 (R159). No weights
stand for all zero weights (R85). -/
structure BoleTile where
  weights : List Byte
  ch0 : Nat
  deriving DecidableEq, Repr

/-- The tile of zero W8 weights (R85). -/
def BoleTile.zero : BoleTile := { weights := [], ch0 := 0 }

/-- A bole row's tags (R161). -/
structure BoleTags where
  layer : BitVec 10
  eLo : BitVec 5
  bw : BitVec 8
  b : BitVec 8
  deriving DecidableEq, Repr

/-- An OPEN bole accumulator row (R161). `lanes = []` stands for 256 zero lanes. -/
structure BoleRow where
  tags : BoleTags
  lanes : List L48
  satFlag : Bool
  satCnt : BitVec 16
  zeroCnt : BitVec 16
  deriving DecidableEq, Repr

/-- A selection list (R162): the length of its first merge, and its entries, index and value, best first. -/
structure SelList where
  k : Nat
  entries : List (Nat × L48)
  deriving DecidableEq, Repr

/-- The bole unit: a row that the table does not list is FREE. -/
structure Bole where
  active : BoleTile
  shadow : BoleTile
  shadowLoaded : Bool
  rows : SMap (Option BoleRow)
  sels : SMap (Option SelList)
  deriving DecidableEq, Repr

/-- The bole unit after reset (R85, R161). -/
def Bole.init : Bole := { active := .zero, shadow := .zero, shadowLoaded := false, rows := [], sels := [] }

/-! ### The canopy pipeline -/

/-- An instruction accepted by the pipeline: the glade that issued it, its plot and attempt. -/
structure CanopyInstr where
  glade : BitVec 10
  plot : BitVec 6
  attempt : BitVec 2
  q : QueuedInstr
  deriving DecidableEq, Repr

/-- What has become of a page slice (R215, R219, R220): its bytes, verified; the digest row that stands for it; or a
page data fault. -/
inductive SliceItem where
  | slice (bytes : List Byte)
  | digest (bytes : List Byte)
  | bad
  deriving DecidableEq, Repr

/-- One round of CNP.ATT, or a query without one. `visit`: the query visits page `page`, number `num`, whose slice read
was issued at `issued` and came to `item`; `late`: its lateness has been acted on. `empty`: the query has no allowed key.
`poison`: its row is poisoned. -/
inductive RoundKind where
  | visit (page num : Nat) (issued : Option DWord) (item : Option SliceItem) (late : Bool)
  | empty
  | poison
  deriving DecidableEq, Repr

/-- A round: its length table row, its query number, the query's position, the row's length, the ledger index. `slots`:
where the slice's granules stood when its read was translated, if they have moved since (R314). -/
structure Round where
  row : Nat
  query : Nat
  pos : Nat
  len : Nat
  index : Nat
  kind : RoundKind
  slots : List SlotHold
  deriving DecidableEq, Repr

/-- What a head keeps across pages (R207). `o = []` stands for 128 zero lanes. -/
structure HeadState where
  m : Option Int
  l : Nat
  o : List L48
  deriving DecidableEq, Repr

/-- The query in progress. -/
structure QueryRun where
  query : Nat
  heads : List HeadState
  approx : Bool
  clamped : Bool
  poisoned : Bool
  deriving DecidableEq, Repr

/-- A CNP.ATT in progress: its three descriptors as it read them (attention, layer, outflow, 32 bytes each), the rounds
still to run, in order, and the query in progress. -/
structure AttRun where
  instr : CanopyInstr
  desc : List Byte
  rounds : List Round
  cur : Option QueryRun
  deriving DecidableEq, Repr

/-- What a twin's CNP.ATT must name alike (R217): first row, rows, layer slot, KV head and the pattern. -/
structure TwinKey where
  row0 : Nat
  rows : Nat
  lslot : Nat
  kvh : Nat
  win : Nat
  sink : Nat
  stride : Nat
  phase : Nat
  exclSelf : Bool
  deriving DecidableEq, Repr

/-- The canopy pipeline. `plb`: the page numbers of each set, least recently used first. `inbox`: slices that the leader
has passed to this follower. `named`: CNP.ATT of this leader that its follower has not matched. -/
structure Canopy where
  queue : List CanopyInstr
  run : Option AttRun
  plb : SMap (List Nat)
  lfsr : SMap (BitVec 32)
  inbox : List SliceItem
  named : List TwinKey
  deriving DecidableEq, Repr

/-- An idle pipeline. -/
def Canopy.init : Canopy := { queue := [], run := none, plb := [], lfsr := [], inbox := [], named := [] }

/-- A grove's units. -/
structure Grove where
  bole : Bole
  canopy : Canopy
  deriving DecidableEq, Repr

/-- A grove after its domain rose. -/
def Grove.init : Grove := { bole := .init, canopy := .init }

end Sys2Proof.Machine
end

