-- ==== Sys2Proof/Machine/StateHost.lean ====
section
/-!
DEFINITION. What the host links (R361 to R390), the stand image machinery (R391 to R413) and the security functions
(R465 to R484) hold. Plain data.
-/

namespace Sys2Proof.Machine

/-- The Alapor link (R361 to R368): whether it is up, the version in use, whether the last training found no common
version, the bad frames in a row, the reset code of the last frame, a code that two frames in a row have confirmed, a wake
asked for, the high words latched under R6, by address, and the module frame sent last. Training: the version mask it began
with (R390), the good frames in a row (32: locked), and the version that the module's training frames carry. -/
structure Alapor where
  up : Bool
  ver : Nat
  vfault : Bool
  badRun : Nat
  lastCode : BitVec 2
  restart : BitVec 2
  wakeAsked : Bool
  hiLatch : SMap Word
  frame : List Byte
  causes : Word
  mask : BitVec 3
  goodRun : Nat
  trainVer : Nat
  deriving DecidableEq, Repr

/-- A record that waits to be sent, or was sent and is not acknowledged: its channel, sequence and bytes, and its
order class on channel 0 (R371). -/
structure OutRecord where
  chan : Nat
  cls : Nat
  seq : BitVec 32
  bytes : List Byte
  deriving DecidableEq, Repr

/-- One inbound channel of the Ohmip stream (R373 to R375): the next sequence and the last accepted one, the sequence
discarded under R374 while the channel waits for it, whether no acknowledgement has reported it yet, and whether there is
something to acknowledge. -/
structure InChannel where
  accepted : Option (BitVec 32)
  failed : Option (BitVec 32)
  nak : Bool
  dirty : Bool
  deriving DecidableEq, Repr

/-- A command record in the inbox (R376): the ring count at which it entered, and what its arrival fixed: whether it came
under version 1, its activation step (R377), and whether that step had passed (R230). -/
structure InboxCmd where
  entered : DWord
  ver1 : Bool
  act : Nat
  late : Bool
  bytes : List Byte
  deriving DecidableEq, Repr

/-- The Ohmip stream (R369 to R375, R385). `hello`: the lanes are trained and the host's hello is awaited. Per channel:
the next outbound sequence, the host's initial credit, what it has granted in all, what has been used, and the credit
that the module has returned, in 64-byte units. `outq` waits to be sent, `sent` to be acknowledged; `inbox`: command
records that wait for the serving block; `dataIn`: data records that wait for the device range (R434).
Blocks (R330): the next one to send, the next one expected, the last one acknowledged; `discarding`: until a replay.
`wire`: what has been sent, oldest first. `vmask`: the version mask that the training began with (R390). -/
structure Ohmip where
  up : Bool
  ver : Nat
  vfault : Bool
  idle : Bool
  hello : Bool
  nextOut : List (BitVec 32)
  initial : List Nat
  credit : List Nat
  used : List Nat
  returned : List Nat
  chans : List InChannel
  outq : List OutRecord
  sent : List OutRecord
  inbox : List InboxCmd
  blockOut : BitVec 16
  blockIn : BitVec 16
  blockAcked : BitVec 16
  discarding : Bool
  maxRecord : Nat
  dataIn : List (List Byte)
  wire : List (List Byte)
  vmask : BitVec 2
  deriving DecidableEq, Repr

/-- Which image operation is pending or in progress (R397, R400 to R409). -/
inductive ImageOp where
  | none
  | update
  | rollback
  | reload (plots : BitVec 64)
  deriving DecidableEq, Repr

/-- A phase of an update as its table entry gives it (R400), with the hold set of this module's role. -/
structure PhaseInfo where
  num : Nat
  drain : Nat
  hold : BitVec 64
  deriving DecidableEq, Repr

/-- An image command that runs and ends at IMAGE_COMMAND_COMPLETE (R397): its operation, slot, the container bytes it
works on, and the cause of its failure, 0 if it succeeds. -/
structure ImageRun where
  op : Nat
  slot : Bool
  cause : Byte
  body : List Byte
  deriving DecidableEq, Repr

/-- A route of the stand image (Table 14.3, type 0x06): source, destination and waypoints. -/
structure RouteInfo where
  src : BitVec 10
  dst : BitVec 10
  via : List (BitVec 10)
  deriving DecidableEq, Repr

/-- A plot entry (Table 14.4). -/
structure PlotCfg where
  defined : Bool
  exact : Bool
  batch : Bool
  isa : Byte
  pclass : BitVec 2
  leases : BitVec 5
  owner : BitVec 12
  deriving DecidableEq, Repr

/-- An absent plot entry. -/
def PlotCfg.none : PlotCfg :=
  { defined := false, exact := false, batch := false, isa := 0, pclass := 0, leases := 0, owner := 0xFFF }

/-- A glade entry (Table 14.5): its program by number, and as words filled to the store's end (R171). -/
structure GladeCfg where
  plot : BitVec 6
  inService : Bool
  progNo : BitVec 16
  program : List Word
  entry : BitVec 16
  windows : List Window
  resident : List Resident
  deriving DecidableEq, Repr

/-- The entry of a glade out of service. -/
def GladeCfg.none : GladeCfg := { plot := 0, inService := false, progNo := 0, program := [], entry := 0, windows := [], resident := [] }

/-- What a stand image sets up on one module (Table 14.3): module map (torus address, slice, role), slices, plots, glades,
routes, chains, regions by number, register records in order, exchange table, and biases by layer. -/
structure Setup where
  moduleMap : List (BitVec 24 × Byte × BitVec 16)
  slices : List (List Byte)
  plots : SMap PlotCfg
  glades : SMap GladeCfg
  routes : List RouteInfo
  chains : List (List (BitVec 10))
  regions : List (Nat × Region)
  regs : List (Nat × Word)
  exchange : SMap (BitVec 64)
  bias : List (Nat × List (BitVec 16))
  deriving DecidableEq, Repr

/-- The set-up of a module without an image. -/
def Setup.none : Setup :=
  { moduleMap := [], slices := [], plots := [], glades := [], routes := [], chains := [], regions := [], regs := [],
    exchange := [], bias := [] }

/-- The image machinery (R391 to R413). `staged`: the container that was verified last; `current` and `retained`: the
stores of R396; `valid`: slots found to hold a verified container; `bootDue`: the boot slot is to be staged (R398).
An operation: the step from which it runs, its phases, the phase in progress, whether it is a rollback phase, the ring
count at which the phase began, whether its drain has ended, and the cause for which the phase fails. `setup`: what is
set up now; `undo`: what was before the operation; `next`: what the phase in progress sets up; `refills`: glades whose
resident regions the phase has still to refill; the ports, regions and exchange slots that it has disabled (R405). `prior`: IMG_STAT.state before the operation. `lost`: plots that a failed rollback halted; a reload alone recovers them (R407). -/
structure Image where
  state : BitVec 3
  prior : BitVec 3
  cause : Byte
  staged : List Byte
  stagedOk : Bool
  run : Option ImageRun
  bootDue : Bool
  op : ImageOp
  applyStep : Nat
  phases : List PhaseInfo
  phase : Nat
  rolling : Bool
  beginRing : DWord
  drained : Bool
  failed : Byte
  setup : Setup
  undo : Setup
  next : Setup
  refills : List (BitVec 10)
  drainPorts : List Nat
  drainRegions : List Nat
  drainSlots : List Nat
  current : List Byte
  retained : List Byte
  identity : List Byte
  retainedId : List Byte
  heartwood : List Byte
  standSize : Nat
  valid : List Bool
  lost : BitVec 64
  deriving DecidableEq, Repr

/-- A module that holds no image, with the boot slot still to be staged. -/
def Image.init : Image :=
  { state := 0, prior := 0, cause := 0, staged := [], stagedOk := false, run := .none, bootDue := true, op := .none, applyStep := 0,
    phases := [], phase := 0, rolling := false, beginRing := 0, drained := false, failed := 0, setup := .none,
    undo := .none, next := .none, refills := [], drainPorts := [], drainRegions := [], drainSlots := [], current := [],
    retained := [], identity := [], retainedId := [], heartwood := [], standSize := 0, valid := [false, false], lost := 0 }

/-- A tenant bundle key version (R473), with the drawn bytes and the bundle counter of its IV bases (R477). -/
structure BundleKey where
  version : BitVec 32
  key : List Byte
  iv : List Byte
  count : Nat
  deriving DecidableEq, Repr

/-- A tenant's enrolment (R472 to R474): its public key (modulus and exponent) and its bundle key versions, the current one first. -/
structure TenantKeys where
  tenant : BitVec 12
  pub : List Byte
  bundles : List BundleKey
  deriving DecidableEq, Repr

/-- An operator key (R470). -/
structure OperatorKey where
  id : BitVec 32
  pub : List Byte
  deriving DecidableEq, Repr

/-- A firmware image in the SPI NOR (R465): whether it passes the checks of R465 steps 1 to 3, its security version, and
the SHA-512 digest of its bytes. -/
structure FwImage where
  ok : Bool
  svn : BitVec 16
  digest : List Byte
  deriving DecidableEq, Repr

/-- What a mailbox command still writes to the SPI NOR (R14, R466, R470): nothing; a firmware image over image A or B, with
the boot descriptor; or the operator key table, and whether every tenant key goes with it. -/
inductive NorJob where
  | none
  | firmware (imageB : Bool) (bytes : List Byte)
  | operators (keys : List OperatorKey) (erase : Bool)
  deriving DecidableEq, Repr

/-- A mailbox command that runs (R494): who started it, its code, and what its completion publishes. -/
structure MboxRun where
  smb : Bool
  code : Byte
  status : Byte
  reply : List Byte
  deriving DecidableEq, Repr

/-- Security (R465 to R484). `image`: the running image is B; `otherOk`: the other image verified at the last boot;
`prefer`: the boot descriptor prefers B; `failures`: images that
failed the checks of the last boot; `images`: firmware images A and B; `svn`: the running one's; `opSeq`: the sequence of the operator key
table; `challenge`: its bytes and the ring count at which it was given; the mailbox: the command that runs, what it still
writes to the NOR, and MBX_STAT as Table 18.4 shows it. -/
structure Security where
  image : Bool
  otherOk : Bool
  idFail : Bool
  prefer : Bool
  failures : List Bool
  images : List FwImage
  svn : BitVec 16
  minSvn : BitVec 16
  opSeq : BitVec 32
  operators : List OperatorKey
  tenants : List TenantKeys
  debug : Bool
  debugMask : BitVec 32
  challenge : Option (List Byte × DWord)
  quoteSeq : BitVec 32
  run : Option MboxRun
  job : NorJob
  lastSrc : Bool
  done : Bool
  refused : Bool
  status : Byte
  rlen : Nat
  deriving DecidableEq, Repr

/-- Security as manufactured and not owned yet, before the boot ROM has run: both images hold the factory firmware.
DESIGN CHOICE, unsafe: log entry 13. -/
def Security.init : Security :=
  { image := false, otherOk := false, idFail := false, prefer := false, failures := [],
    images := List.replicate 2 { ok := true, svn := Config.fuseSvn, digest := Config.factoryDigest },
    svn := 0, minSvn := Config.fuseSvn, opSeq := 0, operators := [], tenants := [], debug := false, debugMask := 0,
    challenge := none, quoteSeq := 0, run := none, job := .none, lastSrc := false, done := false, refused := false, status := 0,
    rlen := 0 }

/-- The Alapor link before training (R368). -/
def Alapor.init : Alapor :=
  { up := false, ver := 0, vfault := false, badRun := 0, lastCode := 0, restart := 0, wakeAsked := false,
    hiLatch := [], frame := [], causes := 0, mask := 7, goodRun := 0, trainVer := 0 }

/-- The Ohmip stream before training (R370 to R373). -/
def Ohmip.init : Ohmip :=
  { up := false, ver := 0, vfault := false, idle := false, hello := false, nextOut := [0, 0], initial := [0, 0],
    credit := [0, 0], used := [0, 0], returned := [0, 0],
    chans := List.replicate 2 { accepted := none, failed := none, nak := false, dirty := false }, outq := [], sent := [], inbox := [],
    blockOut := 0, blockIn := 0, blockAcked := 0, discarding := false, maxRecord := 65552, dataIn := [], wire := [], vmask := 3 }

end Sys2Proof.Machine
end

