-- ==== Sys2Proof/Machine/StatePlot.lean ====
section
/-!
DEFINITION. What the module holds of each plot (Table 14.4, R188, R442 to R449), of the lease unit (R192 to R194, R450
to R452) and of steps (R45 to R53).
-/

namespace Sys2Proof.Machine

/-- What identifies the fault that abandoned an attempt (R444): class, cause, logical glade and pc. -/
structure FaultSig where
  cls : Byte
  cause : Byte
  glade : BitVec 10
  pc : BitVec 32
  deriving DecidableEq, Repr

/-- Where a plot stands in the current step (R167, R442, R444): it runs no step, runs one, has ended it, or is abandoned
and waits for its replay. -/
inductive PlotRun where
  | none
  | running
  | abandoned
  deriving DecidableEq, Repr

/-- One plot. `poisonAt`: the device address whose poison abandoned the attempt before (R308). -/
structure Plot where
  defined : Bool
  exact : Bool
  batch : Bool
  isa : Byte
  pclass : BitVec 2
  leases : BitVec 5
  owner : BitVec 12
  tag : BitVec 2
  run : PlotRun
  halted : Bool
  held : Bool
  replaying : Bool
  replays : Nat
  abandonRing : DWord
  replayFrom : DWord
  lastFault : Option FaultSig
  generation : Nat
  poisonAt : Option Nat
  deriving DecidableEq, Repr

/-- A plot that the stand image does not define. -/
def Plot.init : Plot :=
  { defined := false, exact := false, batch := false, isa := 0, pclass := 0, leases := 0, owner := 0xFFF, tag := 0,
    run := .none, halted := false, held := false, replaying := false, replays := 0, abandonRing := 0, replayFrom := 0,
    lastFault := .none, generation := 0, poisonAt := .none }

/-- A lease in force: its resource word (class and index), the holder and the expiry count (R192). -/
structure Lease where
  res : Word
  plot : BitVec 6
  expiry : DWord
  deriving DecidableEq, Repr

/-- A request that waits for a lease (R192): the glade, its plot, the resource, the duration and the deadline. -/
structure LeaseWait where
  glade : BitVec 10
  plot : BitVec 6
  res : Word
  dur : DWord
  deadline : DWord
  deriving DecidableEq, Repr

/-- The plot that held a lease last, and whether its hold ended by expiry or revocation (R193). -/
structure LeaseLast where
  res : Word
  plot : BitVec 6
  lapsed : Bool
  revoked : Bool
  deriving DecidableEq, Repr

/-- The lease unit. -/
structure LeaseUnit where
  held : List Lease
  waiting : List LeaseWait
  last : List LeaseLast
  deriving DecidableEq, Repr

/-- The totals of one layer in the current step and since NUM_LREC_BASE_LO was written (R79, R80). -/
structure LayerTotal where
  ran : Bool
  exact : Bool
  sat : BitVec 32
  zero : BitVec 32
  under : BitVec 32
  satTotal : BitVec 32
  zeroTotal : BitVec 32
  deriving DecidableEq, Repr

/-- A layer that has counted nothing. -/
def LayerTotal.init : LayerTotal :=
  { ran := false, exact := false, sat := 0, zero := 0, under := 0, satTotal := 0, zeroTotal := 0 }

/-- The counts of one attempt of one plot that a register takes at the clearing (R81, R111, R139, R165, R226, R289):
the register's address, the plot, and the count. -/
structure PendCount where
  reg : Nat
  plot : Nat
  n : Nat
  deriving DecidableEq, Repr

/-- Layer counts of the attempt in progress, per plot, so that an abandonment can discard them (R81). -/
structure PendLayer where
  plot : Nat
  layer : Nat
  sat : Nat
  zero : Nat
  under : Nat
  exact : Bool
  deriving DecidableEq, Repr

/-- Stepping (R45 to R48). `active`: a step is in progress; `clearing`: its clearing runs since `clearAt`; `stopAsked`: a
stop has been asked for; `next`: the step whose boundary comes next; `num`, `taken`: the step taken last, if any;
`bcasts`: broadcasts of the retained descriptor in flight, in order, each its piece and, for a replay, its plot. -/
structure StepState where
  active : Bool
  clearing : Bool
  clearAt : DWord
  stopAsked : Bool
  num : DWord
  sBase : DWord
  next : Nat
  taken : Bool
  bcasts : List (Nat × Option Nat)
  deriving DecidableEq, Repr

/-- Before the first step. -/
def StepState.init : StepState :=
  { active := false, clearing := false, clearAt := 0, stopAsked := false, num := 0, sBase := 0, next := 0, taken := false,
    bcasts := [] }

/-- The lease unit after reset (R452). -/
def LeaseUnit.init : LeaseUnit := { held := [], waiting := [], last := [] }

end Sys2Proof.Machine
end

