-- ==== Sys2Proof/Machine/StateServing.lean ====
section
/-!
DEFINITION. What the serving block holds (R227 to R260): the ledger, pending commands, the batch, the free list, graft
slots, events, bundles being sealed or restored; and what the routing engine and the scout hold (R261 to R289). Plain
data.
-/

namespace Sys2Proof.Machine

/-- Ledger entry states (Table 9.2). -/
inductive EntryState where
  | free
  | live
  | held
  | paused
  | sealing
  | releasing
  | restoring
  deriving DecidableEq, Repr

/-- The code of an entry state (Table 9.2). -/
def EntryState.code : EntryState → Nat
  | .free => 0
  | .live => 1
  | .held => 2
  | .paused => 3
  | .sealing => 4
  | .releasing => 5
  | .restoring => 6

/-- A ledger entry (Table 9.2), with the time-to-live of a pending pause, the row marks of Table 9.7, the pages of
its list already released (R249), and while prompt = 1 the tokens of its last partial page (R245, R254): `tail`.
DESIGN CHOICE, safe: log entry 153. -/
structure LedgerEntry where
  state : EntryState
  group : BitVec 4
  gen : Bool
  cpcUse : Bool
  cpcIns : Bool
  prompt : Bool
  cancelP : Bool
  pauseP : Bool
  late : Bool
  apx : Bool
  tenant : BitVec 12
  epoch : BitVec 16
  prio : Byte
  gslot : Byte
  len : BitVec 28
  pending : BitVec 28
  limit : BitVec 28
  npages : BitVec 24
  hold : Byte
  plist : Word
  pcap : BitVec 24
  deadline : DWord
  expiry : DWord
  ns : Word
  inHead : BitVec 20
  chunk : BitVec 12
  chain : DWord
  ttl : DWord
  first : Bool
  resumed : Bool
  released : Nat
  tail : List Nat
  deriving DecidableEq, Repr

/-- A FREE entry with epoch 0 (R227). -/
def LedgerEntry.init : LedgerEntry :=
  { state := .free, group := 0, gen := false, cpcUse := false, cpcIns := false, prompt := false, cancelP := false,
    pauseP := false, late := false, apx := false, tenant := 0, epoch := 0, prio := 0, gslot := 0, len := 0, pending := 0,
    limit := 0, npages := 0, hold := 0, plist := 0, pcap := 0, deadline := 0, expiry := 0, ns := 0, inHead := 0,
    chunk := 0, chain := 0, ttl := 0, first := false, resumed := false, released := 0, tail := [] }

/-- A command record that waits for its point of application (R230): the ring count at which it entered the inbox, the
activation step, whether that step had passed then, and the record. -/
structure PendingCmd where
  entered : DWord
  act : DWord
  late : Bool
  bytes : List Byte
  deriving DecidableEq, Repr

/-- What the canopy reports of a row for one plot (R221, R222): a query marked approximate, or the attention fault cause
that poisoned the row or one of its queries. -/
structure RowReport where
  plot : Nat
  cause : Option Nat
  deriving DecidableEq, Repr

/-- A row of the batch (Table 9.7), the ring position of its first token, and what the step reported of it (R221, R222). -/
structure BatchRow where
  index : Nat
  epoch : BitVec 16
  len : Nat
  a : Nat
  ring0 : Nat
  gslot : Byte
  first : Bool
  resumed : Bool
  prefill : Bool
  npages : Nat
  plist : Word
  tenant : BitVec 12
  reports : List RowReport
  deriving DecidableEq, Repr

/-- The batch snapshot of a step (R237): its rows, the tokens of each row's input block, and the descriptor's bytes.
`released`: the input block is written and the broadcasts are launched. -/
structure Batch where
  step : DWord
  group : Nat
  epoch : Word
  rows : List BatchRow
  tokens : List (List Nat)
  bytes : List Byte
  released : Bool
  deriving DecidableEq, Repr

/-- A graft slot (Table 9.14), with the load in progress (R258, R259): when data came last, the bytes that have come, and
whether it has closed, verified or failed. -/
structure GraftSlot where
  state : BitVec 3
  tenant : BitVec 12
  gid : Word
  ver : BitVec 16
  rank : BitVec 4
  pins : Word
  addr : BitVec 48
  size : Word
  lepoch : Word
  lastData : DWord
  received : Nat
  closed : Bool
  verified : Bool
  failed : Bool
  aborted : Bool
  timedOut : Bool
  deriving DecidableEq, Repr

/-- A FREE graft slot. -/
def GraftSlot.init : GraftSlot :=
  { state := 0, tenant := 0, gid := 0, ver := 0, rank := 0, pins := 0, addr := 0, size := 0, lepoch := 0, lastData := 0,
    received := 0, closed := false, verified := false, failed := false, aborted := false, timedOut := false }

/-- An event record (Table 9.12, R384). -/
structure Event where
  code : Byte
  slot : Byte
  index : BitVec 16
  epoch : BitVec 16
  step : DWord
  value : DWord
  deriving DecidableEq, Repr

/-- What a seal fixes when it starts (R254, R386, R388, R475): the key version, the IV base, the bundle identity, the ledger
epoch, the step, and the 64 bytes of the entry as the bundle shows it. -/
structure SealStart where
  version : BitVec 32
  iv : List Byte
  ident : Word
  epoch : Word
  step : DWord
  entry : List Byte
  deriving DecidableEq, Repr

/-- A bundle that is being sealed (R254): the key version that was current when the entry became SEALING, which causes
have been reported as blocking it, its start, the segments, bundle bytes and content bytes sent, and whether it is
complete. -/
structure SealRun where
  index : Nat
  version : Option (BitVec 32)
  blockedKey : Bool
  blockedLink : Bool
  start : Option SealStart
  segs : Nat
  sent : Nat
  content : Nat
  done : Bool
  deriving DecidableEq, Repr

/-- A bundle that is being restored (R255, R389): the entry, the resume record's marks, the bundle bytes so far, those
already decrypted, the segments and the contents they gave, the key version in use, and how it ended, if it has. `late`: its
activation step had passed when the record arrived (R230). `placed`: the bytes of the contents that the entry and its pages
so far have taken, none before the entry is rebuilt; `left`: pages still to come; `fresh`: pages written, not resident yet
(R255, R389). -/
structure RestoreRun where
  index : Nat
  repin : Bool
  setGrp : Option (BitVec 4)
  deadline : DWord
  ident : Word
  act : DWord
  late : Bool
  bytes : List Byte
  used : Nat
  segs : Nat
  content : List Byte
  placed : Option Nat
  left : Nat
  fresh : List Nat
  version : Option (BitVec 32)
  exact : Bool
  ended : Option Bool
  deriving DecidableEq, Repr

/-- A slot 15 that an attempt of a plot has written in the present step (R214): the page and the slice's number in it. -/
structure Slot15 where
  plot : Nat
  page : Nat
  slice : Nat
  deriving DecidableEq, Repr

/-- The serving block. `ok`: no base of R260 was named off a 4 KiB boundary. The free list is `freed`, top first, then the pages from `freeNext` up (R238). `slot15`: the slots
15 that the present step has written (R214). -/
structure Serving where
  ok : Bool
  ledger : SMap LedgerEntry
  epoch : Word
  cmds : List PendingCmd
  batch : Option Batch
  freed : List Nat
  freeNext : Nat
  slot15 : List Slot15
  grafts : SMap GraftSlot
  events : List Event
  sealRuns : List SealRun
  restores : List RestoreRun
  deriving DecidableEq, Repr

/-- The serving block after reset. -/
def Serving.init : Serving :=
  { ok := true, ledger := [], epoch := 0, cmds := [], batch := none, freed := [], freeNext := 0, slot15 := [],
    grafts := [], events := [], sealRuns := [], restores := [] }

/-! ### The routing engine and the scout -/

/-- A routing or scout instruction that the engine has accepted. -/
structure RouteInstr where
  glade : BitVec 10
  plot : BitVec 6
  pc : Nat
  op : Byte
  words : BitVec 128
  deriving DecidableEq, Repr

/-- A token of the module's own batch in the list of a local expert (R266). -/
structure ListEntry where
  expert : Nat
  row : Nat
  gate : Byte
  gexp : BitVec 5
  deriving DecidableEq, Repr

/-- A copy that a peer needs (R265): the peer, the batch row and its tag, the peer's local experts with their gates in rank
order, and the gate exponent. -/
structure CopyOut where
  peer : Nat
  row : Nat
  index : BitVec 14
  epoch : BitVec 16
  lexp : List Byte
  gates : List Byte
  gexp : BitVec 5
  deriving DecidableEq, Repr

/-- A copy slot of a peer that is FILLED, or VOID. -/
structure CopyIn where
  peer : Nat
  row : Nat
  void : Bool
  deriving DecidableEq, Repr

/-- What the engine keeps of one layer in the step (R266 to R274). `routed`: an RTE.ROUTE of the present attempt has run;
`desc`, `map`, `ptab`: the descriptor, expert map and peer table as it read them; `glade`, `ctr`: where its finalisation
counts. `ends`: end marks, peer and count. `sending`: an RTE.SEND waits for its answers, to count at `sendGlade` and
`sendCtr`; `sent`: answer slots marked SENT that are not FILLED or VOID yet; `answered`: those that are. `picks`: the
experts selected, one per selection. -/
structure RouteLayer where
  layer : BitVec 10
  plot : BitVec 6
  step : BitVec 16
  routed : Bool
  glade : BitVec 10
  ctr : BitVec 6
  desc : List Byte
  ptab : List Byte
  own : List ListEntry
  copies : List CopyOut
  gotten : List CopyIn
  ends : List (Nat × Nat)
  finalised : Bool
  sendGlade : BitVec 10
  sendCtr : BitVec 6
  sending : Bool
  sent : List (Nat × Nat)
  answered : List (Nat × Nat)
  picks : List Nat
  deriving DecidableEq, Repr

/-- A copy or end mark that came before the RTE.ROUTE of its layer (R272): the port and the message item. -/
structure HeldItem where
  port : Nat
  item : List Byte
  deriving DecidableEq, Repr

/-- An entry that an SCT.AUD of a plot's attempt audited in one group (R286): the statistics record and whether the entry
was active. It enters the record at the clearing (R81). -/
structure AuditMark where
  plot : Nat
  record : Nat
  active : Bool
  deriving DecidableEq, Repr

/-- A layer that has routed since its last bias update (R276): the layer, E − 1 and the plot that routed it. -/
structure BiasDue where
  layer : BitVec 10
  ne : Byte
  plot : BitVec 6
  deriving DecidableEq, Repr

/-- The score form of the last SCT.MASK of a layer and local expert, which an SCT.AUD of the same rows repeats (R286). -/
structure MaskForm where
  layer : BitVec 10
  lexp : Byte
  form : BitVec 2
  deriving DecidableEq, Repr

/-- The routing engine and the scout. `ok`: no configuration fault keeps the engine from accepting (R289). `audited`: plots
whose present attempt has completed an SCT.AUD. `steps`: SCT_STAT.steps. -/
structure Routing where
  ok : Bool
  queue : List RouteInstr
  layers : List RouteLayer
  hold : List HeldItem
  audited : List (BitVec 6)
  marks : List AuditMark
  forms : List MaskForm
  steps : BitVec 16
  biased : List BiasDue
  deriving DecidableEq, Repr

/-- The engine after reset. -/
def Routing.init : Routing :=
  { ok := true, queue := [], layers := [], hold := [], audited := [], marks := [], forms := [], steps := 0, biased := [] }

end Sys2Proof.Machine
end

