-- ==== Sys2Proof/Machine/State.lean ====
section
/-!
DEFINITION. The state of the UXT9 block, its state at reset, and the reasons for which a step can stop.
-/

namespace Sys2Proof.Machine

/-- Why a command stops the model. DESIGN CHOICE, safe: log entry 16. -/
inductive Fault where
  /-- Raised by a command whose operand names a unit that the module does not have (a port above 5, a stack above 7, a
  TAP above 4): the spec gives such a command no place. Safe: the module has no such event. -/
  | noSuchUnit (command : String)
  deriving DecidableEq, Repr

/-- Why a command has no meaning in the model. -/
inductive Refusal where
  /-- An arm of exec that has no meaning yet. Safe: nothing is claimed of the command. -/
  | notModelled (mnemonic : String)
  /-- Raised by JTAG_INSTRUCTION for an instruction beyond the four of R27 under a debug grant (R479): the spec names no
  effect of any such instruction. Safe: nothing is claimed of it. -/
  | debugInstruction (code : Nat)
  deriving DecidableEq, Repr

/-- The registers that hold what was written or counted (Table 18.3): a table from address to word that lists only the
registers whose value differs from the reset value, and the value the last register read returned. -/
structure Regs where
  vals : SMap Word
  readout : Word
  status : BitVec 4
  deriving DecidableEq, Repr

/-- The whole block. -/
structure State where
  pending : List Instr
  fresh : Nat
  regs : Regs
  board : Board
  power : Power
  dep : Depend
  ring : Ring
  step : StepState
  plots : SMap Plot
  glades : SMap Glade
  groves : SMap Grove
  mesh : List MeshMsg
  mem : Memory
  serving : Serving
  routing : Routing
  lease : LeaseUnit
  layers : SMap LayerTotal
  pendCounts : List PendCount
  pendLayers : List PendLayer
  fabric : Fabric
  alapor : Alapor
  ohmip : Ohmip
  image : Image
  security : Security
  nor : SMap Byte
  deriving DecidableEq, Repr

/-- The block at the rise of PERST_N (R488, R453): no command waits, every register holds its reset value, only the
Ranger domain is up, and the power-on sequence is due at step 1 of Table 1.3. DEDUCED, unsafe: log entry 8. -/
def State.reset : State :=
  { pending := [], fresh := 0, regs := { vals := [], readout := 0, status := 0 }, board := .init, power := .init,
    dep := .init, ring := .init, step := .init, plots := [], glades := [], groves := [], mesh := [], mem := .init,
    serving := .init, routing := .init, lease := .init, layers := [], pendCounts := [], pendLayers := [],
    fabric := .init, alapor := .init, ohmip := .init, image := .init, security := .init, nor := [] }

end Sys2Proof.Machine
end

