-- ==== Sys2Proof/Machine/Ops.lean ====
section
/-!
DEFINITION. The named operations over the whole state that every family shares: registers and counters (R8, R9, R487),
free values, the ring count, plots, glades, scratchpads and arrival counters (R180), the fault queue (R438 to R441,
R493), leases (R192 to R194, R449 to R451), and the abandonment and halting of a plot (R442 to R445, R176).
-/

namespace Sys2Proof.Machine

/-! ### Free values -/

/-- A free value of `n` bits, and the state after the draw. DESIGN CHOICE, safe: log entry 14. -/
def State.draw (s : State) (n : Nat) : BitVec n × State := (Config.freeBits n s.fresh, { s with fresh := s.fresh + 1 })

/-- A free truth value, and the state after the draw. -/
def State.drawBool (s : State) : Bool × State := (Config.freeBool s.fresh, { s with fresh := s.fresh + 1 })

/-- `k` free bytes, and the state after the draws. -/
def State.drawBytes (s : State) (k : Nat) : List Byte × State :=
  ((List.range k).map fun i => Config.freeBits 8 (s.fresh + i), { s with fresh := s.fresh + k })

/-- `k` bytes of DRBG output, and the state after the draws. -/
def State.drawRandom (s : State) (k : Nat) : List Byte × State :=
  ((List.range k).map fun i => Config.drbg (s.fresh + i), { s with fresh := s.fresh + k })

/-! ### Registers -/

/-- The word a stored register holds: the one written or counted, else the reset value. -/
def rget (m : SMap Word) (a : Nat) : Word :=
  match m.find? fun e => e.1 = a with
  | some e => e.2
  | none => regReset a

/-- Removing the entry of a key. -/
def mdel {α : Type} : SMap α → Nat → SMap α
  | [], _ => []
  | (k', v) :: m, k => if k = k' then m else (k', v) :: mdel m k

/-- Inserting an entry in key order. -/
def mput {α : Type} : SMap α → Nat → α → SMap α
  | [], k, v => [(k, v)]
  | (k', v') :: m, k, v =>
    if k < k' then (k, v) :: (k', v') :: m else if k = k' then (k, v) :: m else (k', v') :: mput m k v

/-- The register table with a word stored at an address; a reset value is not listed. -/
def rset (m : SMap Word) (a : Nat) (w : Word) : SMap Word := if w = regReset a then mdel m a else mput m a w

/-- The stored word of a register. -/
def State.reg (s : State) (a : Nat) : Word := rget s.regs.vals a

/-- The stored word of a register as a number. -/
def State.regN (s : State) (a : Nat) : Nat := (s.reg a).toNat

/-- A field `[hi:lo]` of a stored register. -/
def State.field (s : State) (a hi lo : Nat) : Nat := bitsOf (s.regN a) hi lo

/-- Whether a power domain is on and neither in retention nor in self-refresh (R486). -/
def State.domainUp (s : State) (d : Nat) : Bool := s.board.on.getLsbD d && !s.board.asleep.getLsbD d

/-- Whether an address is one of the MEM_TG_ registers. -/
def isTgReg (a : Nat) : Bool := decide (Reg.memTgSel ≤ a) && decide (a ≤ Reg.memTgFbits)

/-- The generator selected in MEM_TG_SEL. -/
def State.tgChan (s : State) : Nat := s.field Reg.memTgSel 7 0

/-- The PHY domain of the selected channel: stack s is domain 16 + s, the understory 24. -/
def tgDomain (c : Nat) : Nat := if c < 128 then 16 + c / 16 else 24

/-- Whether a register answers (R486). -/
def State.regUp (s : State) (a : Nat) : Bool :=
  s.domainUp (regDomain a) && (!isTgReg a || s.domainUp (tgDomain s.tgChan))

/-- A write of a register: nothing where the register does not answer (R22, R486). -/
def onReg (a : Nat) (s t : State) : Host.Outcome State Fault Refusal := if s.regUp a then .next t else .next s

/-- Storing a word in a register. -/
def State.setReg (s : State) (a : Nat) (w : Word) : State := { s with regs := { s.regs with vals := rset s.regs.vals a w } }

/-- The 64-bit quantity of a register pair (R5). -/
def State.reg64 (s : State) (a : Nat) : Nat := s.regN a + 2 ^ 32 * s.regN (a + 4)

/-- Storing a 64-bit quantity in a register pair. -/
def State.setReg64 (s : State) (a x : Nat) : State :=
  (s.setReg a (BitVec.ofNat 32 x)).setReg (a + 4) (BitVec.ofNat 32 (x / 2 ^ 32))

/-- A word with the field `[hi:lo]` replaced. -/
def withField (w : Word) (hi lo x : Nat) : Word :=
  BitVec.ofNat 32 (w.toNat - bitsOf w.toNat hi lo * 2 ^ lo + x % 2 ^ (hi + 1 - lo) * 2 ^ lo)

/-- Storing a field of a register. -/
def State.setField (s : State) (a hi lo x : Nat) : State := s.setReg a (withField (s.reg a) hi lo x)

/-- Adding to a counter in the field `[hi:lo]` of a register; it saturates at its largest value. -/
def State.bumpField (s : State) (a hi lo n : Nat) : State :=
  s.setField a hi lo (min (s.field a hi lo + n) (2 ^ (hi + 1 - lo) - 1))

/-- Adding to a 32-bit counter register; it saturates. -/
def State.bump (s : State) (a n : Nat) : State := s.bumpField a 31 0 n

/-- A failed signature verification, of a mailbox command, a stand image or a graft (R471, R478, R481, Table 17.7).
DEDUCED, unsafe: log entry 160. -/
def State.verifyFailed (s : State) : State := s.bump Reg.secVfail 1

/-- Setting a sticky (W1C) cause of GBL_STAT (Table 18.4); the bits set since a frame began are kept for R9. -/
def State.setCause (s : State) (bit : Nat) : State :=
  let t := s.setField Reg.gblStat bit bit 1
  { t with alapor := { t.alapor with causes := t.alapor.causes ||| (1 <<< bit) } }

/-! ### Time, plots and glades -/

/-- The ring count, Lc + Δ (R347). -/
def State.ringCount (s : State) : DWord := s.ring.lc + s.ring.delta

/-- The ring count as a number. DESIGN CHOICE, safe: log entry 2. -/
def State.rt (s : State) : Nat := s.ringCount.toNat

/-- Plot `p`. -/
def State.plot (s : State) (p : Nat) : Plot := mget Plot.init s.plots p

/-- Replacing plot `p`. -/
def State.setPlot (s : State) (p : Nat) (x : Plot) : State := { s with plots := mset Plot.init s.plots p x }

/-- Logical glade `g`. -/
def State.glade (s : State) (g : Nat) : Glade := mget Glade.init s.glades g

/-- Replacing logical glade `g`. -/
def State.setGlade (s : State) (g : Nat) (x : Glade) : State := { s with glades := mset Glade.init s.glades g x }

/-- Grove `g`'s units. -/
def State.grove (s : State) (g : Nat) : Grove := mget Grove.init s.groves g

/-- Replacing grove `g`'s units. -/
def State.setGrove (s : State) (g : Nat) (x : Grove) : State := { s with groves := mset Grove.init s.groves g x }

/-- The plot number of a glade. -/
def State.plotOf (s : State) (g : Nat) : Nat := (s.glade g).plot.toNat

/-- The glades that belong to a plot, in service, in ascending number. -/
def State.gladesOf (s : State) (p : Nat) : List Nat :=
  (s.glades.filter fun e => e.2.inService && decide (e.2.plot.toNat = p)).map (·.1)

/-- The grove of a logical glade (R40). -/
def groveOf (g : Nat) : Nat := 4 * (g / 32 / 8) + g % 32 / 8

/-- The index of a logical glade in its grove (R195). -/
def groveIndex (g : Nat) : Nat := 8 * (g / 32 % 8) + g % 32 % 8

/-- The logical glade at index `k` of grove `gv` (R40, R195). -/
def gladeAt (gv k : Nat) : Nat := 32 * (8 * (gv / 4) + k / 8) + 8 * (gv % 4) + k % 8

/-- The bole master of a grove, if BOLE_MASTERg names a glade of the grove (R160); 0x3FF names none (Table 6.13). -/
def State.boleMaster (s : State) (gv : Nat) : Option Nat :=
  let g := s.field (Reg.boleMaster + 4 * gv) 9 0
  if groveOf g = gv ∧ g ≠ 0x3FF then some g else none

/-- Changing every listed glade by a function. -/
def mapGlades (f : Glade → Glade) : List Nat → State → State
  | [], s => s
  | g :: gs, s => mapGlades f gs (s.setGlade g (f (s.glade g)))

/-! ### Scratchpad -/

/-- Bytes of a scratchpad (512 KiB). -/
def spadSize : Nat := 524288

/-- `n` bytes of a glade's scratchpad. -/
def Glade.read (gl : Glade) (a n : Nat) : List Byte := mread 0 gl.spad a n

/-- A source run without the `n` bytes from `a`, which something else has written (R117). -/
def SourceRun.cut (r : SourceRun) (a n : Nat) : List SourceRun :=
  if a + n ≤ r.lo ∨ r.hi ≤ a then [r]
  else (if r.lo < a then [{ r with hi := a }] else []) ++ (if a + n < r.hi then [{ r with lo := a + n }] else [])

/-- A glade with bytes written to its scratchpad; the bytes lose their traced source. -/
def Glade.write (gl : Glade) (a : Nat) (bs : List Byte) : Glade :=
  { gl with spad := mwrite 0 gl.spad a bs, sources := gl.sources.flatMap fun r => r.cut a bs.length }

/-- A glade with bytes written under masks (R106). -/
def Glade.writeMasked (gl : Glade) : List (Nat × Byte × Byte) → Glade
  | [] => gl
  | (a, v, m) :: ws =>
    Glade.writeMasked { gl with spad := mset 0 gl.spad a (maskByte (mget 0 gl.spad a) v m),
                                sources := gl.sources.flatMap fun r => r.cut a 1 } ws

/-- Ascending runs of consecutive addresses, as first and end. -/
def runsOf : List Nat → List (Nat × Nat)
  | [] => []
  | a :: as =>
    match runsOf as with
    | [] => [(a, a + 1)]
    | (lo, hi) :: rs => if a + 1 = lo then (a, hi) :: rs else (a, a + 1) :: (lo, hi) :: rs

/-- A glade with bytes noted that a control processor load is not yet ordered after (R168). -/
def Glade.note (gl : Glade) (q : Option (BitVec 2)) (c : Option (BitVec 6)) (rs : List (Nat × Nat)) : Glade :=
  { gl with unseen := rs.map (fun r => { queue := q, ctr := c, lo := r.1, hi := r.2 }) ++ gl.unseen }

/-- A write by an engine, a transfer or a message, which control processor loads see under R168. -/
def Glade.writeFor (gl : Glade) (q : Option (BitVec 2)) (c : Option (BitVec 6)) (a : Nat) (bs : List Byte) : Glade :=
  (gl.write a bs).note q c [(a, a + bs.length)]

/-- The same under masks. -/
def Glade.maskFor (gl : Glade) (q : Option (BitVec 2)) (c : Option (BitVec 6)) (ws : List (Nat × Byte × Byte)) : Glade :=
  (gl.writeMasked ws).note q c (runsOf (ws.map (·.1)))

/-- Whether some of the `n` bytes from `a` are not yet visible to control processor loads (R168). -/
def Glade.hides (gl : Glade) (a n : Nat) : Bool := gl.unseen.any fun u => decide (u.lo < a + n ∧ a < u.hi)

/-- A glade after an ENG.FENCE that names a queue, by its mask bit (R168). -/
def Glade.seenQueue (gl : Glade) (q : Nat) : Glade :=
  { gl with unseen := gl.unseen.filter fun u => !decide (u.queue = some (BitVec.ofNat 2 q)) }

/-- A glade after an AC.WAIT on a counter (R168). -/
def Glade.seenCtr (gl : Glade) (c : Nat) : Glade :=
  { gl with unseen := gl.unseen.filter fun u => !decide (u.ctr = some (BitVec.ofNat 6 c)) }

/-- The little-endian number in `n` bytes of a scratchpad. -/
def Glade.readNat (gl : Glade) (a n : Nat) : Nat := leNat (gl.read a n)

/-- The bank that holds the scratchpad word of a byte address (R177). -/
def bankOf (a : Nat) : Nat := (a / 16 % 32 + a / 512 + a / 512 / 32) % 32

/-- The gc that an access of the `n` bytes from `a` waits through its own bank conflicts (R178): one less than the words it
needs from its busiest bank. -/
def ownConflicts (a n : Nat) : Nat :=
  let banks := (List.range ((a + n + 15) / 16 - a / 16)).map fun k => bankOf (16 * (a / 16 + k))
  (List.range 32).foldl (fun m b => max m (banks.filter fun x => x = b).length) 1 - 1

/-- The own conflicts of a contiguous read of `n` bytes from `a` by a reader of 512 bytes a gc (R115, R178). -/
def readConflicts (a n : Nat) : Nat :=
  ((List.range ((n + 511) / 512)).map fun k => ownConflicts (a + 512 * k) (min 512 (n - 512 * k))).sum

/-! ### Scalar registers and counters -/

/-- Scalar register `r`; gp0 reads zero (Table 7.1). -/
def Glade.gpr (gl : Glade) (r : Nat) : DWord := if r = 0 then 0 else mget 0 gl.gp r

/-- Writing scalar register `r`; gp0 ignores writes (Table 7.1). -/
def Glade.setGpr (gl : Glade) (r : Nat) (v : DWord) : Glade :=
  if r = 0 then gl else { gl with gp := mset 0 gl.gp r v }

/-- Arrival counter `c`. -/
def Glade.ctr (gl : Glade) (c : Nat) : BitVec 16 := mget 0 gl.counters c

/-- Writing arrival counter `c`. -/
def Glade.setCtr (gl : Glade) (c : Nat) (v : BitVec 16) : Glade := { gl with counters := mset 0 gl.counters c v }

/-- Tile `t`. -/
def Glade.tile (gl : Glade) (t : Nat) : Tile := mget Tile.init gl.tiles t

/-- Replacing tile `t`. -/
def Glade.setTile (gl : Glade) (t : Nat) (x : Tile) : Glade := { gl with tiles := mset Tile.init gl.tiles t x }

/-! ### The fault queue -/

/-- What a rule gives of a fault record; the module adds the rest (R438). -/
structure FaultArgs where
  cls : Nat
  cause : Nat
  plot : Option Nat := none
  owner : Option (BitVec 12) := none
  glade : Option Nat := none
  index : Option Nat := none
  epoch : Nat := 0
  pc : Nat := 0
  detail : List Byte := []
  abandoned : Bool := false
  halted : Bool := false
  unit : Nat := 0
  deriving DecidableEq, Repr

/-- Whether the records of a class carry the module bit (Table 16.2); `update`: a configuration fault of an image during
an update does not. -/
def moduleClass (cls : Nat) (update : Bool) : Bool :=
  cls == 0x0E || (cls == 0x0F && !update) || cls == 0x11 || cls == 0x12 || cls == 0x14 || cls == 0x16

/-- The history entry that a module-wide record is written under (Tables 16.2 and 16.7): type, unit and detail; none
where Table 16.7 has no type for the class. `unit`: the stack, channel, die or rail concerned.
DESIGN CHOICE, safe: log entry 41. -/
def histOf (f : FaultArgs) : Option (Nat × Nat × Nat) :=
  let d := fun (k : Nat) => (f.detail.getD k 0).toNat
  if f.cls = 0x12 then some (0x05, if f.cause = 2 then 0x100 + d 0 else d 0, f.cause)
  else if f.cls = 0x14 then some (0x07, f.unit, f.cause + 256 * (if f.cause = 5 then d 2 else d 1))
  else if f.cls = 0x16 then some (0x08, 0, f.cause)
  else none

/-- The calendar value now, in µs (R460); zero while the state is unknown (R461). -/
def State.calNow (s : State) : DWord :=
  if s.dep.calState = 0 then 0
  else
    let diff : Int := (s.ringCount.toNat : Int) - (s.dep.calAt.toNat : Int)
    s.dep.calSet + BitVec.ofNat 64 (codeOf 64 (diff / 100))

/-- The entry types that stay in force and are consolidated (R459). -/
def staysInForce (kind : Nat) : Bool := kind == 1 || kind == 2 || kind == 3 || kind == 5 || kind == 6

/-- Adding an event to the history entries to be written (R458); a type that R459 consolidates is in force from then. -/
def State.historyAs (s : State) (isModule : Bool) (kind unit : Nat) (detail : DWord) : State :=
  let e : InForce := { kind := BitVec.ofNat 8 kind, unit := BitVec.ofNat 16 unit, detail }
  let keep := staysInForce kind && !s.dep.inForce.contains e
  { s with dep := { s.dep with
      histQueue := s.dep.histQueue ++ [{ isModule, kind := e.kind, unit := e.unit, ring := s.ringCount, cal := s.calNow, detail }]
      inForce := if keep then s.dep.inForce ++ [e] else s.dep.inForce } }

/-- A history entry of an event that is not module-wide. -/
def State.history (s : State) (kind unit : Nat) (detail : DWord) : State := s.historyAs false kind unit detail

/-- The record that a fault's arguments give in a state (R438, R440). DEDUCED, unsafe: log entry 40. -/
def State.faultRec (s : State) (f : FaultArgs) (isModule : Bool) : FaultRec :=
  let pl : Plot := match f.plot with
    | some p => s.plot p
    | none => Plot.init
  let flags := natOfBool f.abandoned + 2 * natOfBool f.halted + 4 * natOfBool (pl.replaying && f.plot.isSome)
    + 8 * natOfBool isModule + 16 * natOfBool isModule
  { cls := BitVec.ofNat 8 f.cls
    cause := BitVec.ofNat 8 f.cause
    flags := BitVec.ofNat 8 flags
    attempt := if f.plot.isSome then pl.tag else 0
    owner := if isModule then 0xFFF else match f.owner with
      | some o => o
      | none => pl.owner
    plot := match f.plot with
      | some p => BitVec.ofNat 8 p
      | none => 0xFF
    ring := s.ringCount
    step := if s.step.taken then s.step.num else 0
    glade := match f.glade with
      | some g => BitVec.ofNat 10 g
      | none => 0x3FF
    rep := 0
    seq := s.dep.seq
    index := match f.index with
      | some i => BitVec.ofNat 16 i
      | none => 0xFFFF
    epoch := BitVec.ofNat 16 f.epoch
    pc := BitVec.ofNat 32 f.pc
    detail := f.detail }

/-- Whether a new record merges into a queued one (R439). -/
def FaultRec.matches (a b : FaultRec) : Bool :=
  a.cls == b.cls && a.cause == b.cause && a.owner == b.owner && a.plot == b.plot && a.glade == b.glade && a.step == b.step

/-- Adding one to the repeat count of the last record of a list. -/
def bumpLast : List FaultRec → List FaultRec
  | [] => []
  | [r] => [{ r with rep := if r.rep = 0xFFFF then r.rep else r.rep + 1 }]
  | r :: rs => r :: bumpLast rs

/-- Entering a record in the fault queue (R439, R493): it merges into the newest record, is queued, or, with the queue
full, is dropped and counted. Nothing merges into a latched head. DEDUCED, unsafe: log entry 42. -/
def State.enqueue (s : State) (r : FaultRec) : State :=
  let q := s.dep.queue
  let mergeable := match q.getLast? with
    | some last => last.matches r && !(s.dep.latched && decide (q.length = 1))
    | none => false
  if mergeable then { s with dep := { s.dep with queue := bumpLast q } }
  else if q.length < 1024 then { s with dep := { s.dep with queue := q ++ [r], seq := s.dep.seq + 1 } }
  else s.bump Reg.fltDrop 1

/-- Raising a fault: its record is queued, and, if it is module-wide, also goes to the history log (R439). A class 0x16
record sets its cause of GBL_STAT (Table 18.4). -/
def State.raiseAs (s : State) (f : FaultArgs) (update : Bool) : State :=
  let m := moduleClass f.cls update
  let s1 := s.enqueue (s.faultRec f m)
  let s2 :=
    if m then
      match histOf f with
      | some e => s1.historyAs true e.1 e.2.1 (BitVec.ofNat 64 e.2.2)
      | none => (s1.draw 8).2.historyAs true (s1.draw 8).1.toNat 0 (BitVec.ofNat 64 f.cause)
    else s1
  if f.cls = 0x16 then s2.setCause 6 else s2

/-- Raising a fault outside an image update. -/
def State.raise (s : State) (f : FaultArgs) : State := s.raiseAs f false

/-! ### Leases -/

/-- The lease in force on a resource. -/
def LeaseUnit.find (u : LeaseUnit) (res : Word) : Option Lease := u.held.find? fun l => l.res = res

/-- Remembering who held a lease last and how the hold ended (R193). -/
def LeaseUnit.remember (u : LeaseUnit) (res : Word) (plot : BitVec 6) (lapsed revoked : Bool) : LeaseUnit :=
  { u with last := { res, plot, lapsed, revoked } :: u.last.filter fun l => l.res ≠ res }

/-- Freeing a lease. -/
def LeaseUnit.free (u : LeaseUnit) (res : Word) : LeaseUnit := { u with held := u.held.filter fun l => l.res ≠ res }

/-- Granting a lease until a ring count. -/
def LeaseUnit.grant (u : LeaseUnit) (res : Word) (plot : BitVec 6) (expiry : DWord) : LeaseUnit :=
  { u with held := u.held ++ [{ res, plot, expiry }], last := u.last.filter fun l => l.res ≠ res }

/-- Whether a plot holds the lease of a class and index now; a lease whose expiry has come is not held (R193). -/
def State.holdsLease (s : State) (p cls idx : Nat) : Bool :=
  match s.lease.find (BitVec.ofNat 32 (cls * 2 ^ 24 + idx)) with
  | some l => decide (l.plot.toNat = p) && decide (s.rt < l.expiry.toNat)
  | none => false

/-- The cause of a lease fault when a plot uses a resource it does not hold (class 0x05, Table 16.2). -/
def State.leaseCause (s : State) (p cls idx : Nat) : Nat :=
  let res := BitVec.ofNat 32 (cls * 2 ^ 24 + idx)
  match s.lease.find res with
  | some l => if l.plot.toNat = p then 2 else 1
  | none =>
    match s.lease.last.find? fun l => l.res = res with
    | some l => if l.plot.toNat = p then (if l.revoked then 3 else if l.lapsed then 2 else 1) else 1
    | none => 1

/-- Dropping every waiting request of a plot (R442 step 1, R449). -/
def State.dropWaits (s : State) (p : Nat) : State :=
  { s with lease := { s.lease with waiting := s.lease.waiting.filter fun w => w.plot.toNat ≠ p } }

/-! ### Abandonment and halt -/

/-- The value of a counter after the add-back of R442 step 5 and R338. -/
def addBack (s : State) (gl : Glade) (c : Nat) : BitVec 16 :=
  let fab := (gl.acceptedFab.filter fun k => k.1.toNat = c).length
  let mesh := (gl.accepted.filter fun a =>
    decide (a.1.toNat = c) && decide (a.2.1 ≠ gl.plot) && decide ((s.plot a.2.1.toNat).tag = a.2.2)).length
  BitVec.ofNat 16 (min (fab + mesh) 65535)

/-- The counters of a glade after abandonment: zeroed, with the add-back. -/
def addBackAll (s : State) (gl : Glade) : SMap (BitVec 16) :=
  (List.range 62).foldl (fun m c => mset 0 m c (addBack s gl c)) []

/-- The staged contributions of a tile that come from outside the abandoned attempt of a plot (R442 step 3).
DEDUCED, unsafe: log entry 123. -/
def keptOf (p : Nat) (t : Nat) (x : Tile) : Option KeptStage :=
  match x.ordered with
  | some o =>
    let ks := o.staged.filter fun i => i.rank.isSome || decide (i.plot.toNat ≠ p)
    if o.applied || ks.isEmpty then none
    else some { tile := t, expect := o.expect, stage := o.stage, place := o.place, staged := ks }
  | none => none

/-- A glade stopped and emptied by an abandonment (R442 steps 1, 3 and 5). -/
def Glade.abandon (s : State) (p : Nat) (gl : Glade) : Glade :=
  { gl with
    mode := .stopped
    engine := []
    queue := []
    transfers := []
    sources := []
    unseen := gl.unseen.filter fun u => u.ctr.isSome
    engN := none
    kept := gl.tiles.filterMap fun e => keptOf p e.1 e.2
    tiles := []
    hia := none
    active := .zero
    shadow := .zero
    shadowLoaded := false
    counters := addBackAll s gl
    accepted := gl.accepted.filter fun a => decide (a.2.1 ≠ gl.plot) && decide ((s.plot a.2.1.toNat).tag = a.2.2) }

/-- Every listed glade abandoned. -/
def abandonGlades (p : Nat) : List Nat → State → State
  | [], s => s
  | g :: gs, s => abandonGlades p gs (s.setGlade g ((s.glade g).abandon s p))

/-- A batch row without what one plot's attempt reported of it. -/
def BatchRow.without (p : Nat) (r : BatchRow) : BatchRow := { r with reports := r.reports.filter fun x => x.plot ≠ p }

/-- Changing the rows of the batch. -/
def State.mapRows (s : State) (f : BatchRow → BatchRow) : State :=
  { s with serving := { s.serving with batch := s.serving.batch.map fun b => { b with rows := b.rows.map f } } }

/-- Discarding the counts that an attempt had kept for the clearing (R81, R111), its reports of batch rows, the slots 15
that it wrote (R214), and the reads held for it (R322). -/
def State.dropCounts (s : State) (p : Nat) : State :=
  { s with
    mem := { s.mem with held := s.mem.held.filter fun h => decide (h.plot ≠ some (BitVec.ofNat 6 p)) }
    pendCounts := s.pendCounts.filter fun c => c.plot ≠ p
    pendLayers := s.pendLayers.filter fun c => c.plot ≠ p
    serving := { s.serving with slot15 := s.serving.slot15.filter fun x => x.plot ≠ p } }.mapRows (BatchRow.without p)

/-- Keeping a count of a plot's attempt for the clearing (R81). -/
def State.pendCount (s : State) (reg p n : Nat) : State :=
  if n = 0 then s else { s with pendCounts := { reg, plot := p, n } :: s.pendCounts }

/-- Keeping layer counts of a plot's attempt for the clearing (R79, R81). -/
def State.pendLayer (s : State) (p layer sat zc under : Nat) : State :=
  { s with pendLayers := { plot := p, layer, sat, zero := zc, under, exact := (s.plot p).exact } :: s.pendLayers }

/-- What an abandonment or a halt of a plot ends in the routing engine (R442 step 1, R272, R274): its queued instructions
and the waits of its attempt; slots, lists and copies received stay. -/
def Routing.drop (p : Nat) (r : Routing) : Routing :=
  { r with
    queue := r.queue.filter fun i => i.plot.toNat ≠ p
    layers := r.layers.map fun l => if l.plot.toNat = p then { l with routed := false, sending := false } else l
    audited := r.audited.filter fun q => q.toNat ≠ p
    marks := r.marks.filter fun m => m.plot ≠ p }

/-- Ordered tiles of a glade whose batch is incomplete, discarded when the staging lease ends (R100). -/
def Glade.dropStaged (gl : Glade) : Glade :=
  { gl with tiles := gl.tiles.filter fun e => match e.2.ordered with
      | some o => o.applied || decide (o.arrived ≥ o.expect)
      | none => true }

/-- Whether a glade has an ordered tile that still waits for contributions (R100). -/
def Glade.stagedPending (gl : Glade) : Bool :=
  gl.tiles.any fun e => match e.2.ordered with
    | some o => !o.applied && decide (o.arrived < o.expect)
    | none => false

/-- The queued canopy instructions of a plot in the pipeline that a lease of class 0x01 covers (R223). -/
def State.queuedUnder (s : State) (l : Lease) : List CanopyInstr :=
  if l.res.toNat / 2 ^ 24 = 1 then
    (s.grove (l.res.toNat % 2 ^ 24)).canopy.queue.filter fun i => i.plot = l.plot
  else []

/-- The end of a lease without its records: the former holder's queued canopy instructions are discarded (R223), and the
incomplete ordered tiles of the glade whose staging area it covered become FREE (R100). -/
def State.leaseGone (s : State) (l : Lease) : State :=
  let u := l.res.toNat % 2 ^ 24
  if l.res.toNat / 2 ^ 24 = 1 then
    let x := s.grove u
    if (s.queuedUnder l).isEmpty then s
    else s.setGrove u { x with canopy := { x.canopy with queue := x.canopy.queue.filter fun i => i.plot ≠ l.plot } }
  else if l.res.toNat / 2 ^ 24 = 5 && decide (u < 1024) && (s.glade u).stagedPending then
    s.setGlade u (s.glade u).dropStaged
  else s

/-- The records of discarded canopy instructions of a halted plot (class 0x05, cause 4). -/
def raiseDiscards (p : Nat) (res : Word) : List CanopyInstr → State → State
  | [], s => s
  | i :: is, s =>
    raiseDiscards p res is (s.raise
      { cls := 0x05, cause := 4, plot := some p, glade := some i.glade.toNat, pc := i.q.pc, detail := leBytes 4 res.toNat })

/-- Freeing every lease of a plot by revocation, each counted and reported with cause 3 (R449, R450), and each queued
canopy instruction under it with cause 4 (R223). -/
def revokeAll (p : Nat) : List Lease → State → State
  | [], s => s
  | l :: ls, s =>
    let qs := s.queuedUnder l
    let s1 := { s with lease := (s.lease.free l.res).remember l.res l.plot false true }
    let s2 := ((s1.leaseGone l).bump Reg.leaseRvk 1).raise
      { cls := 0x05, cause := 3, plot := some p, detail := leBytes 4 l.res.toNat }
    revokeAll p ls (raiseDiscards p l.res qs s2)

/-- The leases that a plot holds. -/
def State.leasesOf (s : State) (p : Nat) : List Lease := s.lease.held.filter fun l => l.plot.toNat = p

/-- Halting a plot (R176, R449): its step ends, its glades stop, its leases are revoked and its requests dropped. The
counts of the attempt that halts are discarded, as an abandoned attempt's are (R81, R176). DEDUCED, unsafe: log entry 143. -/
def State.halt (s : State) (p : Nat) : State :=
  let pl := s.plot p
  if pl.halted then s
  else
    let s1 := mapGlades (fun gl => { gl with mode := .stopped, engine := [], queue := [], transfers := [] }) (s.gladesOf p) s
    let s2 := s1.setPlot p { s1.plot p with halted := true, run := .none, replaying := false }
    let s3 := (s2.dropCounts p).dropWaits p
    let s3 := { s3 with routing := s3.routing.drop p }
    revokeAll p (s3.leasesOf p) (s3.bump Reg.recHalt 1)

/-- A grove after the abandonment of a plot's step: its queued canopy instructions are discarded, and, where the plot's glade
is the bole master, the bole weight buffers are emptied (R442 steps 1 and 3). The instruction that runs completes (R223). -/
def Grove.abandon (p : Nat) (isMaster : Bool) (x : Grove) : Grove :=
  let c := x.canopy
  let mine := fun (i : CanopyInstr) => decide (i.plot.toNat = p)
  let running := match c.run with
    | some r => mine r.instr
    | none => false
  { bole := if isMaster then { x.bole with active := .zero, shadow := .zero, shadowLoaded := false } else x.bole
    canopy := { c with
      queue := c.queue.filter fun i => !mine i
      inbox := if c.queue.any mine && !running then [] else c.inbox
      named := if running || c.queue.any mine then [] else c.named } }

/-- Every grove after an abandonment. -/
def abandonGroves (p : Nat) : List Nat → State → State
  | [], s => s
  | gv :: gvs, s =>
    let isMaster := match s.boleMaster gv with
      | some g => decide ((s.glade g).plot.toNat = p)
      | none => false
    abandonGroves p gvs (s.setGrove gv ((s.grove gv).abandon p isMaster))

/-- Abandoning a plot's step under R442 steps 1 to 5, with the tag advanced and the replay due (R444).
DEDUCED, unsafe: log entry 43. -/
def State.abandonStep (s : State) (p : Nat) (sig : FaultSig) : State :=
  let pl := s.plot p
  let s0 := s.setPlot p
    { pl with
      tag := pl.tag + 1
      run := .abandoned
      replays := pl.replays + 1
      abandonRing := s.ringCount
      replayFrom := s.ringCount + BitVec.ofNat 64 (s.field Reg.recCfg 31 16)
      lastFault := some sig }
  let s1 := abandonGroves p (List.range 16) (abandonGlades p (s0.gladesOf p) s0)
  { (s1.dropCounts p).dropWaits p with routing := s1.routing.drop p }.bump Reg.recAbnd 1

/-- A fault whose recovery is Abandon, for a plot (R442, R444, R445). A plot that runs no step only reports. Where the step is not
replayed, it is abandoned like any other, and its plot halts. DEDUCED, unsafe: log entry 43. -/
def State.abandonFault (s : State) (p : Nat) (f : FaultArgs) (isFailure : Bool) : State :=
  let pl := s.plot p
  let f := { f with plot := some p }
  let sig : FaultSig :=
    { cls := BitVec.ofNat 8 f.cls, cause := BitVec.ofNat 8 f.cause,
      glade := BitVec.ofNat 10 (f.glade.getD 0x3FF), pc := BitVec.ofNat 32 f.pc }
  match pl.run with
  | .abandoned => s.bump Reg.recSupp 1
  | .none => s.raise f
  | .running =>
    let again := pl.replaying && decide (pl.lastFault = some sig) && !isFailure
    if pl.replays ≥ s.field Reg.recCfg 1 0 || again then
      let s1 := s.raise { f with abandoned := true, halted := true }
      let s2 := s1.raise { cls := 0x15, cause := f.cls, plot := some p, glade := f.glade, detail := leBytes 2 pl.replays,
                           halted := true }
      (s2.abandonStep p sig).halt p
    else (s.raise { f with abandoned := true }).abandonStep p sig

/-- A fault whose recovery is Halt, for a plot (R176, R449). -/
def State.haltFault (s : State) (p : Nat) (f : FaultArgs) : State :=
  match (s.plot p).run with
  | .abandoned => s.bump Reg.recSupp 1
  | _ => (s.raise { f with plot := some p, halted := true }).halt p

/-- A fault record that changes nothing else of its plot. -/
def State.plotFault (s : State) (p : Nat) (f : FaultArgs) : State :=
  match (s.plot p).run with
  | .abandoned => s.bump Reg.recSupp 1
  | _ => s.raise { f with plot := some p }

/-- An increment of an arrival counter by `n` (R180): above 65,535 it stays there, is counted and faults the plot. -/
def State.countUp (s : State) (g c n : Nat) : State :=
  let gl := s.glade g
  let v := (gl.ctr c).toNat + n
  if v ≤ 65535 then s.setGlade g (gl.setCtr c (BitVec.ofNat 16 v))
  else
    let s1 := (s.setGlade g (gl.setCtr c 65535)).bump Reg.gldCtro 1
    s1.abandonFault gl.plot.toNat { cls := 0x07, cause := 0, glade := some g, detail := [BitVec.ofNat 8 c] } false

/-- A lease fault against a plot (R194, class 0x05). -/
def State.leaseFault (s : State) (p cls idx : Nat) (g pc : Nat) : State :=
  s.abandonFault p { cls := 0x05, cause := s.leaseCause p cls idx, glade := some g, pc := pc,
                     detail := leBytes 4 (cls * 2 ^ 24 + idx) } false

end Sys2Proof.Machine
end

