-- ==== Sys2Proof/Machine/Operands.lean ====
section
/-!
DEFINITION. How a glade's instruction is fetched and its operands are read (R171, Table 7.3, Table 4.9): the words at
the program counter, the fields of every instruction form, and the instruction faults of R175. The commands of a glade
name the glade; the instruction is the one its program counter stands at.
-/

namespace Sys2Proof.Machine

/-- What a command answers. -/
abbrev Out := Host.Outcome State Fault Refusal

/-- Instruction words from the opcode (R171). -/
def opLen (op : Nat) : Nat := if op < 0x40 then 1 else if op < 0x80 then 4 else if op < 0xC0 then 2 else 1

/-- The opcodes of Table 7.4, Table 10.5, Table 4.9, R137, R154, R164, R224, R288, R303 and R333. -/
def opDefined (op : Nat) : Bool :=
  decide (op ≤ 0x0B) || decide (0x10 ≤ op ∧ op ≤ 0x13) || decide (0x18 ≤ op ∧ op ≤ 0x1D) || op == 0x20 || op == 0x21
  || decide (0x24 ≤ op ∧ op ≤ 0x28) || decide (0x2C ≤ op ∧ op ≤ 0x2E) || decide (0x30 ≤ op ∧ op ≤ 0x34)
  || op == 0x40 || op == 0x41 || op == 0x44 || op == 0x45 || op == 0x48 || op == 0x49 || op == 0x4A || op == 0x4C
  || op == 0x4D || op == 0x4E || op == 0x50 || op == 0x52 || op == 0x58 || op == 0x59 || op == 0x5A
  || decide (0x60 ≤ op ∧ op ≤ 0x64) || op == 0x68 || op == 0x69 || decide (0x6C ≤ op ∧ op ≤ 0x6E) || op == 0x70
  || op == 0x71 || op == 0x80 || op == 0x84 || op == 0x88 || op == 0x89 || op == 0x8C

/-- The program store word that holds a byte address; words past the program are all ones (R171). -/
def Glade.word (gl : Glade) (pc : Nat) : Nat := (gl.program.getD (pc / 4) 0xFFFFFFFF).toNat

/-- The `n` words from a byte address, the first in the low bits. -/
def Glade.words (gl : Glade) : Nat → Nat → Nat
  | _, 0 => 0
  | pc, n + 1 => gl.word pc + 2 ^ 32 * gl.words (pc + 4) n

/-- Whether a fetch target raises cause 0x06 (R171): misaligned, beyond the store, or a multi-word instruction that would
run past it. -/
def Glade.badTarget (gl : Glade) (t : Int) : Bool :=
  decide (t < 0) || decide (t > 32767) || decide (t % 4 ≠ 0)
  || decide (t.toNat + 4 * opLen (gl.word t.toNat % 256) > 32768)

/-- An instruction at issue, or as it leaves a queue: the glade, its plot, its program store address, the address at which
the control processor goes on, the opcode and the words. -/
structure Issue where
  g : Nat
  gl : Glade
  p : Nat
  pc : Nat
  next : Nat
  op : Nat
  w : Nat
  deriving DecidableEq, Repr

/-- Bits `[hi:lo]` of the instruction words. -/
def Issue.f (i : Issue) (hi lo : Nat) : Nat := bitsOf i.w hi lo

/-- Whether a grove's domain is powered, awake and clocked (R414, R14, R15, R433). -/
def State.groveRuns (s : State) (gv : Nat) : Bool :=
  s.board.on.getLsbD gv && !s.board.asleep.getLsbD gv && !s.board.grovesGated

/-- Whether a glade's control processor can issue: in service, running, its plot in a step, its grove clocked. -/
def State.gladeRuns (s : State) (g : Nat) : Bool :=
  let gl := s.glade g
  gl.inService && decide (gl.mode = .running) && decide ((s.plot gl.plot.toNat).run = .running)
  && s.groveRuns (groveOf g)

/-- Whether every transfer of a glade's own instructions has completed; a message sent again is none of them (R336). -/
def Glade.settled (gl : Glade) : Bool := gl.transfers.all fun t => t.send.any (·.resent)

/-- A glade with the queues and the outstanding transfers of another: the earlier instructions of a glade that an
instruction fault stops go on (R175). -/
def Glade.keepWork (gl old : Glade) : Glade :=
  { gl with engine := old.engine, queue := old.queue, transfers := old.transfers }

/-- A fault that halts the plot of an instruction's glade under R175 and R176: the glade stops, the plot halts, and the
glade's earlier instructions complete. -/
def State.stopFault (s : State) (i : Issue) (f : FaultArgs) : State :=
  let s1 := ((s.setGlade i.g { i.gl with mode := .stopped }).bump Reg.gldIfault 1).haltFault i.p f
  s1.setGlade i.g ((s1.glade i.g).keepWork i.gl)

/-- An instruction fault (R175, R176): the glade stops, GLD_IFAULT counts, the record carries the instruction words, and
the plot halts. The instruction has no effect. -/
def State.instrFault (s : State) (i : Issue) (cause : Nat) : State :=
  s.stopFault i { cls := 0x01, cause := cause, glade := some i.g, pc := i.pc, detail := leBytes 16 i.w }

/-- The instruction that a glade stands at. DESIGN CHOICE, safe: log entry 5. -/
def State.issueOf (s : State) (g : Nat) : Issue :=
  let gl := s.glade g
  let op := gl.word gl.pc % 256
  { g, gl, p := gl.plot.toNat, pc := gl.pc, next := gl.pc + 4 * opLen op, op, w := gl.words gl.pc (opLen op) }

/-- The issue that a queued instruction was, with the glade as it is now: its control processor has gone on already. -/
def State.requeue (s : State) (g : Nat) (q : QueuedInstr) : Issue :=
  let gl := s.glade g
  { g, gl, p := gl.plot.toNat, pc := q.pc, next := gl.pc, op := q.op.toNat, w := q.words.toNat }

/-- Argument `k` of a queued instruction. -/
def QueuedInstr.arg (q : QueuedInstr) (k : Nat) : Nat := (q.args.getD k 0).toNat

/-- The meaning of a glade's instruction command with opcode `op`: a glade that cannot issue, or that stands at another
instruction, is left as it is; a bad fetch or an undefined opcode faults (R171); otherwise the instruction runs. -/
def atInstr (s : State) (g : BitVec 10) (op : Nat) (k : Issue → State) : Out :=
  let i := s.issueOf g.toNat
  if s.gladeRuns g.toNat then
    if i.gl.badTarget i.pc then .next (s.instrFault i 0x06)
    else if opDefined i.op = false then .next (s.instrFault i 0x01)
    else if i.op = op then .next (k i)
    else .next s
  else .next s

/-- Advancing past the instruction. -/
def Glade.step (gl : Glade) (i : Issue) : Glade := { gl with pc := i.next }

/-- A glade's new state after an instruction that goes on in sequence. -/
def State.put (s : State) (i : Issue) (gl : Glade) : State := s.setGlade i.g (gl.step i)

/-! ### Instruction forms (Table 7.3) -/

/-- Field d. -/
def Issue.d (i : Issue) : Nat := i.f 12 8
/-- Field a of forms R and I. -/
def Issue.a (i : Issue) : Nat := i.f 17 13
/-- Field b of form R. -/
def Issue.b (i : Issue) : Nat := i.f 22 18
/-- The 14-bit signed immediate of form I. -/
def Issue.imm (i : Issue) : Int := signedOf 14 (i.f 31 18)
/-- gp[a]. -/
def Issue.ra (i : Issue) : DWord := i.gl.gpr i.a
/-- gp[b]. -/
def Issue.rb (i : Issue) : DWord := i.gl.gpr i.b
/-- gp[d]. -/
def Issue.rd (i : Issue) : DWord := i.gl.gpr i.d
/-- gp[a] + imm, the address of form I. -/
def Issue.ea (i : Issue) : Nat := (i.ra + BitVec.ofInt 64 i.imm).toNat

/-- An instruction of a form with reserved bits `[31:lo]`: a non-zero bit raises cause 0x02 (Table 7.6). -/
def State.form (s : State) (i : Issue) (lo : Nat) (k : State) : State :=
  if i.f 31 lo = 0 then k else s.instrFault i 0x02

/-- A scratchpad access of `n` bytes aligned on `al` at an address: outside 512 KiB or misaligned raises cause 0x06. -/
def spadOk (a n al : Nat) : Bool := decide (a % al = 0) && decide (a + n ≤ spadSize)

/-- The wait deadline of a glade (R182, R444). -/
def State.deadline (s : State) (gl : Glade) : Nat :=
  if gl.wdl ≠ 0 then gl.wdl.toNat
  else
    let pl := s.plot gl.plot.toNat
    let start := if pl.replaying then pl.replayFrom.toNat else gl.sBase.toNat
    let lim := if s.regN Reg.gldWlim = 0 then 2 * s.regN Reg.stepPeriod else s.regN Reg.gldWlim
    (start + lim) % 2 ^ 64

end Sys2Proof.Machine
end

