-- ==== Sys2Proof/Machine/Memory.lean ====
section
/-!
DEFINITION. The device range (R298 to R304): regions, pools, granules, their bytes in the stacks and the understory, and
the reads and writes that every engine makes of them; access counts, hints and dirty marks (R310, R311, R314).
-/

namespace Sys2Proof.Machine

/-- Replacing what the memory tiers hold. -/
def State.setMem (s : State) (m : Memory) : State := { s with mem := m }

/-! ### Placement -/

/-- The set bits of a mask of `w` bits, ascending. -/
def setBits (w x : Nat) : List Nat := (List.range w).filter fun i => bitOf x i

/-- The place of a pool offset (R300): units of the mask, the first unit's number, the pool's start. -/
def poolPhys (units : List Nat) (first off o : Nat) : Nat :=
  let n := units.length
  let q := o / 4096
  (first + units.getD (q % n) 0) * 2 ^ 37 + (off + q / n) * 4096 + o % 4096

/-- A stack pool offset. -/
def Region.stackPhys (r : Region) (o : Nat) : Nat := poolPhys (setBits 8 r.smask.toNat) 0 r.sOff.toNat o
/-- An understory pool offset. -/
def Region.underPhys (r : Region) (o : Nat) : Nat := poolPhys (setBits 16 r.umask.toNat) 8 r.uOff.toNat o
/-- A mirror pool offset. -/
def Region.mirrorPhys (r : Region) (o : Nat) : Nat := poolPhys (setBits 16 r.umask.toNat) 8 r.mOff.toNat o

/-- Bytes of a granule. -/
def Region.granBytes (r : Region) : Nat := r.gran.toNat * 4096
/-- Granules of a MIGRATE region (R301). -/
def Region.granCount (r : Region) : Nat := if r.gran = 0 then 0 else ceilDiv r.size.toNat r.gran.toNat
/-- Bytes of a region. -/
def Region.bytes (r : Region) : Nat := r.size.toNat * 4096
/-- Slots of the stack pool, or of the understory pool (R301). -/
def Region.slots (r : Region) (under : Bool) : Nat :=
  if r.gran = 0 then 0
  else if under then r.uLen.toNat * (setBits 16 r.umask.toNat).length / r.gran.toNat
  else r.sLen.toNat * (setBits 8 r.smask.toNat).length / r.gran.toNat
/-- The place of an offset in a slot of a pool. -/
def Region.slotPhys (r : Region) (under : Bool) (slot o : Nat) : Nat :=
  if under then r.underPhys (slot * r.granBytes + o) else r.stackPhys (slot * r.granBytes + o)

/-- Granule `i` of a region. -/
def Memory.gran (m : Memory) (r : Region) (i : Nat) : Granule := mget Granule.init m.granules (r.gt0.toNat + i)
/-- Replacing granule `i` of a region. -/
def Memory.setGran (m : Memory) (r : Region) (i : Nat) (g : Granule) : Memory :=
  { m with granules := mset Granule.init m.granules (r.gt0.toNat + i) g }

/-- The place of a region offset; none in an unmapped granule. -/
def Memory.place (m : Memory) (r : Region) (o : Nat) : Option Nat :=
  match r.place.toNat with
  | 0 => some (r.stackPhys o)
  | 1 => some (r.underPhys o)
  | _ =>
    let g := m.gran r (o / r.granBytes)
    if g.valid then some (r.slotPhys g.under g.slot.toNat (o % r.granBytes)) else none

/-- Whether a region holds the `n` bytes from an address. -/
def Region.holds (r : Region) (a n : Nat) : Bool := decide (r.base.toNat ≤ a) && decide (a + n ≤ r.base.toNat + r.bytes)

/-- The region that holds the `n` bytes from an address. -/
def Memory.regionOf (m : Memory) (a n : Nat) : Option (Nat × Region) := m.regions.find? fun e => e.2.holds a n

/-- A region by number. -/
def Memory.region (m : Memory) (k : Nat) : Option Region := (m.regions.find? fun e => e.1 = k).map (·.2)

/-- The place of a device range byte. DEDUCED, unsafe: log entry 108. -/
def Memory.physOf (m : Memory) (a : Nat) : Option Nat :=
  match m.regionOf a 1 with
  | some e => m.place e.2 (a - e.2.base.toNat)
  | none => none

/-- A device range byte. DESIGN CHOICE, unsafe: log entry 10. -/
def Memory.byte (m : Memory) (a : Nat) : Byte :=
  match m.physOf a with
  | some p => mget 0 m.phys p
  | none => Config.unmapped a

/-- `n` device range bytes. -/
def Memory.read (m : Memory) (a n : Nat) : List Byte := (List.range n).map fun i => m.byte (a + i)

/-- The memory as a request finds it that was translated while some granules stood on other slots (R314). -/
def Memory.withSlots (m : Memory) : List SlotHold → Memory
  | [] => m
  | h :: hs =>
    let m1 := m.withSlots hs
    match m1.region h.region with
    | some r => m1.setGran r h.gran { m1.gran r h.gran with valid := true, under := h.under, slot := h.slot }
    | none => m1

/-- The mirror copy of `n` bytes of a region (R319). -/
def Memory.readMirror (m : Memory) (r : Region) (o n : Nat) : List Byte :=
  (List.range n).map fun i => mget 0 m.phys (r.mirrorPhys (o + i))

/-- Writing one device range byte, in both copies of a mirrored region (R319). -/
def Memory.writeByte (m : Memory) (a : Nat) (b : Byte) : Memory :=
  match m.regionOf a 1 with
  | some e =>
    let o := a - e.2.base.toNat
    match m.place e.2 o with
    | some p =>
      let ph := mset 0 m.phys p b
      { m with phys := if e.2.mirror then mset 0 ph (e.2.mirrorPhys o) b else ph }
    | none => m
  | none => m

/-- Writing device range bytes. -/
def Memory.write : Memory → Nat → List Byte → Memory
  | m, _, [] => m
  | m, a, b :: bs => Memory.write (m.writeByte a b) (a + 1) bs

/-! ### Blocks under repair (R322) -/

/-- The device range address of a block under repair. -/
def Memory.repairAddr (m : Memory) (e : RepairEntry) : Nat :=
  ((m.region e.region).map (·.base.toNat)).getD 0 + e.off

/-- The blocks under repair that an extent meets. -/
def Memory.repairsOn (m : Memory) (a n : Nat) : List RepairEntry :=
  m.repairs.filter fun e => decide (m.repairAddr e < a + n) && decide (a < m.repairAddr e + e.len)

/-- Whether an extent meets a block under repair (R322). -/
def Memory.underRepair (m : Memory) (a n : Nat) : Bool := !(m.repairsOn a n).isEmpty

/-- Writing device range bytes: those of a block under repair wait (R322). -/
def Memory.writeOpen : Memory → Nat → List Byte → Memory
  | m, _, [] => m
  | m, a, b :: bs =>
    Memory.writeOpen (if m.underRepair a 1 then { m with late := m.late ++ [(a, b)] } else m.writeByte a b) (a + 1) bs

/-- The granule that holds a written byte marked dirty while it moves (R314). -/
def Memory.dirtyAt (m : Memory) (a : Nat) : Memory :=
  match m.regionOf a 1 with
  | some e =>
    let i := (a - e.2.base.toNat) / e.2.granBytes
    let g := m.gran e.2 i
    if e.2.place = 2 && g.moving then m.setGran e.2 i { g with dirty := true } else m
  | none => m

/-- Bytes that waited, written. -/
def Memory.writeAll : List (Nat × Byte) → Memory → Memory
  | [], m => m
  | x :: xs, m => Memory.writeAll xs ((m.writeByte x.1 x.2).dirtyAt x.1)

/-- The writes that waited for blocks no longer under repair, in their order (R322). -/
def Memory.flushLate (m : Memory) : Memory :=
  Memory.writeAll (m.late.filter fun x => !m.underRepair x.1 1) { m with late := m.late.filter fun x => m.underRepair x.1 1 }

/-- The reads held that still wait. -/
def Memory.stillHeld (m : Memory) : List HeldRead := m.held.filter fun h => m.underRepair h.addr h.len

/-- Whether any of some extents meets a block under repair. -/
def Memory.blocked (m : Memory) (es : List (Nat × Nat)) : Bool := es.any fun e => m.underRepair e.1 e.2

/-! ### Requests -/

/-- The die of a glade. -/
def dieOf (g : Nat) : Nat := groveOf g / 4

/-- One look-up of a granule table entry in the look-aside buffer of a die (R302): a miss is counted, and the entry takes
the place of one of the eight of its set. DESIGN CHOICE, safe: log entry 106. -/
def State.glbLookup (s : State) (die idx : Nat) : State :=
  let key := 512 * die + Config.glbSet idx % 512
  let set := mget [] s.mem.glb key
  if set.contains idx then s
  else
    let full := decide (8 ≤ set.length)
    let s1 := if full then (s.draw 3).2 else s
    let kept := if full then set.eraseIdx (s.draw 3).1.toNat else set
    State.bump { s1 with mem := { s1.mem with glb := mset [] s1.mem.glb key (kept ++ [idx]) } } Reg.memGlbm 1

/-- The die whose switch takes a request; a free value where the spec names none. -/
def State.pickDie (s : State) (die : Option Nat) : Nat × State :=
  match die with
  | some d => (d, s)
  | none => ((s.draw 2).1.toNat, (s.draw 2).2)

/-- A granule table entry dropped from the look-aside buffers of all four dies (R314). -/
def Memory.dropGlb (m : Memory) (idx : Nat) : Memory :=
  let key := fun (d : Nat) => 512 * d + Config.glbSet idx % 512
  { m with glb := (List.range 4).foldl (fun t d => mset [] t (key d) ((mget [] t (key d)).filter (· ≠ idx))) m.glb }

/-- The 4 KiB units that `n` bytes from an address touch, as addresses. -/
def unitsOf (a n : Nat) : List Nat := (List.range ((a + n - 1) / 4096 + 1 - a / 4096)).map fun i => (a / 4096 + i) * 4096

/-- One unit of a request to a MIGRATE granule: the access count (R310), the look-up in the buffer of the die whose switch
takes it (R302), and, for a write, the dirty mark (R314). -/
def State.touchUnit (s : State) (die : Option Nat) (counts write : Bool) (u : Nat) : State :=
  match s.mem.regionOf u 1 with
  | some e =>
    if e.2.place = 2 then
      let i := (u - e.2.base.toNat) / e.2.granBytes
      let g := s.mem.gran e.2 i
      let g := { g with
        count := if counts && g.count ≠ 0xFFFF then g.count + 1 else g.count
        dirty := g.dirty || (write && g.moving) }
      let r := State.pickDie { s with mem := s.mem.setGran e.2 i g } die
      r.2.glbLookup r.1 (e.2.gt0.toNat + i)
    else s
  | none => s

/-- A request's units, in order. -/
def touchUnits (die : Option Nat) (counts write : Bool) : List Nat → State → State
  | [], s => s
  | u :: us, s => touchUnits die counts write us (s.touchUnit die counts write u)

/-- A request of class 2 or 3 of a die's glade or pipeline that reads. -/
def State.touchReadOn (s : State) (die a n : Nat) : State := touchUnits (some die) true false (unitsOf a n) s

/-- A request of class 2 or 3 that reads. -/
def State.touchRead (s : State) (a n : Nat) : State := touchUnits none true false (unitsOf a n) s

/-- `n` bytes that an engine reads of the device range. -/
def State.dev (s : State) (a n : Nat) : List Byte := s.mem.read a n

/-- A little-endian number in the device range. -/
def State.devNat (s : State) (a n : Nat) : Nat := leNat (s.dev a n)

/-- A write through the switch of a die; the bytes of a block under repair wait (R322). -/
def State.writeThrough (s : State) (die : Option Nat) (counts : Bool) (a : Nat) (bs : List Byte) : State :=
  let s := touchUnits die counts true (unitsOf a bs.length) s
  { s with mem := s.mem.writeOpen a bs }

/-- A write of class 2 or 3 of a die's glade or pipeline. -/
def State.devWriteOn (s : State) (die a : Nat) (bs : List Byte) : State := s.writeThrough (some die) true a bs

/-- A write of class 2 or 3. -/
def State.devWrite (s : State) (a : Nat) (bs : List Byte) : State := s.writeThrough none true a bs

/-- A write of class 4 or 5, which counts no access (R310). -/
def State.devWriteQuiet (s : State) (a : Nat) (bs : List Byte) : State := s.writeThrough none false a bs

/-- A device range base of a register pair (Table 3.9). DEDUCED, unsafe: log entry 79. -/
def State.base48 (s : State) (reg : Nat) : Nat := s.reg64 reg % 2 ^ 48

/-! ### Access checks (R303) -/

/-- Whether an extent lies in one region that a plot may read; a region that a phase removes takes no new access
(R405). -/
def State.mayRead (s : State) (p a n : Nat) : Bool :=
  match s.mem.regionOf a n with
  | some e => e.2.plots.getLsbD p && !s.image.drainRegions.contains e.1
  | none => false

/-- Whether an extent lies in one region that a plot may write. -/
def State.mayWrite (s : State) (p a n : Nat) : Bool :=
  match s.mem.regionOf a n with
  | some e => e.2.plots.getLsbD p && !e.2.ro && !s.image.drainRegions.contains e.1
  | none => false

/-- The region whose lease a write needs and the plot does not hold. -/
def State.leaseMissing (s : State) (p a n : Nat) : Option Nat :=
  match s.mem.regionOf a n with
  | some e => if e.2.leaseWr && !s.holdsLease p 2 e.1 then some e.1 else none
  | none => none

/-! ### Free slots and hints -/

/-- Slots of a pool that granules or moves of a region occupy. -/
def Memory.usedSlots (m : Memory) (k : Nat) (r : Region) (under : Bool) : List Nat :=
  ((List.range r.granCount).filterMap fun i =>
    let g := m.gran r i
    if g.valid && g.under == under then some g.slot.toNat else none)
  ++ (m.moves.filterMap fun v => if v.region = k && v.toUnder == under then some v.slot.toNat else none)

/-- Free slots of a pool. -/
def Memory.freeSlots (m : Memory) (k : Nat) (r : Region) (under : Bool) : List Nat :=
  let used := m.usedSlots k r under
  (List.range (r.slots under)).filter fun j => !used.contains j

/-- The slots on which outstanding requests were translated before a move left them (R314 step 5). -/
def State.slotHolds (s : State) : List SlotHold :=
  (s.glades.flatMap fun e => e.2.transfers.flatMap (·.slots))
  ++ s.groves.flatMap fun e => (e.2.canopy.run.map fun r => r.rounds.flatMap (·.slots)).getD []

/-- Free slots of a pool: a slot that a move has left is not free while a request translated to it is outstanding (R314). -/
def State.openSlots (s : State) (k : Nat) (r : Region) (under : Bool) : List Nat :=
  (s.mem.freeSlots k r under).filter fun j =>
    !s.slotHolds.any fun h => decide (h.region = k) && h.under == under && decide (h.slot.toNat = j)

/-- A free slot of a pool; which one is a free value. -/
def State.pickSlot (s : State) (k : Nat) (r : Region) (under : Bool) : Option (Nat × State) :=
  let fs := s.openSlots k r under
  if fs.isEmpty then none else some (fs.getD ((s.draw 32).1.toNat % fs.length) 0, (s.draw 32).2)

/-- Whether the free slots of a region's stack pool are at or below the low water (R313). -/
def State.poolLow (s : State) (k : Nat) (r : Region) : Bool :=
  decide ((s.openSlots k r false).length ≤ r.slots false * s.field Reg.memMigBw 23 16 / 256)

/-- Mapping a granule (R315): to the stack pool while that is not low, else to the understory pool. `anyStack`: to the
stack pool while it has a free slot. -/
def State.mapGranule (s : State) (k : Nat) (r : Region) (i : Nat) (anyStack : Bool) : State :=
  let stack := if anyStack then !(s.openSlots k r false).isEmpty else !s.poolLow k r
  match s.pickSlot k r (!stack) with
  | some (slot, s1) =>
    let g : Granule := { Granule.init with slot := BitVec.ofNat 28 slot, under := !stack, valid := true }
    s1.setMem ((s1.mem.setGran r i g).dropGlb (r.gt0.toNat + i))
  | none => s

/-- Unmapping a granule (R315). A move of it ends. -/
def State.unmapGranule (s : State) (k : Nat) (r : Region) (i : Nat) : State :=
  let idx := r.gt0.toNat + i
  let mem := (s.mem.setGran r i Granule.init).dropGlb idx
  { s with mem := { mem with moves := mem.moves.filter fun v => !decide (v.region = k ∧ v.gran = i),
                             hinted := mem.hinted.filter fun h => h ≠ idx } }

/-- Giving a granule a hint (R311); kind 0 clears it. -/
def State.hintGranule (s : State) (r : Region) (i : Nat) (kind : Nat) (hexp : DWord) : State :=
  let g := s.mem.gran r i
  let idx := r.gt0.toNat + i
  let mem := s.mem.setGran r i { g with hint := BitVec.ofNat 2 kind, hexp := hexp }
  let order := mem.hinted.filter fun h => h ≠ idx
  { s with mem := { mem with hinted := if kind = 0 then order else order ++ [idx] } }

/-- The MIGRATE granule that holds a device range address. -/
def Memory.granuleAt (m : Memory) (a : Nat) : Option (Nat × Region × Nat) :=
  match m.regionOf a 1 with
  | some e => if e.2.place = 2 then some (e.1, e.2, (a - e.2.base.toNat) / e.2.granBytes) else none
  | none => none

/-- The lapse count of a HOT hint of the serving block or of a late page (R312, R316). -/
def State.hotUntil (s : State) : DWord := s.ringCount + BitVec.ofNat 64 (2 ^ s.field Reg.memMigCtl 21 16)

/-! ### The error history -/

/-- An event of a place entered in the history of its stack or channel (R308, R321). -/
def State.errorPhys (s : State) (kind p : Nat) : State :=
  let u := p / 2 ^ 37
  s.history kind (if u < 8 then u else 0x100 + (u - 8)) (BitVec.ofNat 64 (p % 2 ^ 37))

/-- An event of a device range address entered in the history of its stack or channel. -/
def State.errorAt (s : State) (kind a : Nat) : State :=
  match s.mem.physOf a with
  | some p => s.errorPhys kind p
  | none => s

/-- A poisoned access of a physical address counted in MEM_UE and in the lifetime counters of its stack or channel
(Table 16.6). DEDUCED, unsafe: log entry 105. -/
def State.poisonAt (s : State) (phys : Option Nat) : State :=
  let s1 := s.bump Reg.memUe 1
  let l := s.dep.life
  match phys with
  | some p =>
    let u := p / 2 ^ 37
    let l1 := if u < 8 then { l with stkUe := setAt l.stkUe u (addCnt32 (l.stkUe.getD u 0) 1) }
      else { l with uchUe := setAt l.uchUe (u - 8) (addCnt32 (l.uchUe.getD (u - 8) 0) 1) }
    { s1 with dep := { s1.dep with life := l1 } }
  | none => s1

/-- Poisoned accesses of places counted. -/
def poisonPlaces : List Nat → State → State
  | [], s => s
  | p :: ps, s => poisonPlaces ps (s.poisonAt (some p))

/-- A poisoned access of a device range address. -/
def State.countPoison (s : State) (a : Nat) : State := s.poisonAt (s.mem.physOf a)

/-- Poisoned accesses counted. -/
def countPoisons : List Nat → State → State
  | [], s => s
  | a :: as, s => countPoisons as (s.countPoison a)

/-- Whether a stand image is applied (IMG_STAT.state). -/
def State.imageApplied (s : State) : Bool := s.image.state ≠ 0

/-! ### Held reads -/

/-- Whether a plot has a read that was held and has not completed (R324): its wait deadlines do not
expire.  `waiting` names the blocks it waits for, `good` keeps the bytes read before the hold. -/
def State.readHeld (s : State) (p : Nat) : Bool :=
  ((s.gladesOf p).any fun g => (s.glade g).transfers.any fun t => !t.write && (!t.waiting.isEmpty || !t.good.isEmpty))
  || s.mem.stillHeld.any fun h => decide (h.plot = some (BitVec.ofNat 6 p))

end Sys2Proof.Machine
end

