-- ==== Sys2Proof/Machine/Control.lean ====
section
/-!
DEFINITION. The control instructions of a glade (Table 7.4): scalar arithmetic, scratchpad loads and stores, branches,
special registers (Table 7.2), arrival counters and waits (R180 to R183, R498), leases (R192 to R194) and the end of the
step's program (R167).
-/

namespace Sys2Proof.Machine

/-- gp[d] receives a value; form R. -/
def State.alu (s : State) (i : Issue) (v : DWord) : State := s.form i 23 (s.put i (i.gl.setGpr i.d v))

/-- A truth value as a scalar. -/
def flag64 (b : Bool) : DWord := if b then 1 else 0

/-- NOP (R171). -/
def execNop (g : BitVec 10) (s : State) : Out := atInstr s g 0x00 fun i => s.form i 8 (s.put i i.gl)
/-- ADD (R171). -/
def execAddOp (g : BitVec 10) (s : State) : Out := atInstr s g 0x01 fun i => s.alu i (i.ra + i.rb)
/-- SUB (R171). -/
def execSubOp (g : BitVec 10) (s : State) : Out := atInstr s g 0x02 fun i => s.alu i (i.ra - i.rb)
/-- AND (R171). -/
def execAndOp (g : BitVec 10) (s : State) : Out := atInstr s g 0x03 fun i => s.alu i (i.ra &&& i.rb)
/-- OR (R171). -/
def execOrOp (g : BitVec 10) (s : State) : Out := atInstr s g 0x04 fun i => s.alu i (i.ra ||| i.rb)
/-- XOR (R171). -/
def execXorOp (g : BitVec 10) (s : State) : Out := atInstr s g 0x05 fun i => s.alu i (i.ra ^^^ i.rb)
/-- SHL: shift left by gp[b][5:0] (Table 7.4). -/
def execShl (g : BitVec 10) (s : State) : Out := atInstr s g 0x06 fun i => s.alu i (i.ra <<< (i.rb.toNat % 64))
/-- SHR: logical shift right (Table 7.4). -/
def execShr (g : BitVec 10) (s : State) : Out := atInstr s g 0x07 fun i => s.alu i (i.ra >>> (i.rb.toNat % 64))
/-- SHA: arithmetic shift right (Table 7.4). -/
def execSha (g : BitVec 10) (s : State) : Out :=
  atInstr s g 0x08 fun i => s.alu i (i.ra.sshiftRight (i.rb.toNat % 64))
/-- SLT (Table 7.4). -/
def execSlt (g : BitVec 10) (s : State) : Out := atInstr s g 0x09 fun i => s.alu i (flag64 (i.ra.slt i.rb))
/-- SLTU (Table 7.4). -/
def execSltu (g : BitVec 10) (s : State) : Out := atInstr s g 0x0A fun i => s.alu i (flag64 (i.ra.ult i.rb))
/-- ADDI (Table 7.4). -/
def execAddi (g : BitVec 10) (s : State) : Out :=
  atInstr s g 0x0B fun i => s.put i (i.gl.setGpr i.d (i.ra + BitVec.ofInt 64 i.imm))

/-- A load of `n` bytes, zero-extended, aligned on `n` (R168). Bytes that a queue, a transfer or a message has written, and
that neither a fence nor a wait has made visible, read as a free value. DESIGN CHOICE, unsafe: log entry 6. -/
def State.loadN (s : State) (i : Issue) (n : Nat) : State :=
  if spadOk i.ea n n then
    if i.gl.hides i.ea n then
      let r := s.draw (8 * n)
      r.2.put i (i.gl.setGpr i.d (r.1.setWidth 64))
    else s.put i (i.gl.setGpr i.d (BitVec.ofNat 64 (i.gl.readNat i.ea n)))
  else s.instrFault i 0x06

/-- A store of the low `n` bytes of gp[d], aligned on `n` (R168). -/
def State.storeN (s : State) (i : Issue) (n : Nat) : State :=
  if spadOk i.ea n n then s.put i (i.gl.write i.ea (leBytes n i.rd.toNat)) else s.instrFault i 0x06

/-- LD (R168). -/
def execLd (g : BitVec 10) (s : State) : Out := atInstr s g 0x10 fun i => s.loadN i 8
/-- ST (R168). -/
def execSt (g : BitVec 10) (s : State) : Out := atInstr s g 0x11 fun i => s.storeN i 8
/-- LD4 (R168). -/
def execLd4 (g : BitVec 10) (s : State) : Out := atInstr s g 0x12 fun i => s.loadN i 4
/-- ST4 (R168). -/
def execSt4 (g : BitVec 10) (s : State) : Out := atInstr s g 0x13 fun i => s.storeN i 4

/-- A jump to a program store byte address with the glade otherwise as given; a bad target raises cause 0x06 (R171). -/
def State.jump (s : State) (i : Issue) (gl : Glade) (t : Int) : State :=
  if i.gl.badTarget t then s.instrFault i 0x06 else s.setGlade i.g { gl with pc := t.toNat }

/-- A conditional branch by imm words from its own address (Table 7.3). -/
def State.branch (s : State) (i : Issue) (taken : Bool) : State :=
  if taken then s.jump i i.gl ((i.pc : Int) + 4 * i.imm) else s.put i i.gl

/-- BEQ: compares gp[d] with gp[a] (Table 7.4). -/
def execBeq (g : BitVec 10) (s : State) : Out := atInstr s g 0x18 fun i => s.branch i (decide (i.rd = i.ra))
/-- BNE (Table 7.4). -/
def execBne (g : BitVec 10) (s : State) : Out := atInstr s g 0x19 fun i => s.branch i (decide (i.rd ≠ i.ra))
/-- BLT: signed (Table 7.4). -/
def execBlt (g : BitVec 10) (s : State) : Out := atInstr s g 0x1A fun i => s.branch i (i.rd.slt i.ra)
/-- BGE: signed (Table 7.4). -/
def execBge (g : BitVec 10) (s : State) : Out := atInstr s g 0x1B fun i => s.branch i (!i.rd.slt i.ra)
/-- JAL: gp[d] receives the byte address of the next word (Table 7.4). -/
def execJal (g : BitVec 10) (s : State) : Out :=
  atInstr s g 0x1C fun i => s.jump i (i.gl.setGpr i.d (BitVec.ofNat 64 (i.pc + 4))) ((i.pc : Int) + 4 * i.imm)
/-- JR: jumps to the byte address in gp[a] (Table 7.4). -/
def execJr (g : BitVec 10) (s : State) : Out :=
  atInstr s g 0x1D fun i => s.form i 23 (s.jump i i.gl (i.ra.toNat : Int))

/-- LI: a 48-bit immediate, sign-extended (Table 7.4); bits [15:13] are reserved. -/
def execLi (g : BitVec 10) (s : State) : Out :=
  atInstr s g 0x80 fun i =>
    if i.f 15 13 = 0 then s.put i (i.gl.setGpr i.d (BitVec.ofInt 64 (signedOf 48 (i.f 63 16)))) else s.instrFault i 0x02

/-! ### Special registers -/

/-- What SR.RD returns for a code of Table 7.2, and the glade after the read; none for another code. -/
def State.specialRead (s : State) (i : Issue) (sr : Nat) : Option (DWord × Glade) :=
  let gl := i.gl
  let pl := s.plot i.p
  match sr with
  | 0x00 => some (BitVec.ofNat 64 (i.g % 32 + 32 * (i.g / 32) + 1024 * i.g), gl)
  | 0x01 => some (BitVec.ofNat 64 i.p, gl)
  | 0x02 => some (s.ringCount, gl)
  | 0x03 => some (gl.stepNum, gl)
  | 0x04 => some (gl.sBase, gl)
  | 0x05 => some (flag64 gl.genBit, gl)
  | 0x06 => some (BitVec.ofNat 64 pl.isa.toNat, gl)
  | 0x07 => some (flag64 pl.exact, gl)
  | 0x08 => some (gl.wdl, gl)
  | 0x09 => some (gl.nack, { gl with nack := 0 })
  | 0x0A => some (BitVec.ofNat 64 gl.nackc.toNat, { gl with nackc := 0 })
  | _ => none

/-- SR.RD (R169). -/
def execSrRd (g : BitVec 10) (s : State) : Out :=
  atInstr s g 0x20 fun i => s.form i 21 (
    match s.specialRead i (i.f 20 13) with
    | some r => s.put i (r.2.setGpr i.d r.1)
    | none => s.instrFault i 0x04)

/-- SR.WR (R169): SR_WDL alone can be written; RO and RC registers raise cause 0x0B, other codes cause 0x04. -/
def execSrWr (g : BitVec 10) (s : State) : Out :=
  atInstr s g 0x21 fun i => s.form i 21 (
    if i.f 20 13 = 0x08 then s.put i { i.gl with wdl := i.rd }
    else if i.f 20 13 ≤ 0x0A then s.instrFault i 0x0B
    else s.instrFault i 0x04)

/-! ### Arrival counters and waits -/

/-- AC.POLL (Table 7.4). -/
def execAcPoll (g : BitVec 10) (s : State) : Out :=
  atInstr s g 0x25 fun i => s.form i 19 (
    s.put i (i.gl.setGpr i.d (BitVec.ofNat 64 (i.gl.ctr (i.f 18 13)).toNat)))

/-- AC.ADD (R180); counters 62 and 63 raise cause 0x04 (R498). -/
def execAcAdd (g : BitVec 10) (s : State) : Out :=
  atInstr s g 0x26 fun i => s.form i 30 (
    if i.f 13 8 ≥ 62 then s.instrFault i 0x04 else (s.put i i.gl).countUp i.g (i.f 13 8) (i.f 29 14))

/-- The glade after a satisfied wait: the target is subtracted, what the counter counts is visible (R168), and the next
instruction issues (R181). -/
def Glade.satisfied (gl : Glade) (i : Issue) (c t : Nat) : Glade :=
  (({ gl.setCtr c (gl.ctr c - BitVec.ofNat 16 t) with mode := .running }).seenCtr c).step i

/-- AC.WAIT (R181): satisfied when the counter is at or above imm, else the glade waits. -/
def execAcWait (g : BitVec 10) (s : State) : Out :=
  atInstr s g 0x24 fun i => s.form i 30 (
    let c := i.f 13 8
    let t := i.f 29 14
    if t ≤ (i.gl.ctr c).toNat then s.setGlade i.g (i.gl.satisfied i c t)
    else s.setGlade i.g { i.gl with mode := .waitCtr (BitVec.ofNat 6 c) (BitVec.ofNat 16 t) false })

/-- A satisfied wait that was late counts one late exchange (R49, R183). -/
def State.lateXchg (s : State) (late : Bool) : State := if late then s.bumpField Reg.stepStat 31 16 1 else s

/-- AC_WAIT_SATISFIED (R181): the counter of a waiting glade has reached its target. -/
def execAcWaitSatisfied (g : BitVec 10) (s : State) : Out :=
  let i := s.issueOf g.toNat
  match i.gl.mode with
  | .waitCtr c t late =>
    if t.toNat ≤ (i.gl.ctr c.toNat).toNat then
      .next ((s.lateXchg late).setGlade i.g (i.gl.satisfied i c.toNat t.toNat))
    else .next s
  | _ => .next s

/-- The second half of XC.WAIT, once the ring count has come: as AC.WAIT, late when the counter is short (R183). -/
def State.xcArrived (s : State) (i : Issue) (c t : Nat) : State :=
  if t ≤ (i.gl.ctr c).toNat then s.setGlade i.g (i.gl.satisfied i c t)
  else s.setGlade i.g { i.gl with mode := .waitCtr (BitVec.ofNat 6 c) (BitVec.ofNat 16 t) true }

/-- XC.WAIT (R183). -/
def execXcWait (g : BitVec 10) (s : State) : Out :=
  atInstr s g 0x27 fun i =>
    let c := i.f 13 8
    let t := i.f 26 14
    let till := i.gl.gpr (i.f 31 27)
    if till.toNat ≤ s.rt then s.xcArrived i c t
    else s.setGlade i.g { i.gl with mode := .waitTime till (BitVec.ofNat 6 c) (BitVec.ofNat 16 t) }

/-- XC_WAIT_TIME_REACHED (R183): the scheduled ring count of a waiting XC.WAIT has come. -/
def execXcWaitTimeReached (g : BitVec 10) (s : State) : Out :=
  let i := s.issueOf g.toNat
  match i.gl.mode with
  | .waitTime till c t => if till.toNat ≤ s.rt then .next (s.xcArrived i c.toNat t.toNat) else .next s
  | _ => .next s

/-- The counter, target and value that a wait-expiry record carries (class 0x06, Table 16.2). -/
def waitDetail (c t v : Nat) : List Byte := leBytes 2 c ++ leBytes 2 t ++ leBytes 4 v

/-- The queue of an engine opcode, by its bit in the mask of ENG.FENCE: 0 thicket, 1 serial product, 3 bole (R90, R145,
Table 7.3). -/
def engineQueue (op : Nat) : Nat :=
  if 0x58 ≤ op ∧ op ≤ 0x5A then 1 else if 0x60 ≤ op ∧ op ≤ 0x64 then 3 else 0

/-- Whether a glade's queue of a mask bit has instructions that have not completed their writes (R174). -/
def Glade.queueBusy (gl : Glade) (q : Nat) : Bool :=
  if q = 2 then !(gl.queue.isEmpty && gl.settled)
  else gl.engine.any fun e => engineQueue e.op.toNat = q

/-- Whether an ENG.FENCE with a mask has to wait. -/
def Glade.fenceWaits (gl : Glade) (mask : Nat) : Bool := (List.range 4).any fun q => bitOf mask q && gl.queueBusy q

/-- A glade that stands at an ENG.FENCE whose queues are not yet empty: it waits (Table 7.4). -/
def State.atFence (s : State) (i : Issue) : Bool :=
  s.gladeRuns i.g && !i.gl.badTarget i.pc && decide (i.op = 0x28) && decide (i.f 31 12 = 0) && i.gl.fenceWaits (i.f 11 8)

/-- WAIT_EXPIRY (R182): a wait that is unsatisfied at its deadline faults, and the step is abandoned; the deadlines of a
plot with a held read do not expire (R324). The record of a fence names no counter. DEDUCED, unsafe: log entry 144. -/
def execWaitExpiry (g : BitVec 10) (s : State) : Out :=
  let i := s.issueOf g.toNat
  let expire (c t : Nat) : State :=
    let s1 := (s.setGlade i.g { i.gl with mode := .stopped }).bump Reg.gldWexp 1
    s1.abandonFault i.p { cls := 0x06, cause := 0, glade := some i.g, pc := i.pc,
                          detail := waitDetail c t (i.gl.ctr c).toNat } false
  if s.deadline i.gl ≤ s.rt && !s.readHeld i.p then
    match i.gl.mode with
    | .waitCtr c t _ => if t.toNat ≤ (i.gl.ctr c.toNat).toNat then .next s else .next (expire c.toNat t.toNat)
    | .waitTime till c t => if till.toNat ≤ s.rt then .next s else .next (expire c.toNat t.toNat)
    | _ =>
      if s.atFence i then
        .next (((s.setGlade i.g { i.gl with mode := .stopped }).bump Reg.gldWexp 1).abandonFault i.p
          { cls := 0x06, cause := 0, glade := some i.g, pc := i.pc, detail := waitDetail 0 0 0 } false)
      else .next s
  else .next s

/-- A glade in which every drain is over (R91). -/
def Glade.drainOver (gl : Glade) : Glade := { gl with tiles := gl.tiles.filter fun e => decide (e.2.mode ≠ .draining) }

/-- A glade that has passed an ENG.FENCE with a mask: the writes of the named queues are visible (R168), and a fence on the
thicket queue leaves no tile draining. -/
def Glade.fenced (gl : Glade) (mask : Nat) : Glade :=
  let gl1 := (List.range 4).foldl (fun x q => if bitOf mask q then x.seenQueue q else x) gl
  if bitOf mask 0 then gl1.drainOver else gl1

/-- ENG.FENCE (R168, R174): it waits until every earlier instruction of the named queues has completed its writes; for
bit [10] that is when the transfer queue is empty and every MEM.RD and MEM.WR has completed. -/
def execEngFence (g : BitVec 10) (s : State) : Out :=
  atInstr s g 0x28 fun i => s.form i 12 (
    if i.gl.fenceWaits (i.f 11 8) then s else s.put i (i.gl.fenced (i.f 11 8)))

/-- STEP.END (R166, R167). -/
def execStepEnd (g : BitVec 10) (s : State) : Out :=
  atInstr s g 0x30 fun i => s.form i 8 (s.setGlade i.g { i.gl.step i with mode := .ended })

/-! ### Leases -/

/-- The resource word gp[a]. -/
def Issue.res (i : Issue) : Word := BitVec.ofNat 32 i.ra.toNat

/-- A lease code returned to gp[d], and the next instruction issues. -/
def State.leaseCode (s : State) (i : Issue) (code : Nat) : State :=
  s.put i ({ i.gl with mode := .running }.setGpr i.d (BitVec.ofNat 64 code))

/-- Whether the stand image permits a plot the class of a resource (Table 14.4, Table 7.10). -/
def State.classPermitted (s : State) (p : Nat) (res : Word) : Bool :=
  let c := res.toNat / 2 ^ 24
  decide (1 ≤ c ∧ c ≤ 5) && (s.plot p).leases.getLsbD (c - 1)

/-- Whether an exchange slot's lease may go to a plot (R334); other classes have no such list. -/
def State.slotPermitted (s : State) (p : Nat) (res : Word) : Bool :=
  let k := res.toNat % 2 ^ 24
  if res.toNat / 2 ^ 24 = 4 then (mget 0 s.image.setup.exchange k).getLsbD p && !s.image.drainSlots.contains k else true

/-- The lease faults for discarded canopy instructions, one each (R223). -/
def discardFaults (p : Nat) (res : Word) : List CanopyInstr → State → State
  | [], s => s
  | i :: is, s =>
    discardFaults p res is (s.abandonFault p
      { cls := 0x05, cause := 4, glade := some i.glade.toNat, pc := i.q.pc, detail := leBytes 4 res.toNat } false)

/-- What the end of a lease that is already free does to its resource (R100, R223): each effect brings its former holder a
lease fault. -/
def State.leaseEnds (s : State) (l : Lease) (cause : Nat) : State :=
  let u := l.res.toNat % 2 ^ 24
  let qs := s.queuedUnder l
  let staged := l.res.toNat / 2 ^ 24 = 5 && decide (u < 1024) && (s.glade u).stagedPending
  let s1 := discardFaults l.plot.toNat l.res qs (s.leaseGone l)
  if staged then
    s1.abandonFault l.plot.toNat { cls := 0x05, cause := cause, glade := some u, detail := leBytes 4 l.res.toNat } false
  else s1

/-- Freeing a lease whose expiry has come (R194): it is counted, and its holder is remembered. -/
def State.expireLease (s : State) (l : Lease) : State :=
  let s1 := { s with lease := (s.lease.free l.res).remember l.res l.plot true false }
  (s1.bump Reg.leaseExp 1).leaseEnds l 2

/-- LEASE_EXPIRY (R194, R100, R223): the ring count reaches a lease's expiry. -/
def execLeaseExpiry (res : BitVec 32) (s : State) : Out :=
  match s.lease.find res with
  | some l => if l.expiry.toNat ≤ s.rt then .next (s.expireLease l) else .next s
  | none => .next s

/-- Revoking one lease (R450, R451): counted, its former holder gets a lease record with cause 3.
DEDUCED, unsafe: log entry 39. -/
def State.revokeLease (s : State) (l : Lease) : State :=
  let s1 := { s with lease := (s.lease.free l.res).remember l.res l.plot false true }
  let s2 := (s1.bump Reg.leaseRvk 1).raise
    { cls := 0x05, cause := 3, plot := some l.plot.toNat, detail := leBytes 4 l.res.toNat }
  s2.leaseEnds l 3

/-- LEASE_REVOKE (R450, R451): a write of LEASE_REV names a lease by class and index. -/
def execLeaseRevoke (data : BitVec 32) (s : State) : Out :=
  match s.lease.find data with
  | some l => .next (s.revokeLease l)
  | none => .next s

/-- Revoking some leases in turn. -/
def revokeEach : List Lease → State → State
  | [], s => s
  | l :: ls, s => revokeEach ls (s.revokeLease l)

/-- LEASE_REVOKE_PLOT (R450): a write of LEASE_REVP revokes every lease of a plot. -/
def execLeaseRevokePlot (data : BitVec 32) (s : State) : Out :=
  let p := data.toNat % 64
  .next (revokeEach (s.leasesOf p) s)

/-- Expiry comes before every other action on a lease (R451). DEDUCED, unsafe: log entry 38. -/
def State.expireFirst (s : State) (res : Word) : State :=
  match s.lease.find res with
  | some l => if l.expiry.toNat ≤ s.rt then s.expireLease l else s
  | none => s

/-- LS.ACQ (R192). DEDUCED, unsafe: log entry 37. -/
def execLsAcq (g : BitVec 10) (s : State) : Out :=
  atInstr s g 0x2C fun i => s.form i 23 (
    let s1 := s.expireFirst i.res
    let i1 := s1.issueOf i.g
    let dur := i.rb
    if !s1.gladeRuns i.g then s1
    else if !(s1.classPermitted i.p i.res && s1.slotPermitted i.p i.res) then s1.leaseCode i1 3
    else
      let ask : LeaseWait := { glade := g, plot := i.gl.plot, res := i.res, dur, deadline := BitVec.ofNat 64 (s1.deadline i.gl) }
      let wait := (s1.setGlade i.g { i1.gl with mode := .waitLease (BitVec.ofNat 5 i.d) })
      let wait := { wait with lease := { wait.lease with waiting := wait.lease.waiting ++ [ask] } }
      match s1.lease.find i.res with
      | some l => if l.plot.toNat = i.p then s1.leaseCode i1 0 else wait.bump Reg.leaseBusy 1
      | none =>
        if s1.lease.held.length ≥ 256 then s1.leaseCode i1 2
        else if s1.lease.waiting.any fun w => w.res = i.res then wait
        else { s1 with lease := s1.lease.grant i.res i.gl.plot (s1.ringCount + dur) }.leaseCode i1 0)

/-- LS.REN (R193). -/
def execLsRen (g : BitVec 10) (s : State) : Out :=
  atInstr s g 0x2D fun i => s.form i 23 (
    let s1 := s.expireFirst i.res
    let i1 := s1.issueOf i.g
    if !s1.gladeRuns i.g then s1
    else match s1.lease.find i.res with
      | some l =>
        if l.plot.toNat = i.p then
          let ls := s1.lease.held.map fun l => if l.res = i.res then { l with expiry := s1.ringCount + i.rb } else l
          { s1 with lease := { s1.lease with held := ls } }.leaseCode i1 0
        else s1.leaseCode i1 5
      | none =>
        match s1.lease.last.find? fun l => l.res = i.res with
        | some l => s1.leaseCode i1 (if l.plot.toNat = i.p && (l.lapsed || l.revoked) then 4 else 5)
        | none => s1.leaseCode i1 5)

/-- LS.REL (R193). -/
def execLsRel (g : BitVec 10) (s : State) : Out :=
  atInstr s g 0x2E fun i => s.form i 23 (
    let s1 := s.expireFirst i.res
    let i1 := s1.issueOf i.g
    if !s1.gladeRuns i.g then s1
    else match s1.lease.find i.res with
      | some l =>
        if l.plot.toNat = i.p then
          { s1 with lease := (s1.lease.free i.res).remember i.res l.plot false false }.leaseCode i1 0
        else s1.leaseCode i1 5
      | none => s1.leaseCode i1 5)

/-- Ending a lease wait with a code for the glade (R192). -/
def State.leaseAnswer (s : State) (w : LeaseWait) (code : Nat) : State :=
  let i := s.issueOf w.glade.toNat
  match i.gl.mode with
  | .waitLease _ => s.leaseCode i code
  | _ => s

/-- LEASE_GRANT (R194): a freed lease goes to the first request that waits for it. -/
def execLeaseGrant (res : BitVec 32) (s : State) : Out :=
  match s.lease.find res with
  | some _ => .next s
  | none =>
    if s.lease.held.length ≥ 256 then .next s
    else match s.lease.waiting.find? fun w => w.res = res with
      | some w =>
        let u := s.lease.grant res w.plot (s.ringCount + w.dur)
        .next ({ s with lease := { u with waiting := u.waiting.erase w } }.leaseAnswer w 0)
      | none => .next s

/-- LEASE_REQUEST_TIMEOUT (R192): at its deadline the lease unit withdraws a request with code 1. -/
def execLeaseRequestTimeout (g : BitVec 10) (s : State) : Out :=
  match s.lease.waiting.find? fun w => w.glade = g with
  | some w =>
    if w.deadline.toNat ≤ s.rt then
      .next ({ s with lease := { s.lease with waiting := s.lease.waiting.erase w } }.leaseAnswer w 1)
    else .next s
  | none => .next s

end Sys2Proof.Machine
end

