-- ==== Sys2Proof/Machine/Formats.lean ====
section
/-!
DEFINITION. The layouts of Number Formats and Exactness: TP5 (R55, R56), TS16 groups (R57 to R59), TVQ codebooks and
blocks (R60 to R62, R497), activation rows (R68, R69), and outflow requantisation of one block (R77, R78, R107, R108).
-/

namespace Sys2Proof.Machine

/-! ### Ternary weights -/

/-- The five base-3 digits of a TP5 byte; none above 242 (R55). -/
def tp5Digits (b : Byte) : Option (List Nat) :=
  let x := b.toNat
  if x > 242 then none else some [x % 3, x / 3 % 3, x / 9 % 3, x / 27 % 3, x / 81 % 3]

/-- The digits of a run of TP5 bytes; none at the first byte above 242 (R497). -/
def tp5All : List Byte → Option (List Nat)
  | [] => some []
  | b :: bs =>
    match tp5Digits b with
    | none => none
    | some ds => match tp5All bs with
      | none => none
      | some r => some (ds ++ r)

/-- A base-3 digit as a weight: 0, +1, −1 (R55). -/
def trit (d : Nat) : Int := if d = 1 then 1 else if d = 2 then -1 else 0

/-- A TS16 group's count of non-zeros (Table 3.2). -/
def tsCount (g : BitVec 48) : Nat := bitsOf g.toNat 3 0
/-- Position of slot j. -/
def tsPos (g : BitVec 48) (j : Nat) : Nat := bitsOf g.toNat (8 + 5 * j + 3) (8 + 5 * j)
/-- Weight of slot j. -/
def tsSign (g : BitVec 48) (j : Nat) : Int := if bitOf g.toNat (8 + 5 * j + 4) then -1 else 1

/-- The first test of R58 that a TS16 group fails, as a cause of Table 3.3, in the order of R497. -/
def tsFault (g : BitVec 48) : Option Nat :=
  let n := tsCount g
  if n > 8 then some 0x2
  else if (List.range (n - 1)).any fun j => decide (tsPos g (j + 1) ≤ tsPos g j) then some 0x3
  else if bitsOf g.toNat 7 4 ≠ 0 ∨ g.toNat >>> (8 + 5 * n) ≠ 0 then some 0x4
  else none

/-- The 48-bit groups in a run of bytes, 6 bytes each. -/
def tsGroups (bs : List Byte) (n : Nat) : List (BitVec 48) :=
  (List.range n).map fun i => BitVec.ofNat 48 (leAt bs (6 * i) 6)

/-! ### TVQ -/

/-- A codebook record at the head of some bytes: width and entries; the cause of Table 3.3 where a test of R497 fails. -/
def tvqCodebook (bs : List Byte) : Nat ⊕ (Nat × List (BitVec 16)) :=
  let h := leAt bs 0 4
  let w := bitsOf h 7 0
  let n := bitsOf h 19 8
  if w < 4 ∨ w > 12 ∨ n = 0 ∨ n ≥ 2 ^ w ∨ bitsOf h 31 20 ≠ 0 then .inl 0xA
  else if crc32c (sliceBytes bs 0 4 ++ sliceBytes bs 8 (2 * n)) ≠ leAt bs 4 4 then .inl 0x8
  else if (sliceBytes bs 8 (2 * n)).any fun b => decide (b.toNat > 242) then .inl 0x1
  else .inr (w, (List.range n).map fun i => BitVec.ofNat 16 (leAt bs (8 + 2 * i) 2))

/-- Bytes of a codebook record by its header: header and entries. -/
def tvqCodebookLen (bs : List Byte) : Nat := 8 + 2 * bitsOf (leAt bs 0 4) 19 8

/-- The codes of a coded TVQ payload, read from bit `pos` of a payload of `len` bits held in `x`, with the last 256 codes
to come numbered downward: TP5 byte pairs, or a cause (R61, R497). The literal bytes of the block's first `lim` TP5 bytes
are tested (R119). -/
def tvqCodes (w : Nat) (entries : List (BitVec 16)) (x len lim : Nat) : Nat → Nat → Nat ⊕ (List (BitVec 16) × Nat)
  | 0, pos => .inr ([], pos)
  | k + 1, pos =>
    if pos + w > len then .inl 0x6
    else
      let code := (x >>> pos) % 2 ^ w
      if code = 2 ^ w - 1 then
        if pos + w + 16 > len then .inl 0x6
        else
          let lit := (x >>> (pos + w)) % 2 ^ 16
          let at_ := 2 * (255 - k)
          if lit % 256 > 242 ∧ at_ < lim ∨ lit / 256 > 242 ∧ at_ + 1 < lim then .inl 0x1
          else match tvqCodes w entries x len lim k (pos + w + 16) with
            | .inl c => .inl c
            | .inr r => .inr (BitVec.ofNat 16 lit :: r.1, r.2)
      else if code ≥ entries.length then .inl 0x5
      else match tvqCodes w entries x len lim k (pos + w) with
        | .inl c => .inl c
        | .inr r => .inr (entries.getD code 0 :: r.1, r.2)

/-- Payload bytes of a TVQ block by its header (R61). -/
def tvqLen (bs : List Byte) : Nat := leAt bs 0 2
/-- The raw flag of a TVQ block. -/
def tvqRaw (bs : List Byte) : Bool := bitOf (leAt bs 0 4) 16
/-- The codebook number of a TVQ block. -/
def tvqBook (bs : List Byte) : Nat := bitsOf (leAt bs 0 4) 31 24

/-- The header test of a TVQ block (cause 0x9). -/
def tvqHeaderBad (bs : List Byte) : Bool :=
  bitsOf (leAt bs 0 4) 23 17 != 0 || (if tvqRaw bs then tvqLen bs != 512 else decide (tvqLen bs ≥ 512))

/-- The check value test of a TVQ block (cause 0x8). -/
def tvqCheckBad (bs : List Byte) : Bool :=
  crc32c (sliceBytes bs 0 4 ++ sliceBytes bs 8 (tvqLen bs)) != leAt bs 4 4

/-- The 512 TP5 bytes that a TVQ block encodes, or the cause of the first test of R497 that fails; `book` gives the
codebook of a number, if the tensor has it; the first `lim` bytes hold trits of the tile (R119). -/
def tvqBlock (bs : List Byte) (book : Nat → Option (Nat × List (BitVec 16))) (lim : Nat) : Nat ⊕ List Byte :=
  if tvqHeaderBad bs then .inl 0x9
  else if tvqCheckBad bs then .inl 0x8
  else if tvqRaw bs then
    let p := sliceBytes bs 8 512
    if (p.take lim).any fun b => decide (b.toNat > 242) then .inl 0x1 else .inr p
  else match book (tvqBook bs) with
    | none => .inl 0x7
    | some b =>
      let len := 8 * tvqLen bs
      let x := leAt bs 8 (tvqLen bs)
      match tvqCodes b.1 b.2 x len lim 256 0 with
      | .inl c => .inl c
      | .inr r =>
        if len - r.2 ≥ 8 ∨ x >>> r.2 ≠ 0 then .inl 0x6
        else .inr (r.1.flatMap fun e => leBytes 2 e.toNat)

/-! ### Activation rows -/

/-- `count` signed fields of `n` bits packed from bit 0 upward (R69). -/
def unpack (n : Nat) (bs : List Byte) (count : Nat) : List Int :=
  let x := leNat bs
  (List.range count).map fun i => signedOf n (x >>> (n * i))

/-- Packing signed values into `n`-bit fields from bit 0 upward, as a number. -/
def packNat (n : Nat) : List Int → Nat
  | [] => 0
  | z :: zs => codeOf n z + 2 ^ n * packNat n zs

/-- Packing signed values into bytes. -/
def pack (n : Nat) (zs : List Int) : List Byte := leBytes ((n * zs.length + 7) / 8) (packNat n zs)

/-- Bytes of the element array of a row of `nblk` blocks (R69). -/
def rowElemBytes (f nblk : Nat) : Nat := nblk * 4 * formBits f
/-- Bytes of a whole row (R69). -/
def rowBytes (f nblk : Nat) : Nat := rowElemBytes f nblk + (5 * nblk + 7) / 8

/-- A block of a row: its exponent and its 32 elements. -/
structure Block where
  e : Int
  m : List Int
  deriving DecidableEq, Repr

/-- Block `j` of the row of `nblk` blocks that starts at byte `a` of a byte reader. -/
def readBlock (rd : Nat → Nat → List Byte) (a f nblk j : Nat) : Block :=
  let n := formBits f
  let bit := 5 * j
  let eb := leNat (rd (a + rowElemBytes f nblk + bit / 8) 2)
  { e := signedOf 5 (eb >>> (bit % 8)), m := unpack n (rd (a + 4 * n * j) (4 * n)) 32 }

/-- `k` blocks from block `j0`. -/
def readBlocks (rd : Nat → Nat → List Byte) (a f nblk j0 k : Nat) : List Block :=
  (List.range k).map fun i => readBlock rd a f nblk (j0 + i)

/-- The masked byte writes that put a 5-bit exponent at bit `bit` of an exponent array at byte `a` (R106). The pad bits of
the array's last byte (R69) keep what they hold. DESIGN CHOICE, unsafe: log entry 145. -/
def expWrites (a bit : Nat) (e : Int) : List (Nat × Byte × Byte) :=
  let v := codeOf 5 e * 2 ^ (bit % 8)
  let m := 31 * 2 ^ (bit % 8)
  let lo := (a + bit / 8, BitVec.ofNat 8 v, BitVec.ofNat 8 m)
  if m ≥ 256 then [lo, (a + bit / 8 + 1, BitVec.ofNat 8 (v / 256), BitVec.ofNat 8 (m / 256))] else [lo]

/-- The byte writes that put a block at place `j` of the row of `nblk` blocks at byte `a`: whole element bytes, masked
exponent bytes. -/
def blockWrites (a f nblk j : Nat) (b : Block) : List (Nat × Byte × Byte) :=
  let n := formBits f
  let bs := pack n b.m
  (List.range bs.length).map (fun i => (a + 4 * n * j + i, bs.getD i 0, (0xFF : Byte)))
    ++ expWrites (a + rowElemBytes f nblk) (5 * j) b.e

/-! ### Outflow of one block -/

/-- The parameters of an outflow (R77): output form, B_out, anchor of the next layer, S_acc. -/
structure OutParams where
  f : Nat
  bOut : Int
  eLoOut : Int
  sAcc : Int
  deriving DecidableEq, Repr

/-- One lane before the exponent search: a value on the scale 2^(S_acc − 15 + off), or an extreme to be written as it
is; `sat`: the lane was saturated in L48, `mark`: it counts as clamped (R107). -/
inductive OutLane where
  | val (t : Int)
  | fixed (m : Int) (clamped : Bool)
  deriving DecidableEq, Repr

/-- The largest exponent of the search (R77 step 3). -/
def eTop (eLo : Int) : Int := min (eLo + 15) 15

/-- Whether every value fits `n` bits at exponent `e`, on shift base `k0` (k = k0 + e). -/
def fitsAt (n : Nat) (k0 e : Int) (ls : List OutLane) : Bool :=
  ls.all fun l => match l with
    | .val t => fitsBits n (rne t (k0 + e))
    | .fixed _ _ => true

/-- The exponent that R77 step 3 chooses. -/
def chooseExp (n : Nat) (k0 eLo : Int) (ls : List OutLane) : Int :=
  let top := eTop eLo
  let cands := (List.range (top - eLo + 1).toNat).map fun (i : Nat) => eLo + (i : Int)
  match cands.find? fun e => fitsAt n k0 e ls with
  | some e => e
  | none => top

/-- A block written by outflow: the block, the lanes clamped, and the lanes with t ≠ 0 and m = 0 (R77, R78). -/
structure OutBlock where
  b : Block
  clamped : Nat
  zeroed : Nat
  deriving DecidableEq, Repr

/-- Outflow of the lanes of one block, with shift base `k0` = B_out − S_acc + 15 − (scale offset) (R77, R78). -/
def outBlock (f : Nat) (k0 eLo : Int) (ls : List OutLane) : OutBlock :=
  let n := formBits f
  let e := chooseExp n k0 eLo ls
  let raw := ls.map fun l => match l with
    | .val t => ((rne t (k0 + e), false, decide (t ≠ 0)) : Int × Bool × Bool)
    | .fixed m c => ((m, c, false) : Int × Bool × Bool)
  let ms := raw.map fun r => clampBits n r.1
  { b := { e, m := ms }
    clamped := (raw.filter fun r => r.2.1 || !fitsBits n r.1).length
    zeroed := (raw.filter fun r => r.2.2 && decide (r.1 = (0 : Int))).length }

end Sys2Proof.Machine
end

