-- ==== Sys2Proof/Machine/Messages.lean ====
section
/-!
DEFINITION. The mesh (R185 to R191): route words, sending, tag checks, receive windows, refusals and the arrival of
write messages, refusals and broadcasts; and the map from logical to physical glades (R195, R198).
-/

namespace Sys2Proof.Machine

/-- The physical glade, 66·grove + index, that serves a logical glade (R195); none if it is unmapped (R198). -/
def State.physOf (s : State) (g : Nat) : Option Nat :=
  let gv := groveOf g
  let k := groveIndex g
  let m := s.regN (Reg.gldMap + 4 * gv)
  let ph := 66 * gv + (if bitsOf m 6 0 = k then 64 else if bitsOf m 14 8 = k then 65 else k)
  if (mget PhysGlade.init s.power.phys ph).failed then none else some ph

/-- The fields of a message's route word (Table 7.9). -/
structure Route where
  dst : Nat
  addr : Nat
  ctr : Nat
  nflit : Nat
  kind : Nat
  src : Nat
  plot : Nat
  attempt : Nat
  deriving DecidableEq, Repr

/-- The route word of some fields (Table 7.9). -/
def Route.word (r : Route) : DWord :=
  BitVec.ofNat 64 (r.dst % 32 + 2 ^ 5 * (r.dst / 32 % 32) + 2 ^ 10 * (r.addr % 2 ^ 16) + 2 ^ 26 * (r.ctr % 64)
    + 2 ^ 32 * (r.nflit % 256) + 2 ^ 40 * (r.kind % 16) + 2 ^ 44 * (r.src % 1024) + 2 ^ 54 * (r.plot % 64)
    + 2 ^ 60 * (r.attempt % 4))

/-- The fields of a route word. -/
def routeOf (w : DWord) : Route :=
  let x := w.toNat
  { dst := bitsOf x 4 0 + 32 * bitsOf x 9 5, addr := bitsOf x 25 10, ctr := bitsOf x 31 26, nflit := bitsOf x 39 32,
    kind := bitsOf x 43 40, src := bitsOf x 53 44, plot := bitsOf x 59 54, attempt := bitsOf x 61 60 }

/-- Flits less one of a payload. -/
def flitsOf (n : Nat) : Nat := (n + 63) / 64 - 1

/-- A message entering the mesh. DESIGN CHOICE, safe: log entry 110. -/
def State.send (s : State) (r : Route) (bytes : List Byte) (extra : List (Nat × Byte × Byte)) : State :=
  { s with mesh := s.mesh ++ [{ route := r.word, bytes, rank := none, extra }] }

/-- Removing the first message between two glades from a list. -/
def takeFirst (src dst : Nat) : List MeshMsg → Option (MeshMsg × List MeshMsg)
  | [] => none
  | m :: ms =>
    let r := routeOf m.route
    if r.src = src ∧ r.dst = dst then some (m, ms)
    else match takeFirst src dst ms with
      | none => none
      | some x => some (x.1, m :: x.2)

/-- The oldest message from one glade to another, and the state without it: messages between two glades arrive in the
order they were sent (R186). DESIGN CHOICE, safe: log entry 3. -/
def State.takeMsg (s : State) (src dst : Nat) : Option (MeshMsg × State) :=
  match takeFirst src dst s.mesh with
  | none => none
  | some x => some (x.1, { s with mesh := x.2 })

/-- Whether one receive window of a glade admits every listed byte for a plot (R187). -/
def Glade.admits (gl : Glade) (plot : Nat) (addrs : List Nat) : Bool :=
  gl.windows.any fun w => w.plots.getLsbD plot
    && addrs.all fun a => decide (8 * w.first.toNat ≤ a ∧ a < 8 * w.last.toNat + 8)

/-- Whether some receive window of a glade permits a plot (R187, atomic contributions). -/
def Glade.permits (gl : Glade) (plot : Nat) : Bool := gl.windows.any fun w => w.plots.getLsbD plot

/-- The first cause of R189 that a message meets, in the order 0x4, 0x1, 0x2, 0x3. -/
def State.refusalCause (s : State) (g : Nat) (admitted : Bool) (ctr : Nat) : Option Nat :=
  let gl := s.glade g
  if (s.physOf g).isNone then some 0x4
  else if !gl.inService || gl.drained then some 0x1
  else if !admitted then some 0x2
  else if ctr ≥ 62 then some 0x3
  else none

/-- The refusal message of R189: back to the sender, from the plot of the refusing glade (Table 7.9) and with the tag of the
refused message (R188), the refused route word and the cause. -/
def State.refuse (s : State) (r : Route) (w : DWord) (cause : Nat) : State :=
  s.send { dst := r.src, addr := 0, ctr := 63, nflit := 0, kind := 2, src := r.dst, plot := s.plotOf r.dst,
           attempt := r.attempt } (leBytes 8 w.toNat ++ [BitVec.ofNat 8 cause] ++ zeroBytes 55) []

/-- The byte addresses that a write message touches. -/
def MeshMsg.addrs (m : MeshMsg) (r : Route) : List Nat :=
  ((List.range m.bytes.length).map fun i => 8 * r.addr + i) ++ m.extra.map (·.1)

/-- A write message accepted: its bytes are written, and its counter counts one (R180, R187). The receiver keeps the
count per counter and sender for R442 step 5. -/
def State.acceptWrite (s : State) (m : MeshMsg) (r : Route) : State :=
  let gl := s.glade r.dst
  let c := some (BitVec.ofNat 6 r.ctr)
  let gl := (gl.writeFor none c (8 * r.addr) m.bytes).maskFor none c m.extra
  let note := (BitVec.ofNat 6 r.ctr, BitVec.ofNat 6 r.plot, BitVec.ofNat 2 r.attempt)
  (s.setGlade r.dst { gl with accepted := note :: gl.accepted }).countUp r.dst r.ctr 1

/-- MESSAGE_ARRIVAL (R187 to R189): the oldest message between two glades, of kind 0. -/
def execMessageArrival (src dst : BitVec 10) (s : State) : Out :=
  match s.takeMsg src.toNat dst.toNat with
  | none => .next s
  | some (m, s1) =>
    let r := routeOf m.route
    if r.kind ≠ 0 then .next s
    else if (s1.plot r.plot).tag.toNat ≠ r.attempt then .next s1
    else match s1.refusalCause r.dst ((s1.glade r.dst).admits r.plot (m.addrs r)) r.ctr with
      | some c => .next (s1.refuse r m.route c)
      | none => .next (s1.acceptWrite m r)

/-- REFUSAL_ARRIVAL (R188, R190): a refusal reaches the sender; SR_NACK keeps an unread value.
DEDUCED, unsafe: log entry 120. -/
def execRefusalArrival (src dst : BitVec 10) (s : State) : Out :=
  match s.takeMsg src.toNat dst.toNat with
  | none => .next s
  | some (m, s1) =>
    let r := routeOf m.route
    let gl := s1.glade r.dst
    if r.kind ≠ 2 then .next s
    else if (s1.plot gl.plot.toNat).tag.toNat ≠ r.attempt then .next s1
    else
      let w := BitVec.ofNat 64 (leAt m.bytes 0 8)
      let c := leAt m.bytes 8 1
      let gl := if gl.nack = 0 then { gl with nack := w, nackc := BitVec.ofNat 4 c } else gl
      let s2 := ((s1.setGlade r.dst gl).countUp r.dst 63 1).bump Reg.gldNack 1
      .next (s2.plotFault gl.plot.toNat
        { cls := 0x08, cause := c, glade := some r.dst, detail := leBytes 8 w.toNat })

end Sys2Proof.Machine
end

