-- ==== Sys2Proof/Machine/HostOut.lean ====
section
/-!
DEFINITION. What the module sends to the host on Ohmip (R369 to R375, R385): building a record, the order of output,
credit, and putting records on the wire.
-/

namespace Sys2Proof.Machine

/-- Bytes of a string with a range replaced. -/
def patchBytes (bs : List Byte) (i : Nat) (new : List Byte) : List Byte :=
  bs.take i ++ new ++ bs.drop (i + new.length)

/-- A record of a kind and body, with its sequence and check value still zero (Table 13.8). -/
def recordOf (kind : Nat) (body : List Byte) : List Byte :=
  let b := padTo 8 body
  leBytes 2 (1 + 16 * kind) ++ [0, 0] ++ leBytes 4 (16 + b.length) ++ zeroBytes 8 ++ b

/-- A record with its sequence and check value. -/
def sealRecord (bs : List Byte) (seq : Nat) : List Byte :=
  let b := patchBytes bs 8 (leBytes 4 seq)
  patchBytes b 12 (leBytes 4 (crc32c b))

/-- The 64-byte units a record takes (R370). -/
def creditUnits (n : Nat) : Nat := (n + 63) / 64

/-- The order of output (R371): channel 0 before channel 1, and within channel 0 by class, oldest first.
DEDUCED, unsafe: log entry 128. -/
def outOrder (q : List OutRecord) : List OutRecord :=
  (q.filter fun r => r.chan = 0 && r.cls = 0) ++ (q.filter fun r => r.chan = 0 && r.cls = 1)
  ++ (q.filter fun r => r.chan = 0 && r.cls ≥ 2) ++ (q.filter fun r => r.chan ≠ 0)

/-- Sending queued records in order while their channel's credit lasts: the stream after, and the records kept. -/
def pumpList (o : Ohmip) : List Nat → List OutRecord → Ohmip × List OutRecord
  | _, [] => (o, [])
  | blocked, r :: rs =>
    let u := creditUnits r.bytes.length
    if blocked.contains r.chan || decide (o.used.getD r.chan 0 + u > o.credit.getD r.chan 0) then
      let x := pumpList o (r.chan :: blocked) rs
      (x.1, r :: x.2)
    else
      let q := o.nextOut.getD r.chan 0
      let bs := sealRecord r.bytes q.toNat
      let o1 := { o with
        nextOut := setAt o.nextOut r.chan (q + 1)
        used := setAt o.used r.chan (o.used.getD r.chan 0 + u)
        sent := o.sent ++ [{ r with seq := q, bytes := bs }]
        wire := o.wire ++ [bs] }
      pumpList o1 blocked rs

/-- Releasing queued output while the stream is up (R370, R371, R385). -/
def State.pump (s : State) : State :=
  if s.ohmip.up then
    let x := pumpList s.ohmip [] (outOrder s.ohmip.outq)
    { s with ohmip := { x.1 with outq := x.2 } }
  else s

/-- Queuing a record of a kind on a channel in an output class, and sending what may be sent. -/
def State.hostSend (s : State) (chan cls kind : Nat) (body : List Byte) : State :=
  let r : OutRecord := { chan, cls, seq := 0, bytes := recordOf kind body }
  State.pump { s with ohmip := { s.ohmip with outq := s.ohmip.outq ++ [r] } }

/-- The Ohmip stream down (R372): an up stream's loss sets its cause of GBL_STAT (Table 18.4). -/
def State.ohmipDown (s : State) : State :=
  let s1 := { s with ohmip := { s.ohmip with up := false, ver := 0, hello := false, discarding := false } }
  if s.ohmip.up then s1.setCause 9 else s1

/-- An item of a kind that Table 13.6 reserves, on a stream that is up or exchanges hellos. -/
def Ohmip.reserved (o : Ohmip) (kind : Nat) : Bool := decide (5 ≤ kind) && (o.up || o.hello)

/-- The link retrains after a reserved item (Table 13.6). -/
def State.ohmipRetrain (s : State) : State := (s.bump Reg.ohmLdf 1).ohmipDown

/-- The FETCH record of R382: a block of a region. -/
def State.fetchBlock (s : State) (region off len : Nat) : State :=
  s.hostSend 0 1 0x044 ([BitVec.ofNat 8 region, 0, 0, 0] ++ leBytes 8 off ++ leBytes 4 len ++ leBytes 8 s.rt)

end Sys2Proof.Machine
end

