-- ==== Sys2Proof/Machine/Repair.lean ====
section
/-!
DEFINITION. The blocks of checked reads (R305) and the repair of a failed block (R319 to R324): the repair table, its
steps, write-back and verification, weak and failed blocks, and the tracing of scratchpad bytes to their source (R117).
-/

namespace Sys2Proof.Machine

/-! ### Blocks -/

/-- Whether a block's bytes pass their check. -/
def BlockCheck.good (c : BlockCheck) (bs : List Byte) : Bool :=
  match c with
  | .value v => crc32c bs == v.toNat
  | .tp5 v => crc32c bs == v.toNat && bs.all fun b => decide (b.toNat ≤ 242)
  | .ts16 v => crc32c bs == v.toNat && (tsGroups bs (bs.length / 6)).all fun g => (tsFault g).isNone
  | .tvq => decide (8 ≤ bs.length) && decide (bs.length = 8 + tvqLen bs) && !tvqCheckBad bs
  | .tvqIn w es => match tvqBlock bs (fun _ => some (w, es)) 512 with
    | .inl _ => false
    | .inr _ => true
  | .codebook => match tvqCodebook bs with
    | .inl _ => false
    | .inr _ => true
  | .patrol => true

/-- One block of a checked read: its device range address, its length and its check. -/
structure BlockRef where
  addr : Nat
  len : Nat
  chk : BlockCheck
  deriving DecidableEq, Repr

/-- TVQ blocks from offset `pos` of an extent (R305), each to the next 8-byte boundary. -/
def tvqBlocks (m : Memory) (a n : Nat) : Nat → Nat → List BlockRef
  | 0, _ => []
  | fuel + 1, pos =>
    if pos ≥ n then []
    else
      let len := min (8 + leNat (m.read (a + pos) 2)) (n - pos)
      { addr := a + pos, len, chk := .tvq } :: tvqBlocks m a n fuel ((pos + len + 7) / 8 * 8)

/-- The blocks of a checked read of `n` bytes (R305). DEDUCED, unsafe: log entry 109. -/
def blocksOf (m : Memory) (a n chk table : Nat) : List BlockRef :=
  if chk = 3 then tvqBlocks m a n (n / 8) 0
  else
    let bs := if chk = 1 then 16384 else 12288
    (List.range (ceilDiv n bs)).map fun j =>
      { addr := a + j * bs, len := min bs (n - j * bs), chk := .value (BitVec.ofNat 32 (leNat (m.read (table + 4 * j) 4))) }

/-! ### The repair table -/

/-- Changing entry `k`. -/
def State.setRepair (s : State) (k : Nat) (e : RepairEntry) : State :=
  { s with mem := { s.mem with repairs := setAt s.mem.repairs k e } }

/-- Removing entry `k`; the writes that waited for its block follow (R322). -/
def State.dropRepair (s : State) (k : Nat) : State :=
  { s with mem := Memory.flushLate { s.mem with repairs := s.mem.repairs.eraseIdx k } }

/-- A transfer to which a block is delivered. -/
def Transfer.deliver (addr : Nat) (t : Transfer) : Transfer :=
  if t.waiting.contains addr then { t with waiting := t.waiting.filter fun w => w ≠ addr, good := addr :: t.good } else t

/-- Delivering a block to the reads that wait for it (R320). -/
def State.deliver (s : State) (addr : Nat) : State :=
  mapGlades (fun gl => { gl with transfers := gl.transfers.map (Transfer.deliver addr) }) (s.glades.map (·.1)) s

/-- The plots with a read that waits for the block of an entry. -/
def State.waitingPlots (s : State) (e : RepairEntry) : List (BitVec 6) :=
  let a := s.mem.repairAddr e
  ((s.glades.filter fun x => x.2.transfers.any fun t => t.waiting.contains a).map (·.2.plot))
  ++ (s.mem.held.filter fun h => decide (a < h.addr + h.len) && decide (h.addr < a + e.len)).filterMap (·.plot)

/-- Block-unavailable records for the plots of a list that have not been told (R323, R440). -/
def tellPlots (k : Nat) : List (BitVec 6) → State → State
  | [], s => s
  | p :: ps, s =>
    match s.mem.repairs[k]? with
    | none => s
    | some e =>
      if e.told.contains p then tellPlots k ps s
      else
        let s1 := s.setRepair k { e with told := p :: e.told }
        tellPlots k ps (s1.raise { cls := 0x0B, cause := e.cause, plot := some p.toNat,
                                   detail := [BitVec.ofNat 8 e.region, 0, 0, 0] ++ leBytes 8 e.off })

/-- Declaring a block failed (R323). -/
def State.failBlock (s : State) (k : Nat) (e : RepairEntry) (cause : Nat) : State :=
  let s1 := (s.setRepair k { e with step := .failed, cause := cause }).bump Reg.memRepf 1
  tellPlots k (s1.waitingPlots e) s1

/-- A plot told of the failed blocks that its read joins (R323). -/
def tellJoined (p : BitVec 6) : List RepairEntry → State → State
  | [], s => s
  | e :: es, s =>
    let s1 := match s.mem.repairs.findIdx? fun x => x = e, e.step with
      | some k, .failed => tellPlots k [p] s
      | _, _ => s
    tellJoined p es s1

/-- Extents of an instruction's or a block's own reads entered as held (R322, R323): those that meet a block under
repair. -/
def holdEach (p : Option (BitVec 6)) : List (Nat × Nat) → State → State
  | [], s => s
  | e :: es, s =>
    let on := s.mem.repairsOn e.1 e.2
    let h : HeldRead := { plot := p, addr := e.1, len := e.2 }
    let s1 := if on.isEmpty || s.mem.held.contains h then s else { s with mem := { s.mem with held := s.mem.held ++ [h] } }
    holdEach p es (match p with
      | some x => tellJoined x on s1
      | none => s1)

/-- Reading some extents, or waiting while one meets a block under repair (R322): the reads are then held, and nothing else
happens. -/
def State.whenReadable (s : State) (p : Option (BitVec 6)) (es : List (Nat × Nat)) (k : State) : State :=
  if s.mem.blocked es then holdEach p es { s with mem := { s.mem with held := s.mem.stillHeld } } else k

/-- The step after a failed mirror read, or after a failed retry of a region without a mirror: the host, or failed. -/
def State.askHost (s : State) (k : Nat) (e : RepairEntry) : State :=
  match s.mem.region e.region with
  | some r =>
    if r.hrep then (s.setRepair k { e with step := .host, asked := s.ringCount }).fetchBlock e.region e.off e.len
    else s.failBlock k { e with asked := s.ringCount } 1
  | none => s.failBlock k e 1

/-- The step after the retry (R320, R321). -/
def State.afterRetry (s : State) (k : Nat) (e : RepairEntry) : State :=
  match s.mem.region e.region with
  | some r => if r.mirror then s.setRepair k { e with step := .mirror } else s.askHost k e
  | none => s.askHost k e

/-- The place of the copy of a block that failed: its source's, or its mirror's (R325). -/
def Memory.repairPhys (m : Memory) (e : RepairEntry) : Option Nat :=
  if e.ofMirror then (m.region e.region).map fun r => r.mirrorPhys e.off else m.physOf (m.repairAddr e)

/-- Whether the block that starts at a place is marked weak (R321). -/
def Memory.weakAt (m : Memory) (p : Option Nat) : Bool := match p with
  | some x => m.weak.contains x
  | none => false

/-- Whether the block of an entry is marked weak. -/
def Memory.isWeak (m : Memory) (e : RepairEntry) : Bool := m.weakAt (m.repairPhys e)

/-- Opening an entry for a block of a region, unless the table is full (R322); a weak block skips the retry (R321).
`ofMirror`: the copy that failed is the mirror's. DEDUCED, unsafe: log entry 134. -/
def State.openRepairOf (s : State) (ofMirror : Bool) (rg off len : Nat) (chk : BlockCheck) : State :=
  if s.mem.repairs.length ≥ 64 || s.mem.repairs.any (fun x => decide (x.region = rg) && decide (x.off = off)) then s
  else
    let e : RepairEntry := { region := rg, off, len, chk, ofMirror, step := .retry, asked := s.ringCount, mirrorBad := false, cause := 0, told := [] }
    let k := s.mem.repairs.length
    let s1 := { s with mem := { s.mem with repairs := s.mem.repairs ++ [e], held := s.mem.stillHeld } }
    if s.mem.isWeak e then s1.afterRetry k e else s1

/-- Opening an entry for a block whose source failed. -/
def State.openRepair (s : State) (rg off len : Nat) (chk : BlockCheck) : State := s.openRepairOf false rg off len chk

/-- The bytes of an entry's block: of the copy that failed, or of the other. -/
def State.repairBytes (s : State) (e : RepairEntry) (other : Bool) : List Byte :=
  match s.mem.region e.region with
  | some r => if e.ofMirror != other then s.mem.readMirror r e.off e.len else s.dev (s.mem.repairAddr e) e.len
  | none => s.dev (s.mem.repairAddr e) e.len

/-- Whether the bytes of the copy that failed pass their check. -/
def State.repairGood (s : State) (e : RepairEntry) : Bool := e.chk.good (s.repairBytes e false)

/-- A poisoned access of an entry's block counted: of the copy that failed, or of the other. -/
def State.repairPoison (s : State) (e : RepairEntry) (other : Bool) : State :=
  s.poisonAt (s.mem.repairPhys { e with ofMirror := e.ofMirror != other })

/-- Writing bytes over the source copy of a block; a granule that moves is marked dirty (R314). -/
def writeSource (r : Region) : List Byte → Nat → Memory → Memory
  | [], _, m => m
  | b :: bs, o, m =>
    match m.place r o with
    | some p => writeSource r bs (o + 1) (Memory.dirtyAt { m with phys := mset 0 m.phys p b } (r.base.toNat + o))
    | none => writeSource r bs (o + 1) m

/-- Writing bytes over the mirror copy of a block. -/
def writeMirror (r : Region) : List Byte → Nat → Memory → Memory
  | [], _, m => m
  | b :: bs, o, m => writeMirror r bs (o + 1) { m with phys := mset 0 m.phys (r.mirrorPhys o) b }

/-- A good copy found: it is written over the copy that failed, and over the other if that failed too, the waiting reads
get it, and the verification read follows (R320, R321). -/
def State.writeBack (s : State) (k : Nat) (e : RepairEntry) (r : Region) (bs : List Byte) (fromHost : Bool) : State :=
  let m := if !e.ofMirror || e.mirrorBad then writeSource r bs e.off s.mem else s.mem
  let m := if r.mirror && (e.ofMirror || e.mirrorBad) then writeMirror r bs e.off m else m
  State.deliver (({ s with mem := m }).setRepair k { e with step := .verify fromHost }) (s.mem.repairAddr e)

/-- REPAIR_RETRY_COMPLETE (R320 step 1). -/
def execRepairRetryComplete (k : Nat) (bad : Bool) (s : State) : Out :=
  match s.mem.repairs[k]? with
  | none => .next s
  | some e =>
    let s := if bad && e.step == .retry then s.repairPoison e false else s
    if e.step ≠ .retry then .next s
    else if !bad && s.repairGood e then
      .next (((s.deliver (s.mem.repairAddr e)).dropRepair k).bump Reg.memRetry 1)
    else .next (s.afterRetry k e)

/-- REPAIR_MIRROR_COMPLETE (R320 step 2): the other copy of the block, which is the mirror's unless the mirror's copy failed
(R325). -/
def execRepairMirrorComplete (k : Nat) (bad : Bool) (s : State) : Out :=
  match s.mem.repairs[k]? with
  | none => .next s
  | some e =>
    match s.mem.region e.region with
    | none => .next s
    | some r =>
      let s := if bad && e.step == .mirror then s.repairPoison e true else s
      if e.step ≠ .mirror then .next s
      else
        let bs := s.repairBytes e true
        if !bad && e.chk.good bs then .next (s.writeBack k e r bs false)
        else .next (s.askHost k { e with mirrorBad := true })

/-- Marking a block weak (R321): once, in the history of its stack. DEDUCED, unsafe: log entry 100. -/
def State.markWeak (s : State) (e : RepairEntry) : State :=
  if s.mem.isWeak e then s
  else
    match s.mem.repairPhys e with
    | some p =>
      let u := p / 2 ^ 37
      let s0 := s.errorPhys 3 p
      let s1 := { s0 with mem := { s0.mem with weak := s0.mem.weak ++ [p] } }
      let c := s.dep.life.stkWeak.getD u 0
      let w := if c = 0xFFFF then c else c + 1
      let s2 := { s1 with dep := { s1.dep with life := { s1.dep.life with stkWeak := setAt s1.dep.life.stkWeak u w } } }
      if u < 8 && decide (c.toNat + 1 = 256) then
        s2.raise { cls := 0x12, cause := 3, detail := [BitVec.ofNat 8 u] }
      else s2
    | none => s

/-- WRITEBACK_VERIFY_COMPLETE (R321): the entry closes, and its repair is counted. -/
def execWritebackVerifyComplete (k : Nat) (bad : Bool) (s : State) : Out :=
  match s.mem.repairs[k]? with
  | none => .next s
  | some e =>
    match e.step with
    | .verify h =>
      let s := if bad then s.repairPoison e false else s
      let s1 := (s.dropRepair k).bump (if h then Reg.memReph else Reg.memRepm) 1
      .next (if bad || !s.repairGood e then s1.markWeak e else s1)
    | _ => .next s

/-- REPAIR_HOST_TIMEOUT (R323, R324): the block is declared failed, and the fetch is sent again, every MEM_REP_TMO rt. -/
def execRepairHostTimeout (k : Nat) (s : State) : Out :=
  match s.mem.repairs[k]? with
  | none => .next s
  | some e =>
    if s.rt < e.asked.toNat + s.regN Reg.memRepTmo then .next s
    else
      let hrep := ((s.mem.region e.region).map (·.hrep)).getD false
      let e1 := { e with asked := s.ringCount }
      match e.step with
      | .host => .next ((s.failBlock k e1 2).fetchBlock e.region e.off e.len)
      | .failed => if hrep then .next ((s.setRepair k e1).fetchBlock e.region e.off e.len) else .next s
      | _ => .next s

/-- A host copy of a block (R320 step 3, R324, R382): used when its check passes; a bad one fails the block. -/
def State.hostCopy (s : State) (region off : Nat) (bs : List Byte) : State :=
  match s.mem.repairs.findIdx? fun e => decide (e.region = region ∧ e.off = off) with
  | none => s.bump Reg.ohmDup 1
  | some k =>
    match s.mem.repairs[k]?, s.mem.region region with
    | some e, some r =>
      if e.len = bs.length && e.chk.good bs then s.writeBack k e r bs true
      else match e.step with
        | .host => s.failBlock k e 1
        | _ => s
    | _, _ => s

/-- Opening the repair of the source block that holds a device range address (R117): the block of the transfer that
brought the byte, in a region with a repair path; `src` is the transfer's extent. `wform`: how the expander read the
byte, 0 TP5, 1 TS16, 2 TVQ. `book`: the codebook in use. -/
def State.traceRepair (s : State) (dev : Nat) (src : SourceRun) (wform : Nat) (book : Option HeldCodebook) : State :=
  let bs :=
    if wform = 2 && book.isNone && src.chk = 3 then
      [{ addr := dev, len := tvqCodebookLen (s.dev dev 8), chk := .codebook : BlockRef }]
    else blocksOf s.mem src.addr src.len src.chk.toNat src.table
  match bs.find? (fun b => decide (b.addr ≤ dev ∧ dev < b.addr + b.len)), s.mem.regionOf dev 1 with
  | some b, some r =>
    if r.2.kind = 1 || r.2.kind = 3 then
      let chk := match b.chk, book with
        | .value v, _ => if wform = 0 then .tp5 v else if wform = 1 then .ts16 v else .value v
        | .tvq, some h => .tvqIn h.width h.entries
        | c, _ => c
      s.openRepair r.1 (b.addr - r.2.base.toNat) b.len chk
    else s
  | _, _ => s

end Sys2Proof.Machine
end

