-- ==== Sys2Proof/Machine/Engine.lean ====
section
/-!
DEFINITION. What the engine instructions share: the common header (Table 4.9), the count that ENG.N overrides (R282),
tile access (Table 4.4), precision-tag and format faults (R110, R116, R117), and updates of tile lanes (R74, R75).
-/

namespace Sys2Proof.Machine

/-- Whether every listed bit range of the instruction words is zero. -/
def Issue.zeros (i : Issue) (rs : List (Nat × Nat)) : Bool := rs.all fun r => i.f r.1 r.2 == 0

/-- The meaning of an engine instruction with its count N: the state after it, or none while it has to wait. -/
abbrev EngineOp := Issue → Nat → State → Option State

/-- An engine instruction command that enters another unit's queue: the count N is the override of ENG.N, if one is pending, else the n field plus one
(R282). `hasCount`: the instruction's n is a count; an override on any other raises cause 0x04. An override of 0 retires
the instruction without effect. -/
def atEngine (s : State) (g : BitVec 10) (op : Nat) (hasCount : Bool) (k : Issue → Nat → State) : Out :=
  atInstr s g op fun i =>
    match i.gl.engN with
    | none => k i (i.f 23 16 + 1)
    | some c =>
      if !hasCount then s.instrFault i 0x04
      else
        let i' := { i with gl := { i.gl with engN := none } }
        if c = 0 then s.put i' i'.gl else k i' c.toNat

/-- First tile T. -/
def Issue.t (i : Issue) : Nat := i.f 15 8
/-- The close bit. -/
def Issue.close (i : Issue) : Bool := bitOf i.w 24
/-- The activation form field. -/
def Issue.aform (i : Issue) : Nat := i.f 26 25

/-- The tests that end in an instruction fault, in order: the first that holds gives the cause.
DEDUCED, unsafe: log entry 33. -/
def State.checks (s : State) (i : Issue) (cs : List (Bool × Nat)) (k : State) : State :=
  match cs.find? fun c => c.1 with
  | some c => s.instrFault i c.2
  | none => k

/-- The tests of an engine instruction, before it goes on or waits. DEDUCED, unsafe: log entry 33. -/
def State.tests (s : State) (i : Issue) (cs : List (Bool × Nat)) (k : Option State) : Option State :=
  match cs.find? fun c => c.1 with
  | some c => some (s.instrFault i c.2)
  | none => k

/-- Whether a plot runs instruction-set version 1. -/
def State.isaOne (s : State) (p : Nat) : Bool := decide ((s.plot p).isa = 1)

/-! ### Faults of the engines -/

/-- A precision-tag fault at a glade's own instruction (R110): counted as raised, and the step is abandoned. -/
def State.tagFault (s : State) (i : Issue) (cause tile : Nat) : State :=
  (s.bump Reg.accPtag 1).abandonFault i.p
    { cls := 0x02, cause := cause, glade := some i.g, pc := i.pc, detail := [BitVec.ofNat 8 tile] } false

/-- Reading a source run of the scratchpad that holds a byte (R117). -/
def Glade.sourceOf (gl : Glade) (a : Nat) : Option SourceRun :=
  gl.sources.find? fun r => decide (r.lo ≤ a ∧ a < r.hi)

/-- A format fault raised on scratchpad bytes (R116, R117): counted in NUM_FMT; traced bytes abandon the step and start
the repair of their source block, untraced bytes halt the plot. `wform`, `book`: how the bytes were read.
DEDUCED, unsafe: log entry 34. -/
def State.formatFault (s : State) (i : Issue) (cause addr wform : Nat) (book : Option HeldCodebook) : State :=
  let s1 := s.bump Reg.numFmt 1
  match i.gl.sourceOf addr with
  | some r =>
    let dev := r.addr + (addr - r.spa)
    (s1.traceRepair dev r wform book).abandonFault i.p
      { cls := 0x04, cause := cause, glade := some i.g, pc := i.pc, detail := leBytes 6 dev } false
  | none =>
    s1.haltFault i.p { cls := 0x04, cause := cause, glade := some i.g, pc := i.pc, detail := leBytes 6 addr }

/-! ### Tiles -/

/-- Lane `l` of a tile. -/
def Tile.lane (t : Tile) (l : Nat) : L48 := t.lanes.getD l 0

/-- The 128 lanes of a tile. -/
def Tile.all (t : Tile) : List L48 := (List.range 128).map t.lane

/-- The lanes as 768 bytes (R71, R94). -/
def Tile.bytes (t : Tile) : List Byte := t.all.flatMap fun v => leBytes 6 v.toNat

/-- An L48 code as it is read: the code that the module never produces is negative saturation (Table 3.5).
DEDUCED, unsafe: log entry 122. -/
def readLane (v : L48) : L48 := if v = 0x800000000000 then satNeg else v

/-- 128 lanes read from 768 bytes. -/
def lanesOf (bs : List Byte) : List L48 := (List.range 128).map fun l => readLane (BitVec.ofNat 48 (leAt bs (6 * l) 6))

/-- A tile after one update per lane: lanes under R74, new saturations counted under R75. -/
def Tile.update (t : Tile) (us : List Update) : Tile :=
  let ls := (List.range 128).map fun l => addLane (t.lane l) (us.getD l (.val 0))
  let n := ((List.range 128).filter fun l => newlySat (t.lane l) (ls.getD l 0)).length
  { t with lanes := ls, satFlag := t.satFlag || decide (n > 0), satCnt := addCnt t.satCnt n }

/-- Whether an ordered tile still waits for its batch (R98). -/
def Tile.waits (t : Tile) : Bool :=
  match t.ordered with
  | some o => !o.applied
  | none => false

/-- The fault that accumulation into a tile meets (Table 4.4). -/
def Tile.accFault (t : Tile) (form : Nat) : Option Nat :=
  match t.mode with
  | .free => some 0x3
  | .draining => some 0x3
  | .hia => some 0x4
  | .opened => if t.tags.form.toNat = form then none else some 0x1

/-- The fault that reading a tile meets (Table 4.4). -/
def Tile.readFault (t : Tile) : Option Nat :=
  match t.mode with
  | .free => some 0x3
  | .draining => some 0x3
  | .hia => some 0x4
  | .opened => none

/-- The fault that opening a tile meets (Table 4.4). -/
def Tile.openFault (t : Tile) : Option Nat :=
  match t.mode with
  | .opened => some 0x2
  | .hia => some 0x4
  | _ => none

/-- The first fault among tiles `t` to `t + n − 1`, with its tile. -/
def Glade.firstFault (gl : Glade) (t n : Nat) (f : Tile → Option Nat) : Option (Nat × Nat) :=
  ((List.range n).filterMap fun j => (f (gl.tile (t + j))).map fun c => (t + j, c)).head?

/-- Whether any of the tiles waits for an ordered batch. -/
def Glade.anyWaits (gl : Glade) (t n : Nat) : Bool := (List.range n).any fun j => (gl.tile (t + j)).waits

/-- A tile read with the close bit (R91). -/
def Tile.closed (t : Tile) (close : Bool) : Tile := if close then { Tile.init with mode := .draining, tags := t.tags } else t

/-- Changing tiles `t + j` by a function of `j`. -/
def Glade.mapTiles (gl : Glade) (t : Nat) (f : Nat → Tile → Tile) : List Nat → Glade
  | [] => gl
  | j :: js => Glade.mapTiles (gl.setTile (t + j) (f j (gl.tile (t + j)))) t f js

/-- Running an instruction over tiles `t` to `t + n − 1`: a tile's fault is a precision-tag fault and the instruction
does not complete (R93); where `waits`, a tile whose ordered batch has not been applied makes it wait (R98). -/
def State.onTiles (s : State) (i : Issue) (n : Nat) (f : Tile → Option Nat) (waits : Bool) (k : Option State) :
    Option State :=
  match i.gl.firstFault i.t n f with
  | some (t, c) => some (s.tagFault i c t)
  | none => if waits && i.gl.anyWaits i.t n then none else k

end Sys2Proof.Machine
end

