-- ==== Sys2Proof/Machine/Thicket.lean ====
section
/-!
DEFINITION. The thicket and its expander (R85 to R88, R112 to R122, R131, R500), the accumulator store (R91 to R104) and
outflow (R105 to R108): the instructions of Table 4.9.
-/

namespace Sys2Proof.Machine

/-! ### The expander -/

/-- The digits of a TP5 tile that starts at a digit position (R56), or the byte offset of the first byte above 242. -/
def tp5Tile (bs : List Byte) (digit : Nat) : Nat ⊕ List (BitVec 2) :=
  match bs.findIdx? fun b => decide (b.toNat > 242) with
  | some k => .inl k
  | none => .inr (((tp5All bs).getD []).drop digit |>.take 16384 |>.map (BitVec.ofNat 2))

/-- The groups of a TS16 tile, or the first bad group's index and cause (R114, R497). -/
def tsTile (bs : List Byte) : (Nat × Nat) ⊕ List (BitVec 48) :=
  let gs := tsGroups bs 2048
  match gs.findIdx? fun g => (tsFault g).isSome with
  | some k => .inl (k, (tsFault (gs.getD k 0)).getD 0)
  | none => .inr gs

/-- TP5 bytes of a tile's block `6 − k` that hold trits of the tile: all 512, or 205 of the last block (R118, R119). -/
def tileBytes (k : Nat) : Nat := if k = 0 then 205 else 512

/-- The seven TVQ blocks of a tile from byte `a` (R118), `k` to come after this one: the TP5 bytes, the raw blocks seen and
the end; or the address and cause of the first fault. All coded blocks name one codebook (R120). -/
def tvqTile (rd : Nat → Nat → List Byte) (book : Nat × List (BitVec 16)) :
    Nat → Nat → Option Nat → (Nat × Nat) ⊕ (List Byte × Nat × Nat)
  | 0, a, _ => .inr ([], 0, a)
  | k + 1, a, num =>
    let bs := rd a 520
    let lookup := fun n => match num with
      | some m => if n = m then some book else none
      | none => some book
    match tvqBlock bs lookup (tileBytes k) with
    | .inl c => .inl (a, c)
    | .inr tp =>
      let num' := if tvqRaw bs then num else some (tvqBook bs)
      match tvqTile rd book k ((a + 8 + tvqLen bs + 7) / 8 * 8) num' with
      | .inl x => .inl x
      | .inr (rest, raws, e) => .inr (tp ++ rest, raws + natOfBool (tvqRaw bs), e)

/-- A glade with a tile loaded in its shadow buffer. -/
def Glade.loadShadow (gl : Glade) (t : WeightTile) : Glade := { gl with shadow := t, shadowLoaded := true }

/-- A tile loaded by the expander from some bytes: it fills the shadow buffer, and the gc that the read loses to its own
bank conflicts are counted (R115, R178). -/
def State.loadTile (s : State) (i : Issue) (gl : Glade) (t : WeightTile) (src len : Nat) : State :=
  let k := readConflicts src len
  ((s.put i (gl.loadShadow t)).pendCount Reg.expStall i.p k).bump Reg.gldBank k

/-- THK.LDW (R85, R86, R109, R114 to R122, R497). A shadow tile that no swap has consumed makes it wait. -/
def thkLdw : EngineOp := fun i _ s =>
  let wform := i.f 33 32
  let tr := bitOf i.w 34
  let digit := i.f 37 35
  let src := i.f 58 40
  let aux := i.f 82 64
  let tp5Len := (digit + 16384 + 4) / 5
  s.tests i
    [(s.isaOne i.p && (wform == 1 || wform == 2), 0x01),
     (!i.zeros [(31, 27), (39, 38), (63, 59), (127, 83), (15, 8), (23, 16), (24, 24)], 0x02),
     (wform != 0 && digit != 0, 0x02), (wform != 2 && aux != 0, 0x02),
     (wform == 3 || decide (digit > 4), 0x04),
     (wform == 0 && decide (src + tp5Len > spadSize), 0x06),
     (wform == 1 && decide (src + 12288 > spadSize), 0x06),
     (wform == 2 && (src % 8 != 0 || decide (src + 8 > spadSize) || decide (aux + 8 > spadSize)), 0x06)] (
  if i.gl.shadowLoaded then none
  else if wform = 0 then
    match tp5Tile (i.gl.read src tp5Len) digit with
    | .inl k => s.formatFault i 0x1 (src + k) 0 none
    | .inr ds => s.loadTile i i.gl (.dense tr ds) src tp5Len
  else if wform = 1 then
    match tsTile (i.gl.read src 12288) with
    | .inl (k, c) => s.formatFault i c (src + 6 * k) 1 none
    | .inr gs => s.loadTile i i.gl (.sparse tr gs) src 12288
  else
    match tvqCodebook (i.gl.read aux (tvqCodebookLen (i.gl.read aux 8))) with
    | .inl c => s.formatFault i c aux 2 none
    | .inr book =>
      let held : HeldCodebook := { addr := aux, width := book.1, entries := book.2, number := 0 }
      match tvqTile i.gl.read book 7 src none with
      | .inl (a, c) => s.formatFault i c a 2 (some held)
      | .inr (tp, raws, e) =>
        if e > spadSize + 7 then s.instrFault i 0x06
        else
          let ds := ((tp.flatMap fun b => (tp5Digits b).getD [0, 0, 0, 0, 0]).take 16384).map (BitVec.ofNat 2)
          (s.loadTile i { i.gl with codebook := some held } (.dense tr ds) src (e - src)).pendCount Reg.expRaw i.p raws)

/-! ### One pass -/

/-- One element as it enters the array: its value after the rounding of R73, its shift, and whether its block lies
above the shift range. -/
structure Elem where
  m : Int
  sh : Nat
  above : Bool
  deriving DecidableEq, Repr

/-- The elements of a block that enters a tile with anchor `eLo`, and whether the block counts as under-anchor (R73). -/
def enter (eLo : Int) (b : Block) : List Elem × Bool :=
  let sft := b.e - eLo
  if sft < 0 then (b.m.map fun m => { m := rne m (-sft), sh := 0, above := false }, true)
  else if sft ≤ 15 then (b.m.map fun m => { m, sh := sft.toNat, above := false }, false)
  else (b.m.map fun m => { m, sh := 0, above := true }, false)

/-- The update of one lane by the contributions of one pass (R87): `cs` pairs each logical input with its weight. -/
def passLane (es : List Elem) (val : Int → Int) (cs : List (Nat × Int)) : Update :=
  let get := fun (k : Nat) => es.getD k { m := 0, sh := 0, above := false }
  let high := cs.filter fun c => (get c.1).above && decide (c.2 * val (get c.1).m ≠ 0)
  match high.foldl (fun (acc : Option (Nat × Int)) c => match acc with
      | none => some c
      | some a => if c.1 < a.1 then some c else acc) none with
  | some c => .sat (decide (c.2 * val (get c.1).m > 0))
  | none => .val ((cs.map fun c => c.2 * val (get c.1).m * 2 ^ (get c.1).sh).sum)

/-- The low nibble of R70. -/
def lowNibble (m : Int) : Int := m % 16
/-- The high nibble of R70, shifted. -/
def highNibble (m : Int) : Int := m / 16 * 16

/-- The passes of a form: one, or two nibble passes for A8 (R70). -/
def passes (form : Nat) : List (Int → Int) := if form = 3 then [lowNibble, highNibble] else [id]

/-- The slots of a TS16 group as pairs of position and weight. -/
def tsSlots (g : BitVec 48) : List (Nat × Int) := (List.range (tsCount g)).map fun k => (tsPos g k, tsSign g k)

/-- The contributions that reach lane `l` of output tile `half` from a weight tile: logical input and weight (R56, R59,
R86, R112, R131). -/
def WeightTile.inputs (t : WeightTile) (half l : Nat) : List (Nat × Int) :=
  match t with
  | .dense tr ds => (List.range 128).map fun r => (r, trit (ds.getD (if tr then 128 * l + r else 128 * r + l) 0).toNat)
  | .sparse false gs =>
    (List.range 16).flatMap fun j => (tsSlots (gs.getD (16 * l + j) 0)).map fun p => (16 * j + p.1, p.2)
  | .sparse true gs =>
    (List.range 128).flatMap fun c =>
      (tsSlots (gs.getD (16 * c + 8 * half + l / 16) 0)).filterMap fun p => if p.1 = l % 16 then some (c, p.2) else none

/-- The updates of one pass on one output tile. -/
def WeightTile.pass (t : WeightTile) (es : List Elem) (half : Nat) (val : Int → Int) : List Update :=
  (List.range 128).map fun l => passLane es val (t.inputs half l)

/-- A tile after every pass of one vector. -/
def Tile.vector (x : Tile) (w : WeightTile) (es : List Elem) (form half : Nat) : Tile :=
  (passes form).foldl (fun x val => x.update (w.pass es half val)) x

/-- Blocks that a vector takes from its row: eight for a forward TS16 tile, else four (R109, R131). -/
def WeightTile.blocks (t : WeightTile) : Nat :=
  match t with
  | .sparse false _ => 8
  | _ => 4

/-- Output tiles per vector (R131). -/
def WeightTile.outs (t : WeightTile) : Nat :=
  match t with
  | .sparse true _ => 2
  | _ => 1

/-- Whether a weight tile is TS16 (R500). -/
def WeightTile.isSparse (t : WeightTile) : Bool :=
  match t with
  | .sparse _ _ => true
  | _ => false

/-- The elements of a vector, and its under-anchor blocks. -/
def vectorOf (rd : Nat → Nat → List Byte) (a form nblk j0 k : Nat) (eLo : Int) : List Elem × Nat :=
  let bs := (readBlocks rd a form nblk j0 k).map (enter eLo)
  (bs.flatMap (·.1), (bs.filter (·.2)).length)

/-- The fields of THK.MM (Table 4.10). -/
structure MmArgs where
  form : Nat
  base : Nat
  stride : Nat
  nblk : Nat
  j0 : Nat
  keys : Nat
  deriving DecidableEq, Repr

/-- Under-anchor blocks of one vector at its tiles, as pairs of layer tag and count: `lows` gives, for each tile the vector
enters, its layer tag and which blocks lie under its anchor. A block counts once (R73), with the first tile whose anchor it
lies under. DEDUCED, unsafe: log entry 146. -/
def underCounts : List (Nat × List Bool) → List Bool → List (Nat × Nat)
  | [], _ => []
  | x :: xs, seen =>
    let new := (List.zip x.2 seen).map fun y => y.1 && !y.2
    (x.1, (new.filter id).length) :: underCounts xs ((List.zip x.2 seen).map fun y => y.1 || y.2)

/-- Vector `v` into its tiles: each tile shifts the blocks by its own anchor (R73, R131). The glade, and the under-anchor
counts by layer tag. -/
def mmVector (a : MmArgs) (w : WeightTile) (t v : Nat) (gl : Glade) : Glade × List (Nat × Nat) :=
  let bs := readBlocks gl.read (a.base + v * a.stride) a.form a.nblk a.j0 w.blocks
  let outs := (List.range w.outs).map fun h =>
    let x := gl.tile (t + w.outs * v + h)
    (x, bs.map (enter x.tags.eLo.toInt))
  let gl1 := (List.range w.outs).foldl (fun y h => match outs[h]? with
    | some o => y.setTile (t + w.outs * v + h) (o.1.vector w (o.2.flatMap (·.1)) a.form h)
    | none => y) gl
  (gl1, underCounts (outs.map fun o => (o.1.tags.layer.toNat, o.2.map (·.2))) (bs.map fun _ => false))

/-- Vectors `v` onward into tiles: the glade and the under-anchor counts (R87). -/
def mmTiles (a : MmArgs) (w : WeightTile) (t : Nat) : List Nat → Glade → List (Nat × Nat) → Glade × List (Nat × Nat)
  | [], gl, u => (gl, u)
  | v :: vs, gl, u =>
    let r := mmVector a w t v gl
    mmTiles a w t vs r.1 (u ++ r.2)

/-- Adding under-anchor counts to the layers of the tiles that the blocks entered (R79). -/
def pendUnder (p : Nat) : List (Nat × Nat) → State → State
  | [], s => s
  | u :: us, s => pendUnder p us (s.pendLayer p u.1 0 0 u.2)

/-! ### The hash-indexed accumulator -/

/-- The set of a key (R102). -/
def Hia.setOf (h : Hia) (key : Word) : Nat :=
  let k := key.toNat
  ((k % 256) ^^^ (k / 2 ^ 8 % 256) ^^^ (k / 2 ^ 16 % 256) ^^^ (k / 2 ^ 24)) % (h.count / 4)

/-- A spill record of an entry (R103); `flags`: [0] by eviction, [1] by drain. -/
def spillRecord (key : Word) (t : Tile) (flags : Nat) : List Byte :=
  leBytes 4 key.toNat ++ leBytes 2 t.satCnt.toNat ++ [BitVec.ofNat 8 flags] ++ zeroBytes 57 ++ t.bytes

/-- A fresh entry tile. -/
def Hia.fresh (h : Hia) : Tile := { Tile.init with mode := .hia, tags := h.tags }

/-- Allocating a tile for a key (R102): the lowest free way, or the way allocated earliest after spilling it; none when
the spill would pass the limit (R103). The answer says whether a record was spilled. -/
def Glade.allocate (gl : Glade) (h : Hia) (key : Word) : Option (Glade × Hia × Nat × Bool) :=
  let set0 := h.first + 4 * h.setOf key
  let used := h.entries.filter fun e => decide (set0 ≤ e.tile ∧ e.tile < set0 + 4)
  match ((List.range 4).map (set0 + ·)).find? fun t => !(used.any fun e => e.tile = t) with
  | some t => some (gl.setTile t h.fresh, { h with entries := h.entries ++ [{ tile := t, key }] }, t, false)
  | none =>
    match used.head? with
    | none => none
    | some e =>
      if h.spPtr + 832 > h.spLim then none
      else
        let gl := gl.writeFor (some 0) none h.spPtr (spillRecord e.key (gl.tile e.tile) 1)
        let es := (h.entries.filter fun x => x.tile ≠ e.tile) ++ [{ tile := e.tile, key }]
        some (gl.setTile e.tile h.fresh, { h with entries := es, spPtr := h.spPtr + 832 }, e.tile, true)

/-- Vectors into the hash-indexed accumulator (R102): the glade, under-anchor and spill counts, and whether a spill hit
its limit. The blocks of a discarded vector do not enter a tile and are not counted under-anchor. With a transposed TS16
tile, each vector gives its entry the lower 128 lanes of R131. DESIGN CHOICE, unsafe: log entry 147. -/
def mmHia (a : MmArgs) (w : WeightTile) : List Nat → Glade → Nat → Nat → Glade × Nat × Nat × Bool
  | [], gl, u, sp => (gl, u, sp, false)
  | v :: vs, gl, u, sp =>
    match gl.hia with
    | none => (gl, u, sp, false)
    | some h =>
      let key := BitVec.ofNat 32 (gl.readNat (8 * a.keys + 4 * v) 4)
      let ve := vectorOf gl.read (a.base + v * a.stride) a.form a.nblk a.j0 w.blocks h.tags.eLo.toInt
      if key = 0xFFFFFFFF then mmHia a w vs gl u sp
      else
        let hit := h.entries.find? fun e => e.key = key
        match hit with
        | some e => mmHia a w vs (gl.setTile e.tile ((gl.tile e.tile).vector w ve.1 a.form 0)) (u + ve.2) sp
        | none =>
          match gl.allocate h key with
          | none => (gl, u, sp, true)
          | some (gl1, h1, t, spilled) =>
            let gl2 := { gl1 with hia := some h1 }
            mmHia a w vs (gl2.setTile t ((gl2.tile t).vector w ve.1 a.form 0)) (u + ve.2) (sp + natOfBool spilled)

/-- A glade whose thicket has swapped its buffers (R85). -/
def Glade.swapped (gl : Glade) : Glade := { gl with active := gl.shadow, shadow := .zero, shadowLoaded := false }

/-- THK.MM into the hash-indexed accumulator (R102, R103). Without one, the fault is that of the FREE tile T; under another
form, that of its first tile. DESIGN CHOICE, unsafe: log entry 147. -/
def State.mmHashed (s : State) (i : Issue) (a : MmArgs) (w : WeightTile) (vecs : Nat) (gl : Glade) : State :=
  match gl.hia with
  | none => s.tagFault i 0x3 i.t
  | some h =>
    if h.tags.form.toNat ≠ a.form then s.tagFault i 0x1 h.first
    else
      let r := mmHia a w (List.range vecs) gl 0 0
      if r.2.2.2 then
        (s.setGlade i.g r.1).abandonFault i.p
          { cls := 0x03, cause := 0, glade := some i.g, pc := i.pc, detail := leBytes 4 ((r.1.hia.map (·.spPtr)).getD 0) }
          false
      else ((s.put i r.1).pendLayer i.p h.tags.layer.toNat 0 0 r.2.1).pendCount Reg.accSpill i.p r.2.2.1

/-- THK.MM (R85 to R88, R93, R102, R103, R131, R500). With swap = 1 it waits for a loaded shadow tile, and the tests that
depend on the tile are made against it. -/
def thkMm : EngineOp := fun i n s =>
  let swap := bitOf i.w 32
  let dest := bitOf i.w 33
  let sparse := bitOf i.w 34
  let a : MmArgs := { form := i.aform, base := i.f 58 40, stride := i.f 79 64, nblk := i.f 89 80, j0 := i.f 99 90,
                      keys := i.f 115 100 }
  let gl := if swap then i.gl.swapped else i.gl
  let w := gl.active
  let vecs := if w.outs = 2 && !dest then n / 2 else n
  let lastRow := a.base + (vecs - 1) * a.stride
  s.tests i
    [(s.isaOne i.p && (sparse || dest), 0x01),
     (!i.zeros [(31, 27), (24, 24), (39, 35), (63, 59), (127, 116)] || (!dest && a.keys != 0), 0x02),
     (decide (i.t + n > 256), 0x03)] (
  if swap && !i.gl.shadowLoaded then none
  else s.tests i
    [(w.isSparse != sparse, 0x04), (decide (a.j0 + w.blocks > a.nblk), 0x05),
     (decide (lastRow + rowBytes a.form a.nblk > spadSize) || (dest && decide (8 * a.keys + 4 * vecs > spadSize)), 0x06),
     (w.outs == 2 && n % 2 == 1, 0x07)] (
  if dest then some (s.mmHashed i a w vecs gl)
  else s.onTiles i n (fun t => t.accFault a.form) true (
    let r := mmTiles a w i.t (List.range vecs) gl []
    pendUnder i.p r.2 (s.put i r.1))))

/-! ### Opening, loading, saving -/

/-- The tags that ACC.OPEN, ACC.LOAD and ACC.HCFG give (R72, Table 4.11). -/
def Issue.tags (i : Issue) : Tags :=
  { form := BitVec.ofNat 2 i.aform
    eLo := BitVec.ofNat 5 (i.f 62 58)
    sAcc := BitVec.ofInt 10 (signedOf 8 (i.f 49 42) + signedOf 8 (i.f 57 50) + signedOf 5 (i.f 62 58))
    layer := BitVec.ofNat 10 (i.f 41 32) }

/-- The precision fence (R93): whether the drain of a tile among `t` to `t + n − 1` that was closed under other tags is
still under way, so that the opening waits for it, is a free truth value; the wait counts once. -/
def State.fence (s : State) (i : Issue) (n : Nat) (tags : Tags) : State :=
  if (List.range n).any fun j =>
    decide ((i.gl.tile (i.t + j)).mode = .draining) && decide ((i.gl.tile (i.t + j)).tags ≠ tags) then
    let r := s.drawBool
    if r.1 then r.2.pendCount Reg.accFence i.p 1 else r.2
  else s

/-- The module's own rank (R339). -/
def State.ownRank (s : State) : Nat :=
  let a := s.regN Reg.fabAddr
  let d := s.regN Reg.fabDim
  bitsOf a 7 0 + bitsOf d 5 0 * (bitsOf a 15 8 + bitsOf d 13 8 * bitsOf a 23 16)

/-- Whether a staged contribution comes before another (R98, R345). -/
def StagedItem.before (own : Nat) (a b : StagedItem) : Bool :=
  let ra := (a.rank.map BitVec.toNat).getD own
  let rb := (b.rank.map BitVec.toNat).getD own
  decide (ra < rb) || (decide (ra = rb) && (decide (a.src.toNat < b.src.toNat)
    || (decide (a.src = b.src) && decide (a.seq.toNat < b.seq.toNat))))

/-- Inserting a staged contribution in order. -/
def insertStaged (own : Nat) (x : StagedItem) : List StagedItem → List StagedItem
  | [] => [x]
  | y :: ys => if x.before own y then x :: y :: ys else y :: insertStaged own x ys

/-- Staged contributions in the order of application. -/
def sortStaged (own : Nat) : List StagedItem → List StagedItem
  | [] => []
  | x :: xs => insertStaged own x (sortStaged own xs)

/-- The byte address of a slot of an ordered tile's staging area (R98). -/
def OrderedTile.slotAddr (o : OrderedTile) (slot : Nat) : Nat :=
  8 * o.stage.toNat + 832 * (o.place * o.expect + slot)

/-- Applying staged contributions to a tile in order. -/
def applyStaged (gl : Glade) (o : OrderedTile) : List StagedItem → Tile → Tile
  | [], t => t
  | x :: xs, t => applyStaged gl o xs (t.update ((lanesOf (gl.read (o.slotAddr x.slot + 64) 768)).map laneUpdate))

/-- Counting the counters that applied contributions name. -/
def countStaged (g : Nat) : List StagedItem → State → State
  | [], s => s
  | x :: xs, s => countStaged g xs (s.countUp g x.ctr.toNat 1)

/-- The batch of an ordered tile, applied once all E contributions have arrived (R98). -/
def State.applyBatch (s : State) (g t : Nat) : State :=
  let gl := s.glade g
  let x := gl.tile t
  match x.ordered with
  | none => s
  | some o =>
    if o.applied || decide (o.arrived < o.expect) then s
    else
      let items := sortStaged s.ownRank o.staged
      let x1 := { applyStaged gl o items x with ordered := some { o with applied := true, staged := [] } }
      countStaged g items (s.setGlade g (gl.setTile t x1))

/-- Applying the batches that are complete among some tiles. -/
def applyBatches (g t : Nat) : List Nat → State → State
  | [], s => s
  | j :: js, s => applyBatches g t js (s.applyBatch g (t + j))

/-- The tile that ACC.OPEN makes at place `j` (R91, R98, R442 step 5). DESIGN CHOICE, safe: log entry 7. -/
def openTile (gl : Glade) (tags : Tags) (ordered : Bool) (t j e stage : Nat) : Tile :=
  let kept := gl.kept.find? fun k =>
    k.tile = t + j && k.expect = e && k.stage.toNat = stage && k.place = j
  let staged := (kept.map (·.staged)).getD []
  { Tile.init with
    mode := .opened
    tags := tags
    ordered := if ordered then
        some { expect := e, stage := BitVec.ofNat 16 stage, place := j, arrived := staged.length, applied := false, staged }
      else none }

/-- ACC.OPEN (R91 to R93, R98 to R100, R442). -/
def accOpen : EngineOp := fun i n s =>
  let ordered := bitOf i.w 63
  let stage := i.f 79 64
  let e := i.f 87 80
  s.tests i
    [(s.isaOne i.p && ordered, 0x01),
     (!i.zeros [(31, 27), (24, 24), (127, 88)] || (!ordered && (stage != 0 || e != 0)), 0x02),
     (decide (i.t + n > 256), 0x03), (ordered && e == 0, 0x04),
     (ordered && decide (8 * stage + n * e * 832 > spadSize), 0x06)] (
  if ordered && !s.holdsLease i.p 5 i.g then s.leaseFault i.p 5 i.g i.g i.pc
  else match i.gl.firstFault i.t n Tile.openFault with
    | some (t, c) => s.tagFault i c t
    | none =>
      let gl := i.gl.mapTiles i.t (fun j _ => openTile i.gl i.tags ordered i.t j e stage) (List.range n)
      let gl := { gl with kept := gl.kept.filter fun k => !decide (i.t ≤ k.tile ∧ k.tile < i.t + n) }
      applyBatches i.g i.t (List.range n) ((s.fence i n i.tags).put i gl))

/-- ACC.LOAD (R91, R104): the saturated lanes loaded are counted. -/
def accLoad : EngineOp := fun i n s =>
  let src := 8 * i.f 79 64
  s.tests i
    [(!i.zeros [(31, 27), (24, 24), (63, 63), (127, 80)], 0x02), (decide (i.t + n > 256), 0x03),
     (decide (src + 768 * n > spadSize), 0x06)] (
  match i.gl.firstFault i.t n Tile.openFault with
  | some (t, c) => s.tagFault i c t
  | none =>
    let load := fun (j : Nat) (_ : Tile) =>
      let ls := lanesOf (i.gl.read (src + 768 * j) 768)
      let k := (ls.filter fun v => (laneSat v).isSome).length
      { Tile.init with mode := .opened, tags := i.tags, lanes := ls, satFlag := decide (k > 0), satCnt := addCnt 0 k }
    (s.fence i n i.tags).put i (i.gl.mapTiles i.t load (List.range n)))

/-- ACC.SAVE (R91). -/
def accSave : EngineOp := fun i n s =>
  let dst := 8 * i.f 47 32
  s.tests i
    [(!i.zeros [(31, 27), (127, 48)], 0x02), (decide (i.t + n > 256), 0x03),
     (decide (dst + 768 * n > spadSize), 0x06)] (
  s.onTiles i n Tile.readFault i.close (
    let bytes := (List.range n).flatMap fun j => (i.gl.tile (i.t + j)).bytes
    s.put i ((i.gl.writeFor (some 0) none dst bytes).mapTiles i.t (fun _ t => t.closed i.close) (List.range n))))

/-- CHAIN.ADD (R95): the arriving lanes enter under R74. -/
def chainAdd : EngineOp := fun i n s =>
  let src := 8 * i.f 47 32
  s.tests i
    [(!i.zeros [(31, 27), (24, 24), (127, 48)], 0x02), (decide (i.t + n > 256), 0x03),
     (decide (src + 768 * n > spadSize), 0x06)] (
  s.onTiles i n (fun t => t.accFault i.aform) true (
    let add := fun (j : Nat) (t : Tile) => t.update ((lanesOf (i.gl.read (src + 768 * j) 768)).map laneUpdate)
    s.put i (i.gl.mapTiles i.t add (List.range n))))

/-- Sending one message for each tile of a range. -/
def sendTiles (mk : Nat → Route × List Byte) : List Nat → State → State
  | [], s => s
  | j :: js, s => sendTiles mk js (s.send (mk j).1 (mk j).2 [])

/-- The destination glade of bits [36:32] and [41:37]. -/
def Issue.dest (i : Issue) : Nat := i.f 36 32 + 32 * i.f 41 37

/-- A message's route from a glade's instruction. -/
def State.routeFrom (s : State) (i : Issue) (dst addr ctr len kind : Nat) : Route :=
  { dst, addr, ctr, nflit := flitsOf len, kind, src := i.g, plot := i.p, attempt := (s.plot i.p).tag.toNat }

/-- CHAIN.SEND (R94, R498): N messages of 768 bytes to consecutive slots. -/
def chainSend : EngineOp := fun i n s =>
  let dst := i.f 57 42
  let ctr := i.f 63 58
  s.tests i
    [(!i.zeros [(31, 27), (127, 64)], 0x02), (decide (i.t + n > 256), 0x03), (decide (ctr ≥ 62), 0x04),
     (decide (8 * dst + 768 * n > spadSize), 0x06)] (
  s.onTiles i n Tile.readFault i.close (
    let mk := fun j => (s.routeFrom i i.dest (dst + 96 * j) ctr 768 0, (i.gl.tile (i.t + j)).bytes)
    sendTiles mk (List.range n) (s.put i (i.gl.mapTiles i.t (fun _ t => t.closed i.close) (List.range n)))))

/-- The tags word of R96. -/
def Tags.word (t : Tags) : Nat :=
  t.form.toNat + 2 ^ 2 * t.eLo.toNat + 2 ^ 7 * t.sAcc.toNat + 2 ^ 17 * t.layer.toNat

/-- The tags that a contribution's header carries (R96). -/
def tagsOf (x : Nat) : Tags :=
  { form := BitVec.ofNat 2 x, eLo := BitVec.ofNat 5 (x / 2 ^ 2), sAcc := BitVec.ofNat 10 (x / 2 ^ 7),
    layer := BitVec.ofNat 10 (x / 2 ^ 17) }

/-- A contribution of 832 bytes (R96). -/
def contribution (g : Nat) (seq : Nat) (t : Tile) : List Byte :=
  leBytes 2 g ++ leBytes 4 t.tags.word ++ leBytes 4 seq ++ zeroBytes 54 ++ t.bytes

/-- ATOM.ADD (R96, R109, R498). -/
def atomAdd : EngineOp := fun i n s =>
  let ctr := i.f 63 58
  let t' := i.f 71 64
  s.tests i
    [(!i.zeros [(31, 27), (57, 42), (127, 72)], 0x02), (decide (i.t + n > 256 ∨ t' + n > 256), 0x03),
     (decide (ctr ≥ 62), 0x04)] (
  s.onTiles i n Tile.readFault i.close (
    let q := i.gl.seq.toNat
    let mk := fun j => (s.routeFrom i i.dest (t' + j) ctr 832 1, contribution i.g (q + j) (i.gl.tile (i.t + j)))
    let gl := { i.gl.mapTiles i.t (fun _ t => t.closed i.close) (List.range n) with
                seq := i.gl.seq + BitVec.ofNat 32 n }
    sendTiles mk (List.range n) (s.put i gl)))

/-! ### Atomic contributions at the target -/

/-- A precision-tag fault at an atomic target (R110): one record for the target's plot, one for the sender's where that
is another plot of the module; a sender on another module is named by rank. -/
def State.targetFault (s : State) (g tile cause src plot : Nat) (rank : Option (BitVec 16)) : State :=
  let p := s.plotOf g
  let sender := src + 2 ^ 10 * ((rank.map BitVec.toNat).getD 0)
  let s1 := s.bump Reg.accPtag 1
  let rec1 (gl p' : Nat) (d : List Byte) (s : State) : State :=
    s.abandonFault p' { cls := 0x02, cause := cause, glade := some gl, detail := d } false
  if rank.isNone && decide (plot ≠ p) then
    rec1 src plot [BitVec.ofNat 8 tile] (rec1 g p [BitVec.ofNat 8 tile] s1)
  else rec1 g p ([BitVec.ofNat 8 tile, 0, 0, 0] ++ leBytes 4 sender) s1

/-- The first free slot of a staging area. -/
def freeSlot (staged : List StagedItem) (e : Nat) : Nat :=
  ((List.range e).find? fun k => !(staged.any fun i => i.slot = k)).getD 0

/-- A contribution at its target tile (Table 4.4, R97 to R99). -/
def State.contribute (s : State) (g t : Nat) (bytes : List Byte) (ctr plot : Nat) (rank : Option (BitVec 16)) : State :=
  let gl := s.glade g
  let x := gl.tile t
  let src := leAt bytes 0 2 % 1024
  let tags := tagsOf (leAt bytes 2 4)
  let fault := fun c => s.targetFault g t c src plot rank
  match x.mode with
  | .free => fault 0x3
  | .draining => fault 0x3
  | .hia => fault 0x4
  | .opened =>
    if x.tags ≠ tags then fault 0x1
    else match x.ordered with
      | none =>
        if (s.plot gl.plot.toNat).exact || s.field Reg.accCtl 0 0 = 1 then fault 0x5
        else
          let x1 := x.update ((lanesOf (bytes.drop 64)).map laneUpdate)
          let met := x.all.any fun v => (laneSat v).isSome
          let caused := x1.all.any fun v => (laneSat v).isSome
          ((s.setGlade g (gl.setTile t x1)).pendCount Reg.accAtomOrd gl.plot.toNat (natOfBool (met || caused))).countUp g ctr 1
      | some o =>
        if o.applied || decide (o.arrived ≥ o.expect) then fault 0x7
        else
          let slot := freeSlot o.staged o.expect
          let item : StagedItem := { slot, src := BitVec.ofNat 10 src, seq := BitVec.ofNat 32 (leAt bytes 6 4), ctr := BitVec.ofNat 6 ctr, plot := BitVec.ofNat 6 plot, rank }
          let o1 := { o with arrived := o.arrived + 1, staged := o.staged ++ [item] }
          let gl1 := (gl.writeFor none (some (BitVec.ofNat 6 ctr)) (o.slotAddr slot) bytes).setTile t { x with ordered := some o1 }
          (s.setGlade g gl1).applyBatch g t

/-! ### The hash-indexed accumulator's instructions -/

/-- ACC.HCFG (R101). -/
def accHcfg : EngineOp := fun i _ s =>
  let code := i.f 23 16
  let n := 4 * 2 ^ code
  s.tests i
    [(s.isaOne i.p, 0x01), (!i.zeros [(31, 27), (24, 24), (63, 63), (127, 96)], 0x02), (decide (code > 4), 0x04),
     (decide (i.t + n > 256), 0x03), (i.t % n != 0, 0x04)] (
  if i.gl.hia.isSome then s.tagFault i 0x6 i.t
  else match i.gl.firstFault i.t n Tile.openFault with
    | some (t, c) => s.tagFault i c t
    | none =>
      let h : Hia := { first := i.t, count := n, tags := i.tags, entries := [], spPtr := 8 * i.f 79 64,
                       spLim := 8 * i.f 95 80 }
      let gl := i.gl.mapTiles i.t (fun _ _ => h.fresh) (List.range n)
      (s.fence i n i.tags).put i { gl with hia := some h })

/-- Writing resident entries as spill records, in order, from a pointer: the glade, the pointer after the last record that
fits, and whether a record would pass the limit (R103, R104). -/
def drainHia (lim : Nat) : List HiaEntry → Glade → Nat → Glade × Nat × Bool
  | [], gl, ptr => (gl, ptr, false)
  | e :: es, gl, ptr =>
    if ptr + 832 > lim then (gl, ptr, true)
    else drainHia lim es (gl.writeFor (some 0) none ptr (spillRecord e.key (gl.tile e.tile) 2)) (ptr + 832)

/-- ACC.HDRN (R104): resident entries in ascending set and way. Without a hash-indexed accumulator it reads a FREE tile,
tile 0. DESIGN CHOICE, unsafe: log entry 147. -/
def accHdrn : EngineOp := fun i _ s =>
  s.tests i
    [(s.isaOne i.p, 0x01), (!i.zeros [(31, 27), (24, 24), (127, 32), (15, 8), (23, 16)], 0x02)] (
  match i.gl.hia with
  | none => s.tagFault i 0x3 0
  | some h =>
    let es := (List.range h.count).filterMap fun k => h.entries.find? fun e => e.tile = h.first + k
    let r := drainHia h.spLim es i.gl h.spPtr
    if r.2.2 then
      (s.setGlade i.g { r.1 with hia := some { h with spPtr := r.2.1 } }).abandonFault i.p
        { cls := 0x03, cause := 0, glade := some i.g, pc := i.pc, detail := leBytes 4 r.2.1 } false
    else s.put i { r.1.mapTiles h.first (fun _ _ => Tile.init) (List.range h.count) with hia := none })

/-! ### Outflow -/

/-- An outflow descriptor (Table 4.8). -/
structure OutDesc where
  oform : Nat
  fuse : Nat
  remote : Bool
  bOut : Int
  eLoOut : Int
  bOp : Int
  rAddr : Nat
  opBase : Nat
  opStride : Nat
  dstBase : Nat
  dstStride : Nat
  nblk : Nat
  j0 : Nat
  dst : Nat
  ctr : Nat
  opForm : Nat
  reserved : Bool
  deriving DecidableEq, Repr

/-- The descriptor that 32 bytes hold. -/
def outDesc (bs : List Byte) : OutDesc :=
  let b0 := leAt bs 0 1
  let d := leAt bs 18 2
  { oform := bitsOf b0 1 0, fuse := bitsOf b0 3 2, remote := bitOf b0 4, bOut := signedOf 8 (leAt bs 1 1)
    eLoOut := signedOf 5 (leAt bs 2 1), bOp := signedOf 8 (leAt bs 3 1), rAddr := leAt bs 4 2, opBase := leAt bs 6 2
    opStride := leAt bs 8 2, dstBase := leAt bs 10 2, dstStride := leAt bs 12 2, nblk := bitsOf (leAt bs 14 2) 9 0
    j0 := bitsOf (leAt bs 16 2) 9 0, dst := bitsOf d 4 0 + 32 * bitsOf d 9 5, ctr := bitsOf d 15 10
    opForm := bitsOf (leAt bs 20 1) 1 0
    reserved := bitsOf b0 7 5 != 0 || bitsOf (leAt bs 2 1) 7 5 != 0 || bitsOf (leAt bs 14 2) 15 10 != 0
      || bitsOf (leAt bs 16 2) 15 10 != 0 || bitsOf (leAt bs 20 1) 7 2 != 0 || leAt bs 21 11 != 0 }

/-- One lane before the search (R77 step 1, R107, R108): `v` the L48 lane, `r` the factor, `m` the operand element with
the distance `d` of a fused add. -/
def outLane (n : Nat) (fuse : Nat) (v : L48) (r : Nat) (m : Int) (d : Int) : OutLane :=
  match laneSat v with
  | some pos =>
    if fuse = 2 then (if m = 0 then .fixed 0 false else .fixed (extreme n (pos == decide (m > 0))) false)
    else .fixed (extreme n pos) false
  | none =>
    let t := v.toInt * r
    if fuse = 1 then
      if d > 56 then (if m = 0 then .val t else .fixed (extreme n (decide (m > 0))) true)
      else if d < 0 then .val (t + rne m (-d))
      else .val (t + m * 2 ^ d.toNat)
    else if fuse = 2 then .val (t * m)
    else .val t

/-- Block `k` (0 to 3) of an outflow: the lanes of a tile against the rescale table and the operand block. -/
def outTileBlock (o : OutDesc) (t : Tile) (rs : List Nat) (op : Block) (k : Nat) : OutBlock × Bool :=
  let sAcc := t.tags.sAcc.toInt
  let n := formBits o.oform
  let d := o.bOp + op.e - (sAcc - 15)
  let off := if o.fuse = 2 then o.bOp + op.e else 0
  let ls := (List.range 32).map fun x =>
    outLane n o.fuse (t.lane (32 * k + x)) (rs.getD (32 * k + x) 0) (op.m.getD x 0) d
  (outBlock o.oform (o.bOut - (sAcc - 15) - off) o.eLoOut ls, o.fuse == 1 && decide (d < 0))

/-- The outflow of one tile as row `row`; its 128 lanes are written by value, since no field of the descriptor names pad
elements of a row (R77 step 5; DESIGN CHOICE, unsafe: log entry 148). The byte writes at the destination, and the lanes clamped, zeroed, and blocks
under-anchor. -/
def outTile (rd : Nat → Nat → List Byte) (o : OutDesc) (t : Tile) (row : Nat) :
    List (Nat × Byte × Byte) × Nat × Nat × Nat :=
  let rs := (List.range 128).map fun c => leNat (rd (8 * o.rAddr + 2 * c) 2)
  let opAt := 8 * (o.opBase + row * o.opStride)
  let dstAt := 8 * (o.dstBase + row * o.dstStride)
  let bs := (List.range 4).map fun k =>
    let op : Block := if o.fuse = 0 then { e := 0, m := [] } else readBlock rd opAt o.opForm o.nblk (o.j0 + k)
    outTileBlock o t rs op k
  let ws := (List.range 4).flatMap fun k => match bs[k]? with
    | some b => blockWrites dstAt o.oform o.nblk (o.j0 + k) b.1.b
    | none => []
  (ws, (bs.map fun b => b.1.clamped).sum, (bs.map fun b => b.1.zeroed).sum, (bs.filter fun b => b.2).length)

/-- Outflow of tiles `t + j`: local rows are written, remote rows sent; the tile's counts go to its layer (R78, R79). -/
def outRows (i : Issue) (o : OutDesc) (row0 : Nat) : List Nat → State → State
  | [], s => s
  | j :: js, s =>
    let gl := s.glade i.g
    let x := gl.tile (i.t + j)
    let r := outTile gl.read o x (row0 + j)
    let cnt := (addCnt x.satCnt r.2.1).toNat
    let zc := (addCnt x.zeroCnt r.2.2.1).toNat
    let x1 := if i.close then x.closed true else { x with satCnt := addCnt x.satCnt r.2.1, zeroCnt := addCnt x.zeroCnt r.2.2.1 }
    let s1 := s.pendLayer i.p x.tags.layer.toNat cnt zc r.2.2.2
    let s2 :=
      if o.remote then
        (s1.setGlade i.g (gl.setTile (i.t + j) x1)).send
          (s1.routeFrom i o.dst ((o.dstBase + (row0 + j) * o.dstStride) % 2 ^ 16) o.ctr r.1.length 0) [] r.1
      else s1.setGlade i.g ((gl.setTile (i.t + j) x1).maskFor (some 0) none r.1)
    outRows i o row0 js s2

/-- OUT (R77, R78, R105 to R108, R498). -/
def outOp : EngineOp := fun i n s =>
  let desc := 8 * i.f 47 32
  let row0 := i.f 55 48
  let o := outDesc (i.gl.read desc 32)
  let lastDst := 8 * (o.dstBase + (row0 + n - 1) * o.dstStride) + rowBytes o.oform o.nblk
  let lastOp := 8 * (o.opBase + (row0 + n - 1) * o.opStride) + rowBytes o.opForm o.nblk
  s.tests i
    [(!i.zeros [(31, 27), (127, 56)], 0x02), (decide (i.t + n > 256), 0x03), (decide (desc + 32 > spadSize), 0x06),
     (o.reserved, 0x02), (o.fuse == 3, 0x04), (o.remote && decide (o.ctr ≥ 62), 0x04),
     (decide (o.j0 + 4 > o.nblk), 0x05),
     (decide (lastDst > spadSize) || decide (8 * o.rAddr + 256 > spadSize) || (o.fuse != 0 && decide (lastOp > spadSize)),
      0x06)] (
  s.onTiles i n Tile.readFault i.close (outRows i o row0 (List.range n) (s.put i i.gl)))

end Sys2Proof.Machine
end

