-- ==== Sys2Proof/Machine/Graft.lean ====
section
/-!
DEFINITION. Graft training in a glade: GRF.UPD with its update descriptor, shadows, masks and training copies (R132 to
R139).
-/

namespace Sys2Proof.Machine

/-- An update descriptor (Table 5.7). Pairs are indexed by training copy. -/
structure GrfDesc where
  gform : Nat
  kLr : Nat
  theta : Nat
  shadow0 : Nat
  shadow1 : Nat
  tern0 : Nat
  tern1 : Nat
  units : Nat
  reserved : Bool
  deriving DecidableEq, Repr

/-- The update descriptor that 32 bytes hold. -/
def grfDesc (bs : List Byte) : GrfDesc :=
  { gform := bitsOf (leAt bs 0 1) 1 0, kLr := leAt bs 1 1, theta := bitsOf (leAt bs 2 2) 14 0, shadow0 := leAt bs 4 2
    shadow1 := leAt bs 6 2, tern0 := leAt bs 8 2, tern1 := leAt bs 10 2, units := leAt bs 12 2
    reserved := bitsOf (leAt bs 0 1) 7 2 != 0 || bitOf (leAt bs 2 2) 15 || leAt bs 14 18 != 0 }

/-- Byte address of the shadow of a training copy. -/
def GrfDesc.shadow (d : GrfDesc) (c : Nat) : Nat := 8 * (if c = 0 then d.shadow0 else d.shadow1)
/-- Byte address of the ternary tensor of a training copy. -/
def GrfDesc.tern (d : GrfDesc) (c : Nat) : Nat := 8 * (if c = 0 then d.tern0 else d.tern1)

/-- The end of the shadow bytes and of the ternary bytes of units below `q`, from the start of a copy. -/
def GrfDesc.ends (d : GrfDesc) (q : Nat) : Nat × Nat :=
  if d.gform = 0 then (256 * q, (128 * q + 4) / 5) else (384 * q, 96 * q)

/-- One position after an update (R134): the new shadow value, the new weight, and whether it was skipped and clamped. -/
def grfStep (d : GrfDesc) (g : L48) (sOld : Int) : Int × Int × Bool × Bool :=
  let skip := (laneSat g).isSome
  let v := sOld - rne g.toInt d.kLr
  let sNew := if skip then sOld else clampBits 16 v
  let t : Int := if sNew ≥ d.theta then 1 else if sNew ≤ -d.theta then -1 else 0
  (sNew, t, skip, !skip && !fitsBits 16 v)

/-- What an update unit gives: byte writes, and the positions flipped, skipped and clamped. -/
structure GrfUnit where
  writes : List (Nat × Byte)
  flips : Nat
  skips : Nat
  clamps : Nat
  deriving DecidableEq, Repr

/-- The base-3 digit of a weight. -/
def digitOf (t : Int) : Nat := if t = 1 then 1 else if t = -1 then 2 else 0

/-- Digit `k` of a TP5 byte. -/
def tp5Digit (b : Byte) (k : Nat) : Nat := b.toNat / 3 ^ k % 3

/-- A TP5 byte with the digits for which `f` answers replaced. -/
def tp5Merge (b : Byte) (f : Nat → Option Nat) : Byte :=
  BitVec.ofNat 8 ((List.range 5).map fun k => (f k).getD (tp5Digit b k) * 3 ^ k).sum

/-- One update unit of a TP5 tensor (R132, R134): the digits of the unit; digits outside it keep their values. The answer
is the address and cause of a byte above 242 that the unit must read, or the unit. -/
def grfTp5 (rd : Nat → Nat → List Byte) (d : GrfDesc) (c q : Nat) (lane : Nat → L48) (hold : Bool) :
    (Nat × Nat) ⊕ GrfUnit :=
  let b0 := 128 * q / 5
  let n := (128 * q + 127) / 5 + 1 - b0
  let src := rd (d.tern c + b0) n
  let dst := rd (d.tern (1 - c) + b0) n
  let bad := fun (b : Byte) => decide (b.toNat > 242)
  match src.findIdx? bad, dst.findIdx? bad with
  | some k, _ => .inl (d.tern c + b0 + k, 0x1)
  | none, some k => .inl (d.tern (1 - c) + b0 + k, 0x1)
  | none, none =>
    let old := fun (i : Nat) => tp5Digit (src.getD ((128 * q + i) / 5 - b0) 0) ((128 * q + i) % 5)
    let shw := fun (i : Nat) => signedOf 16 (leNat (rd (d.shadow c + 2 * (128 * q + i)) 2))
    let res := (List.range 128).map fun i =>
      if hold then (shw i, trit (old i), false, false) else grfStep d (lane i) (shw i)
    let new := fun (i : Nat) => digitOf ((res.getD i (0, 0, false, false)).2.1)
    let tern := (List.range n).map fun b =>
      (d.tern (1 - c) + b0 + b, tp5Merge (dst.getD b 0) fun k =>
        let t := 5 * (b0 + b) + k
        if 128 * q ≤ t ∧ t < 128 * q + 128 then some (new (t - 128 * q)) else none)
    let shadow := (List.range 128).flatMap fun i =>
      let v := leBytes 2 (codeOf 16 ((res.getD i (0, 0, false, false)).1))
      let a := d.shadow (1 - c) + 2 * (128 * q + i)
      [(a, v.getD 0 0), (a + 1, v.getD 1 0)]
    .inr { writes := tern ++ shadow
           flips := ((List.range 128).filter fun i => new i ≠ old i).length
           skips := (res.filter fun r => r.2.2.1).length
           clamps := (res.filter fun r => r.2.2.2).length }

/-- The first test of R133 that a mask fails, as a cause of Table 3.3. -/
def maskFault (m : BitVec 48) : Option Nat :=
  match tsFault m with
  | some c => some c
  | none => if (List.range 8).any fun k => bitOf m.toNat (8 + 5 * k + 4) then some 0x4 else none

/-- A TS16 group of some non-zeros, position and weight in slot order. -/
def tsGroupOf (nz : List (Nat × Int)) : BitVec 48 :=
  let slots := (nz.zipIdx.map fun e => (e.1.1 + (if e.1.2 < 0 then 16 else 0)) * 2 ^ (8 + 5 * e.2)).sum
  BitVec.ofNat 48 (nz.length + slots)

/-- One group of a TS16 tensor (R133, R134), number `k` in the slice; `lane` gives its eight slots. -/
def grfGroup (rd : Nat → Nat → List Byte) (d : GrfDesc) (c k : Nat) (lane : Nat → L48) : (Nat × Nat) ⊕ GrfUnit :=
  let sa := d.shadow c + 24 * k
  let ta := d.tern c + 6 * k
  let mask := BitVec.ofNat 48 (leNat (rd sa 6))
  let grp := BitVec.ofNat 48 (leNat (rd ta 6))
  match maskFault mask, tsFault grp with
  | some x, _ => .inl (sa, x)
  | none, some x => .inl (ta, x)
  | none, none =>
    let m := tsCount mask
    let old := fun (k : Nat) => match (tsSlots grp).find? fun p => p.1 = tsPos mask k with
      | some p => p.2
      | none => (0 : Int)
    let shw := fun (k : Nat) => signedOf 16 (leNat (rd (sa + 8 + 2 * k) 2))
    let res := (List.range m).map fun k => grfStep d (lane k) (shw k)
    let nz := ((List.range m).map fun k => (tsPos mask k, (res.getD k (0, 0, false, false)).2.1)).filter fun p => p.2 ≠ 0
    let tern := (leBytes 6 (tsGroupOf nz).toNat).zipIdx.map fun e => (d.tern (1 - c) + 6 * k + e.2, e.1)
    let shadow := (List.range m).flatMap fun j =>
      let v := leBytes 2 (codeOf 16 ((res.getD j (0, 0, false, false)).1))
      let a := d.shadow (1 - c) + 24 * k + 8 + 2 * j
      [(a, v.getD 0 0), (a + 1, v.getD 1 0)]
    .inr { writes := tern ++ shadow
           flips := ((List.range m).filter fun k => (res.getD k (0, 0, false, false)).2.1 ≠ old k).length
           skips := (res.filter fun r => r.2.2.1).length
           clamps := (res.filter fun r => r.2.2.2).length }

/-- A bytewise copy. -/
def copyWrites (rd : Nat → Nat → List Byte) (src dst n : Nat) : List (Nat × Byte) :=
  (rd src n).zipIdx.map fun e => (dst + e.2, e.1)

/-- The sixteen groups of an update unit, or the first fault. -/
def grfGroups (rd : Nat → Nat → List Byte) (d : GrfDesc) (c q : Nat) (lane : Nat → L48) :
    List Nat → (Nat × Nat) ⊕ GrfUnit
  | [] => .inr { writes := [], flips := 0, skips := 0, clamps := 0 }
  | g :: gs =>
    match grfGroup rd d c (16 * q + g) (fun k => lane (8 * g + k)) with
    | .inl x => .inl x
    | .inr u => match grfGroups rd d c q lane gs with
      | .inl x => .inl x
      | .inr v => .inr { writes := u.writes ++ v.writes, flips := u.flips + v.flips, skips := u.skips + v.skips, clamps := u.clamps + v.clamps }

/-- One update unit (R134, R135). -/
def grfUnit (rd : Nat → Nat → List Byte) (d : GrfDesc) (c q : Nat) (lane : Nat → L48) (hold : Bool) :
    (Nat × Nat) ⊕ GrfUnit :=
  if d.gform = 0 then grfTp5 rd d c q lane hold
  else if hold then
    .inr { writes := copyWrites rd (d.shadow c + 384 * q) (d.shadow (1 - c) + 384 * q) 384
             ++ copyWrites rd (d.tern c + 96 * q) (d.tern (1 - c) + 96 * q) 96
           flips := 0, skips := 0, clamps := 0 }
  else grfGroups rd d c q lane (List.range 16)

/-- A glade with single bytes written. -/
def Glade.writeBytes (gl : Glade) (ws : List (Nat × Byte)) : Glade :=
  gl.maskFor (some 0) none (ws.map fun w => (w.1, w.2, 0xFF))

/-- Update units `q0 + j` in order: the glade and the counts, or the first format fault. -/
def grfUnits (d : GrfDesc) (c q0 : Nat) (lane : Nat → Nat → L48) (hold : Bool) :
    List Nat → Glade → (Nat × Nat) ⊕ (Glade × Nat × Nat × Nat)
  | [], gl => .inr (gl, 0, 0, 0)
  | j :: js, gl =>
    match grfUnit gl.read d c (q0 + j) (lane j) hold with
    | .inl x => .inl x
    | .inr u => match grfUnits d c q0 lane hold js (gl.writeBytes u.writes) with
      | .inl x => .inl x
      | .inr r => .inr (r.1, u.flips + r.2.1, u.skips + r.2.2.1, u.clamps + r.2.2.2)

/-- The copy of a plot's training generation that is current (R134, R136). DEDUCED, unsafe: log entry 35. -/
def State.currentCopy (s : State) (p : Nat) : Nat := (s.plot p).generation % 2

/-- The scratchpad bytes that a GRF.UPD writes: first and end of its shadow and of its ternary bytes (R134, R138). -/
def State.grfWrites (s : State) (i : Issue) (n : Nat) : List (Nat × Nat) :=
  let d := grfDesc (i.gl.read (8 * i.f 47 32) 32)
  let c := 1 - s.currentCopy i.p
  let lo := d.ends (i.f 63 48)
  let hi := d.ends (i.f 63 48 + n)
  [(d.shadow c + lo.1, d.shadow c + hi.1), (d.tern c + lo.2, d.tern c + hi.2)]

/-- GRF.UPD over N update units (R134 to R137); bit [64] is hold (R135). -/
def grfUpd : EngineOp := fun i n s =>
  let hold := bitOf i.w 64
  let at_ := 8 * i.f 47 32
  let q0 := i.f 63 48
  let d := grfDesc (i.gl.read at_ 32)
  let c := s.currentCopy i.p
  let e := d.ends (q0 + n)
  s.tests i
    [(s.isaOne i.p, 0x01),
     (!i.zeros [(31, 25), (127, 65)] || (hold && (i.t != 0 || i.close)), 0x02),
     (!hold && decide (i.t + n > 256), 0x03), (decide (at_ + 32 > spadSize), 0x06), (d.reserved, 0x02),
     (decide (d.gform > 1 ∨ d.kLr > 47 ∨ d.theta = 0), 0x04), (decide (q0 + n > d.units), 0x07),
     ((List.range 2).any fun k => decide (d.shadow k + e.1 > spadSize ∨ d.tern k + e.2 > spadSize), 0x06)] (
  let lane := fun (j l : Nat) => (i.gl.tile (i.t + j)).lane l
  let run :=
    match grfUnits d c q0 lane hold (List.range n) i.gl with
    | .inl x => s.formatFault i x.2 x.1 d.gform none
    | .inr r =>
      if hold then s.put i r.1
      else
        let gl := r.1.mapTiles i.t (fun _ t => t.closed i.close) (List.range n)
        ((((s.put i gl).pendCount Reg.grfUpd i.p n).pendCount Reg.grfFlip i.p r.2.1).pendCount Reg.grfSkip i.p
          r.2.2.1).pendCount Reg.grfClamp i.p r.2.2.2
  if hold then some run else s.onTiles i n Tile.readFault i.close run)

end Sys2Proof.Machine
end

