-- ==== Sys2Proof/Machine/Products.lean ====
section
/-!
DEFINITION. The serial product unit (R140 to R157): planes and rounds, lane registers, stream generators, layer
descriptors, and SPU.EW, SPU.OP and SPU.GM.
-/

namespace Sys2Proof.Machine

/-! ### Layer descriptors -/

/-- A layer descriptor (Table 6.8). -/
structure LayerDesc where
  layer : Nat
  eLo : Int
  xform : Nat
  yform : Nat
  ser : Bool
  decor : Bool
  pset : Nat
  lstream : Nat
  genX : Nat
  genY : Nat
  xStride : Nat
  yStride : Nat
  xNblk : Nat
  yNblk : Nat
  boleBw : BitVec 8
  boleB : BitVec 8
  selK : Nat
  reserved : Bool
  deriving DecidableEq, Repr

/-- The layer descriptor that 32 bytes hold. -/
def layerDesc (bs : List Byte) : LayerDesc :=
  let b3 := leAt bs 3 1
  let b4 := leAt bs 4 1
  { layer := bitsOf (leAt bs 0 2) 9 0, eLo := signedOf 5 (leAt bs 2 1), xform := bitsOf b3 1 0, yform := bitsOf b3 3 2
    ser := bitOf b3 4, decor := bitOf b3 5, pset := bitsOf b4 1 0, lstream := bitsOf b4 4 2
    genX := bitsOf (leAt bs 5 1) 3 0, genY := bitsOf (leAt bs 5 1) 7 4, xStride := leAt bs 6 2, yStride := leAt bs 8 2
    xNblk := bitsOf (leAt bs 10 2) 9 0, yNblk := bitsOf (leAt bs 12 2) 9 0, boleBw := BitVec.ofNat 8 (leAt bs 14 1)
    boleB := BitVec.ofNat 8 (leAt bs 15 1), selK := bitsOf (leAt bs 16 1) 4 0
    reserved := bitsOf (leAt bs 0 2) 15 10 != 0 || bitsOf (leAt bs 2 1) 7 5 != 0 || bitsOf b3 7 6 != 0
      || bitsOf b4 7 5 != 0 || bitsOf (leAt bs 10 2) 15 10 != 0 || bitsOf (leAt bs 12 2) 15 10 != 0
      || bitsOf (leAt bs 16 1) 7 5 != 0 || leAt bs 17 15 != 0 }

/-- The faults of a layer descriptor (R151, R156), for `State.checks`. -/
def LayerDesc.faults (d : LayerDesc) : List (Bool × Nat) :=
  [(d.reserved, 0x02), (d.lstream == 7 || decide (d.selK > 16), 0x04), (d.pset == 3 && d.genX == d.genY, 0x09)]

/-! ### Planes, products and streams -/

/-- The position of the highest set bit plus one (R141). -/
def bitlen (v : Nat) : Nat := if v = 0 then 0 else v.log2 + 1
/-- Set bits of the low 8 bits (R141). -/
def popcount (v : Nat) : Nat := ((List.range 8).filter fun k => bitOf v k).length

/-- Planes that a lane processes under an exact setting (Table 6.2): magnitude and element bits of the serial operand. -/
def planesOf (pset n mag : Nat) : Nat := if pset = 0 then bitlen mag else if pset = 1 then popcount mag else n

/-- A value that enters a lane under a shift (R144): exact, saturating above 15, rounded below 0. -/
def shiftUpdate (p s : Int) : Update :=
  if s > 15 then (if p = 0 then .val 0 else .sat (decide (p > 0))) else .val (rne p (-s))

/-- A stochastic count that enters a lane (R150): the signed count, the shift `k`, and the product's shift `s`. -/
def streamUpdate (c k s : Int) : Update :=
  if s > 15 then (if c = 0 then .val 0 else .sat (decide (c > 0))) else .val (rne c (-k))

/-- One step of a generator (R148). -/
def lfsrStep (x : BitVec 32) : BitVec 32 := (x >>> 1) ^^^ (if x.getLsbD 0 then 0x80200003 else 0)

/-- The state with which generator `i` of unit `n` is loaded (R148, R206). -/
def lfsrSeed (n i : Nat) : BitVec 32 := BitVec.ofNat 32 ((16 * n + i + 1) * 0x9E3779B9)

/-- A generator's state in a table of those that have stepped since the load; a state is never zero (R148). -/
def lfsrGet (t : SMap (BitVec 32)) (n i : Nat) : BitVec 32 :=
  let v := mget 0 t i
  if v = 0 then lfsrSeed n i else v

/-- `L` draws of a generator, as n-bit stream values (R149), and the state after them. -/
def drawStream (bits : Nat) : Nat → BitVec 32 → List Nat × BitVec 32
  | 0, x => ([], x)
  | k + 1, x =>
    let x1 := lfsrStep x
    let r := drawStream bits k x1
    (x1.toNat >>> (33 - bits) :: r.1, r.2)

/-- The ten bits of a lane number reversed (R149). -/
def rev10 (l : Nat) : Nat := ((List.range 10).map fun k => natOfBool (bitOf l k) * 2 ^ (9 - k)).sum

/-- The positions at which both streams of a lane are 1 (R149). -/
def streamCount (decor : Bool) (l nx ny mx my : Nat) (ux uy : List Nat) : Nat :=
  let mask := fun (n : Nat) => if decor then rev10 l >>> (11 - n) else 0
  ((List.zip ux uy).filter fun u => decide (u.1 ^^^ mask nx < mx) && decide (u.2 ^^^ mask ny < my)).length

/-- An operand: element and block exponent. -/
structure Operand where
  m : Int
  e : Int
  deriving DecidableEq, Repr

/-- `k` blocks of a row as operands. -/
def rowOperands (rd : Nat → Nat → List Byte) (a f nblk j0 k : Nat) : List Operand :=
  (readBlocks rd a f nblk j0 k).flatMap fun b => b.m.map fun m => { m, e := b.e }

/-- One product of a round: its update, whether its shift is below zero, and the planes it takes. -/
structure Product where
  u : Update
  low : Bool
  planes : Nat
  deriving DecidableEq, Repr

/-- One product under a layer descriptor and a product setting (R140 to R144, R149, R150); `us` are the stream values of
the round under the stochastic setting; `l` is the lane. -/
def product (d : LayerDesc) (pset l : Nat) (us : List Nat × List Nat) (x y : Operand) : Product :=
  let nx := formBits d.xform
  let ny := formBits d.yform
  let s := x.e + y.e - d.eLo
  if pset = 3 then
    let c : Int := streamCount d.decor l nx ny x.m.natAbs y.m.natAbs us.1 us.2
    let k : Int := nx + ny - 2 - (6 + d.lstream : Nat) + s
    { u := streamUpdate (sgn x.m * sgn y.m * c) k s, low := decide (s < 0), planes := 2 ^ d.lstream }
  else
    let a := if d.ser then y else x
    let n := if d.ser then ny else nx
    { u := shiftUpdate (x.m * y.m) s, low := decide (s < 0), planes := planesOf pset n a.m.natAbs }

/-- The round time of some active lanes (Table 6.2, R142). -/
def roundTime (d : LayerDesc) (pset : Nat) (ps : List Nat) : Nat :=
  if pset = 2 then formBits (if d.ser then d.yform else d.xform)
  else if pset = 3 then 2 ^ d.lstream
  else ps.foldl max 1

/-! ### Rounds of an instruction -/

/-- Which lanes of a round form which products (Table 6.4): element-wise over 128·w lanes, the outer product, or the mask
slots of 128 groups. -/
inductive SpuKind where
  | ew (w : Nat)
  | op (sub : Nat)
  | gm (sub : Nat) (masks : List (BitVec 48))
  deriving DecidableEq, Repr

/-- The elements of x and y, from the first named block, that lane `l` multiplies. -/
def SpuKind.lane (k : SpuKind) (l : Nat) : Option (Nat × Nat) :=
  match k with
  | .ew w => if l < 128 * w then some (l, l) else none
  | .op sub => some (8 * sub + l / 128, l % 128)
  | .gm sub masks =>
    let g := l % 128 / 8
    let m := masks.getD (16 * (l / 128) + g) 0
    if l % 8 < tsCount m then some (16 * g + tsPos m (l % 8), 8 * sub + l / 128) else none

/-- Blocks of x and of y that a round reads. -/
def SpuKind.blocks (k : SpuKind) : Nat × Nat :=
  match k with
  | .ew w => (4 * w, 4 * w)
  | .op sub => ((8 * sub + 7) / 32 + 1, 4)
  | .gm sub _ => (8, (8 * sub + 7) / 32 + 1)

/-- What an instruction keeps while it runs: the lane registers, the generators' states, and counts. -/
structure SpuRun where
  regs : List L48
  gx : BitVec 32
  gy : BitVec 32
  planes : Nat
  idle : Nat
  under : Nat
  deriving DecidableEq, Repr

/-- The counts of one group of a round: planes, idle lane cycles, under-anchor. -/
def groupCounts (d : LayerDesc) (pset : Nat) (ps : List (Option Product)) : Nat × Nat × Nat :=
  let act := ps.filterMap id
  let planes := (act.map (·.planes)).sum
  (planes, roundTime d pset (act.map (·.planes)) * act.length - planes, natOfBool (act.any (·.low)))

/-- One round (R142 to R144): row `r` of both operands. -/
def spuRound (rd : Nat → Nat → List Byte) (d : LayerDesc) (pset : Nat) (k : SpuKind) (xa ya xj yj : Nat) (r : Nat)
    (st : SpuRun) : SpuRun :=
  let xs := rowOperands rd (xa + r * d.xStride) d.xform d.xNblk xj k.blocks.1
  let ys := rowOperands rd (ya + r * d.yStride) d.yform d.yNblk yj k.blocks.2
  let sx := if pset = 3 then drawStream (formBits d.xform) (64 * 2 ^ d.lstream) st.gx else ([], st.gx)
  let sy := if pset = 3 then drawStream (formBits d.yform) (64 * 2 ^ d.lstream) st.gy else ([], st.gy)
  let z : Operand := { m := 0, e := 0 }
  let ps := (List.range 1024).map fun l =>
    (k.lane l).map fun xy => product d pset l (sx.1, sy.1) (xs.getD xy.1 z) (ys.getD xy.2 z)
  let cs := (List.range 32).map fun g => groupCounts d pset ((ps.drop (32 * g)).take 32)
  { regs := (List.zip st.regs ps).map fun e => match e.2 with
      | some p => addLane e.1 p.u
      | none => e.1
    gx := sx.2, gy := sy.2
    planes := st.planes + (cs.map (·.1)).sum
    idle := st.idle + (cs.map (·.2.1)).sum
    under := st.under + (cs.map (·.2.2)).sum }

/-- Zero lane registers. -/
def zeroRegs : List L48 := List.replicate 1024 0

/-- Adding 128 lane registers into a tile (R145). -/
def Tile.addRegs (t : Tile) (regs : List L48) (j : Nat) : Tile := t.update (((regs.drop (128 * j)).take 128).map laneUpdate)

/-- The rows of SPU.EW: lane registers start at zero in each row and go to `w` tiles after it. -/
def ewRows (d : LayerDesc) (pset w t xa ya xj yj : Nat) : List Nat → Glade → SpuRun → Glade × SpuRun
  | [], gl, st => (gl, st)
  | r :: rs, gl, st =>
    let st1 := spuRound gl.read d pset (.ew w) xa ya xj yj r { st with regs := zeroRegs }
    let gl1 := gl.mapTiles (t + w * r) (fun j x => x.addRegs st1.regs j) (List.range w)
    ewRows d pset w t xa ya xj yj rs gl1 st1

/-- The rounds of SPU.OP and SPU.GM. -/
def opRows (rd : Nat → Nat → List Byte) (d : LayerDesc) (pset : Nat) (k : SpuKind) (xa ya xj yj : Nat) :
    List Nat → SpuRun → SpuRun
  | [], st => st
  | r :: rs, st => opRows rd d pset k xa ya xj yj rs (spuRound rd d pset k xa ya xj yj r st)

/-- The layer descriptor that a serial product instruction names. -/
def Issue.spuDesc (i : Issue) : LayerDesc := layerDesc (i.gl.read (8 * i.f 47 32) 32)

/-- The checks that every serial product instruction makes; `rows` rounds, `xb`, `yb` the last element of a row. -/
def State.spuChecks (s : State) (i : Issue) (d : LayerDesc) (rows xEnd yEnd : Nat) (more : List (Bool × Nat))
    (k : Option State) : Option State :=
  let lastX := i.f 66 48 + (rows - 1) * d.xStride + rowBytes d.xform d.xNblk
  let lastY := i.f 85 67 + (rows - 1) * d.yStride + rowBytes d.yform d.yNblk
  s.tests i
    ([(!i.zeros [(31, 27), (24, 24), (127, 125)], 0x02), (decide (8 * i.f 47 32 + 32 > spadSize), 0x06)] ++ d.faults
      ++ more ++ [(decide (32 * i.f 95 86 + xEnd ≥ 32 * d.xNblk ∨ 32 * i.f 105 96 + yEnd ≥ 32 * d.yNblk), 0x05),
        (decide (lastX > spadSize ∨ lastY > spadSize), 0x06)]) k

/-- The product setting in force: exact mode runs the stochastic setting as exact serial (R154). -/
def State.psetOf (s : State) (p : Nat) (d : LayerDesc) : Nat := if (s.plot p).exact && d.pset == 3 then 0 else d.pset

/-- The counts of a finished instruction (R143, R144, R154, Table 6.13). -/
def State.spuCounts (s : State) (i : Issue) (d : LayerDesc) (rows : Nat) (st : SpuRun) : State :=
  let s1 := (s.pendCount Reg.spuLaneLo i.p st.planes).pendCount Reg.spuIdleLo i.p st.idle
  let s2 := s1.pendCount Reg.spuStoch i.p (if s.psetOf i.p d = 3 then rows else 0)
  (s2.pendCount Reg.spuXovr i.p (natOfBool ((s.plot i.p).exact && d.pset == 3))).pendLayer i.p d.layer 0 0 st.under

/-- The run at its start: the generators that the descriptor names. -/
def Issue.spuStart (i : Issue) (d : LayerDesc) : SpuRun :=
  { regs := zeroRegs, gx := lfsrGet i.gl.lfsr i.g d.genX, gy := lfsrGet i.gl.lfsr i.g d.genY, planes := 0, idle := 0,
    under := 0 }

/-- A glade with the generators as a run leaves them. -/
def Glade.setGens (gl : Glade) (pset : Nat) (d : LayerDesc) (st : SpuRun) : Glade :=
  if pset = 3 then { gl with lfsr := mset 0 (mset 0 gl.lfsr d.genX st.gx) d.genY st.gy } else gl

/-- SPU.EW (R140 to R147, R149 to R157). -/
def spuEw : EngineOp := fun i n s =>
  let d := i.spuDesc
  let w := i.f 108 106 + 1
  let rows := n / w
  s.spuChecks i d rows (128 * w - 1) (128 * w - 1)
    [(i.f 124 109 != 0, 0x02), (n % w != 0, 0x07), (decide (i.t + n > 256), 0x03)] (
  s.onTiles i n (fun t => t.accFault i.aform) true (
    let pset := s.psetOf i.p d
    let r := ewRows d pset w i.t (i.f 66 48) (i.f 85 67) (i.f 95 86) (i.f 105 96) (List.range rows) i.gl (i.spuStart d)
    (s.put i (r.1.setGens pset d r.2)).spuCounts i d rows r.2))

/-- SPU.OP and SPU.GM over `n` rows into eight tiles. -/
def State.spuOuter (s : State) (i : Issue) (d : LayerDesc) (n : Nat) (k : SpuKind) : Option State :=
  s.onTiles i 8 (fun t => t.accFault i.aform) true (
    let pset := s.psetOf i.p d
    let st := opRows i.gl.read d pset k (i.f 66 48) (i.f 85 67) (i.f 95 86) (i.f 105 96) (List.range n) (i.spuStart d)
    let gl := i.gl.mapTiles i.t (fun j x => x.addRegs st.regs j) (List.range 8)
    (s.put i (gl.setGens pset d st)).spuCounts i d n st)

/-- SPU.OP (R146, R157). -/
def spuOp : EngineOp := fun i n s =>
  let d := i.spuDesc
  let sub := i.f 108 106
  s.spuChecks i d n (8 * sub + 7) 127 [(i.f 124 109 != 0, 0x02), (decide (i.t > 248), 0x03)] (
  s.spuOuter i d n (.op sub))

/-- The 128 masks of SPU.GM, and the first that breaks R133: its address and cause. -/
def gmMasks (rd : Nat → Nat → List Byte) (a : Nat) : (Nat × Nat) ⊕ List (BitVec 48) :=
  let ms := (List.range 128).map fun k => BitVec.ofNat 48 (leNat (rd (a + 24 * k) 6))
  match ms.findIdx? fun m => (maskFault m).isSome with
  | some k => .inl (a + 24 * k, (maskFault (ms.getD k 0)).getD 0)
  | none => .inr ms

/-- SPU.GM (R146, R157). -/
def spuGm : EngineOp := fun i n s =>
  let d := i.spuDesc
  let sub := i.f 108 106
  let mask := 8 * i.f 124 109
  s.spuChecks i d n 255 (8 * sub + 7)
    [(s.isaOne i.p, 0x01), (decide (i.t > 248), 0x03), (decide (mask + 24 * 128 > spadSize), 0x06)] (
  match gmMasks i.gl.read mask with
  | .inl x => s.formatFault i x.2 x.1 1 none
  | .inr ms => s.spuOuter i d n (.gm sub ms))

end Sys2Proof.Machine
end

