-- ==== Sys2Proof/Machine/CanopyMath.lean ====
section
/-!
DEFINITION. The arithmetic of the canopy pipeline (R200 to R221): the attention descriptor, allowed keys, page slices and
digest rows, the score and value rounds of one query on one page, and normalisation.
-/

namespace Sys2Proof.Machine

/-! ### Descriptors and geometry -/

/-- An attention descriptor (Table 8.8). -/
structure AttDesc where
  layer : Nat
  lslot : Nat
  kvh : Nat
  nqh : Nat
  scR : Nat
  scK : Nat
  exclSelf : Bool
  eLoV : Int
  bV : Int
  win : Nat
  sink : Nat
  stride : Nat
  phase : Nat
  qG : Nat
  qBase : Nat
  qStride : Nat
  qNblk : Nat
  qJ0 : Nat
  st : Nat
  reserved : Bool
  deriving DecidableEq, Repr

/-- The attention descriptor that 32 bytes hold. -/
def attDesc (bs : List Byte) : AttDesc :=
  let f := fun (at_ n hi lo : Nat) => bitsOf (leAt bs at_ n) hi lo
  { layer := f 0 2 9 0, lslot := leAt bs 2 1, kvh := f 3 1 4 0, nqh := f 3 1 7 5 + 1, scR := leAt bs 4 2
    scK := f 6 1 5 0, exclSelf := bitOf (leAt bs 6 1) 6, eLoV := signedOf 5 (leAt bs 7 1), bV := signedOf 8 (leAt bs 8 1)
    win := leAt bs 9 3, sink := leAt bs 12 2, stride := leAt bs 14 2, phase := leAt bs 16 2, qG := f 18 1 5 0
    qBase := f 20 4 18 0, qStride := leAt bs 24 2, qNblk := f 26 2 9 0, qJ0 := f 28 2 9 0, st := leAt bs 30 2
    reserved := f 0 2 15 10 != 0 || bitOf (leAt bs 6 1) 7 || f 7 1 7 5 != 0 || f 18 2 15 6 != 0 || f 20 4 31 19 != 0
      || f 26 2 15 10 != 0 || f 28 2 15 10 != 0 }

/-- Whether the key at position `k` is allowed for the query at position `q` (R201). -/
def AttDesc.allowed (d : AttDesc) (q k : Nat) : Bool :=
  decide (k ≤ q) && (k != q || !d.exclSelf)
  && (d.win == 0xFFFFFF || decide (q - k < d.win) || decide (k / 16 < d.sink)
      || (d.stride != 0 && k / 16 % d.stride == d.phase))

/-- The slots of page `page` whose keys are active for a query in a row of length `len` (R202). -/
def AttDesc.slots (d : AttDesc) (q len page : Nat) : List Nat :=
  (List.range 16).filter fun x => decide (16 * page + x < len) && d.allowed q (16 * page + x)

/-- The pages that a query visits, ascending (R202). -/
def AttDesc.pages (d : AttDesc) (q len : Nat) : List Nat :=
  (List.range (q / 16 + 1)).filter fun p => !(d.slots q len p).isEmpty

/-- Bytes of one K or V row of form `f` (R211). -/
def kvRow (f : Nat) : Nat := 16 * formBits f + 3
/-- A size rounded up to 64 bytes. -/
def up64 (n : Nat) : Nat := (n + 63) / 64 * 64
/-- Bytes of a page slice (Table 8.4). -/
def sliceSize (f : Nat) : Nat := up64 (32 * kvRow f + 64)
/-- Bytes of a digest row (R213). -/
def digestSize (f : Nat) : Nat := up64 (2 * kvRow f + 4)

/-- Whether slot `x` of a slice passes its check (Table 8.4). -/
def slotGood (f : Nat) (bs : List Byte) (x : Nat) : Bool :=
  let r := kvRow f
  crc32c (sliceBytes bs (x * r) r ++ sliceBytes bs ((16 + x) * r) r) == leAt bs (32 * r + 4 * x) 4

/-- Whether a digest row passes its check (R213). -/
def digestGood (f : Nat) (bs : List Byte) : Bool := crc32c (sliceBytes bs 0 (2 * kvRow f)) == leAt bs (2 * kvRow f) 4

/-- A row of four blocks in the layout of R69. -/
def packRow (f : Nat) (bs : List Block) : List Byte :=
  let n := formBits f
  bs.flatMap (fun b => pack n b.m) ++ leBytes 3 (bs.foldr (fun b acc => codeOf 5 b.e + 32 * acc) 0)

/-- The pooled block of sixteen blocks (R213). -/
def poolBlock (f : Nat) (bs : List Block) : Block :=
  let eMin := bs.foldl (fun e b => min e b.e) 15
  let ls := (List.range 32).map fun i =>
    OutLane.val ((bs.map fun b => b.m.getD i 0 * 2 ^ (b.e - eMin).toNat).sum * 2 ^ 11)
  (outBlock f (15 - eMin) eMin ls).b

/-- The digest row of a slice (R213). -/
def digestRow (f : Nat) (bs : List Byte) : List Byte :=
  let r := kvRow f
  let rd := sliceBytes bs
  let pool := fun (at_ : Nat) =>
    packRow f ((List.range 4).map fun b => poolBlock f ((List.range 16).map fun x => readBlock rd (at_ + x * r) f 4 b))
  let both := pool 0 ++ pool (16 * r)
  padTo 64 (both ++ leBytes 4 (crc32c both))

/-! ### The exponent table -/

/-- The 256 entries of the exponent table, 8 bits each, entry 0 in the low bits (R207). -/
def expTable : Nat :=
  0xfffffefdfdfcfbfbfaf9f8f8f7f6f6f5f4f4f3f3f2f1f1f0efefeeededecebebeae9e9e8e8e7e6e6e5e4e4e3e3e2e1e1e0e0dfdededddddcdbdbdadad9d8d8d7d7d6d6d5d4d4d3d3d2d2d1d0d0cfcfcececdcccccbcbcacac9c9c8c8c7c6c6c5c5c4c4c3c3c2c2c1c1c0c0bfbfbebebdbdbcbcbbbabab9b9b8b8b7b7b6b6b6b5b5b4b4b3b3b2b2b1b1b0b0afafaeaeadadacacabababaaaaa9a9a8a8a7a7a6a6a6a5a5a4a4a3a3a2a2a2a1a1a0a09f9f9f9e9e9d9d9c9c9c9b9b9a9a999999989897979796969595959494939393929291919190908f8f8f8e8e8d8d8d8c8c8c8b8b8a8a8a898989888887878786868685858584848483838282828181818080

/-- E[f] = RNE(128 · 2^(f/256)). -/
def expEntry (f : Nat) : Nat := bitsOf expTable (8 * f + 7) (8 * f)

/-! ### One round -/

/-- Contributions in logical order as one update (R87): the first saturation decides, else the exact sum. -/
def combine (us : List Update) : Update :=
  match us.filterMap fun u => match u with
    | .sat p => some p
    | .val _ => none with
  | p :: _ => .sat p
  | [] => .val (us.map fun u => match u with
      | .sat _ => (0 : Int)
      | .val x => x).sum

/-- What a round reads: per active slot its K and V operands, 128 each. -/
structure KvSlot where
  slot : Nat
  k : List Operand
  v : List Operand
  deriving DecidableEq, Repr

/-- The operands of some slots of a slice. -/
def sliceKv (f : Nat) (bs : List Byte) (xs : List Nat) : List KvSlot :=
  xs.map fun x => { slot := x, k := rowOperands (sliceBytes bs) (x * kvRow f) f 4 0 4,
                    v := rowOperands (sliceBytes bs) ((16 + x) * kvRow f) f 4 0 4 }

/-- The digest's operands for some slots (R220). -/
def digestKv (f : Nat) (bs : List Byte) (xs : List Nat) : List KvSlot :=
  xs.map fun x => { slot := x, k := rowOperands (sliceBytes bs) 0 f 4 0 4, v := rowOperands (sliceBytes bs) (kvRow f) f 4 0 4 }

/-- A score and what it counts: the lane, whether its shift was below zero in some product. -/
def scoreLane (d : LayerDesc) (pset h : Nat) (us : List Nat × List Nat) (q : List Operand) (kv : KvSlot) : L48 × Bool :=
  let ps := (List.zip q kv.k).zipIdx.map fun e =>
    product d pset (Config.canopyLane h kv.slot e.2).toNat us e.1.1 e.1.2
  (addLane 0 (combine (ps.map (·.u))), ps.any (·.low))

/-- z of R207: the value, whether it was clamped from an unsaturated score, whether it came from a saturated one. -/
def zOf (a : AttDesc) (s : L48) : Int × Bool × Bool :=
  match laneSat s with
  | some pos => (if pos then 2 ^ 31 - 1 else -(2 ^ 31), false, true)
  | none =>
    let z := rne (s.toInt * a.scR) a.scK
    let c := clampBits 32 z
    (c, decide (c ≠ z), false)

/-- A lane rescaled by `d`; a saturated lane is unchanged (R207). -/
def rescaleLane (d : Int) (v : L48) : L48 := if (laneSat v).isSome then v else BitVec.ofInt 48 (rne v.toInt d)

/-- The output lanes of a head. -/
def HeadState.lanes (h : HeadState) : List L48 := if h.o.isEmpty then List.replicate 128 0 else h.o

/-- A head at a query's start (R207). -/
def HeadState.init : HeadState := { m := none, l := 0, o := [] }

/-- The weights of a head's active slots and the head after the maximum and the sum (R207). -/
def headWeights (h : HeadState) (zs : List Int) : List Nat × HeadState :=
  let mp := (zs.map (· / 256)).foldl max (-(2 ^ 31))
  let h1 : HeadState := match h.m with
    | none => { h with m := some mp }
    | some m =>
      if mp > m then { m := some mp, l := (rne h.l (mp - m)).toNat, o := h.lanes.map (rescaleLane (mp - m)) } else h
  let m := h1.m.getD 0
  let ps := zs.map fun z =>
    let dz := z - m * 256
    let u := -(dz / 256)
    if u ≥ 9 then 0 else (rne (expEntry (dz % 256).toNat) u).toNat
  (ps, { h1 with l := h1.l + ps.sum })

/-- The value round of a head (R208): the lanes after one update each, the new saturations, and whether a shift was below
zero. -/
def headValues (a : AttDesc) (h : HeadState) (ps : List Nat) (kvs : List KvSlot) : HeadState × Nat × Bool :=
  let us := (List.range 128).map fun i => combine ((List.zip ps kvs).map fun e =>
    let v := e.2.v.getD i { m := 0, e := 0 }
    shiftUpdate (e.1 * v.m) (v.e - a.eLoV))
  let ls := (List.zip h.lanes us).map fun e => addLane e.1 e.2
  let n := ((List.zip h.lanes ls).filter fun e => newlySat e.1 e.2).length
  ({ h with o := ls }, n, kvs.any fun kv => kv.v.any fun v => decide (v.e < a.eLoV))

/-- What a round leaves: heads, saturations counted, under-anchor blocks, and whether a score was clamped (R210). -/
structure RoundOut where
  heads : List HeadState
  sat : Nat
  under : Nat
  clamped : Bool
  deriving DecidableEq, Repr

/-- One round of one query on one page (R205 to R208, R210); `qs` are the query operands per head. -/
def attRound (a : AttDesc) (d : LayerDesc) (pset : Nat) (us : List Nat × List Nat) (qs : List (List Operand))
    (heads : List HeadState) (kvs : List KvSlot) : RoundOut :=
  let scores := qs.zipIdx.map fun q => kvs.map fun kv => scoreLane d pset q.2 us q.1 kv
  let zs := scores.map fun l => l.map fun s => zOf a s.1
  let ws := (List.zip heads zs).map fun e => headWeights e.1 (e.2.map (·.1))
  let vs := ws.map fun w => headValues a w.2 w.1 kvs
  { heads := vs.map (·.1)
    sat := (scores.map fun l => (l.filter fun s => (laneSat s.1).isSome).length).sum
      + (zs.map fun l => (l.filter fun z => z.2.1).length).sum + (vs.map (·.2.1)).sum
    under := natOfBool (scores.any fun l => l.any (·.2)) + natOfBool (vs.any (·.2.2))
    clamped := zs.any fun l => l.any fun z => z.2.1 || z.2.2 }

/-! ### Normalisation -/

/-- t of R209 for a lane that is not saturated. -/
def normal (o : Int) (l : Nat) : Int :=
  let n := o.natAbs * 2 ^ 15
  let q := n / l
  let r := n % l
  let q := if 2 * r > l ∨ (2 * r = l ∧ q % 2 = 1) then q + 1 else q
  if o < 0 then -(q : Int) else q

/-- One output lane of a head (R209): saturated lanes are written as extremes. -/
def normLane (n : Nat) (l : Nat) (o : L48) : OutLane :=
  match laneSat o with
  | some pos => .fixed (extreme n pos) false
  | none => .val (normal o.toInt l)

/-- The four output blocks of a head (R209, R77). -/
def headBlocks (a : AttDesc) (f : Nat) (bOut eLoOut : Int) (h : HeadState) : List OutBlock :=
  (List.range 4).map fun b =>
    outBlock f (bOut - (a.bV + a.eLoV - 15)) eLoOut
      (((h.lanes.drop (32 * b)).take 32).map (normLane (formBits f) h.l))

end Sys2Proof.Machine
end

