-- ==== Sys2Proof/Machine/Bole.lean ====
section
/-!
DEFINITION. The bole unit of a grove (R158 to R164): quarter squares, weight tiles, accumulator rows, selection lists,
and BOLE.LDW, BOLE.MM, BOLE.EW, BOLE.OUT and BOLE.SELW.
-/

namespace Sys2Proof.Machine

/-- Q of R158. -/
def quarterSquare (v : Nat) : Nat := v * v / 4
/-- A bole cell's product of two int8 values (R158). -/
def boleCell (a b : Int) : Int := (quarterSquare (a + b).natAbs : Int) - quarterSquare (a - b).natAbs

/-! ### Rows -/

/-- Row `r`; none is FREE. -/
def Bole.row (b : Bole) (r : Nat) : Option BoleRow := mget none b.rows r
/-- Setting or freeing row `r`. -/
def Bole.setRow (b : Bole) (r : Nat) (x : Option BoleRow) : Bole := { b with rows := mset none b.rows r x }

/-- Lane `l` of a row. -/
def BoleRow.lane (x : BoleRow) (l : Nat) : L48 := x.lanes.getD l 0

/-- A zeroed row with the tags of a descriptor (R161). -/
def BoleRow.fresh (t : BoleTags) : BoleRow := { tags := t, lanes := [], satFlag := false, satCnt := 0, zeroCnt := 0 }

/-- A row after one update per lane (R74, R75). -/
def BoleRow.update (x : BoleRow) (us : List Update) : BoleRow :=
  let ls := (List.range 256).map fun l => addLane (x.lane l) (us.getD l (.val 0))
  let n := ((List.range 256).filter fun l => newlySat (x.lane l) (ls.getD l 0)).length
  { x with lanes := ls, satFlag := x.satFlag || decide (n > 0), satCnt := addCnt x.satCnt n }

/-- The tags of a layer descriptor (R161). -/
def LayerDesc.boleTags (d : LayerDesc) : BoleTags :=
  { layer := BitVec.ofNat 10 d.layer, eLo := BitVec.ofInt 5 d.eLo, bw := d.boleBw, b := d.boleB }

/-- The fault of accumulating in a row with `first = 0` (R161). -/
def Bole.rowFault (b : Bole) (t : BoleTags) (first : Bool) (r : Nat) : Option Nat :=
  if first then none
  else match b.row r with
    | none => some 0x3
    | some x => if x.tags = t then none else some 0x1

/-- The row that an instruction accumulates into. -/
def Bole.startRow (b : Bole) (t : BoleTags) (first : Bool) (r : Nat) : BoleRow :=
  if first then .fresh t else (b.row r).getD (.fresh t)

/-- The first row of `row0` to `row0 + n − 1` with a fault, and its cause. -/
def Bole.firstFault (b : Bole) (t : BoleTags) (first : Bool) (row0 n : Nat) : Option (Nat × Nat) :=
  ((List.range n).filterMap fun j => (b.rowFault t first (row0 + j)).map fun c => (row0 + j, c)).head?

/-! ### Selection -/

/-- How a lane ranks (R162): its value with saturations at the ends. -/
def rankOf (v : L48) : Int :=
  match laneSat v with
  | some true => 2 ^ 47
  | some false => -(2 ^ 47)
  | none => v.toInt

/-- Whether an entry ranks before another (R162). -/
def ranksBefore (a b : Nat × L48) : Bool :=
  decide (rankOf a.2 > rankOf b.2) || (decide (rankOf a.2 = rankOf b.2) && decide (a.1 < b.1))

/-- Inserting an entry in rank order. -/
def insertRank (x : Nat × L48) : List (Nat × L48) → List (Nat × L48)
  | [] => [x]
  | y :: ys => if ranksBefore x y then x :: y :: ys else y :: insertRank x ys

/-- Merging entries into a list of the best `k` (R162). -/
def mergeRank (k : Nat) (es xs : List (Nat × L48)) : List (Nat × L48) := (xs.foldl (fun l x => insertRank x l) es).take k

/-- Merging a finished row of channels from `ch0` into list `r`. -/
def Bole.mergeRow (b : Bole) (r k ch0 : Nat) (x : BoleRow) : Bole :=
  let old := ((mget none b.sels r).map (·.entries)).getD []
  let new := mergeRank k old ((List.range 256).map fun c => (ch0 + c, x.lane c))
  { b with sels := mset none b.sels r (some { k := k, entries := new }) }

/-- Whether a merge of length `k` breaks the length of a list's first merge (R162). -/
def Bole.selBad (b : Bole) (k row0 n : Nat) : Bool :=
  (List.range n).any fun j => match mget none b.sels (row0 + j) with
    | some l => l.k != k
    | none => false

/-! ### Instructions -/

/-- A bole instruction of its grove's master (R160), with the header checks of R164, on the grove's bole unit. `noCount`: n
must be zero. `aformZero`: aform must be zero. -/
def atBole (noCount aformZero : Bool) (rsv : List (Nat × Nat)) (more : Issue → Nat → State → List (Bool × Nat))
    (k : Issue → Nat → State → Grove → Nat → Option State) : EngineOp := fun i n s =>
  let gv := groveOf i.g
  s.tests i
    ([(!i.zeros ([(15, 8), (24, 24), (31, 27)] ++ (if noCount then [(23, 16)] else [])
         ++ (if aformZero then [(26, 25)] else []) ++ rsv), 0x02),
      (decide (s.boleMaster gv ≠ some i.g), 0x08)] ++ more i n s) (
  k i n s (s.grove gv) gv)

/-- A completed bole instruction: the unit as it leaves it. -/
def State.boleDone (s : State) (i : Issue) (gv : Nat) (b : Bole) : State :=
  ((s.put i i.gl).setGrove gv { s.grove gv with bole := b }).pendCount Reg.boleOps i.p 1

/-- BOLE.LDW (R85, R159, R164). A shadow tile that no swap has consumed makes it wait. -/
def boleLdw : EngineOp :=
  atBole true true [(127, 95)] (fun i _ _ => [(decide (i.f 56 38 + 255 * i.f 72 57 + 256 > spadSize), 0x06)])
    fun i _ s x gv =>
      if x.bole.shadowLoaded then none
      else
        let src := s.glade (gladeAt gv (i.f 37 32))
        let ws := (List.range 256).flatMap fun o => src.read (i.f 56 38 + o * i.f 72 57) 256
        s.boleDone i gv { x.bole with shadow := { weights := ws, ch0 := i.f 94 73 }, shadowLoaded := true }

/-- One pass of 256 elements through the active tile (R159). -/
def BoleTile.pass (t : BoleTile) (es : List Elem) : List Update :=
  (List.range 256).map fun o =>
    passLane es id ((List.range 256).map fun k => (k, (t.weights.getD (256 * o + k) 0).toInt))

/-- Vectors into rows (R159, R161): the unit and the under-anchor count. -/
def boleMmRows (rd : Nat → Nat → List Byte) (d : LayerDesc) (first : Bool) (base j0 row0 : Nat) :
    List Nat → Bole → Nat → Bole × Nat
  | [], b, u => (b, u)
  | v :: vs, b, u =>
    let ve := vectorOf rd (base + v * d.xStride) d.xform d.xNblk j0 8 d.eLo
    let x := (b.startRow d.boleTags first (row0 + v)).update (b.active.pass ve.1)
    boleMmRows rd d first base j0 row0 vs (b.setRow (row0 + v) (some x)) (u + ve.2)

/-- Merging finished rows into their lists and freeing them (R161, R162). -/
def boleSelect (k row0 : Nat) : List Nat → Bole → Bole
  | [], b => b
  | j :: js, b =>
    match b.row (row0 + j) with
    | some x => boleSelect k row0 js ((b.mergeRow (row0 + j) k b.active.ch0 x).setRow (row0 + j) none)
    | none => boleSelect k row0 js b

/-- BOLE.MM (R159 to R162, R164). With swap = 1 it waits for a loaded shadow tile (R85). -/
def boleMm : EngineOp :=
  atBole false false [(127, 96)] (fun i n s =>
    let d := layerDesc (i.gl.read (8 * i.f 95 80) 32)
    let row0 := i.f 79 71
    [(decide (8 * i.f 95 80 + 32 > spadSize), 0x06)] ++ d.faults ++
      [(i.aform != d.xform, 0x04), (bitOf i.w 35 && !bitOf i.w 34, 0x04), (decide (row0 + n > 512), 0x03),
       (decide (i.f 70 61 + 8 > d.xNblk), 0x05),
       (decide (i.f 60 42 + (n - 1) * d.xStride + rowBytes d.xform d.xNblk > spadSize), 0x06),
       (bitOf i.w 35 && (s.grove (groveOf i.g)).bole.selBad d.selK row0 n, 0x0A)])
    fun i n s x gv =>
      let d := layerDesc (i.gl.read (8 * i.f 95 80) 32)
      let swap := bitOf i.w 32
      let first := bitOf i.w 33
      let row0 := i.f 79 71
      if swap && !x.bole.shadowLoaded then none
      else
        let b := if swap then { x.bole with active := x.bole.shadow, shadow := .zero, shadowLoaded := false } else x.bole
        match b.firstFault d.boleTags first row0 n with
        | some (r, c) => s.tagFault i c r
        | none =>
          let src := s.glade (gladeAt gv (i.f 41 36))
          let r := boleMmRows src.read d first (i.f 60 42) (i.f 70 61) row0 (List.range n) b 0
          let b1 := if bitOf i.w 35 then boleSelect d.selK row0 (List.range n) r.1 else r.1
          (s.boleDone i gv b1).pendLayer i.p d.layer 0 0 r.2

/-- One row of element-wise products (R164): updates and under-anchor blocks. -/
def boleEwRow (xs ys : List Operand) (eLo : Int) : List Update × Nat :=
  let z : Operand := { m := 0, e := 0 }
  let us := (List.range 256).map fun l =>
    let x := xs.getD l z
    let y := ys.getD l z
    shiftUpdate (boleCell x.m y.m) (x.e + y.e - eLo)
  let low := (List.range 8).filter fun b => decide ((xs.getD (32 * b) z).e + (ys.getD (32 * b) z).e - eLo < 0)
  (us, low.length)

/-- Eight blocks of a W8 row, which has no exponents (R66, R164). -/
def w8Operands (rd : Nat → Nat → List Byte) (a j0 : Nat) : List Operand :=
  (rd (a + 32 * j0) 256).map fun b => { m := b.toInt, e := 0 }

/-- Rows of BOLE.EW: the unit and the under-anchor count. -/
def boleEwRows (rx ry : Nat → Nat → List Byte) (d : LayerDesc) (first xw8 : Bool) (xa ya j0 row0 : Nat) :
    List Nat → Bole → Nat → Bole × Nat
  | [], b, u => (b, u)
  | r :: rs, b, u =>
    let xs := if xw8 then w8Operands rx (xa + r * d.xStride) j0
              else rowOperands rx (xa + r * d.xStride) d.xform d.xNblk j0 8
    let ys := rowOperands ry (ya + r * d.yStride) d.yform d.yNblk j0 8
    let e := boleEwRow xs ys d.eLo
    let x := (b.startRow d.boleTags first (row0 + r)).update e.1
    boleEwRows rx ry d first xw8 xa ya j0 row0 rs (b.setRow (row0 + r) (some x)) (u + e.2)

/-- BOLE.EW (R158, R161, R164). -/
def boleEw : EngineOp :=
  atBole false false [(127, 119)] (fun i n _ =>
    let d := layerDesc (i.gl.read (8 * i.f 117 102) 32)
    let xw8 := bitOf i.w 118
    let j0 := i.f 91 82
    let xBytes := if xw8 then 32 * d.xNblk else rowBytes d.xform d.xNblk
    [(decide (8 * i.f 117 102 + 32 > spadSize), 0x06)] ++ d.faults ++
      [(i.aform != d.xform, 0x04), (decide (i.f 100 92 + n > 512), 0x03),
       (decide (j0 + 8 > d.xNblk ∨ j0 + 8 > d.yNblk), 0x05),
       (decide (i.f 56 38 + (n - 1) * d.xStride + xBytes > spadSize)
          || decide (i.f 81 63 + (n - 1) * d.yStride + rowBytes d.yform d.yNblk > spadSize), 0x06)])
    fun i n s x gv =>
      let d := layerDesc (i.gl.read (8 * i.f 117 102) 32)
      let first := bitOf i.w 101
      let row0 := i.f 100 92
      match x.bole.firstFault d.boleTags first row0 n with
      | some (r, c) => s.tagFault i c r
      | none =>
        let gx := s.glade (gladeAt gv (i.f 37 32))
        let gy := s.glade (gladeAt gv (i.f 62 57))
        let r := boleEwRows gx.read gy.read d first (bitOf i.w 118) (i.f 56 38) (i.f 81 63) (i.f 91 82) row0
          (List.range n) x.bole 0
        (s.boleDone i gv r.1).pendLayer i.p d.layer 0 0 r.2

/-- A half of a bole row as a tile for outflow: 128 lanes, the scale of the row's tags. -/
def BoleRow.half (x : BoleRow) (h : Nat) : Tile :=
  { Tile.init with
    tags := { form := 0, eLo := x.tags.eLo, layer := x.tags.layer,
              sAcc := BitVec.ofInt 10 (x.tags.bw.toInt + x.tags.b.toInt + x.tags.eLo.toInt) }
    lanes := (List.range 128).map fun l => x.lane (128 * h + l) }

/-- Outflow of rows `row0 + j` (R164): two segments of each row, at blocks j0 and j0 + 4; the row becomes FREE.
Lanes are written as for OUT (log entry 148). DEDUCED, unsafe: log entry 36. -/
def boleOutRows (i : Issue) (o : OutDesc) (gv row0 drow0 : Nat) : List Nat → State → State
  | [], s => s
  | j :: js, s =>
    let b := (s.grove gv).bole
    match b.row (row0 + j) with
    | none => boleOutRows i o gv row0 drow0 js s
    | some x =>
      let gl := s.glade i.g
      let r0 := outTile gl.read o (x.half 0) (drow0 + j)
      let r1 := outTile gl.read { o with j0 := o.j0 + 4, rAddr := o.rAddr + 32 } (x.half 1) (drow0 + j)
      let ws := r0.1 ++ r1.1
      let cnt := (addCnt x.satCnt (r0.2.1 + r1.2.1)).toNat
      let zc := (addCnt x.zeroCnt (r0.2.2.1 + r1.2.2.1)).toNat
      let s1 := (s.setGrove gv { s.grove gv with bole := b.setRow (row0 + j) none }).pendLayer i.p
        x.tags.layer.toNat cnt zc (r0.2.2.2 + r1.2.2.2)
      let s2 :=
        if o.remote then
          s1.send (s1.routeFrom i o.dst ((o.dstBase + (drow0 + j) * o.dstStride) % 2 ^ 16) o.ctr ws.length 0) [] ws
        else s1.setGlade i.g (gl.maskFor (some 3) none ws)
      boleOutRows i o gv row0 drow0 js s2

/-- BOLE.OUT (R76 to R78, R106, R161, R164). -/
def boleOut : EngineOp :=
  atBole false true [(127, 65)] (fun i n _ =>
    let at_ := 8 * i.f 56 41
    let o := outDesc (i.gl.read at_ 32)
    let row := i.f 64 57 + n - 1
    let lastDst := 8 * (o.dstBase + row * o.dstStride) + rowBytes o.oform o.nblk
    let lastOp := 8 * (o.opBase + row * o.opStride) + rowBytes o.opForm o.nblk
    [(decide (i.f 40 32 + n > 512), 0x03), (decide (at_ + 32 > spadSize), 0x06), (o.reserved, 0x02), (o.fuse == 3, 0x04),
     (o.remote && decide (o.ctr ≥ 62), 0x04), (decide (o.j0 + 8 > o.nblk), 0x05),
     (decide (lastDst > spadSize) || decide (8 * o.rAddr + 512 > spadSize) || (o.fuse != 0 && decide (lastOp > spadSize)),
      0x06)])
    fun i n s x gv =>
      let row0 := i.f 40 32
      let o := outDesc (i.gl.read (8 * i.f 56 41) 32)
      match (List.range n).find? fun j => (x.bole.row (row0 + j)).isNone with
      | some j => s.tagFault i 0x3 (row0 + j)
      | none => boleOutRows i o gv row0 (i.f 64 57) (List.range n) (s.boleDone i gv x.bole)

/-- The records of a selection list (R162): unfilled entries carry index 0xFFFF_FFFF and negative saturation. -/
def SelList.records (l : SelList) : List Byte :=
  (List.range l.k).flatMap fun j =>
    let e := l.entries.getD j (0xFFFFFFFF, satNeg)
    leBytes 4 e.1 ++ leBytes 6 e.2.toNat ++ [0, 0]

/-- The records of the lists of rows `row0` to `row0 + n − 1`, one after another. -/
def Bole.selBytes (b : Bole) (row0 n : Nat) : List Byte :=
  (List.range n).flatMap fun j => ((mget none b.sels (row0 + j)).map SelList.records).getD []

/-- BOLE.SELW (R162, R164): the lists one after another; a list that no merge has given a length has no records. -/
def boleSelw : EngineOp :=
  atBole false true [(127, 60)] (fun i n s =>
    [(decide (i.f 40 32 + n > 512), 0x03),
     (decide (i.f 59 41 + ((s.grove (groveOf i.g)).bole.selBytes (i.f 40 32) n).length > spadSize), 0x06)])
    fun i n s x gv =>
      let row0 := i.f 40 32
      let b := { x.bole with sels := x.bole.sels.filter fun e => !decide (row0 ≤ e.1 ∧ e.1 < row0 + n) }
      let s1 := s.boleDone i gv b
      s1.setGlade i.g ((s1.glade i.g).writeFor (some 3) none (i.f 59 41) (x.bole.selBytes row0 n))

end Sys2Proof.Machine
end

