-- ==== Sys2Proof/Machine/EngineQueue.lean ====
section
/-!
DEFINITION. The engine queues of a glade (R90, R172): the order in which engine instructions issue, what makes one wait,
and the commands of the thicket, accumulator, outflow, graft, serial product and bole instructions.
-/

namespace Sys2Proof.Machine

/-- The meaning of an engine opcode (Table 4.9, R137, R154, R164). -/
def engineOp (op : Nat) : EngineOp :=
  match op with
  | 0x40 => thkLdw
  | 0x41 => thkMm
  | 0x44 => accOpen
  | 0x45 => accLoad
  | 0x48 => chainAdd
  | 0x49 => chainSend
  | 0x4A => atomAdd
  | 0x4C => accHcfg
  | 0x4D => accHdrn
  | 0x4E => accSave
  | 0x50 => outOp
  | 0x52 => grfUpd
  | 0x58 => spuEw
  | 0x59 => spuOp
  | 0x5A => spuGm
  | 0x60 => boleLdw
  | 0x61 => boleMm
  | 0x62 => boleEw
  | 0x63 => boleOut
  | 0x64 => boleSelw
  | _ => fun _ _ s => some s

/-- Whether the count of an engine instruction may be overridden by ENG.N: its n is a count (R282). -/
def countOp (op : Nat) : Bool := !(op == 0x40 || op == 0x4C || op == 0x4D || op == 0x60)

/-- The unit that an engine instruction holds (Table 4.2, R138, Table 6.10): weight load port, array, store, outflow; the
serial product unit; the bole unit's load port and the rest of it, which runs one instruction at a time (R160). -/
def engineUnit (op : Nat) : Nat :=
  if op = 0x40 then 0
  else if op = 0x41 then 1
  else if op = 0x50 ∨ op = 0x52 then 3
  else if 0x58 ≤ op ∧ op ≤ 0x5A then 4
  else if op = 0x60 then 5
  else if 0x61 ≤ op ∧ op ≤ 0x64 then 6
  else 2

/-- The tiles of the glade's hash-indexed accumulator; every tile while there is none. -/
def Glade.hiaTiles (gl : Glade) : Nat × Nat := (gl.hia.map fun h => (h.first, h.count)).getD (0, 256)

/-- The tiles that an engine instruction names: the first and how many; none where it names no tile (R90). -/
def Issue.tiles (i : Issue) (n : Nat) : Nat × Nat :=
  if i.op = 0x40 ∨ 0x60 ≤ i.op then (0, 0)
  else if i.op = 0x4D ∨ i.op = 0x41 ∧ bitOf i.w 33 then i.gl.hiaTiles
  else if i.op = 0x4C then (i.t, 4 * 2 ^ i.f 23 16)
  else if i.op = 0x52 ∧ bitOf i.w 64 then (0, 0)
  else if i.op = 0x59 ∨ i.op = 0x5A then (i.t, 8)
  else (i.t, n)

/-- The end of the TVQ blocks of a tile from byte `a`, by their headers. -/
def tvqEnd (rd : Nat → Nat → List Byte) : Nat → Nat → Nat
  | 0, a => a
  | k + 1, a => tvqEnd rd k ((a + 8 + tvqLen (rd a 8) + 7) / 8 * 8)

/-- The scratchpad bytes that THK.LDW reads, as first and end of each run. -/
def Issue.ldwReads (i : Issue) : List (Nat × Nat) :=
  let src := i.f 58 40
  let aux := i.f 82 64
  match i.f 33 32 with
  | 0 => [(src, src + (i.f 37 35 + 16384 + 4) / 5)]
  | 1 => [(src, src + 12288)]
  | _ => [(src, tvqEnd i.gl.read 7 src), (aux, aux + tvqCodebookLen (i.gl.read aux 8))]

/-- Whether two half-open ranges share a number. -/
def rangesMeet (a b : Nat × Nat) : Bool := decide (a.1 < b.2 ∧ b.1 < a.2)

/-- Whether the tile ranges of two instructions overlap. -/
def tilesMeet (a b : Nat × Nat) : Bool := rangesMeet (a.1, a.1 + a.2) (b.1, b.1 + b.2)

/-- Whether one of two instructions is a GRF.UPD that writes bytes which the other, a THK.LDW, reads (R138). -/
def State.grfMeets (s : State) (a b : Issue) (na nb : Nat) : Bool :=
  let meets := fun (x y : Issue) (nx : Nat) =>
    decide (x.op = 0x52 ∧ y.op = 0x40) && (s.grfWrites x nx).any fun w => y.ldwReads.any (rangesMeet w)
  meets a b na || meets b a nb

/-- Whether an instruction waits for an earlier one that waits (R90, R138): one of its queue that holds the same unit, or
one of either tile queue that names a tile of its own. -/
def State.waitsFor (s : State) (i : Issue) (n : Nat) (q : QueuedInstr) : Bool :=
  let e := s.requeue i.g q
  (decide (engineQueue e.op = engineQueue i.op) && decide (engineUnit e.op = engineUnit i.op))
    || tilesMeet (e.tiles (q.arg 0)) (i.tiles n) || s.grfMeets e i (q.arg 0) n

/-- The next state of a glade whose waiting instructions are `before`, then `rest`, in program order: the first that can
issue does (R90). After an instruction fault the later ones are dropped (R175). -/
def State.nextEngine (s : State) (g : Nat) : List QueuedInstr → List QueuedInstr → Option State
  | _, [] => none
  | before, q :: rest =>
    let s1 := s.setGlade g { s.glade g with engine := before ++ rest }
    let i := s1.requeue g q
    if before.any (s1.waitsFor i (q.arg 0)) then s.nextEngine g (before ++ [q]) rest
    else match engineOp i.op i (q.arg 0) s1 with
      | none => s.nextEngine g (before ++ [q]) rest
      | some t =>
        if (s.glade g).mode ≠ .stopped ∧ (t.glade g).mode = .stopped then
          let kept := (t.glade g).engine.filter before.contains
          some (t.setGlade g { t.glade g with engine := kept })
        else some t

/-- Issuing waiting instructions while one can issue. -/
def drainEngine (g : Nat) : Nat → State → State
  | 0, s => s
  | k + 1, s =>
    match s.nextEngine g [] (s.glade g).engine with
    | some t => drainEngine g k t
    | none => s

/-- The engines of a glade going on after a change. -/
def State.engineOn (s : State) (g : Nat) : State := drainEngine g (s.glade g).engine.length s

/-- The entries of an engine queue (Table 7.1); the spec gives the bole unit's no length. DESIGN CHOICE, unsafe: log entry 6. -/
def queueFull (gl : Glade) (op : Nat) : Bool :=
  let k := (gl.engine.filter fun e => engineQueue e.op.toNat = engineQueue op).length
  match engineQueue op with
  | 0 => decide (k ≥ 32)
  | 1 => decide (k ≥ 8)
  | _ => false

/-- An engine instruction of count N at issue (R90, R172): it goes on at once unless it has to wait; one that waits takes an
entry of its queue, and stalls the control processor while the queue is full. DESIGN CHOICE, unsafe: log entry 6. -/
def State.engine (s : State) (i : Issue) (n : Nat) : State :=
  let held : State :=
    let q : QueuedInstr := { pc := i.pc, op := BitVec.ofNat 8 i.op, words := BitVec.ofNat 128 i.w, args := [BitVec.ofNat 64 n] }
    if queueFull i.gl i.op then s else s.put i { i.gl with engine := i.gl.engine ++ [q] }
  if i.gl.engine.any (s.waitsFor i n) then held
  else match engineOp i.op i n s with
    | some t => t.engineOn i.g
    | none => held

/-- The command of an engine instruction that passes a test of its words. -/
def atQueueIf (s : State) (g : BitVec 10) (op : Nat) (ok : Issue → Bool) : Out :=
  atEngine s g op (countOp op) fun i n => if ok i then s.engine i n else s

/-- The command of an engine instruction. -/
def atQueue (s : State) (g : BitVec 10) (op : Nat) : Out := atQueueIf s g op fun _ => true

/-! ### The commands -/

/-- THK.LDW (R85, R86, R109, R114 to R122). -/
def execThkLdw (g : BitVec 10) (s : State) : Out := atQueue s g 0x40
/-- THK.MM (R85 to R88, R93, R102, R103, R131, R500). -/
def execThkMm (g : BitVec 10) (s : State) : Out := atQueue s g 0x41
/-- ACC.OPEN (R91 to R93, R98 to R100, R442). -/
def execAccOpen (g : BitVec 10) (s : State) : Out := atQueue s g 0x44
/-- ACC.LOAD (R91, R104). -/
def execAccLoad (g : BitVec 10) (s : State) : Out := atQueue s g 0x45
/-- CHAIN.ADD (R95). -/
def execChainAdd (g : BitVec 10) (s : State) : Out := atQueue s g 0x48
/-- CHAIN.SEND (R94, R498). -/
def execChainSend (g : BitVec 10) (s : State) : Out := atQueue s g 0x49
/-- ATOM.ADD (R96, R109, R498). -/
def execAtomAdd (g : BitVec 10) (s : State) : Out := atQueue s g 0x4A
/-- ACC.HCFG (R101). -/
def execAccHcfg (g : BitVec 10) (s : State) : Out := atQueue s g 0x4C
/-- ACC.HDRN (R104). -/
def execAccHdrn (g : BitVec 10) (s : State) : Out := atQueue s g 0x4D
/-- ACC.SAVE (R91). -/
def execAccSave (g : BitVec 10) (s : State) : Out := atQueue s g 0x4E
/-- OUT (R77, R78, R105 to R108, R498). -/
def execOutTile (g : BitVec 10) (s : State) : Out := atQueue s g 0x50
/-- GRF_UPD: GRF.UPD with hold = 0 (R134, R137). -/
def execGrfUpd (g : BitVec 10) (s : State) : Out := atQueueIf s g 0x52 fun i => !bitOf i.w 64
/-- GRF_UPD_HOLD: GRF.UPD with hold = 1 (R135, R137). -/
def execGrfUpdHold (g : BitVec 10) (s : State) : Out := atQueueIf s g 0x52 fun i => bitOf i.w 64
/-- SPU.EW (R140 to R147, R149 to R157). -/
def execSpuEw (g : BitVec 10) (s : State) : Out := atQueue s g 0x58
/-- SPU.OP (R146, R157). -/
def execSpuOp (g : BitVec 10) (s : State) : Out := atQueue s g 0x59
/-- SPU.GM (R146, R157). -/
def execSpuGm (g : BitVec 10) (s : State) : Out := atQueue s g 0x5A
/-- BOLE.LDW (R85, R159, R164). -/
def execBoleLdw (g : BitVec 10) (s : State) : Out := atQueue s g 0x60
/-- BOLE.MM (R159 to R162, R164). -/
def execBoleMm (g : BitVec 10) (s : State) : Out := atQueue s g 0x61
/-- BOLE.EW (R158, R161, R164). -/
def execBoleEw (g : BitVec 10) (s : State) : Out := atQueue s g 0x62
/-- BOLE.OUT (R76 to R78, R106, R161, R164). -/
def execBoleOut (g : BitVec 10) (s : State) : Out := atQueue s g 0x63
/-- BOLE.SELW (R162, R164). -/
def execBoleSelw (g : BitVec 10) (s : State) : Out := atQueue s g 0x64

/-- ATOMIC_CONTRIBUTION_ARRIVAL (R97 to R99, R187 to R189). -/
def execAtomicContributionArrival (src dst : BitVec 10) (s : State) : Out :=
  match s.takeMsg src.toNat dst.toNat with
  | none => .next s
  | some (m, s1) =>
    let r := routeOf m.route
    if r.kind ≠ 1 then .next s
    else if (s1.plot r.plot).tag.toNat ≠ r.attempt then .next s1
    else match s1.refusalCause r.dst ((s1.glade r.dst).permits r.plot) r.ctr with
      | some c => .next (s1.refuse r m.route c)
      | none => .next ((s1.contribute r.dst (r.addr % 256) m.bytes r.ctr r.plot m.rank).engineOn r.dst)

end Sys2Proof.Machine
end

