-- ==== Sys2Proof/Machine/Skajor.lean ====
section
/-!
DEFINITION. The Skajor ports (R327 to R331, R340, R343, R358): items, sending on a port, link status, replay, lane
switches and port training.
-/

namespace Sys2Proof.Machine

/-- Port `p`. -/
def State.port (s : State) (p : Nat) : Port := s.fabric.ports.getD p Port.init

/-- Replacing port `p`. -/
def State.setPort (s : State) (p : Nat) (x : Port) : State :=
  { s with fabric := { s.fabric with ports := setAt s.fabric.ports p x } }

/-- A command of port `p`; the module has ports 0 to 5. -/
def onPort (name : String) (p : BitVec 3) (s : State) (k : Port → State) : Out :=
  if p.toNat < 6 then .next (k (s.port p.toNat)) else .fault (.noSuchUnit name)

/-- Whether an item fits in the blocks that a port may have unacknowledged, 256 (R330). -/
def Port.room (x : Port) (item : Item) : Bool :=
  decide ((x.txNext - x.txOld).toNat + ceilDiv (x.txFill + item.length) 642 ≤ 256)

/-- 64-byte units of a message item; other items take none (R328). -/
def itemUnits (item : Item) : Nat := if leAt item 0 1 % 16 = 1 then ceilDiv item.length 64 else 0

/-- A port whose stream an item has entered, in blocks of 642 content bytes (R327). -/
def Port.put (x : Port) (item : Item) : Port :=
  let n := x.txFill + item.length
  { x with
    out := x.out ++ [item], used := (x.used + itemUnits item) % 2 ^ 24
    txNext := x.txNext + BitVec.ofNat 16 (n / 642), txFill := n % 642 }

/-- A port that takes an item: it waits behind others, and while 256 blocks are unacknowledged (R330). -/
def Port.take (x : Port) (item : Item) : Port :=
  if x.waiting.isEmpty && x.room item then x.put item else { x with waiting := x.waiting ++ [item] }

/-- Items that waited, taken in their order. -/
def takeAll : List Item → Port → Port
  | [], x => x
  | i :: is, x => takeAll is (x.take i)

/-- A port whose waiting items enter the stream as far as they fit. -/
def Port.pump (x : Port) : Port := takeAll x.waiting { x with waiting := [] }

/-- An item put into a live port's stream; a port that is not live takes nothing. DEDUCED, unsafe: log entry 51. -/
def State.sendItem (s : State) (p : Nat) (item : Item) : State :=
  let x := s.port p
  if x.live then s.setPort p (x.take item) else s

/-- The item of one 8-byte word or more. -/
def itemOf (ws : List Nat) : Item := ws.flatMap (leBytes 8)

/-- The live ports, ascending. -/
def State.livePorts (s : State) : List Nat := (List.range 6).filter fun p => (s.port p).live

/-- An item sent on every port of a list. -/
def sendAll (item : Item) : List Nat → State → State
  | [], s => s
  | p :: ps, s => sendAll item ps (s.sendItem p item)

/-- An item sent on every live port. -/
def State.broadcastItem (s : State) (item : Item) : State := sendAll item s.livePorts s

/-- Field `[hi:lo]` of an item word. -/
def wf (w : DWord) (hi lo : Nat) : Nat := bitsOf w.toNat hi lo

/-- A port that has received an item again after a replay (R330). -/
def Port.heard (x : Port) : Port := { x with discarding := false }

/-- A port that has received a message item: its forwarding credits are returned (R328). -/
def Port.heardItem (x : Port) (item : Item) : Port :=
  { x.heard with returned := x.returned + BitVec.ofNat 24 (ceilDiv item.length 64) }

/-- A port that an item of a reserved kind makes retrain, counted in SKp_FECU (R328, Table 12.3). -/
def State.portRetrain (s : State) (p : Nat) : State :=
  (s.setPort p { s.port p with live := false, ver := 0 }).bump (Reg.skFecu + 4 * p) 1

/-- A command of port `p` that brings an item, whose first word is `w0`. -/
def onItem (name : String) (p : BitVec 3) (w0 : DWord) (s : State) (k : Port → State) : Out :=
  onPort name p s fun x => if x.live && decide (9 ≤ wf w0 3 0) then s.portRetrain p.toNat else k x

/-- Whether port `p` runs as a firebreak port: by its register now, or since its neighbour announced another slice (R342,
R343). -/
def State.fireBroken (s : State) (p : Nat) : Bool := (s.port p).fbrk || s.field (Reg.skCfg + 4 * p) 3 3 = 1

/-- A link status item (Table 12.3). -/
def Port.statusItem (x : Port) (switch : Bool) : Item :=
  itemOf [2 + 2 ^ 4 * natOfBool switch + 2 ^ 16 * (x.rxNext - 1).toNat + 2 ^ 32 * x.returned.toNat]

/-- A block counted in a bin of the FEC histogram of a receive lane (Table 16.6). -/
def State.countFec (s : State) (lane bin : Nat) : State :=
  let l := s.dep.life
  let k := 16 * lane + bin
  { s with dep := { s.dep with life := { l with fec := mset 0 l.fec k (addCnt32 (mget 0 l.fec k) 1) } } }

/-- Blocks received on a lane with these numbers of corrected symbols, each counted in its bin of the histogram. -/
def countBlocks (lane : Nat) : List Byte → State → State
  | [], s => s
  | c :: cs, s => countBlocks lane cs (if c = 0 then s else s.countFec lane (min c.toNat 15 - 1))

/-- Blocks that a port has received intact, with their corrected symbols (R330, Table 12.11): they advance the number expected
next, the symbols count in SKp_FECC and in the lane's histogram, and a link status is sent once per 64 blocks at least. -/
def State.receiveBlocks (s : State) (p : Nat) (got : List Byte) : State :=
  let x := s.port p
  let x1 := { x with rxNext := x.rxNext + BitVec.ofNat 16 got.length, rxSince := x.rxSince + got.length }
  let s1 := countBlocks (2 * p + natOfBool x.rxLane) got (s.bump (Reg.skFecc + 4 * p) (got.map (·.toNat)).sum)
  if x1.rxSince < 64 then s1.setPort p x1
  else (s1.setPort p { x1 with rxSince := 0 }).sendItem p (x1.statusItem false)

/-- A port whose blocks up to a number the neighbour has acknowledged; blocks of fill may have taken it beyond the items. -/
def Port.acked (x : Port) (last : BitVec 16) : Port :=
  let n := last + 1
  if x.txNext ≠ n ∧ (n - x.txNext).toNat < 2 ^ 15 then { x with txOld := n, txNext := n, txFill := 0 } else { x with txOld := n }

/-- SKAJOR_LINK_STATUS (R330, R331): blocks acknowledged, credits returned, and, where the switch bit is set, a switch
block and the stream on the other lane. `got`: the corrected symbols of the blocks received up to the one that brings it.
DEDUCED, unsafe: log entry 50. -/
def execSkajorLinkStatus (p : BitVec 3) (w0 : BitVec 64) (got : List Byte) (s : State) : Out :=
  onItem "SKAJOR_LINK_STATUS" p w0 s fun x =>
    if x.live then
      let x1 := ({ x.heard with credits := wf w0 55 32, resendFrom := none }.acked (BitVec.ofNat 16 (wf w0 31 16))).pump
      let s1 := (s.setPort p.toNat x1).receiveBlocks p.toNat got
      if wf w0 4 4 = 1 then
        (s1.setPort p.toNat { s1.port p.toNat with txLane := !x.txLane }).bumpField (Reg.skSw + 4 * p.toNat) 15 0 1
      else s1
    else s

/-- SKAJOR_REPLAY_REQUEST (R330): the sender sends again from the named block. -/
def execSkajorReplayRequest (p : BitVec 3) (w0 : BitVec 64) (s : State) : Out :=
  onItem "SKAJOR_REPLAY_REQUEST" p w0 s fun x =>
    if x.live then
      (s.setPort p.toNat { x.heard with resendFrom := some (BitVec.ofNat 16 (wf w0 31 16)) }).bump (Reg.skRply + 4 * p.toNat) 1
    else s

/-- The block numbers of a list, newest first, that lie within 65,536 blocks of the newest one (R331); each stands as many
blocks before the one after it as their numbers differ. -/
def recentFrom : Nat → BitVec 16 → List (BitVec 16) → List (BitVec 16)
  | _, _, [] => []
  | d, b, e :: es =>
    let d1 := d + (b - e).toNat
    if d1 < 65536 then e :: recentFrom d1 e es else []

/-- The block numbers of a list, oldest first, that lie within 65,536 blocks of a new one (R331). -/
def keepRecent (b : BitVec 16) (es : List (BitVec 16)) : List (BitVec 16) := (recentFrom 0 b es.reverse).reverse

/-- A link status item that asks for a lane switch (R331). -/
def Port.switchAsk (x : Port) : Item := x.statusItem true

/-- SKAJOR_UNCORRECTABLE_BLOCK (R330, R331): the block and every later one is discarded, and a replay request names it;
the fourth among 65,536 blocks also asks for a lane switch. It counts unless the neighbour's optics are idle (R433). -/
def execSkajorUncorrectableBlock (p : BitVec 3) (block : BitVec 16) (s : State) : Out :=
  onPort "SKAJOR_UNCORRECTABLE_BLOCK" p s fun x =>
    if x.live then
      let bad := keepRecent block x.badBlocks ++ [block]
      let ask := decide (bad.length ≥ 4)
      let x1 := { x with badBlocks := if ask then [] else bad }
      let x2 := if x.discarding then x1 else { x1 with discarding := true, rxNext := block }
      let s0 := s.setPort p.toNat x2
      let s1 := if x.idleFar then s0 else (s0.bump (Reg.skFecu + 4 * p.toNat) 1).countFec (2 * p.toNat + natOfBool x.rxLane) 15
      let s2 := if x.discarding then s1 else s1.sendItem p.toNat (itemOf [3 + 2 ^ 16 * block.toNat])
      if ask then s2.sendItem p.toNat x2.switchAsk else s2
    else s

/-- The number of a receive lane: its index among the two. -/
def laneIdx (b : Bool) : Nat := natOfBool b

/-- SWITCH_BLOCK (R331): later blocks of the direction come on the other lane, and the lane left retrains. -/
def execSwitchBlock (p : BitVec 3) (s : State) : Out :=
  onPort "SWITCH_BLOCK" p s fun x =>
    if x.live then
      (s.setPort p.toNat { x.heard with rxLane := !x.rxLane, retraining := some x.rxLane }).bumpField
        (Reg.skSw + 4 * p.toNat) 15 0 1
    else s

/-- LANE_LOCK_LOSS (R331): the loss of the active lane asks for a switch; with both lanes failed the port is no longer
live; the loss of the spare lane makes it retrain. -/
def execLaneLockLoss (p : BitVec 3) (spare : Bool) (s : State) : Out :=
  onPort "LANE_LOCK_LOSS" p s fun x =>
    if x.live then
      let lane := if spare then !x.rxLane else x.rxLane
      let x1 := { x with laneDown := setAt x.laneDown (laneIdx lane) true }
      if x1.laneDown.all id || (!spare && x.spareBad) then s.setPort p.toNat { x1 with live := false, ver := 0 }
      else if spare then s.setPort p.toNat { x1 with retraining := some lane }
      else (s.setPort p.toNat x1).sendItem p.toNat x1.switchAsk
    else s

/-- LANE_RETRAIN_COMPLETE (R331): the failed lane becomes the spare, or the spare has failed. -/
def execLaneRetrainComplete (p : BitVec 3) (pass : Bool) (s : State) : Out :=
  onPort "LANE_RETRAIN_COMPLETE" p s fun x =>
    match x.retraining with
    | none => s
    | some lane =>
      s.setPort p.toNat { x with retraining := none, spareBad := !pass, laneDown := setAt x.laneDown (laneIdx lane) (!pass) }

/-! ### Torus addresses and training -/

/-- The module's torus address. -/
def State.torus (s : State) : BitVec 24 := BitVec.ofNat 24 (s.field Reg.fabAddr 23 0)
/-- The module's slice. -/
def State.slice (s : State) : Nat := s.field Reg.fabAddr 31 24
/-- Coordinate `k` of a torus address (R339). -/
def coord (a : BitVec 24) (k : Nat) : Nat := bitsOf a.toNat (8 * k + 7) (8 * k)
/-- The dimension along axis `k` (R339). -/
def State.dim (s : State) (k : Nat) : Nat := s.field Reg.fabDim (8 * k + 5) (8 * k)
/-- The rank of a torus address (R339). -/
def State.rankOf (s : State) (a : BitVec 24) : Nat := coord a 0 + s.dim 0 * (coord a 1 + s.dim 1 * coord a 2)
/-- An address with coordinate `k` replaced. -/
def withCoord (a : BitVec 24) (k c : Nat) : BitVec 24 :=
  BitVec.ofNat 24 (a.toNat - coord a k * 2 ^ (8 * k) + c % 256 * 2 ^ (8 * k))
/-- The address next to the module in a direction: 0 +x, 1 −x, 2 +y, 3 −y, 4 +z, 5 −z (R340). -/
def State.nextTo (s : State) (dir : Nat) : BitVec 24 :=
  let k := dir / 2
  let n := s.dim k
  withCoord s.torus k ((coord s.torus k + (if dir % 2 = 0 then 1 else n - 1)) % n)

/-- The direction of port `p`, SKp_CFG.dir. -/
def State.portDir (s : State) (p : Nat) : Nat := s.field (Reg.skCfg + 4 * p) 2 0

/-- SKAJOR_PORT_TRAINING (R340, R343, R358): versions are negotiated, and the port becomes live when the far end is the
neighbour that its direction says. The router and the optics are powered (R22). -/
def execSkajorPortTraining (p : BitVec 3) (nbr : Option PortHello) (s : State) : Out :=
  onPort "SKAJOR_PORT_TRAINING" p s fun x => if !s.board.on.getLsbD 27 || !s.board.on.getLsbD 25 then s else
    let dir := s.portDir p.toNat
    let base := { Port.init with out := x.out, waiting := x.waiting, lastAsk := x.lastAsk, seqOut := x.seqOut }
    match nbr with
    | none => s.setPort p.toNat base
    | some h =>
      let common := s.field Reg.fabCtl 2 1 &&& h.vmask.toNat
      let ver := if bitOf common 1 then 2 else if bitOf common 0 then 1 else 0
      let fits := decide (dir < 6) && decide (s.dim (dir / 2) > 1) && decide (h.addr = s.nextTo dir)
        && decide (h.dir.toNat = dir ^^^ 1)
      let fb := s.field (Reg.skCfg + 4 * p.toNat) 3 3 = 1
      let other := decide (h.slice.toNat ≠ s.slice)
      s.setPort p.toNat
        { base with
          live := fits && decide (ver ≠ 0) && decide (dir ≠ 7)
          ver := if fits then BitVec.ofNat 2 ver else 0
          vfault := decide (ver = 0)
          cabling := decide (dir ≠ 7) && !fits
          fbrk := other
          fbmis := other && !fb
          nbrAddr := h.addr
          nbrSlice := h.slice }

/-- DOWN_ITEM (R354, R433): the neighbour is not ALIGNED until its next phase response; with cause 2 its optics go idle, and no
fault of the port counts until it is back. DEDUCED, unsafe: log entry 162. -/
def execDownItem (p : BitVec 3) (w0 : BitVec 64) (s : State) : Out :=
  onItem "DOWN_ITEM" p w0 s fun x =>
    if x.live && decide (wf w0 3 0 = 8) then 
      s.setPort p.toNat { x.heard with nalgn := false, downSeen := true, idleFar := x.idleFar || decide (wf w0 15 8 = 2) }
    else s

end Sys2Proof.Machine
end

