-- ==== Sys2Proof/Machine/Fabric.lean ====
section
/-!
DEFINITION. Fabric messages (R332 to R338, R341 to R343, R345): routes, sending under FAB.SEND, elided rows (R127, R128),
acceptance under Table 12.8, and resends.
-/

namespace Sys2Proof.Machine

/-! ### Routes (R341) -/

/-- The torus addresses of a slice, by the module map of the stand image (R342). -/
def State.sliceAddrs (s : State) (slice : Nat) : List (BitVec 24) :=
  (s.image.setup.moduleMap.filter fun m => m.2.1.toNat = slice).map (·.1)

/-- The coordinates along axis `k` that the own slice covers. -/
def State.covered (s : State) (k : Nat) : List Nat := (s.sliceAddrs s.slice).map fun a => coord a k

/-- Whether going up from `a` to `b` round a ring of `n` stays inside a set of coordinates. -/
def staysInside (cs : List Nat) (n a b : Nat) : Bool := (List.range ((b + n - a) % n + 1)).all fun i => cs.contains ((a + i) % n)

/-- The direction along axis `k` from coordinate `a` to `b`. -/
def State.axisDir (s : State) (k a b : Nat) : Nat :=
  let n := s.dim k
  let up := (b + n - a) % n
  let cs := s.covered k
  if (List.range n).all cs.contains then (if 2 * up ≤ n then 2 * k else 2 * k + 1)
  else if staysInside cs n a b then 2 * k
  else 2 * k + 1

/-- The direction of the first hop to another module: x, then y, then z. -/
def State.firstDir (s : State) (dst : BitVec 24) : Option Nat :=
  ((List.range 3).find? fun k => coord s.torus k ≠ coord dst k).map fun k => s.axisDir k (coord s.torus k) (coord dst k)

/-- Whether port `p` may carry a message now: live, no firebreak, messages allowed, not disabled by a phase (R405).
DEDUCED, unsafe: log entry 49. -/
def State.carries (s : State) (p : Nat) : Bool :=
  (s.port p).live && !s.fireBroken p && decide (s.field Reg.fabCtl 0 0 = 1) && !s.image.drainPorts.contains p

/-- The port of the first hop: `inl c` a route fault of cause `c`, `inr none` the module itself. -/
def State.routeTo (s : State) (dst : BitVec 24) : Nat ⊕ Option Nat :=
  if !(s.sliceAddrs s.slice).contains dst then .inl 1
  else match s.firstDir dst with
    | none => .inr none
    | some d =>
      match (List.range 6).find? fun p => decide (s.portDir p = d) && s.carries p with
      | some p => .inr (some p)
      | none => .inl 2

/-- A route fault (R341): counted, with a record to the owner of the plot, if a plot of the module is concerned. -/
def State.routeFault (s : State) (p : Option Nat) (g : Option Nat) (cause : Nat) (dst : BitVec 24) : State :=
  (s.bump Reg.fabRflt 1).raise { cls := 0x0D, cause := cause, plot := p, glade := g, detail := leBytes 3 dst.toNat }

/-! ### Message items (Tables 12.5 and 12.6) -/

/-- The link word and class header of an item, and its payload. -/
structure FabMsg where
  cls : Nat
  plen : Nat
  dst : BitVec 24
  slice : Nat
  src : BitVec 24
  xslot : Nat
  mslot : Nat
  tstep : Nat
  glade : Nat
  ctr : Nat
  elided : Bool
  chk : Nat
  splot : Nat
  addr : Nat
  sglade : Nat
  payload : List Byte
  deriving DecidableEq, Repr

/-- The message that an item's bytes hold. -/
def fabMsg (bs : List Byte) : FabMsg :=
  let w := leAt bs 0 8
  let h := fun (i n : Nat) => leAt bs (8 + i) n
  let plen := bitsOf w 24 8
  { cls := bitsOf w 7 4, plen, dst := BitVec.ofNat 24 (bitsOf w 55 32), slice := bitsOf w 63 56
    src := BitVec.ofNat 24 (h 0 3), xslot := h 3 1, mslot := bitsOf (h 4 2) 11 0, tstep := h 6 2
    glade := bitsOf (h 8 2) 9 0, ctr := bitsOf (h 8 2) 15 10, elided := bitOf (h 10 1) 0, chk := bitsOf (h 10 1) 2 1
    splot := bitsOf (h 11 1) 5 0, addr := h 12 6, sglade := bitsOf (h 18 2) 9 0, payload := sliceBytes bs 40 plen }

/-- The item of a message of class 0, 1 or 3. -/
def FabMsg.item (m : FabMsg) : Item :=
  padTo 8 (leBytes 8 (1 + m.cls % 16 * 2 ^ 4 + m.plen * 2 ^ 8 + m.dst.toNat * 2 ^ 32 + m.slice * 2 ^ 56)
    ++ leBytes 3 m.src.toNat ++ leBytes 1 m.xslot ++ leBytes 2 (m.mslot % 4096) ++ leBytes 2 m.tstep
    ++ leBytes 2 (m.glade % 1024 + m.ctr % 64 * 1024) ++ leBytes 1 (natOfBool m.elided + m.chk % 4 * 2)
    ++ leBytes 1 (m.splot % 64) ++ leBytes 6 m.addr ++ leBytes 2 (m.sglade % 1024) ++ zeroBytes 12 ++ m.payload)

/-! ### Elided rows (Table 5.4) -/

/-- Bytes `i` of a row's block elements and its exponent code, from a row of R69 in form `f` and `nblk` blocks. -/
def rowBlock (bs : List Byte) (f nblk j : Nat) : List Byte × Nat :=
  let n := 4 * formBits f
  let bit := 5 * j
  (sliceBytes bs (n * j) n, bitsOf (leAt bs (n * nblk + bit / 8) 2) (bit % 8 + 4) (bit % 8))

/-- 5-bit codes packed from bit 0 and padded to a byte (R69). -/
def packExps (es : List Nat) : List Byte :=
  leBytes ((5 * es.length + 7) / 8) (es.foldr (fun e acc => e % 32 + 32 * acc) 0)

/-- The elided form of a row (R127). -/
def elide (bs : List Byte) (f nblk eFill : Nat) : List Byte :=
  let blocks := (List.range nblk).map (rowBlock bs f nblk)
  let present := fun (b : List Byte × Nat) => !(b.1.all (fun x => decide (x = 0)) && decide (b.2 = eFill % 32))
  let kept := blocks.filter present
  let bitmap := leBytes ((nblk + 7) / 8) (blocks.foldr (fun b acc => natOfBool (present b) + 2 * acc) 0)
  let head := leBytes 4 (nblk % 1024 + f % 4 * 2 ^ 10 + eFill % 32 * 2 ^ 12 + kept.length * 2 ^ 17)
  let rest := bitmap ++ kept.flatMap (·.1) ++ packExps (kept.map (·.2))
  head ++ leBytes 4 (crc32c (head ++ rest)) ++ rest

/-- The bytes of an elided row in the layout of R69, if the row passes R128. -/
def unelide (bs : List Byte) : Option (List Byte) :=
  let h := leAt bs 0 4
  let nblk := bitsOf h 9 0
  let f := bitsOf h 11 10
  let eFill := bitsOf h 16 12
  let p := bitsOf h 26 17
  let n := 4 * formBits f
  let bm := (nblk + 7) / 8
  let bits := leAt bs 8 bm
  let count := ((List.range nblk).filter fun i => bitOf bits i).length
  let total := 8 + bm + p * n + (5 * p + 7) / 8
  if bs.length = total ∧ p = count ∧ bitsOf h 31 27 = 0 ∧ crc32c (bs.take 4 ++ bs.drop 8) = leAt bs 4 4 then
    let idx := fun (i : Nat) => ((List.range i).filter fun k => bitOf bits k).length
    let block := fun (i : Nat) =>
      if bitOf bits i then
        let bit := 5 * idx i
        (sliceBytes bs (8 + bm + n * idx i) n, bitsOf (leAt bs (8 + bm + p * n + bit / 8) 2) (bit % 8 + 4) (bit % 8))
      else (zeroBytes n, eFill)
    let blocks := (List.range nblk).map block
    some (blocks.flatMap (·.1) ++ packExps (blocks.map (·.2)))
  else none

/-- The bytes that an elided row writes, by its header alone. -/
def elidedSize (bs : List Byte) : Nat := rowBytes (bitsOf (leAt bs 0 4) 11 10) (bitsOf (leAt bs 0 4) 9 0)

/-- Whether a payload that carries check values passes them (Table 12.6): blocks followed by a value each; TVQ blocks
carry their own. -/
def payloadGood (chk : Nat) (bs : List Byte) : Bool :=
  if chk = 0 then true
  else if chk = 3 then tvqAll bs (bs.length / 8 + 1)
  else
    let size := if chk = 1 then 16384 else 12288
    let k := ceilDiv bs.length (size + 4)
    let n := bs.length - 4 * k
    (List.range k).all fun j => decide (crc32c (sliceBytes bs (size * j) (min size (n - size * j))) = leAt bs (n + 4 * j) 4)
where
  /-- Every TVQ block of a string passes, each to the next 8-byte boundary. -/
  tvqAll : List Byte → Nat → Bool
    | [], _ => true
    | bs, 0 => bs.isEmpty
    | bs, fuel + 1 =>
      let len := 8 + tvqLen bs
      decide (len ≤ bs.length) && !tvqCheckBad (bs.take len) && tvqAll (bs.drop ((len + 7) / 8 * 8)) fuel

/-! ### Arrival (R335) -/

/-- A link data fault of a port (R125, class 0x0C cause 1). -/
def State.linkFault (s : State) (port : Nat) (src : BitVec 24) : State :=
  (s.bump Reg.fabLdf 1).raise { cls := 0x0C, cause := 1, detail := [BitVec.ofNat 8 port, 0, 0, 0] ++ leBytes 4 src.toNat }

/-- The resend request of R336, sent once for a message, on the port the message came by. -/
def State.askResend (s : State) (port : Nat) (m : FabMsg) : State :=
  let slot : Delivered := { xslot := BitVec.ofNat 8 m.xslot, tstep := BitVec.ofNat 16 m.tstep, mslot := BitVec.ofNat 12 m.mslot }
  let a : AskedResend := { src := m.src, slot }
  if s.fabric.asked.contains a then s
  else
    let s1 := { s with fabric := { s.fabric with asked := a :: s.fabric.asked } }
    s1.sendItem port (itemOf [7 + m.xslot * 2 ^ 8 + m.mslot * 2 ^ 16 + s.torus.toNat * 2 ^ 40, m.tstep])

/-- Whether a message's target refuses it (R187, R189, R303, judged with splot). -/
def State.fabRefused (s : State) (m : FabMsg) : Bool :=
  let gl := s.glade m.glade
  let size := if m.elided then elidedSize m.payload else m.plen
  let admitted :=
    if m.cls = 0 then gl.admits m.splot ((List.range size).map (m.addr + ·))
    else if m.cls = 3 then gl.permits m.splot
    else true
  (s.refusalCause m.glade admitted m.ctr).isSome || (m.cls == 1 && !s.mayWrite m.splot m.addr size)

/-- An accepted message written (check 7). DEDUCED, unsafe: log entry 48. -/
def State.fabWrite (s : State) (m : FabMsg) (bytes : List Byte) : State :=
  let d : Delivered := { xslot := BitVec.ofNat 8 m.xslot, tstep := BitVec.ofNat 16 m.tstep, mslot := BitVec.ofNat 12 m.mslot }
  let s1 := { s with fabric := { s.fabric with delivered := d :: s.fabric.delivered } }
  let note := (BitVec.ofNat 6 m.ctr, BitVec.ofNat 16 m.tstep)
  if m.cls = 3 then (s1.contribute m.glade (m.addr % 256) bytes m.ctr m.splot (some (BitVec.ofNat 16 (s.rankOf m.src)))).engineOn m.glade
  else
    let s2 := if m.cls = 0 then s1.setGlade m.glade ((s1.glade m.glade).writeFor none (some (BitVec.ofNat 6 m.ctr)) m.addr bytes) else s1.devWriteQuiet m.addr bytes
    let gl := s2.glade m.glade
    (s2.setGlade m.glade { gl with acceptedFab := note :: gl.acceptedFab }).countUp m.glade m.ctr 1

/-- Checks 2 to 7 of Table 12.8 at the destination. `port` is the one the message came by. -/
def State.acceptFab (s : State) (port : Nat) (m : FabMsg) : State :=
  let cur := s.step.num.toNat % 2 ^ 16
  let d : Delivered := { xslot := BitVec.ofNat 8 m.xslot, tstep := BitVec.ofNat 16 m.tstep, mslot := BitVec.ofNat 12 m.mslot }
  if m.cls > 3 || (m.cls = 3 && m.plen ≠ 832) then s.linkFault port m.src
  else if m.tstep ≠ cur ∧ m.tstep ≠ (cur + 1) % 2 ^ 16 then s.bump Reg.fabStale 1
  else if s.fabric.delivered.contains d then s.bump Reg.fabDup 1
  else if s.fabRefused m then
    (s.bump Reg.fabNref 1).plotFault (s.plotOf m.glade)
      { cls := 0x08, cause := 5, glade := some m.glade,
        detail := leBytes 3 m.src.toNat ++ [BitVec.ofNat 8 m.xslot] ++ leBytes 2 m.mslot }
  else
    let bytes := if m.elided then unelide m.payload else if payloadGood m.chk m.payload then some m.payload else none
    match bytes with
    | some bs => s.fabWrite m bs
    | none => (s.linkFault port m.src).askResend port m

/-! ### Version-1 ports (R126, R359) -/

/-- The base-3 digit of logical input `r` of a TS16 tile's output column `c` (R55, R59). -/
def tsDigit (gs : List (BitVec 48)) (r c : Nat) : Nat :=
  match (tsSlots (gs.getD (16 * c + r / 16) 0)).find? fun x => decide (x.1 = r % 16) with
  | some x => if x.2 = 1 then 1 else 2
  | none => 0

/-- The digits of the two TP5 tiles that a TS16 tile becomes (R56, R126). -/
def tsTileDigits (gs : List (BitVec 48)) : List Nat :=
  (List.range 256).flatMap fun r => (List.range 128).map (tsDigit gs r)

/-- Digits packed five to a TP5 byte, padded with zero trits (R55, R56). -/
def packTp5 (ds : List Nat) : List Byte :=
  (List.range (ceilDiv ds.length 5)).map fun i =>
    BitVec.ofNat 8 (((ds.drop (5 * i)).take 5).foldr (fun d acc => d + 3 * acc) 0)

/-- TP5 bytes followed by the check value of each 16,384-byte block (R63, Table 12.6). -/
def withTp5Checks (bs : List Byte) : List Byte :=
  bs ++ (List.range (ceilDiv bs.length 16384)).flatMap fun j =>
    leBytes 4 (crc32c (sliceBytes bs (16384 * j) (min 16384 (bs.length - 16384 * j))))

/-- The TP5 bytes of a payload of TS16 tiles, if every check value and every group passes. -/
def tsExpand (bs : List Byte) : Option (List Byte) :=
  let k := ceilDiv bs.length 12292
  let gs := tsGroups bs ((bs.length - 4 * k) / 6)
  if payloadGood 2 bs && gs.all fun g => (tsFault g).isNone then
    some (packTp5 ((List.range k).flatMap fun j => tsTileDigits ((gs.drop (2048 * j)).take 2048)))
  else none

/-- The trits of a payload of TVQ blocks from block `j` of its first tile, if every block passes: 2,560 of a block, and of
block 6 of a tile its first 1,024, which fill the tile (R119). A coded block's codebook is not part of the message: its
trits are taken from `free`. DESIGN CHOICE, safe: log entry 137. -/
def tvqExpand (free : List Byte) (j : Nat) : List Byte → Nat → Option (List Nat)
  | [], _ => some []
  | _ :: _, 0 => none
  | b :: bs, fuel + 1 =>
    let x := b :: bs
    let len := 8 + tvqLen x
    let raw := sliceBytes x 8 512
    if decide (len > x.length) || tvqHeaderBad x || tvqCheckBad (x.take len)
        || (tvqRaw x && (raw.take (if j % 7 = 6 then 205 else 512)).any fun v => decide (v.toNat > 242)) then none
    else
      let out := if tvqRaw x then raw else (free.take 512).map fun v => BitVec.ofNat 8 (v.toNat % 243)
      let trits := (out.flatMap fun v => (tp5Digits v).getD [0, 0, 0, 0, 0]).take (if j % 7 = 6 then 1024 else 2560)
      (tvqExpand (free.drop 512) (j + 1) (x.drop ((len + 7) / 8 * 8)) fuel).map (trits ++ ·)

/-- A message with another payload. -/
def FabMsg.carrying (m : FabMsg) (chk : Nat) (bs : List Byte) : FabMsg :=
  { m with plen := bs.length, elided := false, chk, payload := bs }

/-- A message in the form in which a version-1 port carries it (R126), if its blocks pass and the form has at most 65,536
bytes: an elided row in the layout of R69, TS16 tiles and TVQ blocks as TP5 with new check values.
DEDUCED, unsafe: log entry 136. -/
def State.forVersion1 (s : State) (m : FabMsg) : Option FabMsg × State :=
  let fits := fun (chk : Nat) (bs : List Byte) => if bs.length ≤ 65536 then some (m.carrying chk bs) else none
  if m.elided then ((unelide m.payload).bind (fits 0), s)
  else if m.chk = 2 then ((tsExpand m.payload).bind fun bs => fits 1 (withTp5Checks bs), s)
  else if m.chk = 3 then
    let r := s.drawBytes (64 * m.payload.length)
    ((tvqExpand r.1 0 m.payload (m.payload.length + 1)).bind fun ds => fits 1 (withTp5Checks (packTp5 ds)), r.2)
  else (some m, s)

/-- A message of class 0, 1 or 3 put on a version-1 port; another class is a route fault (R359). -/
def State.forwardVersion1 (s : State) (p : Nat) (m : FabMsg) (item : Item) : State :=
  if m.cls = 2 || m.cls > 3 then s.routeFault none none 3 m.dst
  else if !m.elided && m.chk ≤ 1 then s.sendItem p item
  else
    match s.forVersion1 m with
    | (some x, t) => t.sendItem p x.item
    | (none, t) => t.linkFault p m.src

/-- A message for another module, sent on toward it. -/
def State.forward (s : State) (m : FabMsg) (item : Item) : State :=
  match s.routeTo m.dst with
  | .inl c => s.routeFault none none c m.dst
  | .inr (some p) => if (s.port p).ver = 1 then s.forwardVersion1 p m item else s.sendItem p item
  | .inr none => s

/-- Check 1 of Table 12.8: a message on a firebreak port, or of another slice, is discarded with a Ranger log entry. -/
def State.fireBreak (s : State) (m : FabMsg) : State :=
  { s.bump Reg.fabFbrk 1 with fabric := { s.fabric with rangerLog := s.fabric.rangerLog ++ [m.src] } }

/-- FABRIC_MESSAGE_ARRIVAL (R335): a message of class 0, 1 or 3, or of a reserved class; ROUTE messages have commands of
their own. -/
def execFabricMessageArrival (p : BitVec 3) (item : List Byte) (s : State) : Out :=
  onItem "FABRIC_MESSAGE_ARRIVAL" p (BitVec.ofNat 64 (leAt item 0 8)) s fun x =>
    let m := fabMsg item
    if !x.live || m.cls = 2 then s
    else
      let s1 := s.setPort p.toNat (x.heardItem item)
      if s.fireBroken p.toNat || decide (m.slice ≠ s.slice) then s1.fireBreak m
      else if m.dst ≠ s.torus then s1.forward m item
      else if s.field Reg.fabCtl 0 0 = 0 then s1
      else s1.acceptFab p.toNat m

/-! ### Sending (R333) -/

/-- A fabric send descriptor (Table 12.7). -/
structure FabDesc where
  dst : BitVec 24
  cls : Nat
  next : Bool
  elided : Bool
  chk : Nat
  dsrc : Bool
  xslot : Nat
  dctr : Nat
  mslot : Nat
  dglade : Nat
  daddr : Nat
  saddr : Nat
  plen : Nat
  eFill : Nat
  reserved : Bool
  deriving DecidableEq, Repr

/-- The descriptor that 32 bytes hold. -/
def fabDesc (bs : List Byte) : FabDesc :=
  let b3 := leAt bs 3 1
  { dst := BitVec.ofNat 24 (leAt bs 0 3), cls := bitsOf b3 1 0, next := bitOf b3 2, elided := bitOf b3 3, chk := bitsOf b3 5 4
    dsrc := bitOf b3 6, xslot := leAt bs 4 1, dctr := bitsOf (leAt bs 5 1) 5 0, mslot := bitsOf (leAt bs 6 2) 11 0
    dglade := bitsOf (leAt bs 8 2) 9 0, daddr := leAt bs 10 6, saddr := leAt bs 16 6, plen := bitsOf (leAt bs 22 3) 16 0
    eFill := bitsOf (leAt bs 25 1) 4 0
    reserved := bitOf b3 7 || bitsOf (leAt bs 5 1) 7 6 != 0 || bitsOf (leAt bs 6 2) 15 12 != 0
      || bitsOf (leAt bs 8 2) 15 10 != 0 || bitsOf (leAt bs 22 3) 23 17 != 0 || bitsOf (leAt bs 25 1) 7 5 != 0
      || leAt bs 26 6 != 0 }

/-- The block count of a row of R69 in form `f` that takes `n` bytes, if there is one. -/
def rowShape (f n : Nat) : Option Nat :=
  let b := 8 * n / (32 * formBits f + 5)
  ([b, b - 1].find? fun k => decide (0 < k) && decide (rowBytes f k = n))

/-- The form of a row that a send elides, where its size alone does not fix it: a free value.
DESIGN CHOICE, safe: log entry 46. -/
def State.pickForm (s : State) (n : Nat) : Option (Nat × Nat) × State :=
  let cands := (List.range 4).filterMap fun f => (rowShape f n).map fun b => (f, b)
  match cands with
  | [] => (none, s)
  | [x] => (some x, s)
  | _ => (cands[(s.draw 8).1.toNat % cands.length]?, (s.draw 8).2)

/-- The payload of a message of some class: class 3 carries the sender and its issue sequence. -/
def fabPayload (d : FabDesc) (g seq : Nat) (bs : List Byte) : List Byte :=
  if d.cls = 3 then leBytes 2 g ++ sliceBytes bs 2 4 ++ leBytes 4 seq ++ bs.drop 10 else bs

/-- The message of a descriptor. -/
def State.fabBuild (s : State) (d : FabDesc) (g p tstep : Nat) (payload : List Byte) : FabMsg :=
  { cls := d.cls, plen := payload.length, dst := d.dst, slice := s.slice, src := s.torus, xslot := d.xslot, mslot := d.mslot,
    tstep, glade := d.dglade, ctr := d.dctr, elided := d.elided, chk := d.chk, splot := p, addr := d.daddr, sglade := g,
    payload }

/-- Keeping the descriptors of the last 1,024 sends (R336). -/
def State.keepSend (s : State) (k : KeptSend) : State :=
  { s with fabric := { s.fabric with kept := (k :: s.fabric.kept).take 1024 } }

/-- Whether a kept send is the one that a resend request names (R336). -/
def KeptSend.named (k : KeptSend) (xslot mslot tstep : Nat) (dst : BitVec 24) : Bool :=
  decide (k.xslot.toNat = xslot ∧ k.mslot.toNat = mslot ∧ k.tstep.toNat = tstep ∧ k.dst = dst)

/-- A kept send marked as resent. -/
def State.markResent (s : State) (xslot mslot tstep : Nat) (dst : BitVec 24) : State :=
  { s with fabric := { s.fabric with
      kept := s.fabric.kept.map fun e => if e.named xslot mslot tstep dst then { e with resent := true } else e } }

/-- A message of the module to itself: where its check fails, the destination asks the source, which is the module, and it
is sent once more (R336). -/
def State.launchSelf (s : State) (m : FabMsg) : State :=
  let s1 := s.acceptFab 7 m
  if s1.fabric.asked.length = s.fabric.asked.length then s1
  else ((s1.markResent m.xslot m.mslot m.tstep m.dst).bump Reg.fabRsnd 1).acceptFab 7 m

/-- A message put on its way: into a port's stream, in the form that its version carries, or, for the module itself, to its
own router. -/
def State.launch (s : State) (port : Option Nat) (m : FabMsg) : State :=
  match port with
  | some p => if (s.port p).ver = 1 then s.forwardVersion1 p m m.item else s.sendItem p m.item
  | none => s.launchSelf m

/-- The payload that a send makes of its source bytes. -/
def KeptSend.body (k : KeptSend) (src : List Byte) : List Byte :=
  match k.shape with
  | some x => elide src x.1 x.2 (fabDesc k.desc).eFill
  | none => fabPayload (fabDesc k.desc) k.glade.toNat k.seq.toNat src

/-- A send whose source bytes have been read: its message goes out, and a first one is kept and counts on its glade's
counter (R333), a resent one in FAB_RSND (R336). Without a route it sends nothing (R341). -/
def State.finishSend (s : State) (k : KeptSend) (ctr : Nat) (src : List Byte) : State :=
  match s.routeTo k.dst with
  | .inl c => s.routeFault (some k.plot.toNat) (some k.glade.toNat) c k.dst
  | .inr port =>
    let m := s.fabBuild (fabDesc k.desc) k.glade.toNat k.plot.toNat k.tstep.toNat (k.body src)
    if k.resent then (s.launch port m).bump Reg.fabRsnd 1
    else ((s.keepSend k).launch port m).countUp k.glade.toNat ctr 1

/-- The transfer that reads the source of a send in the device range (R333). -/
def KeptSend.transfer (k : KeptSend) (spa : Nat) (ctr : BitVec 6) (pc : Nat) : Transfer :=
  let d := fabDesc k.desc
  { write := false, spa, len := d.plen, ctr, chk := BitVec.ofNat 2 d.chk, addr := d.saddr, table := 0, data := [], pc, good := []
    waiting := [], send := some k, slots := [] }

/-- A transfer started by a glade. -/
def State.addTransfer (s : State) (g : Nat) (t : Transfer) : State :=
  s.setGlade g { s.glade g with transfers := (s.glade g).transfers ++ [t] }

/-- The effect of FAB.SEND when its turn in the transfer queue comes (R333). `i` holds the instruction's words. A source in the
device range is read by a transfer, which sends when its bytes have come (R64). DEDUCED, unsafe: log entry 47. DEDUCED,
unsafe: log entry 132. -/
def State.fabSend (s : State) (i : Issue) : State :=
  let a := 8 * i.f 23 8
  let bs := i.gl.read a 32
  let d := fabDesc bs
  if !spadOk a 32 8 then s.instrFault i 0x06
  else if d.reserved then s.instrFault i 0x02
  else if d.cls = 2 || d.plen = 0 || d.plen > 65536 || i.f 29 24 ≥ 62 || d.dctr ≥ 62 then s.instrFault i 0x04
  else if !s.holdsLease i.p 4 d.xslot then s.leaseFault i.p 4 d.xslot i.g i.pc
  else match s.routeTo d.dst with
    | .inl c => s.routeFault (some i.p) (some i.g) c d.dst
    | .inr port =>
      let one := match port with
        | some p => decide ((s.port p).ver = 1)
        | none => false
      if one && (d.chk ≥ 2 || d.elided) then s.instrFault i 0x04
      else if d.dsrc && !s.mayRead i.p d.saddr d.plen then s.instrFault i 0x0C
      else if !d.dsrc && d.saddr + d.plen > spadSize then s.instrFault i 0x06
      else
        let src := i.gl.read d.saddr d.plen
        let sh := if d.elided then s.pickForm d.plen else (none, s)
        let big := match sh.1 with
          | some x => decide (x.2 > 1023)
          | none => d.elided
        if big then s.instrFault i 0x05
        else if !d.dsrc && (d.chk = 1 || d.chk = 2) && !payloadGood d.chk src then s.formatFault i 8 d.saddr 3 none
        else
          let s1 := sh.2
          let tstep := (s.step.num.toNat + natOfBool d.next) % 2 ^ 16
          let gl := s1.glade i.g
          let s2 := if d.cls = 3 then s1.setGlade i.g { gl with seq := gl.seq + 1 } else s1
          let kept : KeptSend := { dst := d.dst, desc := bs, xslot := BitVec.ofNat 8 d.xslot, mslot := BitVec.ofNat 12 d.mslot, tstep := BitVec.ofNat 16 tstep, glade := BitVec.ofNat 10 i.g, plot := BitVec.ofNat 6 i.p, resent := false, seq := i.gl.seq, shape := sh.1 }
          if d.dsrc then
            (s2.addTransfer i.g (kept.transfer a (BitVec.ofNat 6 (i.f 29 24)) i.pc)).touchReadOn (dieOf i.g) d.saddr d.plen
          else s2.finishSend kept (i.f 29 24) src

/-- A resend request that another router sent (R336): this one, which keeps no such send, passes it on; over which port is a
free value. DESIGN CHOICE, safe: log entry 157. -/
def State.passRequest (s : State) (p : Nat) (w0 w1 : DWord) : State :=
  let q := (s.draw 3).1.toNat
  let s1 := (s.draw 3).2
  if q ≠ p ∧ s.carries q then s1.sendItem q (itemOf [w0.toNat, w1.toNat]) else s1

/-- RESEND_REQUEST (R336): a kept message is read from its source once more and sent again; from the device range by a transfer
of its glade, which counts on no counter. -/
def execResendRequest (p : BitVec 3) (w0 w1 : BitVec 64) (s : State) : Out :=
  onItem "RESEND_REQUEST" p w0 s fun x =>
    let dst := BitVec.ofNat 24 (wf w0 63 40)
    let s1 := s.setPort p.toNat x.heard
    if !x.live || s.fireBroken p.toNat then s
    else match s.fabric.kept.find? fun k => k.named (wf w0 15 8) (wf w0 27 16) (wf w1 15 0) dst with
      | none => if dst = s.torus then s1 else s1.passRequest p.toNat w0 w1
      | some k =>
        if k.resent then s1
        else
          let k1 := { k with resent := true }
          let d := fabDesc k.desc
          let s2 := s1.markResent (wf w0 15 8) (wf w0 27 16) (wf w1 15 0) dst
          if d.dsrc then s2.addTransfer k.glade.toNat (k1.transfer 0 0 0)
          else s2.finishSend k1 0 ((s2.glade k.glade.toNat).read d.saddr d.plen)

end Sys2Proof.Machine
end

