-- ==== Sys2Proof/Machine/Transfer.lean ====
section
/-!
DEFINITION. The transfer queue (R172 to R174): MSG.SEND (R186), MEM.RD and MEM.WR (R303, R305 to R308, R499), FAB.SEND
(R333), and the scalar instructions that go beside it: SHP.LD and SHP.ST (R280, R281), ENG.N (R282), MEM.HINT (R311).
-/

namespace Sys2Proof.Machine

/-- The opcodes of the transfer queue that a unit outside the glade has to accept: canopy, routing and scout. -/
def outsideOp (op : Byte) : Bool :=
  let x := op.toNat
  x == 0x68 || x == 0x69 || decide (0x6C ≤ x ∧ x ≤ 0x6E) || x == 0x70 || x == 0x71

/-- MSG.SEND when it starts: its flits enter the mesh (R186). -/
def State.startSend (s : State) (i : Issue) : State :=
  let n := 64 * (i.f 47 40 + 1)
  let r : Route := { dst := i.f 12 8 + 32 * i.f 17 13, addr := i.f 33 18, ctr := i.f 39 34, nflit := i.f 47 40, kind := 0, src := i.g, plot := i.p, attempt := (s.plot i.p).tag.toNat }
  s.send r (i.gl.read (8 * i.f 63 48) n) []

/-- The extent that the check table of a transfer takes: one 4-byte value per block; none without a table. -/
def tableBytes (len chk : Nat) : Nat :=
  if chk = 1 then 4 * ceilDiv len 16384 else if chk = 2 then 4 * ceilDiv len 12288 else 0

/-- The transfer that a MEM.RD or MEM.WR starts. A MEM.WR takes its scratchpad bytes as it starts. -/
def transferOf (i : Issue) (write : Bool) (addr table : Nat) : Transfer :=
  let spa := 8 * i.f 23 8
  let len := 64 * (i.f 36 24 + 1)
  { write, spa, len, ctr := BitVec.ofNat 6 (i.f 42 37), chk := BitVec.ofNat 2 (i.f 44 43), addr, table
    data := if write then i.gl.read spa len else [], pc := i.pc, good := [], waiting := [], send := none, slots := [] }

/-- MEM.RD or MEM.WR when it starts (R173). Its accesses count (R310). -/
def State.startMem (s : State) (i : Issue) (write : Bool) (addr table : Nat) : State :=
  let t := transferOf i write addr table
  let s1 := s.addTransfer i.g t
  if write then s1
  else
    let s2 := s1.touchReadOn (dieOf i.g) addr t.len
    if tableBytes t.len t.chk.toNat = 0 then s2 else s2.touchReadOn (dieOf i.g) table (tableBytes t.len t.chk.toNat)

/-- A transfer instruction whose turn has come. DEDUCED, unsafe: log entry 31. -/
def State.startTransfer (s : State) (g : Nat) (q : QueuedInstr) : State :=
  let i := s.requeue g q
  match q.op.toNat with
  | 0x84 => s.startSend i
  | 0x88 => s.startMem i false (q.arg 0) (q.arg 1)
  | 0x89 => s.startMem i true (q.arg 0) (q.arg 1)
  | 0x8C => s.fabSend i
  | _ => s

/-- Starting queued instructions in order up to one that a unit outside has to accept (R174). -/
def drainQueue (g : Nat) : Nat → State → State
  | 0, s => s
  | fuel + 1, s =>
    let gl := s.glade g
    match gl.queue with
    | [] => s
    | q :: rest =>
      if outsideOp q.op then s else drainQueue g fuel ((s.setGlade g { gl with queue := rest }).startTransfer g q)

/-- Entering an instruction in the transfer queue (R172, R174): the control processor stalls while it is full; with
nothing ahead of it, an instruction of the transfer unit's own starts at once. -/
def State.toQueue (s : State) (i : Issue) (args : List DWord) : State :=
  let q : QueuedInstr := { pc := i.pc, op := BitVec.ofNat 8 i.op, words := BitVec.ofNat 128 i.w, args }
  if i.gl.queue.length ≥ 16 then s
  else
    let gl := (i.gl.step i)
    drainQueue i.g 16 (s.setGlade i.g { gl with queue := gl.queue ++ [q] })

/-- MSG.SEND (R186, R498, Table 7.5). -/
def execMsgSend (g : BitVec 10) (s : State) : Out :=
  atInstr s g 0x84 fun i =>
    if i.f 39 34 ≥ 62 then s.instrFault i 0x04
    else if 8 * i.f 63 48 + 64 * (i.f 47 40 + 1) > spadSize then s.instrFault i 0x06
    else s.toQueue i []

/-- The checks that MEM.RD and MEM.WR share (Table 7.5, R303, R305, R498), then `k` with the two addresses.
DEDUCED, unsafe: log entry 32. -/
def State.memChecks (s : State) (i : Issue) (write : Bool) (k : Nat → Nat → State) : State :=
  let chk := i.f 44 43
  let spa := 8 * i.f 23 8
  let len := 64 * (i.f 36 24 + 1)
  let addr := (i.gl.gpr (i.f 49 45)).toNat
  let table := (i.gl.gpr (i.f 54 50)).toNat
  let tb := tableBytes len chk
  let may := fun (a n : Nat) => if write then s.mayWrite i.p a n else s.mayRead i.p a n
  s.checks i
    [(i.f 63 55 != 0, 0x02), ((chk == 0 || (chk == 3 && !write)) && i.f 54 50 != 0, 0x02),
     (!write && s.isaOne i.p && decide (chk ≥ 2), 0x01), (write && chk == 3, 0x04), (decide (i.f 42 37 ≥ 62), 0x04),
     (decide (spa % 64 ≠ 0) || decide (spa + len > spadSize) || decide (addr % 64 ≠ 0), 0x06),
     (!may addr len, 0x0C), (decide (tb > 0) && !may table tb, 0x0C)] (k addr table)

/-- MEM.RD (R173, R303, R305). -/
def execMemRd (g : BitVec 10) (s : State) : Out :=
  atInstr s g 0x88 fun i =>
    s.memChecks i false fun addr table => s.toQueue i [BitVec.ofNat 64 addr, BitVec.ofNat 64 table]

/-- MEM.WR (R173, R303, R306). -/
def execMemWr (g : BitVec 10) (s : State) : Out :=
  atInstr s g 0x89 fun i =>
    s.memChecks i true fun addr table =>
      let len := 64 * (i.f 36 24 + 1)
      let tb := tableBytes len (i.f 44 43)
      let miss := match s.leaseMissing i.p addr len with
        | some r => some r
        | none => if tb > 0 then s.leaseMissing i.p table tb else none
      match miss with
      | some r => s.leaseFault i.p 2 r i.g i.pc
      | none => s.toQueue i [BitVec.ofNat 64 addr, BitVec.ofNat 64 table]

/-- FAB.SEND (R333): its reserved bits are tested at issue, the rest when its turn in the queue comes. -/
def execFabSend (g : BitVec 10) (s : State) : Out :=
  atInstr s g 0x8C fun i => if i.f 63 30 ≠ 0 then s.instrFault i 0x02 else s.toQueue i []

/-! ### Completions -/

/-- Replacing transfer `k` of a glade. -/
def State.setTransfer (s : State) (g k : Nat) (t : Transfer) : State :=
  let gl := s.glade g
  s.setGlade g { gl with transfers := setAt gl.transfers k t }

/-- Removing transfer `k` of a glade. -/
def State.dropTransfer (s : State) (g k : Nat) : State :=
  let gl := s.glade g
  s.setGlade g { gl with transfers := gl.transfers.eraseIdx k }

/-- A memory data fault (R308, R499): the step is abandoned; a recurrence at the same address in the replay halts the
plot and enters the address in the error history. -/
def State.memoryFault (s : State) (g pc addr : Nat) : State :=
  let p := s.plotOf g
  let pl := s.plot p
  let f : FaultArgs := { cls := 0x0A, cause := 0, glade := some g, pc, detail := leBytes 6 addr }
  if pl.replaying && decide (pl.poisonAt = some addr) then
    let s1 := s.haltFault p f
    let s2 := s1.errorAt 4 addr
    { s2 with mem := { s2.mem with errors := s2.mem.errors ++ [addr] } }
  else
    let s1 := s.abandonFault p f false
    s1.setPlot p { s1.plot p with poisonAt := some addr }

/-- The memory as a transfer finds it: on the slots to which it was translated (R314). -/
def State.memOf (s : State) (t : Transfer) : Memory := s.mem.withSlots t.slots

/-- The bytes of a transfer that its check values cover: a FAB.SEND's payload carries the values after them (R333). -/
def Transfer.covered (t : Transfer) : Nat :=
  if t.send.isSome && t.chk = 1 then t.len - 4 * ceilDiv t.len 16388
  else if t.send.isSome && t.chk = 2 then t.len - 4 * ceilDiv t.len 12292
  else t.len

/-- The address of a transfer's check table. -/
def Transfer.tableAt (t : Transfer) : Nat := if t.send.isSome then t.addr + t.covered else t.table

/-- The blocks of a transfer with a check. -/
def State.blocksFor (s : State) (t : Transfer) : List BlockRef :=
  blocksOf (s.memOf t) t.addr t.covered t.chk.toNat t.tableAt

/-- Whether the bytes of a block that a transfer reads fail its check. -/
def State.failsFor (s : State) (t : Transfer) (b : BlockRef) : Bool := !b.chk.good ((s.memOf t).read b.addr b.len)

/-- Whether a block starts at a place marked weak (R321). -/
def State.weakFor (s : State) (t : Transfer) (b : BlockRef) : Bool := s.mem.weakAt ((s.memOf t).physOf b.addr)

/-- A completed read: a MEM.RD's bytes reach the scratchpad, with their source where they were checked, and its counter counts
one (R173, R117); a FAB.SEND's go out (R333). -/
def State.finishRead (s : State) (g k : Nat) (t : Transfer) : State :=
  let s1 := s.dropTransfer g k
  let bs := (s.memOf t).read t.addr t.len
  match t.send with
  | some x => s1.finishSend x t.ctr.toNat bs
  | none =>
    let gl := (s1.glade g).writeFor (some 2) (some t.ctr) t.spa bs
    let run : SourceRun := { lo := t.spa, hi := t.spa + t.len, spa := t.spa, len := t.len, addr := t.addr, chk := t.chk, table := t.table }
    (s1.setGlade g (if t.chk = 0 then gl else { gl with sources := run :: gl.sources })).countUp g t.ctr.toNat 1

/-- A read that cannot complete: a memory data fault (R308), but a message sent again is only dropped.
DEDUCED, unsafe: log entry 158. -/
def State.failRead (s : State) (g k : Nat) (t : Transfer) (a : Nat) : State :=
  match t.send with
  | some x => if x.resent then s.dropTransfer g k else s.memoryFault g t.pc a
  | none => s.memoryFault g t.pc a

/-- Opening repairs for failing blocks of a region (R320, R322); a weak block that is not read from its source fails no check. -/
def openRepairs (r : Nat × Region) : List BlockRef → State → State
  | [], s => s
  | b :: bs, s =>
    let s1 := s.openRepair r.1 (b.addr - r.2.base.toNat) b.len b.chk
    openRepairs r bs (if s.mem.weakAt (s.mem.physOf b.addr) then s1 else s1.bump Reg.memChkf 1)

/-- A checked read whose blocks have come (R305, R320, R321, R499). `bad`: blocks that came poisoned; `again`: on the retry. A
weak block of a region with a repair path is not read from its source. -/
def State.finishChecked (s : State) (g k : Nat) (t : Transfer) (bad again : List Nat) : State :=
  let blocks := (s.blocksFor t).zipIdx
  match s.mem.regionOf t.addr t.len with
  | none => s.failRead g k t t.addr
  | some r =>
    let path := decide (r.2.kind = 1) || decide (r.2.kind = 3)
    let failing := blocks.filter fun b => !t.good.contains b.1.addr
      && (bad.contains b.2 || s.failsFor t b.1 || (path && s.weakFor t b.1))
    let s := countPoisons ((failing.filter fun b => bad.contains b.2).map fun b => b.1.addr) s
    if failing.isEmpty then s.finishRead g k t
    else if path then
      let take := (failing.map (·.1)).take (64 - s.mem.repairs.length)
      if take.isEmpty then s
      else openRepairs r take (s.setTransfer g k { t with waiting := take.map (·.addr) })
    else
      let s1 := countPoisons ((failing.filter fun b => again.contains b.2).map fun b => b.1.addr) (s.bump Reg.memChkf failing.length)
      match failing.find? fun b => again.contains b.2 || s.failsFor t b.1 with
      | some b => s1.failRead g k t b.1.addr
      | none => (s1.bump Reg.memRetry failing.length).finishRead g k t

/-- A read that waits while failing blocks of it found the repair table full (R322): they take the entries that are free. -/
def State.openMore (s : State) (g k : Nat) (t : Transfer) (bad : List Nat) : State :=
  match s.mem.regionOf t.addr t.len with
  | none => s
  | some r =>
    if t.chk = 0 || !(r.2.kind = 1 || r.2.kind = 3) then s
    else
      let blocks := (s.blocksFor t).zipIdx
      let failing := blocks.filter fun b => !t.good.contains b.1.addr && !t.waiting.contains b.1.addr
        && (bad.contains b.2 || s.failsFor t b.1 || s.weakFor t b.1)
      let take := (failing.map (·.1)).take (64 - s.mem.repairs.length)
      if take.isEmpty then s
      else openRepairs r take (s.setTransfer g k { t with waiting := t.waiting ++ take.map (·.addr) })

/-- The first address of an extent in a granule of a region that no slot holds (R315). -/
def State.unmappedUnit (s : State) (a n : Nat) : Option Nat :=
  ((unitsOf a n).map (max a)).find? fun x => (s.mem.regionOf x 1).isSome && (s.mem.physOf x).isNone

/-- The blocks under repair that a transfer's data or check table meets, but for those delivered to it (R322). -/
def State.joinsFor (s : State) (t : Transfer) : List RepairEntry :=
  let tb := if t.send.isSome then 0 else tableBytes t.len t.chk.toNat
  (s.mem.repairsOn t.addr t.len ++ (if tb = 0 then [] else s.mem.repairsOn t.table tb)).filter fun e =>
    !t.good.contains (s.mem.repairAddr e)

/-- A read without a check whose 64-byte units have come (R308). -/
def State.finishPlain (s : State) (g k : Nat) (t : Transfer) (bad again : List Nat) : State :=
  let both := bad.filter fun j => again.contains j && decide (64 * j < t.len)
  let s1 := countPoisons (((bad ++ again).filter fun j => decide (64 * j < t.len)).map fun j => t.addr + 64 * j) s
  match both with
  | [] => s1.finishRead g k t
  | j :: _ => s1.failRead g k t (t.addr + 64 * j)

/-- MEM_RD_COMPLETE (R173, R305, R307, R308, R322, R333, R499): transfer `k` of a glade, a MEM.RD's or a FAB.SEND's. Without a
check, `bad` and `again` list the 64-byte units that came poisoned on the read and on its retry; with one, the blocks. -/
def execMemRdComplete (g : BitVec 10) (k : Nat) (bad again : List Nat) (s : State) : Out :=
  let gl := s.glade g.toNat
  match gl.transfers[k]? with
  | none => .next s
  | some t =>
    let joins := s.joinsFor t
    if t.write then .next s
    else if !t.waiting.isEmpty then .next (s.openMore g.toNat k t bad)
    else if !joins.isEmpty then
      .next (tellJoined gl.plot joins (s.setTransfer g.toNat k { t with waiting := joins.map s.mem.repairAddr }))
    else match s.unmappedUnit t.addr t.len with
      | some a => .next (s.failRead g.toNat k t a)
      | none => .next (if t.chk ≠ 0 then s.finishChecked g.toNat k t bad again else s.finishPlain g.toNat k t bad again)

/-- The check values that a MEM.WR with gen writes (R306). -/
def genTable (bs : List Byte) (gen : Nat) : List Byte :=
  let size := if gen = 1 then 16384 else 12288
  (List.range (ceilDiv bs.length size)).flatMap fun j =>
    leBytes 4 (crc32c (sliceBytes bs (size * j) (min size (bs.length - size * j))))

/-- Whether a MEM.WR with gen covers the whole of a failed BULK block (R324). -/
def State.replaces (s : State) (t : Transfer) (e : RepairEntry) : Bool :=
  match s.mem.region e.region with
  | some r =>
    decide (r.kind = 3) && decide (e.step = .failed) && decide (t.chk = 1 ∨ t.chk = 2)
    && decide (t.addr ≤ s.mem.repairAddr e) && decide (s.mem.repairAddr e + e.len ≤ t.addr + t.len)
  | none => false

/-- Releasing replaced blocks: their entries close and the held reads get them. -/
def releaseBlocks : List RepairEntry → State → State
  | [], s => s
  | e :: es, s =>
    let a := s.mem.repairAddr e
    releaseBlocks es (State.deliver { s with mem := Memory.flushLate { s.mem with repairs := s.mem.repairs.erase e } } a)

/-- MEM_WR_COMPLETE (R173, R306, R322, R324): the bytes and the check table become visible and the counter counts one. A
write to a block under repair waits, but for one that replaces a failed block. -/
def execMemWrComplete (g : BitVec 10) (k : Nat) (s : State) : Out :=
  let gl := s.glade g.toNat
  match gl.transfers[k]? with
  | none => .next s
  | some t =>
    let held := s.mem.repairsOn t.addr t.len
    let tb := tableBytes t.len t.chk.toNat
    if !t.write || !held.all (s.replaces t) || (tb != 0 && s.mem.underRepair t.table tb) then .next s
    else
      let s1 := (s.dropTransfer g.toNat k).devWriteOn (dieOf g.toNat) t.addr t.data
      let s2 := if t.chk = 0 then s1 else s1.devWriteOn (dieOf g.toNat) t.table (genTable t.data t.chk.toNat)
      .next ((releaseBlocks held s2).countUp g.toNat t.ctr.toNat 1)

/-! ### Shape words, ENG.N and MEM.HINT -/

/-- The address of shape word `w` (R280). -/
def State.shapeAddr (s : State) (w : Nat) : Nat := s.base48 Reg.rteShpBaseLo + 8 * w

/-- Shape words that exist. -/
def State.shapeCount (s : State) : Nat := s.field Reg.rteShp 16 0

/-- The bytes of a shape word: value, aux and the current step (R280). -/
def State.shapeBytes (s : State) (value : Nat) : List Byte := leBytes 8 (value % 2 ^ 48 + s.step.num.toNat % 2 ^ 16 * 2 ^ 48)

/-- Writing shape word `w` (R280). -/
def State.setShape (s : State) (w value : Nat) : State := s.devWrite (s.shapeAddr w) (s.shapeBytes value)

/-- The value and aux of shape word `w`. -/
def State.shape (s : State) (w : Nat) : Nat × Nat :=
  (s.devNat (s.shapeAddr w) 4, s.devNat (s.shapeAddr w + 4) 2)

/-- Reads of some extents counted (R310): by the switch of a die, or of one that the spec does not name. -/
def touchAll (die : Option Nat) : List (Nat × Nat) → State → State
  | [], s => s
  | e :: es, s => touchAll die es (touchUnits die true false (unitsOf e.1 e.2) s)

/-- What an engine reads for an instruction of glade `g` at `pc` (R308, R310, R315, R322): it faults in an unmapped granule, and
takes poison: `poison` is the address that came poisoned, and whether it did again on the retry. Else `k` runs. -/
def State.engineReads (s : State) (die : Option Nat) (g pc : Nat) (es : List (Nat × Nat)) (poison : Option (Nat × Bool))
    (k : State → State) : State :=
  match (es.filterMap fun e => s.unmappedUnit e.1 e.2).head?, poison with
  | some a, _ => s.memoryFault g pc a
  | none, some (a, again) =>
    if !es.any fun e => decide (e.1 ≤ a ∧ a < e.1 + e.2) then k (touchAll die es s)
    else if again then ((s.countPoison a).countPoison a).memoryFault g pc a
    else k (touchAll die es (s.countPoison a))
  | none, none => k (touchAll die es s)

/-- SHP.LD (R281, R308): waits while the word lies in a block under repair (R322). `poison`: it came poisoned, and whether again
on the retry. -/
def execShpLd (g : BitVec 10) (poison : Option Bool) (s : State) : Out :=
  atInstr s g 0x31 fun i =>
    let a := s.shapeAddr i.ea
    if i.ea ≥ s.shapeCount then s.instrFault i 0x0C
    else s.whenReadable (some i.gl.plot) [(a, 8)] (
      s.engineReads (some (dieOf i.g)) i.g i.pc [(a, 8)] (poison.map fun again => (a, again)) fun t =>
        t.put i (i.gl.setGpr i.d (BitVec.ofNat 64 (t.devNat a 8))))

/-- SHP.ST (R280, R281). DEDUCED, unsafe: log entry 121. -/
def execShpSt (g : BitVec 10) (s : State) : Out :=
  atInstr s g 0x33 fun i => s.form i 23 (
    let w := i.ra.toNat
    if w ≥ s.shapeCount then s.instrFault i 0x0C
    else if !s.holdsLease i.p 3 (w / 512) then s.leaseFault i.p 3 (w / 512) i.g i.pc
    else if s.mem.underRepair (s.shapeAddr w) 8 then s
    else (s.put i i.gl).devWriteOn (dieOf i.g) (s.shapeAddr w) (s.shapeBytes i.rb.toNat))

/-- ENG.N (R282). -/
def execEngN (g : BitVec 10) (s : State) : Out :=
  atInstr s g 0x32 fun i => s.form i 23 (
    let c := i.ra.toNat % 2 ^ 16
    if c > 256 then s.instrFault i 0x04 else s.put i { i.gl with engN := some (BitVec.ofNat 16 c) })

/-- Granules `i` to `i + n − 1` of a region hinted. -/
def hintGranules (r : Region) (kind : Nat) (hexp : DWord) : List Nat → State → State
  | [], s => s
  | i :: is, s => hintGranules r kind hexp is (s.hintGranule r i kind hexp)

/-- MEM.HINT (R311, Table 11.10): an address in no region, or in one that is not MIGRATE, hints no granule. DEDUCED, unsafe:
log entry 121. -/
def execMemHint (g : BitVec 10) (s : State) : Out :=
  atInstr s g 0x34 fun i => s.form i 23 (
    let kind := bitsOf i.rb.toNat 1 0
    let count := bitsOf i.rb.toNat 21 2
    let life := bitsOf i.rb.toNat 63 32
    let a := i.ra.toNat
    if kind = 3 then s.instrFault i 0x04
    else match s.mem.regionOf a 1 with
      | none => s.put i (i.gl.setGpr i.d 0)
      | some e =>
        if !s.holdsLease i.p 2 e.1 then s.leaseFault i.p 2 e.1 i.g i.pc
        else if e.2.place ≠ 2 then s.put i (i.gl.setGpr i.d 0)
        else
          let i0 := (a - e.2.base.toNat) / e.2.granBytes
          let n := min count (e.2.granCount - i0)
          let hexp : DWord := if life = 0 then 0 else s.ringCount + BitVec.ofNat 64 life
          hintGranules e.2 kind hexp ((List.range n).map (i0 + ·)) (s.put i (i.gl.setGpr i.d (BitVec.ofNat 64 n))))

end Sys2Proof.Machine
end

