-- ==== Sys2Proof/Machine/Routing.lean ====
section
/-!
DEFINITION. The routing engine (R261 to R274): issue and acceptance of routing and scout instructions, selection and
gates, token lists, copies, end marks and answers.
-/

namespace Sys2Proof.Machine

/-! ### Descriptors -/

/-- A routing descriptor (Table 10.7). -/
structure RouteDesc where
  layer : Nat
  ne : Nat
  k : Nat
  npeer : Nat
  eLoR : Int
  chk : Bool
  dform : Nat
  gK : Nat
  gR : Nat
  bG : Int
  eLoG : Int
  map : Nat
  ptab : Nat
  shp0 : Nat
  scBase : Nat
  scStride : Nat
  dpBase : Nat
  dpStride : Nat
  cpBase : Nat
  rowsCap : Nat
  anBase : Nat
  dnblk : Nat
  tlBase : Nat
  eVoid : Int
  xslot : Nat
  reserved : Bool
  deriving DecidableEq, Repr

/-- The routing descriptor that 64 bytes hold. -/
def routeDesc (bs : List Byte) : RouteDesc :=
  let f := fun (at_ n hi lo : Nat) => bitsOf (leAt bs at_ n) hi lo
  { layer := f 0 2 9 0, ne := leAt bs 2 1 + 1, k := f 3 1 3 0, npeer := f 3 1 7 4, eLoR := signedOf 5 (leAt bs 4 1)
    chk := bitOf (leAt bs 4 1) 5, dform := f 4 1 7 6, gK := f 5 1 5 0, gR := leAt bs 6 2, bG := signedOf 8 (leAt bs 8 1)
    eLoG := signedOf 5 (leAt bs 9 1), map := leAt bs 10 2, ptab := leAt bs 12 2, shp0 := leAt bs 14 2
    scBase := leAt bs 16 6, scStride := leAt bs 22 2, dpBase := leAt bs 24 6, dpStride := leAt bs 30 2
    cpBase := leAt bs 32 6, rowsCap := f 38 2 10 0, anBase := leAt bs 40 6, dnblk := f 46 2 9 0, tlBase := leAt bs 48 6
    eVoid := signedOf 5 (leAt bs 54 1), xslot := leAt bs 56 3
    reserved := f 0 2 15 10 != 0 || f 5 1 7 6 != 0 || f 9 1 7 5 != 0 || f 38 2 15 11 != 0 || f 46 2 15 10 != 0
      || f 54 1 7 5 != 0 || leAt bs 55 1 != 0 || leAt bs 59 5 != 0 }

/-- Bytes of a dispatch row. -/
def RouteDesc.rowLen (d : RouteDesc) : Nat := rowBytes d.dform d.dnblk
/-- Bytes of a slot (R268). -/
def RouteDesc.slotSize (d : RouteDesc) : Nat := 64 + up64 d.rowLen
/-- The copy slot of a peer and row (R268). -/
def RouteDesc.copySlot (d : RouteDesc) (peer row : Nat) : Nat := d.cpBase + ((peer - 1) * d.rowsCap + row) * d.slotSize
/-- The answer slot of a peer and row (R268). -/
def RouteDesc.answerSlot (d : RouteDesc) (peer row : Nat) : Nat := d.anBase + ((peer - 1) * d.rowsCap + row) * d.slotSize

/-- The torus address of peer `d` (Table 10.7). -/
def peerAddr (ptab : List Byte) (d : Nat) : BitVec 24 := BitVec.ofNat 24 (leAt ptab (16 * (d - 1)) 3)
/-- The module's own index at peer `d`. -/
def peerOwn (ptab : List Byte) (d : Nat) : Nat := bitsOf (leAt ptab (16 * (d - 1)) 4) 27 24

/-- A scout descriptor (Table 10.8). -/
structure ScoutDesc where
  layer : Nat
  ng : Nat
  eLoS : Int
  theta : Int
  ssBase : Nat
  ssStride : Nat
  hdBase : Nat
  hdStride : Nat
  hform : Nat
  shp0 : Nat
  rdesc : Nat
  glBase : Nat
  st0 : Nat
  reserved : Bool
  deriving DecidableEq, Repr

/-- The scout descriptor that 48 bytes hold. -/
def scoutDesc (bs : List Byte) : ScoutDesc :=
  let f := fun (at_ n hi lo : Nat) => bitsOf (leAt bs at_ n) hi lo
  { layer := f 0 2 9 0, ng := f 2 2 9 0 + 1, eLoS := signedOf 5 (leAt bs 4 1), theta := signedOf 16 (leAt bs 5 2)
    ssBase := leAt bs 8 6, ssStride := leAt bs 14 2, hdBase := leAt bs 16 6, hdStride := leAt bs 22 2
    hform := f 24 1 1 0, shp0 := leAt bs 26 2, rdesc := leAt bs 28 2, glBase := leAt bs 32 6, st0 := leAt bs 38 4
    reserved := f 0 2 15 10 != 0 || f 2 2 15 10 != 0 || f 4 1 7 5 != 0 || leAt bs 7 1 != 0 || f 24 1 7 2 != 0
      || leAt bs 25 1 != 0 || leAt bs 30 2 != 0 || leAt bs 42 6 != 0 }

/-! ### Issue and acceptance -/

/-- Issuing a routing or scout instruction (R261, R288): the header's and the field checks; then it enters the transfer
queue. `rsv`: reserved ranges; `ctr`: the counter field; `score`: aform names a form. -/
def issueRoute (s : State) (g : BitVec 10) (op : Nat) (rsv : List (Nat × Nat)) (ctrHi ctrLo size : Nat) (score : Bool) :
    Out :=
  atEngine s g op false fun i _ =>
    s.checks i
      [(!i.zeros ([(15, 8), (23, 16), (24, 24), (31, 27)] ++ (if score then [] else [(26, 25)]) ++ rsv), 0x02),
       (decide (i.f ctrHi ctrLo ≥ 62), 0x04), (decide (8 * i.f 47 32 + size > spadSize), 0x06)] (
    s.toQueue i [])

/-- Bits of a routing instruction's words. -/
def RouteInstr.f (i : RouteInstr) (hi lo : Nat) : Nat := bitsOf i.words.toNat hi lo
/-- The glade of a routing instruction as a number. -/
def RouteInstr.g (i : RouteInstr) : Nat := i.glade.toNat
/-- The scratchpad address of its descriptor. -/
def RouteInstr.descAt (i : RouteInstr) : Nat := 8 * i.f 47 32
/-- The instruction as it stood at issue. -/
def State.routeIssue (s : State) (i : RouteInstr) : Issue :=
  s.requeue i.g { pc := i.pc, op := i.op, words := i.words, args := [] }

/-- The tag (index, epoch) of a batch row; a free value for a row that the retained batch (R51) does not have.
DESIGN CHOICE, safe: log entry 62. -/
def State.rowTag (s : State) (row : Nat) : BitVec 14 × BitVec 16 :=
  match (s.serving.batch.map (·.rows)).bind (·[row]?) with
  | some r => (BitVec.ofNat 14 r.index, r.epoch)
  | none => (Config.freeBits 14 (s.fresh + 2 * row), Config.freeBits 16 (s.fresh + 2 * row + 1))

/-- The entry of expert `x` in an expert map: destination and local number (R265). -/
def mapEntry (m : List Byte) (x : Nat) : Nat × Nat := (bitsOf (leAt m (2 * x) 2) 3 0, bitsOf (leAt m (2 * x) 2) 11 4)

/-- The instruction faults of a routing descriptor's own fields (R288, R334). -/
def RouteDesc.faults (d : RouteDesc) : List (Bool × Nat) :=
  [(d.reserved, 0x02), (decide (d.k = 0 ∨ d.k > d.ne ∨ d.k > 8), 0x04), (decide (d.xslot > 255), 0x04),
   (d.npeer != 0 && decide (d.dnblk = 0), 0x04)]

/-- The instruction faults of a routing descriptor, of its peer table and, for RTE.ROUTE, of its rows and map (R288, R334), in
order. DEDUCED, unsafe: log entry 63. -/
def routeFaults (gl : Glade) (d : RouteDesc) (i : RouteInstr) : List (Bool × Nat) :=
  let isRoute := decide (i.op = 0x6C)
  let m := gl.read (8 * d.map) (2 * d.ne)
  let ptab := gl.read (8 * d.ptab) (16 * d.npeer)
  [(d.reserved, 0x02),
   ((List.range d.npeer).any fun x => bitsOf (leAt ptab (16 * x) 4) 31 28 != 0, 0x02),
   (isRoute && (List.range d.ne).any fun x => bitsOf (leAt m (2 * x) 2) 15 12 != 0, 0x02),
   (decide (d.k = 0 ∨ d.k > d.ne ∨ d.k > 8), 0x04), (decide (d.xslot > 255), 0x04),
   (isRoute && (List.range d.ne).any fun x => decide ((mapEntry m x).1 > d.npeer), 0x04),
   (isRoute && decide (i.f 58 48 + i.f 69 59 + 1 > 2048), 0x04),
   (isRoute && d.npeer != 0 && decide (i.f 58 48 + i.f 69 59 + 1 > d.rowsCap), 0x04),
   (d.npeer != 0 && decide (d.dnblk = 0), 0x04),
   (decide (8 * d.map + 2 * d.ne > spadSize ∨ 8 * d.ptab + 16 * d.npeer > spadSize), 0x06)]

/-- Whether shape words `w` to `w + n` exist (R280). -/
def State.shapesExist (s : State) (w n : Nat) : Bool := decide (w + n < s.shapeCount)

/-- The first lease of class 0x03 that writing shape words `w` to `w + n` needs and a plot does not hold (R280). -/
def State.shapeLeaseMissing (s : State) (p w n : Nat) : Option Nat :=
  ((List.range ((w + n) / 512 + 1 - w / 512)).map (w / 512 + ·)).find? fun k => !s.holdsLease p 3 k

/-- The tests of acceptance (R267, R280, R288): an instruction fault, or a missing lease as class and index. -/
def State.routeRefusal (s : State) (gl : Glade) (i : RouteInstr) : Option (Nat ⊕ (Nat × Nat)) :=
  let p := i.plot.toNat
  let op := i.op.toNat
  if op = 0x6C ∨ op = 0x6D ∨ op = 0x6E then
    let d := routeDesc (gl.read i.descAt 64)
    match (routeFaults gl d i).find? fun c => c.1 with
    | some c => some (.inl c.2)
    | none =>
      if op = 0x6C then
        if !s.shapesExist d.shp0 256 then some (.inl 0x0C)
        else (s.shapeLeaseMissing p d.shp0 256).map fun k => .inr (3, k)
      else if s.holdsLease p 4 d.xslot then none else some (.inr (4, d.xslot))
  else
    let d := scoutDesc (gl.read i.descAt 48)
    if d.reserved then some (.inl 0x02)
    else if 8 * d.rdesc + 64 > spadSize then some (.inl 0x06)
    else match (routeDesc (gl.read (8 * d.rdesc) 64)).faults.find? fun c => c.1 with
      | some c => some (.inl c.2)
      | none =>
        if op = 0x70 then
          if !s.shapesExist d.shp0 d.ng then some (.inl 0x0C)
          else (s.shapeLeaseMissing p d.shp0 d.ng).map fun k => .inr (3, k)
        else none

/-- ROUTING_INSTRUCTION_ACCEPT (R261, R267, R280, R289): the head of a glade's transfer queue enters the engine's queue of
16, once its shape words and leases are tested. -/
def execRoutingInstructionAccept (g : BitVec 10) (s : State) : Out :=
  let gl := s.glade g.toNat
  match gl.queue with
  | [] => .next s
  | q :: rest =>
    let ri : RouteInstr := { glade := g, plot := gl.plot, pc := q.pc, op := q.op, words := q.words }
    let i := s.requeue g.toNat q
    if !outsideOp q.op || q.op = 0x68 || q.op = 0x69 then .next s
    else if !s.routing.ok || decide (s.routing.queue.length ≥ 16) then .next s
    else
      let dropped := s.setGlade g.toNat { gl with queue := rest }
      match s.routeRefusal gl ri with
      | some (.inl c) => .next (s.instrFault i c)
      | some (.inr l) => .next (dropped.leaseFault i.p l.1 l.2 i.g i.pc)
      | none =>
        .next (drainQueue g.toNat 16 { dropped with routing := { dropped.routing with queue := s.routing.queue ++ [ri] } })

/-- The engine's turn: the oldest instruction of its queue, of the given opcode and glade. `es`: the extents of the device range
that it reads. While one meets a block under repair the instruction waits (R322); poison and unmapped granules are the issuing
plot's memory data faults (R308, R315). -/
def runRoute (s : State) (g : BitVec 10) (op : Nat) (poison : Option (Nat × Bool)) (es : RouteInstr → State → List (Nat × Nat))
    (k : RouteInstr → State → State) : Out :=
  match s.routing.queue with
  | [] => .next s
  | i :: rest =>
    if i.op.toNat ≠ op ∨ i.glade ≠ g then .next s
    else .next (s.whenReadable (some i.plot) (es i s) (
      State.engineReads { s with routing := { s.routing with queue := rest } } none i.g i.pc (es i s) poison (k i)))

/-! ### Scores, selection and gates -/

/-- An aligned score (R262): the value and whether it was clamped. -/
def alignScore (eLo : Int) (m e : Int) : Int × Bool :=
  let sh := e - eLo
  if sh > 15 then (if m > 0 then (2 ^ 31 - 1, true) else if m < 0 then (-(2 ^ 31), true) else (0, false))
  else (rne m (-sh), false)

/-- The extent of a row of `n` scores in form `f`. -/
def scoreExtent (at_ f n : Nat) : Nat × Nat := (at_, rowBytes f ((n + 31) / 32))

/-- The `n` aligned scores of a row in form `f`, and how many were clamped. -/
def State.scores (s : State) (at_ f n : Nat) (eLo : Int) : List Int × Nat :=
  let nblk := (n + 31) / 32
  let zs := ((rowOperands s.dev at_ f nblk 0 nblk).take n).map fun o => alignScore eLo o.m o.e
  (zs.map (·.1), (zs.filter (·.2)).length)

/-- Inserting an expert in the ranking: descending biased score, then ascending index (R263). -/
def insertExpert (x : Nat × Int) : List (Nat × Int) → List (Nat × Int)
  | [] => [x]
  | y :: ys => if x.2 > y.2 then x :: y :: ys else y :: insertExpert x ys

/-- The ranking of biased scores (R263). -/
def rankExperts (zbs : List Int) : List (Nat × Int) :=
  zbs.zipIdx.foldl (fun acc e => insertExpert (e.2, e.1) acc) []

/-- Whether two of the first `k + 1` of a ranking tie (R263). -/
def hasTie (k : Nat) (r : List (Nat × Int)) : Bool :=
  let t := r.take (k + 1)
  (List.zip t (t.drop 1)).any fun e => decide (e.1.2 = e.2.2)

/-- The gates of the selected experts' scores in rank order, and their exponent (R264). -/
def gates (d : RouteDesc) (zs : List Int) : List Int × Int :=
  let ys := zs.map fun z => clampBits 32 (rne (z * d.gR) d.gK)
  let m := (ys.map (· / 256)).foldl max (-(2 ^ 31))
  let ps := ys.map fun y =>
    let dz := y - m * 256
    let u := -(dz / 256)
    if u ≥ 9 then 0 else (rne (expEntry (dz % 256).toNat) u).toNat
  let sum := ps.sum
  let ts := ps.map fun (p : Nat) => normal p sum
  let b := outBlock 3 (d.bG + 15) d.eLoG (ts.map OutLane.val)
  (b.b.m, b.b.e)

/-- What RTE.ROUTE makes of a token: its own list entries, its copies, the experts selected, whether it tied. -/
structure TokenRoute where
  own : List ListEntry
  copies : List CopyOut
  picks : List Nat
  tie : Bool
  clamped : Nat
  deriving DecidableEq, Repr

/-- The biases of a layer (R275). -/
def State.bias (s : State) (layer x : Nat) : Int :=
  signedOf 16 (s.devNat (s.base48 Reg.rteBiasBaseLo + 512 * layer + 2 * x) 2)

/-- Routing one token (R262 to R266): batch row `row`. -/
def State.routeToken (s : State) (d : RouteDesc) (m : List Byte) (form row : Nat) : TokenRoute :=
  let sc := s.scores (d.scBase + row * 64 * d.scStride) form d.ne d.eLoR
  let zbs := sc.1.zipIdx.map fun e => clampBits 32 (e.1 + s.bias d.layer e.2)
  let r := rankExperts zbs
  let sel := (r.take d.k).map (·.1)
  let gs := gates d (sel.map fun x => sc.1.getD x 0)
  let gexp := BitVec.ofInt 5 gs.2
  let picks := (List.zip sel gs.1).map fun e => (mapEntry m e.1, BitVec.ofInt 8 e.2)
  let mine := picks.filter fun p => p.1.1 = 0
  let copyTo := fun (peer : Nat) =>
    let ps := picks.filter fun p => p.1.1 = peer
    if ps.isEmpty then none
    else some ({ peer, row, index := (s.rowTag row).1, epoch := (s.rowTag row).2, lexp := ps.map fun p => BitVec.ofNat 8 p.1.2, gates := ps.map (·.2), gexp } : CopyOut)
  { own := mine.map fun p => { expert := p.1.2, row, gate := p.2, gexp }
    copies := ((List.range d.npeer).map (· + 1)).filterMap copyTo
    picks := sel, tie := hasTie d.k r, clamped := sc.2 }

/-! ### Layers -/

/-- The current step's number mod 2¹⁶. -/
def State.step16 (s : State) : BitVec 16 := BitVec.ofNat 16 s.step.num.toNat

/-- What the engine keeps of a layer in the current step. -/
def State.routeLayer (s : State) (layer : Nat) : Option RouteLayer :=
  s.routing.layers.find? fun l => l.layer.toNat = layer && l.step = s.step16

/-- Replacing, or adding, a layer. -/
def State.setLayer (s : State) (l : RouteLayer) : State :=
  { s with routing := { s.routing with
      layers := (s.routing.layers.filter fun x => !(decide (x.layer = l.layer) && decide (x.step = l.step))) ++ [l] } }

/-! ### Items -/

/-- A routing header (Table 10.3). -/
structure RouteHdr where
  row : Nat
  index : Nat
  epoch : Nat
  step : Nat
  layer : Nat
  kind : Nat
  sender : Nat
  n : Nat
  gexp : Nat
  lexp : List Byte
  gate : List Byte
  deriving DecidableEq, Repr

/-- The 32 bytes of a routing header. -/
def RouteHdr.bytes (h : RouteHdr) : List Byte :=
  leBytes 2 h.row ++ leBytes 2 h.index ++ leBytes 2 h.epoch ++ leBytes 2 h.step ++ leBytes 2 h.layer
  ++ leBytes 1 (h.kind + 16 * h.sender) ++ leBytes 1 h.n ++ leBytes 1 h.gexp ++ zeroBytes 3
  ++ sliceBytes h.lexp 0 8 ++ sliceBytes h.gate 0 8

/-- The header that 32 bytes hold. -/
def routeHdr (bs : List Byte) : RouteHdr :=
  { row := leAt bs 0 2 % 2048, index := leAt bs 2 2 % 16384, epoch := leAt bs 4 2, step := leAt bs 6 2
    layer := leAt bs 8 2 % 1024, kind := leAt bs 10 1 % 16, sender := leAt bs 10 1 / 16, n := leAt bs 11 1 % 16
    gexp := leAt bs 12 1 % 32, lexp := sliceBytes bs 16 8, gate := sliceBytes bs 24 8 }

/-- A ROUTE message item (R270, R332). -/
def routeItem (dst : BitVec 24) (slice : Nat) (h : RouteHdr) (payload : List Byte) : Item :=
  padTo 8 (leBytes 8 (1 + 2 * 16 + payload.length * 2 ^ 8 + dst.toNat * 2 ^ 32 + slice * 2 ^ 56) ++ h.bytes ++ payload)

/-- The header of a ROUTE item. -/
def itemHdr (item : List Byte) : RouteHdr := routeHdr (sliceBytes item 8 32)
/-- The payload of a ROUTE item. -/
def itemPayload (item : List Byte) : List Byte := sliceBytes item 40 (bitsOf (leAt item 0 8) 24 8)

/-- Whether a tag is current (R229). -/
def State.tagCurrent (s : State) (index epoch : Nat) : Bool :=
  let e := mget LedgerEntry.init s.serving.ledger index
  decide (e.state = .live) && decide (e.epoch.toNat = epoch)

/-- Whether a slot lies within the addresses accepted from peers (R271). -/
def State.slotOk (s : State) (d : RouteDesc) (peer row slot : Nat) : Bool :=
  decide (1 ≤ peer ∧ peer ≤ d.npeer) && decide (row < d.rowsCap) && decide (s.base48 Reg.rteRxBaseLo ≤ slot)
  && decide (slot + d.slotSize ≤ s.base48 Reg.rteRxLimLo)

/-- A slot's header and state written (R268). DEDUCED, unsafe: log entry 67. -/
def State.writeSlot (s : State) (slot : Nat) (hdr : List Byte) (state : Nat) : State :=
  s.devWrite slot (hdr ++ leBytes 1 state ++ zeroBytes 31)

/-- A copy at the slot that its layer's descriptor gives (R271). -/
def State.takeCopy (s : State) (port : Nat) (l : RouteLayer) (item : List Byte) : State :=
  let d := routeDesc l.desc
  let h := itemHdr item
  let slot := d.copySlot h.sender h.row
  if !s.slotOk d h.sender h.row slot then s.linkFault port (peerAddr l.ptab h.sender)
  else if l.gotten.any fun c => decide (c.peer = h.sender) && decide (c.row = h.row) then s.bump Reg.rteDup 1
  else if d.chk && !s.tagCurrent h.index h.epoch then
    ((s.writeSlot slot h.bytes 3).setLayer { l with gotten := l.gotten ++ [{ peer := h.sender, row := h.row, void := true }] }).bump
      Reg.rteStale 1
  else
    ((s.writeSlot slot h.bytes 2).devWrite (slot + 64) (sliceBytes (itemPayload item) 0 d.rowLen)).setLayer
      { l with gotten := l.gotten ++ [{ peer := h.sender, row := h.row, void := false }] }

/-- An end mark (R272). -/
def State.takeEnd (s : State) (l : RouteLayer) (item : List Byte) : State :=
  let h := itemHdr item
  s.setLayer { l with ends := (l.ends.filter fun e => e.1 ≠ h.sender) ++ [(h.sender, h.row)] }

/-- Bytes that the hold buffer holds. -/
def heldBytes (hs : List HeldItem) : Nat := (hs.map fun h => h.item.length).sum

/-- A copy or end mark (R271, R272): of the current step's routed layer it is treated at once; one for the layer before its
RTE.ROUTE, or for the next step, is held, and waits with its sender while the hold buffer is full; one of another step is
dropped as stale. DEDUCED, unsafe: log entry 64. -/
def State.takeEarly (s : State) (port : Nat) (item : List Byte) : State :=
  let h := itemHdr item
  let cur := s.step16.toNat
  let held := s.routing.hold ++ [{ port, item }]
  let hold := if heldBytes held > 8388608 then s else { s with routing := { s.routing with hold := held } }
  if h.step ≠ cur ∧ h.step ≠ (cur + 1) % 2 ^ 16 then s.bump Reg.rteStale 1
  else if h.step ≠ cur then hold
  else match s.routeLayer h.layer with
    | some l =>
      if !l.routed then hold
      else if h.kind = 3 then s.takeEnd l item
      else s.takeCopy port l item
    | none => hold

/-- The block of a void answer (R273). -/
def voidRow (d : RouteDesc) : List Byte :=
  zeroBytes (rowElemBytes d.dform d.dnblk)
  ++ leBytes ((5 * d.dnblk + 7) / 8) ((List.range d.dnblk).foldl (fun acc _ => acc * 32 + codeOf 5 d.eVoid) 0)

/-- Whether RTE.SEND's answers have all come: its counter counts one (R273). -/
def State.sendDone (s : State) (l : RouteLayer) : State :=
  if l.sending && l.sent.isEmpty then
    (s.setLayer { l with sending := false }).countUp l.sendGlade.toNat l.sendCtr.toNat 1
  else s.setLayer l

/-- An answer (R273, R274): checks 1 and 2, then the row. One that comes a second time is a duplicate. -/
def State.takeAnswer (s : State) (port : Nat) (item : List Byte) : State :=
  let h := itemHdr item
  match s.routeLayer h.layer with
  | none => s.bump Reg.rteStale 1
  | some l =>
    let d := routeDesc l.desc
    let slot := d.answerSlot h.sender h.row
    if !s.slotOk d h.sender h.row slot then s.linkFault port (peerAddr l.ptab h.sender)
    else s.whenReadable (some l.plot) [(slot, 33)] <|
      let sh := routeHdr (s.dev slot 32)
      let same := decide (h.index = sh.index) && decide (h.epoch = sh.epoch) && decide (h.step = sh.step)
      let key := (h.sender, h.row)
      if l.answered.contains key && same then s.bump Reg.rteDup 1
      else if s.devNat (slot + 32) 1 ≠ 1 || !same then s.bump Reg.rteStale 1
      else if !s.tagCurrent h.index h.epoch then s.bump Reg.rteStale 1
      else
        let void := decide (h.kind = 2)
        let row := if void then voidRow d else sliceBytes (itemPayload item) 0 d.rowLen
        let s1 := (s.devWrite (slot + 64) row).devWrite (slot + 32) [if void then 3 else 2]
        let s2 := if void then s1.bump Reg.rteVoid 1 else s1
        s2.sendDone { l with sent := l.sent.filter (· ≠ key), answered := l.answered ++ [key] }

/-- A ROUTE message for this module, by its kind; other kinds are reserved. -/
def State.takeRoute (s : State) (port : Nat) (item : List Byte) : State :=
  let k := (itemHdr item).kind
  if k = 0 ∨ k = 3 then s.takeEarly port item else if k = 1 ∨ k = 2 then s.takeAnswer port item else s

/-- A ROUTE message at a port: check 1 of Table 12.8 and forwarding, then its kind. -/
def routeArrival (name : String) (p : BitVec 3) (item : List Byte) (kinds : List Nat) (s : State) : Out :=
  onItem name p (BitVec.ofNat 64 (leAt item 0 8)) s fun x =>
    let m := fabMsg item
    if !x.live || m.cls != 2 || !kinds.contains (itemHdr item).kind then s
    else
      let s1 := s.setPort p.toNat (x.heardItem item)
      if s.fireBroken p.toNat || decide (m.slice ≠ s.slice) then s1.fireBreak m
      else if m.dst ≠ s.torus then s1.forward m item
      else if s.field Reg.fabCtl 0 0 = 0 then s1
      else s1.takeRoute p.toNat item

/-- ROUTE_COPY_ARRIVAL (R271, R272). -/
def execRouteCopyArrival (p : BitVec 3) (item : List Byte) (s : State) : Out :=
  routeArrival "ROUTE_COPY_ARRIVAL" p item [0] s

/-- END_MARK_ARRIVAL (R272). -/
def execEndMarkArrival (p : BitVec 3) (item : List Byte) (s : State) : Out :=
  routeArrival "END_MARK_ARRIVAL" p item [3] s

/-- ROUTE_ANSWER_ARRIVAL (R273). -/
def execRouteAnswerArrival (p : BitVec 3) (item : List Byte) (s : State) : Out :=
  routeArrival "ROUTE_ANSWER_ARRIVAL" p item [1, 2] s

/-- Sending a ROUTE message to a peer: on the port of the first hop, or to the own router; a route fault is the plot's
(R341), and so is a version-1 port, which cannot carry ROUTE (R359). -/
def State.sendRoute (s : State) (p g : Nat) (dst : BitVec 24) (h : RouteHdr) (payload : List Byte) : State :=
  match s.routeTo dst with
  | .inl c => s.routeFault (some p) (some g) c dst
  | .inr (some port) =>
    if (s.port port).ver = 1 then s.routeFault (some p) (some g) 3 dst
    else s.sendItem port (routeItem dst s.slice h payload)
  | .inr none => s.takeRoute 7 (routeItem dst s.slice h payload)

/-! ### RTE.ROUTE -/

/-- Held items of a layer for the current step, treated in arrival order (R272). -/
def takeHeld (layer : Nat) : List HeldItem → State → State
  | [], s => s
  | h :: hs, s =>
    let x := itemHdr h.item
    if x.layer = layer && decide (x.step = s.step16.toNat) then
      takeHeld layer hs (State.takeEarly { s with routing := { s.routing with hold := s.routing.hold.erase h } } h.port h.item)
    else takeHeld layer hs s

/-- Running an RTE.ROUTE (R262 to R266, R272). -/
def State.runRteRoute (i : RouteInstr) (s : State) : State :=
  let gl := s.glade i.g
  let desc := gl.read i.descAt 64
  let d := routeDesc desc
  let m := gl.read (8 * d.map) (2 * d.ne)
  let p := i.plot.toNat
  let old := s.routeLayer d.layer
  if old.any fun l => l.routed then s.instrFault (s.routeIssue i) 0x07
  else
    let n := i.f 69 59 + 1
    let toks := (List.range n).map fun k => s.routeToken d m (bitsOf i.words.toNat 26 25) (i.f 58 48 + k)
    let base : RouteLayer := old.getD
      { layer := BitVec.ofNat 10 d.layer, plot := i.plot, step := s.step16, routed := true, glade := i.glade, ctr := 0,
        desc := [], ptab := [], own := [], copies := [], gotten := [], ends := [], finalised := false, sendGlade := 0,
        sendCtr := 0, sending := false, sent := [], answered := [], picks := [] }
    let l := { base with
      plot := i.plot, routed := true, glade := i.glade, ctr := BitVec.ofNat 6 (i.f 75 70), desc
      ptab := gl.read (8 * d.ptab) (16 * d.npeer), own := toks.flatMap (·.own), copies := toks.flatMap (·.copies)
      finalised := false, picks := toks.flatMap (·.picks) }
    let s1 := ({ s with fresh := s.fresh + 4096 }.setLayer l).bump Reg.rteTok n
    let s2 := (s1.pendCount Reg.rteTie p (toks.filter (·.tie)).length).pendCount Reg.rteSclamp p (toks.map (·.clamped)).sum
    takeHeld d.layer s2.routing.hold s2

/-- What an RTE.ROUTE reads of the device range: its score rows and its layer's biases. -/
def State.routeReads (i : RouteInstr) (s : State) : List (Nat × Nat) :=
  let d := routeDesc ((s.glade i.g).read i.descAt 64)
  (s.base48 Reg.rteBiasBaseLo + 512 * d.layer, 2 * d.ne)
  :: (List.range (i.f 69 59 + 1)).map fun k => scoreExtent (d.scBase + (i.f 58 48 + k) * 64 * d.scStride) (i.f 26 25) d.ne

/-- RTE.ROUTE (R262 to R266, R272, R288): its issue by glade `g`, or its turn in the engine. -/
def execRteRoute (stage : Stage) (g : BitVec 10) (s : State) : Out :=
  match stage with
  | .issue => issueRoute s g 0x6C [(127, 76)] 75 70 64 true
  | .run poison => runRoute s g 0x6C poison State.routeReads State.runRteRoute

/-! ### Finalisation -/

/-- Whether a layer can be finalised (R272): every peer's end mark has come and its slots equal the count. -/
def RouteLayer.complete (l : RouteLayer) : Bool :=
  let d := routeDesc l.desc
  l.routed && !l.finalised
  && ((List.range d.npeer).map (· + 1)).all fun peer =>
    match l.ends.find? fun e => e.1 = peer with
    | some e => decide ((l.gotten.filter fun c => c.peer = peer).length = e.2)
    | none => false

/-- A token list entry (Table 10.2). -/
def listWord (row src : Nat) (gate : Byte) (gexp : Nat) : Nat :=
  row % 2048 + 2 ^ 11 * src + 2 ^ 16 * gate.toNat + 2 ^ 24 * (gexp % 32)

/-- The entries of a local expert (R266): own rows ascending, then each peer's FILLED slots ascending. -/
def State.expertList (s : State) (l : RouteLayer) (x : Nat) : List Nat :=
  let d := routeDesc l.desc
  let own := (List.range 2048).flatMap fun row =>
    (l.own.filter fun e => decide (e.expert = x) && decide (e.row = row)).map fun e => listWord row 0 e.gate e.gexp.toNat
  let ofPeer := fun (peer : Nat) => (List.range d.rowsCap).flatMap fun row =>
    if l.gotten.any fun c => decide (c.peer = peer) && decide (c.row = row) && !c.void then
      let h := routeHdr (s.dev (d.copySlot peer row) 32)
      ((List.range h.n).filter fun j => decide ((h.lexp.getD j 0).toNat = x)).map fun j =>
        listWord row peer (h.gate.getD j 0) h.gexp
    else []
  own ++ ((List.range d.npeer).map (· + 1)).flatMap ofPeer

/-- Writing the lists and shape words of local experts, from list offset `at_` (R266). -/
def writeLists (l : RouteLayer) : List Nat → Nat → State → State
  | [], _, s => s
  | x :: xs, at_, s =>
    let d := routeDesc l.desc
    let es := s.expertList l x
    let s1 := s.devWrite (d.tlBase + 4 * at_) (es.flatMap (leBytes 4))
    writeLists l xs (at_ + es.length) (s1.setShape (d.shp0 + x) (es.length + at_ % 2 ^ 16 * 2 ^ 32))

/-- The headers of the copies that a finalisation reads. -/
def RouteLayer.headers (l : RouteLayer) : List (Nat × Nat) :=
  (l.gotten.filter fun c => !c.void).map fun c => ((routeDesc l.desc).copySlot c.peer c.row, 32)

/-- LAYER_FINALISE (R266, R272): the token lists, the shape words and the counter of RTE.ROUTE's glade; it waits while a copy's
header lies in a block under repair (R322). -/
def execLayerFinalise (plot : BitVec 6) (layer : BitVec 10) (s : State) : Out :=
  match s.routeLayer layer.toNat with
  | none => .next s
  | some l =>
    if l.plot ≠ plot || !l.complete then .next s
    else
      let d := routeDesc l.desc
      let s1 := writeLists l (List.range 256) 0 (s.setLayer { l with finalised := true })
      let s2 := s1.setShape (d.shp0 + 256) (l.gotten.filter fun c => !c.void).length
      .next (s.whenReadable (some l.plot) l.headers (s2.countUp l.glade.toNat l.ctr.toNat 1))

/-! ### RTE.SEND and RTE.RET -/

/-- The header of a copy to a peer. -/
def CopyOut.hdr (c : CopyOut) (step layer own : Nat) : RouteHdr :=
  { row := c.row, index := c.index.toNat, epoch := c.epoch.toNat, step, layer, kind := 0, sender := own,
    n := c.lexp.length, gexp := c.gexp.toNat, lexp := c.lexp, gate := c.gates }

/-- Sending copies (R267, R273, R274): the answer slot is written SENT and the copy goes out; a copy whose answer slot is
FILLED or VOID already is not sent. -/
def sendCopies (i : RouteInstr) (d : RouteDesc) (ptab : List Byte) : List CopyOut → State → State
  | [], s => s
  | c :: cs, s =>
    let key := (c.peer, c.row)
    match s.routeLayer d.layer with
    | none => s
    | some l =>
      if l.answered.contains key then sendCopies i d ptab cs s
      else
        let h := c.hdr s.step16.toNat d.layer (peerOwn ptab c.peer)
        let l1 := { l with sent := (l.sent.filter (· ≠ key)) ++ [key] }
        let s1 := ((s.setLayer l1).writeSlot (d.answerSlot c.peer c.row) h.bytes 1).bump Reg.rteCopy 1
        let at_ := d.dpBase + c.row * 64 * d.dpStride
        let s2 := s1.sendRoute i.plot.toNat i.g (peerAddr ptab c.peer) h (s1.dev at_ d.rowLen)
        sendCopies i d ptab cs s2

/-- Sending each peer its copies and its end mark (R267). -/
def sendPeers (i : RouteInstr) (d : RouteDesc) (ptab : List Byte) (copies : List CopyOut) : List Nat → State → State
  | [], s => s
  | peer :: ps, s =>
    let cs := copies.filter fun c => c.peer = peer
    let h : RouteHdr := { row := cs.length, index := 0, epoch := 0, step := s.step16.toNat, layer := d.layer, kind := 3, sender := peerOwn ptab peer, n := 0, gexp := 0, lexp := [], gate := [] }
    sendPeers i d ptab copies ps
      ((sendCopies i d ptab cs s).sendRoute i.plot.toNat i.g (peerAddr ptab peer) h [])

/-- Running an RTE.SEND (R267, R273). DEDUCED, unsafe: log entry 65. -/
def State.runRteSend (i : RouteInstr) (s : State) : State :=
  let gl := s.glade i.g
  let d := routeDesc (gl.read i.descAt 64)
  let ptab := gl.read (8 * d.ptab) (16 * d.npeer)
  let peers := (List.range d.npeer).map (· + 1)
  match s.routeLayer d.layer with
  | none => (sendPeers i d ptab [] peers s).countUp i.g (i.f 75 70) 1
  | some l =>
    let l1 := { l with sendGlade := i.glade, sendCtr := BitVec.ofNat 6 (i.f 75 70), sending := true }
    let s1 := sendPeers i d ptab l.copies peers (s.setLayer l1)
    match s1.routeLayer d.layer with
    | none => s1
    | some l2 => s1.sendDone l2

/-- What an RTE.SEND reads of the device range: the dispatch rows of its copies. -/
def State.sendReads (i : RouteInstr) (s : State) : List (Nat × Nat) :=
  let d := routeDesc ((s.glade i.g).read i.descAt 64)
  match s.routeLayer d.layer with
  | some l => l.copies.map fun c => (d.dpBase + c.row * 64 * d.dpStride, d.rowLen)
  | none => []

/-- RTE.SEND (R267, R268, R273, R274, R288): its issue by glade `g`, or its turn in the engine. -/
def execRteSend (stage : Stage) (g : BitVec 10) (s : State) : Out :=
  match stage with
  | .issue => issueRoute s g 0x6D [(69, 48), (127, 76)] 75 70 64 false
  | .run poison => runRoute s g 0x6D poison State.sendReads State.runRteSend

/-- Answering the copies of one peer, ascending row (R273). -/
def sendAnswers (i : RouteInstr) (d : RouteDesc) (ptab : List Byte) (l : RouteLayer) (peer : Nat) : List Nat → State → State
  | [], s => s
  | row :: rows, s =>
    match l.gotten.find? fun c => decide (c.peer = peer) && decide (c.row = row) with
    | none => sendAnswers i d ptab l peer rows s
    | some c =>
      let slot := d.copySlot peer row
      let h0 := routeHdr (s.dev slot 32)
      let h : RouteHdr := { h0 with row, kind := if c.void then 2 else 1, sender := peerOwn ptab peer, n := 0, gexp := 0, lexp := [], gate := [] }
      sendAnswers i d ptab l peer rows
        (s.sendRoute i.plot.toNat i.g (peerAddr ptab peer) h (if c.void then [] else s.dev (slot + 64) d.rowLen))

/-- Answering every peer in ascending index. -/
def answerPeers (i : RouteInstr) (d : RouteDesc) (ptab : List Byte) (l : RouteLayer) : List Nat → State → State
  | [], s => s
  | peer :: ps, s => answerPeers i d ptab l ps (sendAnswers i d ptab l peer (List.range d.rowsCap) s)

/-- Running an RTE.RET (R273). -/
def State.runRteRet (i : RouteInstr) (s : State) : State :=
  let gl := s.glade i.g
  let d := routeDesc (gl.read i.descAt 64)
  let ptab := gl.read (8 * d.ptab) (16 * d.npeer)
  let s1 := match s.routeLayer d.layer with
    | some l => answerPeers i d ptab l ((List.range d.npeer).map (· + 1)) s
    | none => s
  s1.countUp i.g (i.f 75 70) 1

/-- What an RTE.RET reads of the device range: the headers and answer rows of the copies received. -/
def State.retReads (i : RouteInstr) (s : State) : List (Nat × Nat) :=
  let d := routeDesc ((s.glade i.g).read i.descAt 64)
  match s.routeLayer d.layer with
  | some l => l.gotten.flatMap fun c =>
    let slot := d.copySlot c.peer c.row
    if c.void then [(slot, 32)] else [(slot, 32), (slot + 64, d.rowLen)]
  | none => []

/-- RTE.RET (R267, R273, R288): its issue by glade `g`, or its turn in the engine. -/
def execRteRet (stage : Stage) (g : BitVec 10) (s : State) : Out :=
  match stage with
  | .issue => issueRoute s g 0x6E [(69, 48), (127, 76)] 75 70 64 false
  | .run poison => runRoute s g 0x6E poison State.retReads State.runRteRet

end Sys2Proof.Machine
end

