-- ==== Sys2Proof/Machine/Scout.lean ====
section
/-!
DEFINITION. The scout (R283 to R287): SCT.MASK, SCT.AUD, pinning and the audit steps.
-/

namespace Sys2Proof.Machine

/-- Whether the scout is enabled for a plot, whatever its statistics (R284). -/
def State.scoutEnabled (s : State) (p : Nat) : Bool := s.field Reg.sctCtl 0 0 = 1 && !(s.plot p).exact
/-- Whether the statistics suffice (R284). -/
def State.scoutWarm (s : State) : Bool := decide (s.routing.steps.toNat ≥ 1024) || s.field Reg.sctCtl 1 1 = 1
/-- Whether the scout is on for a plot (R284). -/
def State.scoutOn (s : State) (p : Nat) : Bool := s.scoutEnabled p && s.scoutWarm
/-- Whether the current step is an audit step (R284). -/
def State.auditStep (s : State) : Bool :=
  let n : Int := s.step.num.toNat
  decide ((n - s.field Reg.sctCfg 31 16) % 2 ^ s.field Reg.sctCfg 3 0 = 0)

/-- The number of the statistics record of a local expert and group, and its address (R285). -/
def ScoutDesc.record (d : ScoutDesc) (lexp g : Nat) : Nat := d.st0 + lexp * d.ng + g
/-- The address of a statistics record. -/
def State.recordAddr (s : State) (r : Nat) : Nat := s.base48 Reg.sctBaseLo + 8 * r

/-- Whether a group is pinned (R285). -/
def State.pinned (s : State) (d : ScoutDesc) (lexp g : Nat) : Bool :=
  let a := s.recordAddr (d.record lexp g)
  let seen := s.devNat a 4
  decide (seen > 0) && decide (s.devNat (a + 4) 4 * 256 ≥ seen * s.field Reg.sctCtl 15 8)

/-- The predictions of R283 for `count` entries: per entry one truth value per group, and the clamps. -/
def State.predict (s : State) (d : ScoutDesc) (form lexp count : Nat) : List (List Bool) × Nat :=
  let pins := (List.range d.ng).map (s.pinned d lexp)
  let rows := (List.range count).map fun i => s.scores (d.ssBase + i * 64 * d.ssStride) form d.ng d.eLoS
  (rows.map fun r => (List.zip r.1 pins).map fun e => decide (e.1 ≥ d.theta) || e.2, (rows.map (·.2)).sum)

/-- The routing descriptor that a scout descriptor names (Table 10.8). -/
def Glade.scoutRoute (gl : Glade) (d : ScoutDesc) : RouteDesc := routeDesc (gl.read (8 * d.rdesc) 64)

/-- The list of a local expert as its shape word gives it: count and offset (R266, R283). -/
def State.listOf (s : State) (gl : Glade) (d : ScoutDesc) (lexp : Nat) : Nat × Nat :=
  s.shape ((gl.scoutRoute d).shp0 + lexp)

/-- Writing the group lists and their shape words, from position `at_` (R283). -/
def writeGroups (d : ScoutDesc) (listed : List (List Bool)) : List Nat → Nat → State → State
  | [], _, s => s
  | g :: gs, at_, s =>
    let ps := (List.range listed.length).filter fun i => (listed.getD i []).getD g false
    let s1 := s.devWrite (d.glBase + 2 * at_) (ps.flatMap (leBytes 2))
    writeGroups d listed gs (at_ + ps.length) (s1.setShape (d.shp0 + g) (ps.length + at_ % 2 ^ 16 * 2 ^ 32))

/-- Running an SCT.MASK (R283, R284). -/
def State.runSctMask (i : RouteInstr) (s : State) : State :=
  let gl := s.glade i.g
  let d := scoutDesc (gl.read i.descAt 48)
  let p := i.plot.toNat
  let lexp := i.f 55 48
  let count := (s.listOf gl d lexp).1
  let pr := s.predict d (i.f 26 25) lexp count
  let every := !s.scoutOn p || s.auditStep
  let listed : List (List Bool) := if every then List.replicate count (List.replicate d.ng true) else pr.1
  let skipped := (listed.map fun r => (r.filter (!·)).length).sum
  let flag := natOfBool (every && s.scoutEnabled p)
  let s1 := writeGroups d listed (List.range d.ng) 0 s
  let s2 := (s1.setShape (d.shp0 + d.ng) flag).pendCount Reg.rteSclamp p pr.2
  let mf : MaskForm := { layer := BitVec.ofNat 10 d.layer, lexp := BitVec.ofNat 8 lexp, form := BitVec.ofNat 2 (i.f 26 25) }
  let kept := s2.routing.forms.filter fun f => !(decide (f.layer = mf.layer) && decide (f.lexp = mf.lexp))
  let s2 := { s2 with routing := { s2.routing with forms := kept ++ [mf] } }
  let s3 := (s2.pendCount Reg.sctSkip p skipped).pendCount Reg.sctXovr p (natOfBool (s.plot p).exact)
  s3.countUp i.g (i.f 61 56) 1

/-- What a prediction reads of the device range: the statistics records of its expert and its score rows (R283, R285). -/
def State.predictReads (s : State) (d : ScoutDesc) (form lexp count : Nat) : List (Nat × Nat) :=
  (s.recordAddr (d.record lexp 0), 8 * d.ng)
  :: (List.range count).map fun i => scoreExtent (d.ssBase + i * 64 * d.ssStride) form d.ng

/-- The shape word that gives a scout instruction its expert's list. -/
def State.scoutListAddr (s : State) (gl : Glade) (d : ScoutDesc) (lexp : Nat) : Nat := s.shapeAddr ((gl.scoutRoute d).shp0 + lexp)

/-- What an SCT.MASK reads of the device range. -/
def State.maskReads (i : RouteInstr) (s : State) : List (Nat × Nat) :=
  let gl := s.glade i.g
  let d := scoutDesc (gl.read i.descAt 48)
  (s.scoutListAddr gl d (i.f 55 48), 8) :: s.predictReads d (i.f 26 25) (i.f 55 48) (s.listOf gl d (i.f 55 48)).1

/-- SCT.MASK (R280, R283 to R285, R288): its issue by glade `g`, or its turn in the engine. -/
def execSctMask (stage : Stage) (g : BitVec 10) (s : State) : Out :=
  match stage with
  | .issue => issueRoute s g 0x70 [(127, 62)] 61 56 48 true
  | .run poison => runRoute s g 0x70 poison State.maskReads State.runSctMask

/-- Whether entry `i` is active in each group (R286). -/
def State.activeGroups (s : State) (d : ScoutDesc) (i : Nat) : List Bool :=
  let os := rowOperands s.dev (d.hdBase + i * 64 * d.hdStride) d.hform (4 * d.ng) 0 (4 * d.ng)
  (List.range d.ng).map fun g => ((os.drop (128 * g)).take 128).any fun o => decide (o.m ≠ 0)

/-- The score form of the SCT.MASK whose prediction an audit repeats (R286); a free value where no SCT.MASK has run. -/
def State.auditForm (s : State) (d : ScoutDesc) (lexp : Nat) : Nat × State :=
  match s.routing.forms.find? fun f => decide (f.layer.toNat = d.layer) && decide (f.lexp.toNat = lexp) with
  | some f => (f.form.toNat, s)
  | none => ((s.draw 2).1.toNat, (s.draw 2).2)

/-- Running an SCT.AUD (R286): the marks enter the statistics at the clearing (R81). -/
def State.runSctAud (i : RouteInstr) (s : State) : State :=
  let gl := s.glade i.g
  let d := scoutDesc (gl.read i.descAt 48)
  let p := i.plot.toNat
  let lexp := i.f 55 48
  let count := (s.listOf gl d lexp).1
  let act := (List.range count).map (s.activeGroups d)
  let marks := act.flatMap fun r => r.zipIdx.map fun e => ({ plot := p, record := d.record lexp e.2, active := e.1 } : AuditMark)
  let f := s.auditForm d lexp
  let s1 := if s.scoutOn p then
      let pairs := (List.zip act (f.2.predict d f.1 lexp count).1).flatMap fun e => List.zip e.1 e.2
      (f.2.pendCount Reg.sctMiss p (pairs.filter fun e => e.1 && !e.2).length).pendCount Reg.sctWaste p
        (pairs.filter fun e => !e.1 && e.2).length
    else s
  let s2 := { s1 with routing := { s1.routing with
      marks := s1.routing.marks ++ marks
      audited := if s1.routing.audited.contains i.plot then s1.routing.audited else s1.routing.audited ++ [i.plot] } }
  s2.countUp i.g (i.f 61 56) 1

/-- What an SCT.AUD reads of the device range: the expert's hidden rows, and, where it repeats the prediction, what that reads. -/
def State.audReads (i : RouteInstr) (s : State) : List (Nat × Nat) :=
  let gl := s.glade i.g
  let d := scoutDesc (gl.read i.descAt 48)
  let lexp := i.f 55 48
  let count := (s.listOf gl d lexp).1
  (s.scoutListAddr gl d lexp, 8)
  :: (List.range count).map (fun k => (d.hdBase + k * 64 * d.hdStride, rowBytes d.hform (4 * d.ng)))
  ++ if s.scoutOn i.plot.toNat then s.predictReads d (s.auditForm d lexp).1 lexp count else []

/-- SCT.AUD (R286, R288): its issue by glade `g`, or its turn in the engine. -/
def execSctAud (stage : Stage) (g : BitVec 10) (s : State) : Out :=
  match stage with
  | .issue => issueRoute s g 0x71 [(127, 62)] 61 56 48 false
  | .run poison => runRoute s g 0x71 poison State.audReads State.runSctAud

end Sys2Proof.Machine
end

