-- ==== Sys2Proof/Machine/Canopy.lean ====
section
/-!
DEFINITION. The canopy pipeline of a grove (R200 to R226): issue and acceptance, appends, the walker and the PLB, rounds
in query order, late pages, twins and attention faults.
-/

namespace Sys2Proof.Machine

/-! ### Geometry -/

/-- Layer slots per page. -/
def State.nLayer (s : State) : Nat := s.field Reg.cnpPgeom 7 0
/-- KV heads per layer slot. -/
def State.nKv (s : State) : Nat := s.field Reg.cnpPgeom 13 8
/-- The KV form of the pages. -/
def State.kvForm (s : State) : Nat := s.field Reg.cnpPgeom 15 14
/-- Bytes of a page. -/
def State.pageBytes (s : State) : Nat := s.field Reg.cnpPgeom 31 16 * 4096
/-- The address of page `p` (R238). -/
def State.pageAddr (s : State) (p : Nat) : Nat := s.base48 Reg.srvPageBaseLo + p * s.pageBytes
/-- The address of the page table entry of page `p` (R238). -/
def State.pteAddr (s : State) (p : Nat) : Nat := s.base48 Reg.srvPtBaseLo + 16 * p
/-- Pages in the set. -/
def State.pageCount (s : State) : Nat := s.field Reg.srvPageCnt 24 0
/-- The digest address of page `p` (R304). -/
def State.digestAddr (s : State) (p : Nat) : Nat := s.base48 Reg.memDigBaseLo + p * 64 * s.field Reg.memDig 15 0

/-- Whether the digest rows of the page set lie in one GENERAL region (R304). -/
def State.digestsFit (s : State) : Bool :=
  let n := s.pageCount * 64 * s.field Reg.memDig 15 0
  decide (s.nLayer * s.nKv * digestSize s.kvForm ≤ 64 * s.field Reg.memDig 15 0)
  && match s.mem.regionOf (s.base48 Reg.memDigBaseLo) n with
    | some e => e.2.kind == 0
    | none => false

/-- Whether the pipelines accept instructions (R211, R304, Table 8.11). DEDUCED, unsafe: log entry 73. -/
def State.canopyReady (s : State) : Bool :=
  s.nLayer != 0 && decide (s.nLayer * s.nKv * sliceSize s.kvForm ≤ s.pageBytes) && s.digestsFit

/-- The offset of a slice's place in units of its size: layer slot and KV head (R211). -/
def State.sliceNo (s : State) (a : AttDesc) : Nat := a.lslot * s.nKv + a.kvh

/-- The address of a page's slice. -/
def State.sliceAddr (s : State) (a : AttDesc) (page : Nat) : Nat :=
  s.pageAddr page + s.sliceNo a * sliceSize s.kvForm

/-! ### Twins (R217) -/

/-- The partner of a grove's pipeline, and whether the grove follows; none where it runs unpaired. -/
def State.twin (s : State) (gv : Nat) : Option (Nat × Bool) :=
  let r := fun (g : Nat) => s.regN (Reg.cnpTwin + 4 * g)
  let q := bitsOf (r gv) 3 0
  if bitOf (r gv) 5 && bitOf (r q) 5 && bitsOf (r q) 3 0 == gv && gv / 4 == q / 4 && gv != q
      && bitOf (r gv) 4 != bitOf (r q) 4 then some (q, bitOf (r gv) 4)
  else none

/-- Whether a grove follows. -/
def State.follows (s : State) (gv : Nat) : Bool := (s.twin gv).any (·.2)
/-- The follower of a grove that leads. -/
def State.followerOf (s : State) (gv : Nat) : Option Nat :=
  match s.twin gv with
  | some (q, false) => some q
  | _ => none

/-- Changing a grove's pipeline. -/
def State.setCanopy (s : State) (gv : Nat) (c : Canopy) : State := s.setGrove gv { s.grove gv with canopy := c }
/-- A grove's pipeline. -/
def State.canopy (s : State) (gv : Nat) : Canopy := (s.grove gv).canopy

/-! ### Length table rows -/

/-- A length table row as the pipeline reads it (R200, Table 9.7). -/
structure LtRow where
  index : Nat
  epoch : Nat
  len : Nat
  a : Nat
  npages : Nat
  plist : Nat
  tenant : Nat
  deriving DecidableEq, Repr

/-- Where the batch descriptor lands (R191). -/
def State.bcast (s : State) : Nat := 8 * s.field Reg.gldBcast 15 0

/-- Row `k` of a glade's copy of the length table. -/
def State.ltRow (s : State) (gl : Glade) (k : Nat) : LtRow :=
  let a := s.bcast + 32 + 24 * k
  { index := gl.readNat a 2 % 16384, epoch := gl.readNat (a + 2) 2, len := gl.readNat (a + 4) 4, a := gl.readNat (a + 8) 2
    npages := gl.readNat (a + 12) 3, plist := gl.readNat (a + 16) 4, tenant := gl.readNat (a + 20) 2 % 4096 }

/-- Whether a row is invalid (cause 0x1 of Table 8.6). -/
def LtRow.bad (r : LtRow) : Bool :=
  decide (r.a > r.len) || decide (r.len > 16 * r.npages) || decide (r.len ≥ 2 ^ 28) || decide (r.a ≥ 4096)

/-- The page number at position `pi` of a row's page list (R215). -/
def State.pageOf (s : State) (gl : Glade) (r : LtRow) (pi : Nat) : Nat :=
  s.devNat (gl.readNat (s.bcast + 16) 6 + 64 * r.plist + 4 * pi) 4 % 2 ^ 24

/-- The page lists of some length table rows (R215). -/
def State.listReads (s : State) (gl : Glade) (rows : List Nat) : List (Nat × Nat) :=
  rows.map fun k => (gl.readNat (s.bcast + 16) 6 + 64 * (s.ltRow gl k).plist, 4 * (s.ltRow gl k).npages)

/-- What the page walker reads of the device range for some rows: their page lists and the page table (R215). -/
def State.walkReads (s : State) (gl : Glade) (rows : List Nat) : List (Nat × Nat) :=
  s.listReads gl rows ++ [(s.base48 Reg.srvPtBaseLo, 16 * s.pageCount)]

/-- A page table entry (Table 9.8). -/
def State.pte (s : State) (p : Nat) : Nat := s.devNat (s.pteAddr p) 16

/-- The attention fault that a page raises (causes 0x2 to 0x4 of Table 8.6). -/
def State.pageFault (s : State) (p : Nat) (write : Bool) : Option Nat :=
  let e := s.pte p
  if p ≥ s.pageCount || !bitOf e 0 then some 0x2
  else if !bitOf e 2 || (s.mem.physOf (s.pageAddr p)).isNone then some 0x3
  else if write && bitOf e 1 then some 0x4
  else none

/-- The first attention fault of some pages. -/
def State.pagesFault (s : State) (ps : List Nat) (write : Bool) : Option Nat :=
  (ps.filterMap fun p => s.pageFault p write).head?

/-! ### Attempts (R188, R223)

The instruction that runs when its plot's attempt is abandoned completes; nothing of it counts for the attempt that
follows. DEDUCED, unsafe: log entry 152. -/

/-- Whether an instruction belongs to the present attempt of its plot. -/
def State.current (s : State) (i : CanopyInstr) : Bool := decide ((s.plot i.plot.toNat).tag = i.attempt)

/-- A state that takes an effect on the present attempt's counts, or not. -/
def State.ifCurrent (s : State) (i : CanopyInstr) (t : State) : State := if s.current i then t else s

/-- A count of an instruction kept for the clearing (R81, R226). -/
def State.pendFor (s : State) (i : CanopyInstr) (reg n : Nat) : State := s.ifCurrent i (s.pendCount reg i.plot.toNat n)

/-- Layer counts of an instruction (R79). -/
def State.layerFor (s : State) (i : CanopyInstr) (layer sat zc under : Nat) : State :=
  s.ifCurrent i (s.pendLayer i.plot.toNat layer sat zc under)

/-- An instruction's counter in its glade. -/
def State.countFor (s : State) (i : CanopyInstr) (c : Nat) : State := s.ifCurrent i (s.countUp i.glade.toNat c 1)

/-! ### Attention faults (R222) -/

/-- What the batch row of a ledger index is told (R221, R222). DEDUCED, unsafe: log entry 70. -/
def State.tellRow (s : State) (index : Nat) (x : RowReport) : State :=
  s.mapRows fun r => if r.index = index then { r with reports := r.reports ++ [x] } else r

/-- An attention fault that poisons a row or a query: counted, reported to the request's owner, noted for the clearing. -/
def State.attFault (s : State) (i : CanopyInstr) (r : LtRow) (cause : Nat) : State :=
  let s0 := s.bump Reg.cnpAfault 1
  let s1 := s0.ifCurrent i (s0.tellRow r.index { plot := i.plot.toNat, cause := some cause })
  s1.plotFault i.plot.toNat
    { cls := 0x09, cause, glade := some i.glade.toNat, index := some r.index, epoch := r.epoch,
      owner := some (BitVec.ofNat 12 r.tenant), pc := i.q.pc, detail := [4] }

/-- An attention fault of cause 0x5 or 0x6: handled as an instruction fault (R175, R176). -/
def State.attInstrFault (s : State) (i : Issue) (cause : Nat) : State :=
  (s.bump Reg.cnpAfault 1).stopFault i { cls := 0x09, cause, glade := some i.g, pc := i.pc, detail := [0] }

/-! ### Issue -/

/-- Issuing a canopy instruction (R224, R225, R109): the header's checks and the length table's extent; then it enters
the transfer queue with its count of rows. -/
def issueCanopy (s : State) (g : BitVec 10) (app : Bool) : Out :=
  atEngine s g (if app then 0x68 else 0x69) true fun i n =>
    let row0 := if app then i.f 121 108 else i.f 93 80
    s.checks i
      [(!i.zeros [(31, 27), (15, 8), (24, 24)], 0x02), (!app && i.f 127 94 != 0, 0x02), (app && i.aform != 0, 0x02),
       (app && decide (i.f 127 122 ≥ 62), 0x04),
       (decide (8 * i.f 47 32 + 32 > spadSize) || (!app && decide (8 * i.f 63 48 + 32 > spadSize))
         || (!app && decide (8 * i.f 79 64 + 32 > spadSize)), 0x06),
       (decide (s.bcast + 32 + 24 * (row0 + n) > spadSize), 0x06)] (
    s.toQueue i [BitVec.ofNat 64 n])

/-- First length table row of a queued instruction. -/
def CanopyInstr.row0 (i : CanopyInstr) : Nat :=
  if i.q.op = 0x68 then bitsOf i.q.words.toNat 121 108 else bitsOf i.q.words.toNat 93 80
/-- Length table rows of a queued instruction. -/
def CanopyInstr.rows (i : CanopyInstr) : Nat := i.q.arg 0

/-! ### Acceptance (R225) -/

/-- The descriptors of an instruction in its glade: attention, layer and outflow. -/
def Glade.attBytes (gl : Glade) (w : Nat) : List Byte :=
  gl.read (8 * bitsOf w 47 32) 32 ++ gl.read (8 * bitsOf w 63 48) 32 ++ gl.read (8 * bitsOf w 79 64) 32

/-- Whether the attention descriptor is out of range (cause 0x5 of Table 8.6). -/
def AttDesc.outOfRange (a : AttDesc) (s : State) : Bool :=
  decide (a.lslot ≥ s.nLayer) || decide (a.kvh ≥ s.nKv) || (a.stride != 0 && decide (a.phase ≥ a.stride)) || a.reserved

/-- What a twin compares (R217). -/
def twinKey (i : CanopyInstr) (a : AttDesc) : TwinKey :=
  { row0 := i.row0, rows := i.rows, lslot := a.lslot, kvh := a.kvh, win := a.win, sink := a.sink, stride := a.stride,
    phase := a.phase, exclSelf := a.exclSelf }

/-- The instruction faults that the descriptors of a CNP.ATT meet at acceptance, in order: `inl` an instruction fault of
Table 7.6, `inr` an attention fault. DEDUCED, unsafe: log entry 68. -/
def attFaults (s : State) (i : Issue) : List (Bool × (Nat ⊕ Nat)) :=
  let bs := i.gl.attBytes i.w
  let a := attDesc bs
  let d := layerDesc (bs.drop 32)
  let o := outDesc (bs.drop 64)
  (d.faults.map fun f => (f.1, .inl f.2))
  ++ [(o.reserved, .inl 0x02), (decide (o.ctr ≥ 62), .inl 0x04), (a.outOfRange s || o.fuse != 0, .inr 0x5),
      (d.xform != i.aform || d.yform != s.kvForm || d.ser, .inr 0x5),
      (decide (a.qJ0 + 4 * a.nqh > a.qNblk) || decide (o.j0 + 4 * a.nqh > o.nblk), .inl 0x05)]

/-- Taking the head of a glade's transfer queue into the pipeline; the instructions behind it may start (R174). -/
def State.acceptHead (s : State) (g gv : Nat) (i : CanopyInstr) : State :=
  let gl := s.glade g
  let c := s.canopy gv
  drainQueue g 16 ((s.setGlade g { gl with queue := gl.queue.drop 1 }).setCanopy gv { c with queue := c.queue ++ [i] })

/-- Dropping the head of a glade's transfer queue. -/
def State.dropHead (s : State) (g : Nat) : State :=
  let gl := s.glade g
  s.setGlade g { gl with queue := gl.queue.drop 1 }

/-- The twin's part of acceptance: a leader names its CNP.ATT, a follower matches it, waiting for its leader. -/
def State.acceptTwin (s : State) (i : Issue) (ci : CanopyInstr) (gv : Nat) : State :=
  let isAtt := decide (ci.q.op = 0x69)
  let key := twinKey ci (attDesc (i.gl.attBytes i.w))
  match s.twin gv with
  | none => s.acceptHead i.g gv ci
  | some (_, false) =>
    if isAtt then
      let c := s.canopy gv
      (s.setCanopy gv { c with named := c.named ++ [key] }).acceptHead i.g gv ci
    else s.acceptHead i.g gv ci
  | some (q, true) =>
    if !isAtt then s.attInstrFault i 0x6
    else match (s.canopy q).named with
      | [] => s
      | k :: ks =>
        if k = key then
          let c := s.canopy q
          (s.setCanopy q { c with named := ks }).acceptHead i.g gv ci
        else s.attInstrFault i 0x6

/-- CANOPY_INSTRUCTION_ACCEPT (R223, R225, R206, R217, Table 8.6): the head of a glade's transfer queue enters the
pipeline of its grove, which takes no more than 16. Without the lease it is dropped with a lease fault. -/
def execCanopyInstructionAccept (g : BitVec 10) (s : State) : Out :=
  let gl := s.glade g.toNat
  let gv := groveOf g.toNat
  match gl.queue with
  | [] => .next s
  | q :: _ =>
    let i := s.requeue g.toNat q
    let ci : CanopyInstr := { glade := g, plot := gl.plot, attempt := (s.plot gl.plot.toNat).tag, q }
    if q.op ≠ 0x68 ∧ q.op ≠ 0x69 then .next s
    else if !s.groveRuns gv then .next s
    else if !s.holdsLease i.p 1 gv then .next ((s.dropHead i.g).leaseFault i.p 1 gv i.g i.pc)
    else if !s.canopyReady || decide ((s.canopy gv).queue.length ≥ 16) then .next s
    else if q.op = 0x68 then
      if (attDesc (i.gl.attBytes i.w)).outOfRange s then .next (s.attInstrFault i 0x5) else .next (s.acceptTwin i ci gv)
    else match (attFaults s i).find? fun f => f.1 with
      | some (_, .inl c) => .next (s.instrFault i c)
      | some (_, .inr c) => .next (s.attInstrFault i c)
      | none => .next (s.acceptTwin i ci gv)

/-! ### CNP.APP -/

/-- One token appended (R212, R213): its K and V rows, its slot check, and, from slot 15, the digest row. -/
def State.appendToken (s : State) (i : CanopyInstr) (a : AttDesc) (page pos : Nat) (k v : List Byte) : State :=
  let f := s.kvForm
  let r := kvRow f
  let x := pos % 16
  let at_ := s.sliceAddr a page
  let die := dieOf i.glade.toNat
  let s1 := ((s.devWriteOn die (at_ + x * r) k).devWriteOn die (at_ + (16 + x) * r) v).devWriteOn die (at_ + 32 * r + 4 * x)
    (leBytes 4 (crc32c (k ++ v)))
  if x ≠ 15 then s1
  else
    let s2 := s1.touchReadOn die at_ (sliceSize f)
    let s3 := (s2.devWriteOn die (s.digestAddr page + s.sliceNo a * digestSize f) (digestRow f (s2.dev at_ (sliceSize f))))
    let s4 := s3.pendFor i Reg.cnpDig 1
    let e : Slot15 := { plot := i.plot.toNat, page, slice := s.sliceNo a }
    s4.ifCurrent i { s4 with serving := { s4.serving with slot15 := s4.serving.slot15 ++ [e] } }

/-- The tokens of one row: `j` counts new tokens over the instruction's rows. -/
def appendTokens (i : CanopyInstr) (a : AttDesc) (gl kg : Glade) (r : LtRow) (kb vb st j0 : Nat) : List Nat → State → State
  | [], s => s
  | t :: ts, s =>
    let pos := r.len - r.a + t
    let n := kvRow s.kvForm
    appendTokens i a gl kg r kb vb st j0 ts
      (s.appendToken i a (s.pageOf gl r (pos / 16)) pos (kg.read (kb + (j0 + t) * st) n) (kg.read (vb + (j0 + t) * st) n))

/-- The rows of a CNP.APP: a faulty row is poisoned and writes nothing (R222). -/
def appendRows (i : CanopyInstr) (a : AttDesc) (gl kg : Glade) (kb vb st : Nat) : List Nat → Nat → State → State
  | [], _, s => s
  | k :: ks, j0, s =>
    let r := s.ltRow gl k
    let pages := (List.range r.a).map fun t => s.pageOf gl r ((r.len - r.a + t) / 16)
    let cause := if r.bad then some 0x1 else s.pagesFault pages true
    match cause with
    | some c => appendRows i a gl kg kb vb st ks (j0 + r.a) (s.attFault i r c)
    | none =>
      let s1 := touchAll (some (dieOf i.glade.toNat)) (pages.dedup.map fun p => (s.pteAddr p, 16)) s
      appendRows i a gl kg kb vb st ks (j0 + r.a) (appendTokens i a gl kg r kb vb st j0 (List.range r.a) s1)

/-- The rows of an instruction, by number. -/
def CanopyInstr.rowList (i : CanopyInstr) : List Nat := (List.range i.rows).map (i.row0 + ·)

/-- What an instruction waits for before it runs (R322): its walk, and, for a CNP.APP, the slices from which it makes digests. -/
def State.canopyReads (s : State) (i : CanopyInstr) : List (Nat × Nat) :=
  let gl := s.glade i.glade.toNat
  let a := attDesc (gl.attBytes i.q.words.toNat)
  s.walkReads gl i.rowList
  ++ if i.q.op = 0x68 then
      i.rowList.flatMap fun k =>
        let r := s.ltRow gl k
        (List.range r.a).map fun t => (s.sliceAddr a (s.pageOf gl r ((r.len - r.a + t) / 16)), sliceSize s.kvForm)
    else []

/-- New tokens of some length table rows. -/
def State.newTokens (s : State) (gl : Glade) (i : CanopyInstr) : Nat :=
  ((List.range i.rows).map fun k => (s.ltRow gl (i.row0 + k)).a).sum

/-- Running a CNP.APP: rows outside the scratchpad of glade kg are an instruction fault (R175). -/
def State.runAppend (s : State) (i : CanopyInstr) : State :=
  let w := i.q.words.toNat
  let gl := s.glade i.glade.toNat
  let kgN := gladeAt (groveOf i.glade.toNat) (bitsOf w 53 48)
  let kb := bitsOf w 72 54
  let vb := bitsOf w 91 73
  let st := bitsOf w 107 92
  let last := (s.newTokens gl i - 1) * st + kvRow s.kvForm
  if kb + last > spadSize ∨ vb + last > spadSize then s.instrFault (s.requeue i.glade.toNat i.q) 0x06
  else
    let s1 := touchAll (some (dieOf i.glade.toNat)) (s.listReads gl i.rowList) s
    (appendRows i (attDesc (gl.attBytes w)) gl (s.glade kgN) kb vb st i.rowList 0 s1).countFor i (bitsOf w 127 122)

/-! ### Rounds of CNP.ATT -/

/-- One lookup of a page in the PLB (R216): a hit moves the page to the last place of its set; a miss drops the least
recently used way and reads the page table entry. DEDUCED, unsafe: log entry 69. -/
def State.plbLookup (s : State) (gv page : Nat) : State :=
  let c := s.canopy gv
  let set := mget [] c.plb (page % 512)
  let hit := set.contains page
  let set1 := (if hit then set.filter (· ≠ page) else if set.length ≥ 8 then set.drop 1 else set) ++ [page]
  let s1 := (s.setCanopy gv { c with plb := mset [] c.plb (page % 512) set1 }).bump (if hit then Reg.cnpPlbh else Reg.cnpPlbm) 1
  if hit then s1 else s1.touchReadOn (gv / 4) (s.pteAddr page) 16

/-- The rounds of one row: a poisoned row has one per query; a query without allowed key has one; else one per visited
page (R202, R204, R222). `j0` is the number of the row's first query. -/
def State.rowRounds (s : State) (gl : Glade) (a : AttDesc) (k j0 : Nat) (poisoned : Bool) : List Round :=
  let r := s.ltRow gl k
  (List.range r.a).flatMap fun t =>
    let q := r.len - r.a + t
    let mk := fun kind => ({ row := k, query := j0 + t, pos := q, len := r.len, index := r.index, kind, slots := [] } : Round)
    if poisoned then [mk .poison]
    else if (a.pages q r.len).isEmpty then [mk .empty]
    else (a.pages q r.len).map fun pi => mk (.visit (s.pageOf gl r pi) pi none none false)

/-- The attention fault of a row of CNP.ATT: its own, or that of a page it visits. -/
def State.rowFault (s : State) (gl : Glade) (a : AttDesc) (k : Nat) : Option Nat :=
  let r := s.ltRow gl k
  if r.bad then some 0x1
  else
    let pis := ((List.range r.a).flatMap fun t => a.pages (r.len - r.a + t) r.len).dedup
    s.pagesFault (pis.map (s.pageOf gl r)) false

/-- The rounds of every row, with the attention faults of poisoned rows raised. -/
def buildRounds (i : CanopyInstr) (a : AttDesc) (gl : Glade) : List Nat → Nat → State → List Round × State
  | [], _, s => ([], s)
  | k :: ks, j0, s =>
    let f := s.rowFault gl a k
    let s1 := match f with
      | some c => if (s.ltRow gl k).a = 0 then s else s.attFault i (s.ltRow gl k) c
      | none => s
    let x := buildRounds i a gl ks (j0 + (s.ltRow gl k).a) s1
    (s.rowRounds gl a k j0 f.isSome ++ x.1, x.2)

/-- Whether a round's slice read is outstanding. -/
def Round.outstanding (r : Round) : Bool :=
  match r.kind with
  | .visit _ _ (some _) none _ => true
  | _ => false

/-- Issuing slice reads for rounds in order, `n` at most (R215): each is one PLB lookup and one read. -/
def issueReads (gv : Nat) (a : AttDesc) : Nat → List Round → State → List Round × State
  | _, [], s => ([], s)
  | n, r :: rs, s =>
    match r.kind, n with
    | .visit page num none none late, n + 1 =>
      let s1 := (s.plbLookup gv page).touchReadOn (gv / 4) (s.sliceAddr a page) (sliceSize s.kvForm)
      let x := issueReads gv a n rs s1
      ({ r with kind := .visit page num (some s.ringCount) none late } :: x.1, x.2)
    | _, n =>
      let x := issueReads gv a n rs s
      (r :: x.1, x.2)

/-- Keeping 64 slice reads outstanding (Table 8.1); a follower issues none (R217). -/
def State.readAhead (s : State) (gv : Nat) : State :=
  match (s.canopy gv).run with
  | none => s
  | some run =>
    if s.follows gv then s
    else
      let out := (run.rounds.filter Round.outstanding).length
      let x := issueReads gv (attDesc run.desc) (64 - out) run.rounds s
      x.2.setCanopy gv { x.2.canopy gv with run := some { run with rounds := x.1 } }

/-- Writing an output row and a status byte (R209, R221): blocks to row `j` of the destination, the status byte in the
issuing glade, and the destination's counter. -/
def State.writeQuery (s : State) (i : CanopyInstr) (a : AttDesc) (o : OutDesc) (j : Nat) (bs : List Block) (status : Nat) :
    State :=
  let g := i.glade.toNat
  let at_ := o.dstBase + j * o.dstStride
  let ws := (bs.zipIdx.flatMap fun b => blockWrites (8 * at_) o.oform o.nblk (o.j0 + b.2) b.1)
  let c := if o.remote then none else some (BitVec.ofNat 6 o.ctr)
  let s1 := s.setGlade g ((s.glade g).writeFor none c (8 * a.st + j) [BitVec.ofNat 8 status])
  let s2 :=
    if o.remote then
      s1.send { dst := o.dst, addr := at_ % 2 ^ 16, ctr := o.ctr, nflit := flitsOf ws.length, kind := 0, src := g, plot := i.plot.toNat, attempt := i.attempt.toNat } [] ws
    else (s1.setGlade g ((s1.glade g).maskFor none c ws)).countFor i o.ctr
  s2.pendFor i Reg.cnpRows 1

/-- The blocks of a row of zeros (R204). -/
def zeroBlocks (a : AttDesc) (o : OutDesc) : List Block :=
  List.replicate (4 * a.nqh) { e := o.eLoOut, m := List.replicate 32 0 }

/-- Ending a query: a poisoned one is written as zeros with bit 2; else it is normalised (R209, R221, R222). -/
def State.endQuery (s : State) (run : AttRun) (q : QueryRun) (r : Round) : State :=
  let a := attDesc run.desc
  let o := outDesc (run.desc.drop 64)
  let p := run.instr.plot.toNat
  if q.poisoned then s.writeQuery run.instr a o q.query (zeroBlocks a o) 4
  else
    let bs := q.heads.flatMap (headBlocks a o.oform o.bOut o.eLoOut)
    let s1 := s.layerFor run.instr a.layer (bs.map (·.clamped)).sum (bs.map (·.zeroed)).sum 0
    let s2 := s1.writeQuery run.instr a o q.query (bs.map (·.b)) (2 * natOfBool q.approx + 8 * natOfBool q.clamped)
    if q.approx then
      s2.ifCurrent run.instr ((s2.pendCount Reg.cnpApxq p 1).tellRow r.index { plot := p, cause := none })
    else s2

/-- The query operands of every head (R206, Table 8.8). -/
def State.queryHeads (s : State) (i : CanopyInstr) (a : AttDesc) (d : LayerDesc) (j : Nat) : List (List Operand) :=
  let gl := s.glade (gladeAt (groveOf i.glade.toNat) a.qG)
  (List.range a.nqh).map fun h => rowOperands gl.read (a.qBase + j * a.qStride) d.xform a.qNblk (a.qJ0 + 4 * h) 4

/-- Running one round that has its slice or its digest (R205 to R208, R220). DEDUCED, unsafe: log entry 72. Its counts go to
the layer of the attention descriptor (R79). DEDUCED, unsafe: log entry 151. -/
def State.runRound (s : State) (gv : Nat) (run : AttRun) (r : Round) (q : QueryRun) (num : Nat) (item : SliceItem) :
    QueryRun × State :=
  let a := attDesc run.desc
  let d := layerDesc (run.desc.drop 32)
  let p := run.instr.plot.toNat
  let xs := a.slots r.pos r.len num
  let go := fun (kvs : List KvSlot) (approx : Bool) =>
    let pset := s.psetOf p d
    let c := s.canopy gv
    let gx := drawStream (formBits d.xform) (64 * 2 ^ d.lstream) (lfsrGet c.lfsr (1024 + gv) d.genX)
    let gy := drawStream (formBits d.yform) (64 * 2 ^ d.lstream) (lfsrGet c.lfsr (1024 + gv) d.genY)
    let us := if pset = 3 then (gx.1, gy.1) else ([], [])
    let t := attRound a d pset us (s.queryHeads run.instr a d r.query) q.heads kvs
    let s1 := if pset = 3 then
        (s.setCanopy gv { c with lfsr := mset 0 (mset 0 c.lfsr d.genX gx.2) d.genY gy.2 }).pendFor run.instr Reg.spuStoch 1
      else s
    (({ q with heads := t.heads, approx := q.approx || approx, clamped := q.clamped || t.clamped } : QueryRun),
      (s1.layerFor run.instr a.layer t.sat 0 t.under).pendFor run.instr Reg.cnpPagesLo 1)
  match item with
  | .slice bs => go (sliceKv s.kvForm bs xs) false
  | .digest bs => go (digestKv s.kvForm bs xs) true
  | .bad => ({ q with poisoned := true }, s)

/-- A query's start (R207). -/
def QueryRun.start (a : AttDesc) (query : Nat) : QueryRun :=
  { query, heads := List.replicate a.nqh .init, approx := false, clamped := false, poisoned := false }

/-- The item of the round that is due: its own, or the one the leader passed on (R217). -/
def State.itemFor (s : State) (gv : Nat) (own : Option SliceItem) : Option SliceItem :=
  match own with
  | some x => some x
  | none => if s.follows gv then (s.canopy gv).inbox.head? else none

/-- Whether a follower takes what its leader passes on: an instruction of an abandoned attempt has its match only in one that
runs. -/
def State.follower? (s : State) (gv q : Nat) : Bool :=
  let stale := fun (x : Nat) => match (s.canopy x).run with
    | some r => !s.current r.instr
    | none => false
  !stale gv || stale q

/-- Consuming the item of a round: a leader passes it to its follower, a follower takes it from its inbox. -/
def State.consume (s : State) (gv : Nat) (own : Option SliceItem) (x : SliceItem) : State :=
  let c := s.canopy gv
  let s1 := if own.isNone then s.setCanopy gv { c with inbox := c.inbox.drop 1 } else s
  match s1.followerOf gv with
  | some q => if s1.follower? gv q then s1.setCanopy q { s1.canopy q with inbox := (s1.canopy q).inbox ++ [x] } else s1
  | none => s1

/-- Replacing the CNP.ATT in progress. -/
def State.setRun (s : State) (gv : Nat) (run : Option AttRun) : State := s.setCanopy gv { s.canopy gv with run }

/-- One step of the pipeline's CNP.ATT: none when the round that is due waits for its slice. -/
def State.advanceOnce (s : State) (gv : Nat) : Option State :=
  match (s.canopy gv).run with
  | none => none
  | some run =>
    let a := attDesc run.desc
    let o := outDesc (run.desc.drop 64)
    match run.rounds with
    | [] => some (s.setRun gv none)
    | r :: rest =>
      let last := match rest with
        | [] => true
        | r' :: _ => r'.query != r.query
      match r.kind with
      | .empty =>
        let s1 := (s.writeQuery run.instr a o r.query (zeroBlocks a o) 1).pendFor run.instr Reg.cnpEmpty 1
        some (s1.setRun gv (some { run with rounds := rest }))
      | .poison => some ((s.writeQuery run.instr a o r.query (zeroBlocks a o) 4).setRun gv (some { run with rounds := rest }))
      | .visit _ num _ own _ =>
        match s.itemFor gv own with
        | none => none
        | some x =>
          let q := run.cur.getD (QueryRun.start a r.query)
          let s1 := s.consume gv own x
          let t := s1.runRound gv run r q num x
          let s2 := match x with
            | .bad => t.2.attFault run.instr (s.ltRow (s.glade run.instr.glade.toNat) r.row) 0x7
            | _ => t.2
          if t.1.poisoned then
            let rest := rest.filter fun r' => r'.query != r.query
            some ((s2.endQuery run t.1 r).setRun gv (some { run with rounds := rest, cur := none }))
          else if last then some ((s2.endQuery run t.1 r).setRun gv (some { run with rounds := rest, cur := none }))
          else some (s2.setRun gv (some { run with rounds := rest, cur := some t.1 }))

/-- Running the pipeline as far as its slices allow. -/
def advance (gv : Nat) : Nat → State → State
  | 0, s => s
  | fuel + 1, s =>
    match s.advanceOnce gv with
    | some s1 => advance gv fuel (s1.readAhead gv)
    | none => s

/-- How many steps a pipeline's CNP.ATT can take. -/
def State.attFuel (s : State) (gv : Nat) : Nat := (((s.canopy gv).run.map fun r => r.rounds.length).getD 0) + 1

/-- Running a pipeline, and then the follower that takes its slices (R217). -/
def State.advanceBoth (s : State) (gv : Nat) : State :=
  let s1 := advance gv (s.attFuel gv) s
  match s1.followerOf gv with
  | some q => advance q (s1.attFuel q) s1
  | none => s1

/-- Starting a CNP.ATT (R200, R202): its extents are checked (R175), its rounds built, its first reads issued. -/
def State.startAtt (s : State) (gv : Nat) (i : CanopyInstr) : State :=
  let gl := s.glade i.glade.toNat
  let desc := gl.attBytes i.q.words.toNat
  let a := attDesc desc
  let d := layerDesc (desc.drop 32)
  let o := outDesc (desc.drop 64)
  let n := s.newTokens gl i
  if n ≠ 0 ∧ (a.qBase + (n - 1) * a.qStride + rowBytes d.xform a.qNblk > spadSize ∨ 8 * a.st + n > spadSize
      ∨ 8 * (o.dstBase + (n - 1) * o.dstStride) + rowBytes o.oform o.nblk > spadSize) then
    s.instrFault (s.requeue i.glade.toNat i.q) 0x06
  else
    let x := buildRounds i a gl i.rowList 0 (touchAll (some (gv / 4)) (s.listReads gl i.rowList) s)
    let s1 := x.2.pendFor i Reg.spuXovr (natOfBool ((s.plot i.plot.toNat).exact && d.pset == 3))
    (s1.setRun gv (some { instr := i, desc, rounds := x.1, cur := none })).readAhead gv

/-- The pipeline's turn (R225): the oldest instruction of its queue, of the given opcode; a CNP.ATT once the one before has
ended, a CNP.APP also beside its rounds. It waits while what it reads lies in a block under repair (R322). -/
def runCanopy (s : State) (u : BitVec 10) (app : Bool) : Out :=
  let gv := u.toNat
  let c := s.canopy gv
  if gv ≥ 16 then .fault (.noSuchUnit "CANOPY")
  else if c.run.isSome && !app then .next s
  else match c.queue with
    | [] => .next s
    | i :: rest =>
      if decide (i.q.op = 0x68) ≠ app ∨ !s.groveRuns gv then .next s
      else
        let s1 := s.setCanopy gv { c with queue := rest }
        .next (s.whenReadable (some i.plot) (s.canopyReads i) (
          if app then s1.runAppend i else (s1.startAtt gv i).advanceBoth gv))

/-- CNP.APP (R212 to R214, R222 to R225): its issue by glade `u`, or its turn in the pipeline of grove `u`. -/
def execCnpApp (stage : Stage) (u : BitVec 10) (s : State) : Out :=
  match stage with
  | .issue => issueCanopy s u true
  | .run _ => runCanopy s u true

/-- CNP.ATT (R200 to R211, R215 to R225): its issue by glade `u`, or its turn in the pipeline of grove `u`. -/
def execCnpAtt (stage : Stage) (u : BitVec 10) (s : State) : Out :=
  match stage with
  | .issue => issueCanopy s u false
  | .run _ => runCanopy s u false

/-! ### Slices and late pages -/

/-- Giving round `k` of a pipeline its slice, digest or failure. -/
def State.giveItem (s : State) (gv k : Nat) (run : AttRun) (r : Round) (x : SliceItem) : State :=
  match r.kind with
  | .visit page num issued _ late =>
    s.setRun gv (some { run with rounds := setAt run.rounds k { r with kind := .visit page num issued (some x) late } })
  | _ => s

/-- SLICE_READ_COMPLETE (R215, R220, R307): the slice of round `k` arrives. `bad1`, `bad2`: its first and its second read
came poisoned. Each slot with a real token is checked; a mismatch is read again once. A slice whose page has been
substituted is discarded. It comes from where its granule stood when the read was translated (R314), and it waits while it lies
in a block under repair (R322). -/
def execSliceReadComplete (grove : BitVec 4) (k : Nat) (bad1 bad2 : Bool) (s : State) : Out :=
  let gv := grove.toNat
  match (s.canopy gv).run with
  | none => .next s
  | some run =>
    match run.rounds[k]? with
    | none => .next s
    | some r =>
      match r.kind with
      | .visit page num (some _) none _ =>
        let f := s.kvForm
        let at_ := s.sliceAddr (attDesc run.desc) page
        let bs := (s.mem.withSlots r.slots).read at_ (sliceSize f)
        let good := ((List.range 16).filter fun x => decide (16 * num + x < r.len)).all (slotGood f bs)
        let s0 := if bad1 then s.countPoison at_ else s
        let s1 := if good && !bad1 then s0 else (if bad2 then s0.countPoison at_ else s0).touchReadOn (gv / 4) at_ (sliceSize f)
        let x := if good && (!bad1 || !bad2) then SliceItem.slice bs else SliceItem.bad
        .next (s.whenReadable (some run.instr.plot) [(at_, sliceSize f)] ((s1.giveItem gv k run r x).advanceBoth gv))
      | _ => .next s

/-- The HOT hint of a late page in understory (R316). DEDUCED, unsafe: log entry 127. -/
def State.lateHint (s : State) (at_ : Nat) : State :=
  match s.mem.granuleAt at_ with
  | some (_, r, i) =>
    if (s.mem.gran r i).valid && (s.mem.gran r i).under then (s.hintGranule r i 1 s.hotUntil).bump Reg.memLhint 1 else s
  | none => s

/-- LATE_PAGE (R218, R219, R316, Table 8.5): the slice of the round that is due has passed its deadline. The first row of
Table 8.5 that applies decides. `badDigest`: the digest row comes poisoned (R307). -/
def execLatePage (grove : BitVec 4) (badDigest : Bool) (s : State) : Out :=
  let gv := grove.toNat
  match (s.canopy gv).run with
  | none => .next s
  | some run =>
    match run.rounds with
    | [] => .next s
    | r :: rest =>
      match r.kind with
      | .visit page num (some t) none false =>
        let a := attDesc run.desc
        let es := [(s.pteAddr page, 16), (s.digestAddr page + s.sliceNo a * digestSize s.kvForm, digestSize s.kvForm)]
        if s.rt ≤ t.toNat + s.field Reg.cnpLate 15 0 then .next s
        else if s.mem.blocked es then .next (s.whenReadable (some run.instr.plot) es s)
        else
          let p := run.instr.plot.toNat
          let f := s.kvForm
          let kept : Round := { r with kind := .visit page num (some t) none true }
          let s1 := s.setRun gv (some { run with rounds := kept :: rest })
          let s2 := s1.lateHint (s.sliceAddr a page)
          let may := s.field Reg.cnpLate 16 16 = 1 && decide (s.image.standSize ≤ 1024)
          let dvalid := bitOf (s.pte page) 3
          let dAt := s.digestAddr page + s.sliceNo a * digestSize f
          let row := s.dev dAt (digestSize f)
          if (s.plot p).exact then
            if may && dvalid then .next (s2.pendFor run.instr Reg.cnpXovr 1) else .next (s2.bumpField Reg.cnpStall 15 0 1)
          else if !may then .next (s2.bumpField Reg.cnpStall 15 0 1)
          else if !dvalid then .next (s2.bumpField Reg.cnpStall 31 16 1)
          else if badDigest || !digestGood f row then
            let s3 := if badDigest then s2.countPoison dAt else s2
            .next ((s3.touchReadOn (gv / 4) dAt (digestSize f)).bumpField Reg.cnpStall 31 16 1)
          else
            let s3 := (s2.touchReadOn (gv / 4) dAt (digestSize f)).pendFor run.instr Reg.cnpApx 1
            .next ((s3.giveItem gv 0 { run with rounds := kept :: rest } kept (.digest row)).advanceBoth gv)
      | _ => .next s

end Sys2Proof.Machine
end

