-- ==== Sys2Proof/Machine/Ledger.lean ====
section
/-!
DEFINITION. What every part of the serving block shares: ledger entries and their layout (Table 9.2), refusals and events
(R231, R251), the page table, the free list and references (R238 to R240, R315), page lists, input rings, the coppice
(R241 to R243, R245, R246) and the graft table (Table 9.14).
-/

namespace Sys2Proof.Machine

/-! ### Entries -/

/-- Entries of the ledger. -/
def ledgerSize : Nat := 16384

/-- Ledger entry `i`. -/
def State.entry (s : State) (i : Nat) : LedgerEntry := mget LedgerEntry.init s.serving.ledger i

/-- Replacing ledger entry `i`. -/
def State.setEntry (s : State) (i : Nat) (e : LedgerEntry) : State :=
  { s with serving := { s.serving with ledger := mset LedgerEntry.init s.serving.ledger i e } }

/-- The 64 bytes of an entry (Table 9.2). -/
def LedgerEntry.encode (e : LedgerEntry) : List Byte :=
  leBytes 1 (e.state.code + 16 * e.group.toNat)
  ++ leBytes 1 (natOfBool e.gen + 2 * natOfBool e.cpcUse + 4 * natOfBool e.cpcIns + 8 * natOfBool e.prompt
      + 16 * natOfBool e.cancelP + 32 * natOfBool e.pauseP + 64 * natOfBool e.late + 128 * natOfBool e.apx)
  ++ leBytes 2 e.tenant.toNat ++ leBytes 2 e.epoch.toNat ++ [e.prio, e.gslot]
  ++ leBytes 4 e.len.toNat ++ leBytes 4 e.pending.toNat ++ leBytes 4 e.limit.toNat
  ++ leBytes 3 e.npages.toNat ++ [e.hold] ++ leBytes 4 e.plist.toNat ++ leBytes 3 e.pcap.toNat ++ [0]
  ++ leBytes 8 e.deadline.toNat ++ leBytes 8 e.expiry.toNat ++ leBytes 4 e.ns.toNat
  ++ leBytes 4 (e.inHead.toNat + 2 ^ 20 * e.chunk.toNat) ++ leBytes 8 e.chain.toNat

/-- The listed ledger indices, ascending. -/
def State.entries (s : State) : List Nat := s.serving.ledger.map (·.1)

/-- Whether an entry is not FREE. -/
def LedgerEntry.used (e : LedgerEntry) : Bool := e.state != .free

/-- LEDGER_STAT.used. -/
def State.ledgerUsed (s : State) : Nat := (s.serving.ledger.filter fun e => e.2.used).length

/-! ### Events and refusals -/

/-- Reporting an event of an entry (Table 9.12, R384); `slot` for a graft record. -/
def State.event (s : State) (code slot index epoch value : Nat) : State :=
  let e : Event := { code := BitVec.ofNat 8 code, slot := BitVec.ofNat 8 slot, index := BitVec.ofNat 16 index, epoch := BitVec.ofNat 16 epoch, step := if s.step.taken then s.step.num else 0, value := BitVec.ofNat 64 value }
  { s with serving := { s.serving with events := s.serving.events ++ [e] } }

/-- Refusing a command (R231): SRV_REFUSE and event 0x02 with the cause. -/
def State.refuseCmd (s : State) (index epoch slot cause : Nat) : State :=
  (s.bump Reg.srvRefuse 1).event 0x02 slot index epoch cause

/-- Refusing a command whose entry is in a state that does not accept it, where Table 9.5 has no cause for that state: the
cause is a free value. DESIGN CHOICE, safe: log entry 75. -/
def State.refuseState (s : State) (index epoch : Nat) : State :=
  (s.draw 8).2.refuseCmd index epoch 0 (s.draw 8).1.toNat

/-! ### Pages -/

/-- A page table entry (Table 9.8). -/
structure Pte where
  valid : Bool
  resident : Bool
  dvalid : Bool
  cpc : Bool
  chold : Bool
  fill : Nat
  refs : Nat
  repoch : Nat
  tenant : Nat
  crec : Nat
  deriving DecidableEq, Repr

/-- A page table entry from its 128 bits. -/
def pteOf (x : Nat) : Pte :=
  { valid := bitOf x 0, resident := bitOf x 2, dvalid := bitOf x 3, cpc := bitOf x 4, chold := bitOf x 5,
    fill := bitsOf x 12 8, refs := bitsOf x 31 16, repoch := bitsOf x 63 32, tenant := bitsOf x 75 64,
    crec := bitsOf x 127 96 }

/-- The 16 bytes of a page table entry; the shared bit repeats refs ≥ 2. -/
def Pte.bytes (e : Pte) : List Byte :=
  leBytes 4 (natOfBool e.valid + 2 * natOfBool (decide (e.refs ≥ 2)) + 4 * natOfBool e.resident + 8 * natOfBool e.dvalid
    + 16 * natOfBool e.cpc + 32 * natOfBool e.chold + 2 ^ 8 * (e.fill % 32) + 2 ^ 16 * (e.refs % 2 ^ 16))
  ++ leBytes 4 e.repoch ++ leBytes 4 (e.tenant % 4096) ++ leBytes 4 e.crec

/-- "No coppice record", or "no parent page" (Tables 9.8 and 9.9). -/
def noRecord : Nat := 0xFFFFFFFF

/-- The page table entry of page `p`. -/
def State.getPte (s : State) (p : Nat) : Pte := pteOf (s.pte p)

/-- Writing the page table entry of page `p`. -/
def State.setPte (s : State) (p : Nat) (e : Pte) : State := s.devWrite (s.pteAddr p) e.bytes

/-- SRV_FREE: pages on the free list (R238). -/
def State.freePages (s : State) : Nat := s.serving.freed.length + (s.pageCount - s.serving.freeNext)

/-- The page at the top of the free list, and the list without it (R238). -/
def State.popPage (s : State) : Option (Nat × State) :=
  match s.serving.freed with
  | p :: ps => some (p, { s with serving := { s.serving with freed := ps } })
  | [] =>
    if s.serving.freeNext < s.pageCount then
      some (s.serving.freeNext, { s with serving := { s.serving with freeNext := s.serving.freeNext + 1 } })
    else none

/-- Mapping the granule of a page (R315). -/
def State.mapPage (s : State) (p : Nat) : State :=
  match s.mem.granuleAt (s.pageAddr p) with
  | some (k, r, i) => s.mapGranule k r i false
  | none => s

/-- Unmapping the granule of a page (R315). -/
def State.unmapPage (s : State) (p : Nat) : State :=
  match s.mem.granuleAt (s.pageAddr p) with
  | some (k, r, i) => s.unmapGranule k r i
  | none => s

/-- Allocating a page for a tenant (R233, R235, R255): refs 1, no digest, no coppice record; repoch stays as it stood. -/
def State.allocPage (s : State) (tenant fill : Nat) (resident : Bool) : Option (Nat × State) :=
  match s.popPage with
  | none => none
  | some (p, s1) =>
    let e : Pte := { valid := true, resident, dvalid := false, cpc := false, chold := false, fill, refs := 1, repoch := (s1.getPte p).repoch, tenant, crec := noRecord }
    let slots := s1.serving.slot15.filter fun x => x.page ≠ p
    some (p, ({ s1 with serving := { s1.serving with slot15 := slots } }.mapPage p).setPte p e)

/-- Adding to the references of a page. -/
def State.addRef (s : State) (p : Nat) : State :=
  let e := s.getPte p
  s.setPte p { e with refs := e.refs + 1 }

/-- Taking a reference of a page. -/
def State.dropRef (s : State) (p : Nat) : State :=
  let e := s.getPte p
  s.setPte p { e with refs := e.refs - 1 }

/-- Registering a reader of a page (R239). -/
def State.readerOn (s : State) (p : Nat) : State := s.setPte p { s.getPte p with repoch := s.serving.epoch.toNat }

/-- The address of word `i` of an entry's page list. -/
def State.listAddr (s : State) (e : LedgerEntry) (i : Nat) : Nat :=
  s.base48 Reg.srvPlistBaseLo + 64 * e.plist.toNat + 4 * i

/-- The page that word `i` of an entry's page list names. -/
def State.listPage (s : State) (e : LedgerEntry) (i : Nat) : Nat := s.devNat (s.listAddr e i) 4 % 2 ^ 24

/-- Writing a word of a page list. -/
def State.setListPage (s : State) (e : LedgerEntry) (i p : Nat) : State := s.devWrite (s.listAddr e i) (leBytes 4 p)

/-- The pages of an entry's list, in list order. -/
def State.listPages (s : State) (e : LedgerEntry) : List Nat := (List.range e.npages.toNat).map (s.listPage e)

/-- Appending a page to an entry's list. -/
def State.appendPage (s : State) (i p : Nat) : State :=
  let e := s.entry i
  (s.setListPage e e.npages.toNat p).setEntry i { e with npages := e.npages + 1 }

/-! ### Input rings -/

/-- Tokens of an input ring. -/
def State.ringCap (s : State) : Nat := 2 ^ s.field Reg.srvIn 4 0

/-- The address of ring position `pos` of entry `i` (Table 9.15). -/
def State.ringAddr (s : State) (i pos : Nat) : Nat :=
  s.base48 Reg.srvInBaseLo + 4 * i * s.ringCap + 4 * (pos % s.ringCap)

/-- `n` tokens of an entry's ring from a position. -/
def State.ringTokens (s : State) (i pos n : Nat) : List Nat := (List.range n).map fun k => s.devNat (s.ringAddr i (pos + k)) 4

/-- Writing tokens to an entry's ring from a position. -/
def putTokens (i : Nat) : Nat → List Nat → State → State
  | _, [], s => s
  | pos, t :: ts, s => putTokens i (pos + 1) ts (s.devWrite (s.ringAddr i pos) (leBytes 4 t))

/-! ### The coppice -/

/-- The seed of a request (R241). -/
def seedOf (ns : Word) (tenant : BitVec 12) : Nat := if ns.getLsbD 31 then ns.toNat else ns.toNat + 2 ^ 32 * tenant.toNat

/-- The hash of a page whose predecessor has hash `h` (R241). -/
def pageHash (h : Nat) (toks : List Nat) : Nat := crc64 (leBytes 8 h ++ toks.flatMap (leBytes 4))

/-- The first record of the bucket of a hash (R242). -/
def State.bucket (s : State) (h : Nat) : Nat := 4 * (h % 2 ^ s.field Reg.srvCpc 4 0)

/-- The address of a coppice record (R242). -/
def State.recAddr (s : State) (r : Nat) : Nat := s.base48 Reg.srvCpcBaseLo + 128 * r

/-- The tenant field of a record of a request (Table 9.9). -/
def recTenant (ns : Word) (tenant : BitVec 12) : Nat := if ns.getLsbD 31 then 0xFFFF else tenant.toNat

/-- The bytes of a coppice record (Table 9.9). -/
def recordBytes (h : Nat) (ns : Word) (tenant : BitVec 12) (page parent iepoch : Nat) (toks : List Nat) : List Byte :=
  leBytes 8 h ++ leBytes 4 ns.toNat ++ leBytes 2 (recTenant ns tenant) ++ leBytes 2 1 ++ leBytes 4 page
  ++ leBytes 4 parent ++ leBytes 4 iepoch ++ zeroBytes 36 ++ toks.flatMap (leBytes 4)

/-- Whether a record is valid. -/
def recValid (bs : List Byte) : Bool := bitOf (leAt bs 14 2) 0

/-- Whether a record is a confirmed hit (R243), up to its iepoch. -/
def recHit (bs : List Byte) (h : Nat) (ns : Word) (tenant : BitVec 12) (parent : Nat) (toks : List Nat) : Bool :=
  recValid bs && decide (leAt bs 0 8 = h) && decide (leAt bs 8 4 = ns.toNat) && decide (leAt bs 12 2 = recTenant ns tenant)
  && decide (leAt bs 20 4 = parent) && decide (sliceBytes bs 64 64 = toks.flatMap (leBytes 4))

/-- The page of a confirmed hit for a page of a request (R243). -/
def State.coppiceHit (s : State) (h : Nat) (ns : Word) (tenant : BitVec 12) (parent : Nat) (toks : List Nat) : Option Nat :=
  let rs := (List.range 4).map fun w => s.dev (s.recAddr (s.bucket h + w)) 128
  (rs.find? fun bs => recHit bs h ns tenant parent toks).map fun bs => leAt bs 16 4

/-- The page before position `i` of an entry's list, as Table 9.9 writes it. -/
def State.parentOf (s : State) (e : LedgerEntry) (i : Nat) : Nat := if i = 0 then noRecord else s.listPage e (i - 1)

/-- Making a coppice record invalid. -/
def State.dropRecord (s : State) (r : Nat) : State := s.devWrite (s.recAddr r + 14) (leBytes 2 0)

/-! ### Grafts -/

/-- Graft slot `k`. -/
def State.graft (s : State) (k : Nat) : GraftSlot := mget GraftSlot.init s.serving.grafts k

/-- Replacing graft slot `k`. -/
def State.setGraft (s : State) (k : Nat) (g : GraftSlot) : State :=
  { s with serving := { s.serving with grafts := mset GraftSlot.init s.serving.grafts k g } }

/-- The 32 bytes of a graft slot (Table 9.14). -/
def GraftSlot.encode (g : GraftSlot) : List Byte :=
  leBytes 2 g.state.toNat ++ leBytes 2 g.tenant.toNat ++ leBytes 4 g.gid.toNat ++ leBytes 2 g.ver.toNat
  ++ leBytes 2 g.rank.toNat ++ leBytes 4 g.pins.toNat ++ leBytes 6 g.addr.toNat ++ [0, 0] ++ leBytes 4 g.size.toNat
  ++ leBytes 4 g.lepoch.toNat

/-- The value of a graft event record (R384). -/
def GraftSlot.eventValue (g : GraftSlot) : Nat := g.gid.toNat + 2 ^ 32 * g.ver.toNat + 2 ^ 48 * g.tenant.toNat

/-- The slot that is CURRENT for a tenant and graft identity (R258). -/
def State.currentGraft (s : State) (tenant : BitVec 12) (gid : Word) : Option Nat :=
  (s.serving.grafts.find? fun e => e.2.state = 2 && e.2.tenant = tenant && e.2.gid = gid).map (·.1)

/-- Adding to the pins of a slot. -/
def State.pin (s : State) (k : Nat) : State := s.setGraft k { s.graft k with pins := (s.graft k).pins + 1 }

/-- Taking a pin of a slot; slot 0 is no graft. -/
def State.unpin (s : State) (k : Nat) : State :=
  if k = 0 then s else s.setGraft k { s.graft k with pins := (s.graft k).pins - 1 }

/-! ### Hints of the serving block (R312) -/

/-- Hinting the granule of a page. -/
def State.hintPage (s : State) (p kind : Nat) (hexp : DWord) : State :=
  match s.mem.granuleAt (s.pageAddr p) with
  | some (_, r, i) => s.hintGranule r i kind hexp
  | none => s

/-- Hinting the granules of pages. -/
def hintPages (kind : Nat) (hexp : DWord) : List Nat → State → State
  | [], s => s
  | p :: ps, s => hintPages kind hexp ps (s.hintPage p kind hexp)

end Sys2Proof.Machine
end

