-- ==== Sys2Proof/Machine/Records.lean ====
section
/-!
DEFINITION. Records from the host (R373 to R382): how a record is taken from its channel, the inbox, the acceptance of the
commands of Table 13.9 (R229 to R231, R377 to R380, R258, R259), acknowledgements (R375), and LOAD and REPAIR.
-/

namespace Sys2Proof.Machine

/-! ### Taking a record from its channel -/

/-- The kind of a record (Table 13.8). -/
def recKind (bs : List Byte) : Nat := leAt bs 0 2 / 16

/-- Kinds that travel from the host on a channel (Table 13.9). -/
def kindsOf (chan : Nat) : List Nat := if chan = 0 then [1, 2, 3, 4, 5, 6, 7, 8, 0xF] else [0x20, 0x21, 0x22, 0x23]

/-- Whether a record keeps Table 13.8 and its check value holds (R373, R374). -/
def recIntact (chan : Nat) (bs : List Byte) : Bool :=
  decide (16 ≤ bs.length ∧ bs.length ≤ 65552) && decide (bs.length % 8 = 0) && decide (leAt bs 4 4 = bs.length)
  && decide (leAt bs 0 2 % 16 = 1) && (kindsOf chan).contains (recKind bs)
  && decide (crc32c (patchBytes bs 12 [0, 0, 0, 0]) = leAt bs 12 4)

/-- An inbound channel. -/
def State.inChan (s : State) (c : Nat) : InChannel := s.ohmip.chans.getD c { accepted := none, failed := none, nak := false, dirty := false }

/-- Replacing an inbound channel. -/
def State.setInChan (s : State) (c : Nat) (x : InChannel) : State :=
  { s with ohmip := { s.ohmip with chans := setAt s.ohmip.chans c x } }

/-- Returning the credit of a record that has left its buffer (R370). -/
def State.returnCredit (s : State) (c : Nat) (bs : List Byte) : State :=
  { s with ohmip := { s.ohmip with returned := setAt s.ohmip.returned c (s.ohmip.returned.getD c 0 + creditUnits bs.length) } }

/-- The sequence that a channel expects next. -/
def InChannel.expects (x : InChannel) : BitVec 32 := match x.accepted with
  | some q => q + 1
  | none => 0

/-- A link data fault on Ohmip (R374, class 0x0C). -/
def State.hostLinkFault (s : State) (seq : Nat) : State :=
  (s.bump Reg.ohmLdf 1).raise { cls := 0x0C, cause := 2, detail := zeroBytes 8 ++ leBytes 4 seq }

/-- Taking a record of one row's kind from a channel (R373, R374): nothing arrives while the stream is down; an item of a
reserved kind retrains the link (Table 13.6); a record that fails its checks makes the channel wait for its sequence;
duplicates are counted; a record of another row is not taken.
DEDUCED, unsafe: log entry 76. -/
def takeRecord (chan kind : Nat) (bs : List Byte) (s : State) (k : State → State) : Out :=
  let x := s.inChan chan
  let seq := BitVec.ofNat 32 (leAt bs 8 4)
  if !s.ohmip.up then .next s
  else if s.ohmip.reserved (leAt bs 0 1 % 16) then .next s.ohmipRetrain
  else if !recIntact chan bs then
    let bad := { x with failed := some (x.failed.getD x.expects), nak := true, dirty := true }
    .next ((((s.setInChan chan bad).returnCredit chan bs).hostLinkFault (x.failed.getD x.expects).toNat))
  else if recKind bs ≠ kind then .next s
  else if x.accepted.any fun q => decide (seq.toNat ≤ q.toNat) then .next ((s.returnCredit chan bs).bump Reg.ohmDup 1)
  else if x.failed.any (· ≠ seq) then .next (s.returnCredit chan bs)
  else
    let t := s.setInChan chan { x with accepted := some seq, failed := none, dirty := true }
    .next (k { t with ohmip := { t.ohmip with discarding := false } })

/-! ### The inbox -/

/-- Whether engines can reach the device range (R433): the stacks are not in self-refresh. -/
def State.deviceUp (s : State) : Bool := decide (s.power.state.toNat < 3)

/-- Whether the serving block works (R260): enabled, configured within the limits, and awake. -/
def State.servingOn (s : State) : Bool :=
  decide (s.field Reg.srvCtl 0 0 = 1) && decide (s.pageCount ≤ 2 ^ 24) && decide (10 ≤ s.field Reg.srvCpc 4 0)
  && decide (s.field Reg.srvCpc 4 0 ≤ 20) && s.serving.ok && s.deviceUp

/-- What the serving block reads of the device range at a snapshot or a clearing (R322): the page table and the pages, the
coppice, the graft table, the page lists and input rings of entries in use, and the biases and loads of routed layers. -/
def State.servingReads (s : State) : List (Nat × Nat) :=
  if !s.servingOn then []
  else
    [(s.base48 Reg.srvPtBaseLo, 16 * s.pageCount), (s.base48 Reg.srvPageBaseLo, s.pageCount * s.pageBytes),
     (s.recAddr 0, 128 * 2 ^ s.field Reg.srvCpc 4 0), (s.base48 Reg.srvGtBaseLo, 32 * 256)]
    ++ ((s.serving.ledger.filter fun e => e.2.used).flatMap fun e =>
      [(s.listAddr e.2 0, 4 * e.2.npages.toNat), (s.base48 Reg.srvInBaseLo + 4 * e.1 * s.ringCap, 4 * s.ringCap)])
    ++ s.routing.layers.flatMap fun l =>
      [(s.base48 Reg.rteBiasBaseLo + 512 * l.layer.toNat, 512), (s.base48 Reg.rteLoadBaseLo + 1024 * l.layer.toNat, 1024)]

/-- Whether the serving block waits for a block under repair (R322). -/
def State.servingHeld (s : State) : Bool := s.mem.blocked s.servingReads

/-- Byte offsets count from the start of the record (Table 13.10). -/
def cmdIndex (bs : List Byte) : Nat := leAt bs 16 2
/-- The entry epoch that a command names. -/
def cmdEpoch (bs : List Byte) : Nat := leAt bs 18 2

/-- Whether a command applies at snapshots alone (R52): all but CANCEL and PAUSE. -/
def atSnapshot (kind : Nat) : Bool := kind != 3 && kind != 4

/-- The step of the first clearing that is still to come (R230). -/
def State.interval (s : State) : Nat :=
  if !s.step.taken then 0 else if s.step.active then s.step.num.toNat else s.step.num.toNat + 1

/-- Whether the activation step of a command has passed when it arrives (R230). A RESUME with bundle takes effect at
clearings, as CANCEL and PAUSE do. -/
def State.actPassed (s : State) (bs : List Byte) (act : Nat) : Bool :=
  let bundle := recKind bs == 5 && bitOf (leAt bs 32 1) 0
  s.step.taken && (if atSnapshot (recKind bs) && !bundle then decide (act ≤ s.step.num.toNat) else decide (act < s.interval))

/-- A command record as it arrives (R230, R376, R377): under version 1 there is no activation step. -/
def State.arrived (s : State) (bs : List Byte) : InboxCmd :=
  let old := s.ohmip.ver == 1
  let act := if old then 0 else leAt bs 24 8
  { entered := s.ringCount, ver1 := old, act, late := !old && s.actPassed bs act, bytes := bs }

/-- The commands of an entry that have not been applied. -/
def State.cmdsOf (s : State) (i : Nat) : List PendingCmd := s.serving.cmds.filter fun c => cmdIndex c.bytes = i

/-- Whether a command of a kind waits for an entry. -/
def State.waits (s : State) (i kind : Nat) : Bool := (s.cmdsOf i).any fun c => recKind c.bytes = kind

/-- Accepted tokens of an entry that no snapshot has counted yet. -/
def State.queuedTokens (s : State) (i : Nat) : Nat :=
  ((s.cmdsOf i).map fun c => if recKind c.bytes = 2 then leAt c.bytes 40 4 else 0).sum

/-- The row of an entry in the step in progress, before its clearing. -/
def State.rowOf (s : State) (i : Nat) : Option BatchRow :=
  s.serving.batch.bind fun b => if s.step.active && !s.step.clearing then b.rows.find? fun r => r.index = i else none

/-- The ring position after the last token of an entry: while a row of pending tokens is in the step, they still count as
pending and the position has moved past them (R236, R248). -/
def State.ringTail (s : State) (i : Nat) : Nat :=
  let e := s.entry i
  let head := match s.rowOf i with
    | some r => if r.prefill then r.ring0 else e.inHead.toNat
    | none => e.inHead.toNat
  head + e.pending.toNat + s.queuedTokens i

/-- The tokens of a command from a byte offset. -/
def cmdTokens (bs : List Byte) (at_ n : Nat) : List Nat := (List.range n).map fun k => leAt bs (at_ + 4 * k) 4

/-- Keeping an accepted command for its point of application. -/
def State.keepCmd (s : State) (x : InboxCmd) : State :=
  let c : PendingCmd := { entered := x.entered, act := BitVec.ofNat 64 x.act, late := x.late, bytes := x.bytes }
  { s with serving := { s.serving with cmds := s.serving.cmds ++ [c] } }

/-- Dropping the commands of a kind of an entry that apply in the same interval as one with activation step `act` (R230).
DEDUCED, unsafe: log entry 81. -/
def State.dropRivals (s : State) (i kind act : Nat) : State :=
  let same := fun (c : PendingCmd) => decide (cmdIndex c.bytes = i) && decide (recKind c.bytes = kind)
    && decide (max c.act.toNat s.interval = max act s.interval)
  { s with serving := { s.serving with cmds := s.serving.cmds.filter fun c => !same c } }

/-- Whether an entry is in one of the states. -/
def LedgerEntry.isIn (e : LedgerEntry) (l : List EntryState) : Bool := l.contains e.state

/-- Whether a command names an entry that does not exist (R377), has another epoch (R229), or is SEALING or RESTORING
(Table 9.5): the cause of refusal. -/
def State.tagCause (s : State) (bs : List Byte) (sealedToo : Bool) : Option Nat :=
  let e := s.entry (cmdIndex bs)
  if cmdIndex bs ≥ ledgerSize then some 0x01
  else if e.epoch.toNat ≠ cmdEpoch bs then some 0x02
  else if sealedToo && e.isIn [.sealing, .restoring] then some 0x0B
  else none

/-- Refusing a command under its own tag. -/
def State.refuseTag (s : State) (bs : List Byte) (cause : Nat) : State :=
  let i := cmdIndex bs
  s.refuseCmd i (if i < ledgerSize then (s.entry i).epoch.toNat else cmdEpoch bs) 0 cause

/-! ### Commands of requests -/

/-- The cause for which an ADMIT is refused at acceptance (R231, R377, R378). -/
def State.admitCause (s : State) (bs : List Byte) : Option Nat :=
  let i := cmdIndex bs
  let n := leAt bs 72 4
  if i ≥ ledgerSize then some 0x01
  else if (s.entry i).state ≠ .free || s.waits i 1 then some 0x01
  else if leAt bs 44 2 % 4096 = 0 then some 0x06
  else if bitOf (leAt bs 32 1) 7 && n != 0 then some 0x07
  else if n > s.ringCap then some 0x06
  else if leAt bs 64 4 % 2 ^ 24 < ceilDiv n 16 then some 0x08
  else none

/-- Accepting an ADMIT (R377): its tokens enter the ring. DEDUCED, unsafe: log entry 80. -/
def State.acceptAdmit (s : State) (x : InboxCmd) : State :=
  let bs := x.bytes
  match s.admitCause bs with
  | some c => s.refuseTag bs c
  | none => (putTokens (cmdIndex bs) 0 (cmdTokens bs 80 (leAt bs 72 4)) s).keepCmd x

/-- Accepting an APPEND (R377, R378). -/
def State.acceptAppend (s : State) (x : InboxCmd) : State :=
  let bs := x.bytes
  let i := cmdIndex bs
  let e := s.entry i
  let n := leAt bs 40 4
  match s.tagCause bs true with
  | some c => s.refuseTag bs c
  | none =>
    if !e.isIn [.live, .held, .paused] then s.refuseState i e.epoch.toNat
    else if n = 0 || decide (e.pending.toNat + s.queuedTokens i + n > s.ringCap) then s.refuseTag bs 0x06
    else (putTokens i (s.ringTail i) (cmdTokens bs 48 n) s).keepCmd x

/-- Accepting a CANCEL (Table 9.4). -/
def State.acceptCancel (s : State) (x : InboxCmd) : State :=
  let bs := x.bytes
  let i := cmdIndex bs
  match s.tagCause bs false with
  | some c => s.refuseTag bs c
  | none => if (s.entry i).isIn [.free, .releasing] then s.refuseState i (s.entry i).epoch.toNat else s.keepCmd x

/-- Accepting a PAUSE (Table 9.4, R230). -/
def State.acceptPause (s : State) (x : InboxCmd) : State :=
  let bs := x.bytes
  let i := cmdIndex bs
  let e := s.entry i
  match s.tagCause bs true with
  | some c => s.refuseTag bs c
  | none =>
    if e.isIn [.live, .held] || (e.state == .paused && s.waits i 5) then
      (s.dropRivals i 5 x.act).keepCmd x
    else s.refuseState i e.epoch.toNat

/-- A restore starts (R255, Table 9.3): the entry is RESTORING at acceptance. -/
def State.startRestore (s : State) (x : InboxCmd) : State :=
  let bs := x.bytes
  let i := cmdIndex bs
  let f := leAt bs 32 1
  let r : RestoreRun :=
    { index := i, repin := bitOf f 1, setGrp := if bitOf f 2 then some (BitVec.ofNat 4 (f / 16)) else none,
      deadline := BitVec.ofNat 64 (leAt bs 40 8), ident := BitVec.ofNat 32 (leAt bs 48 4),
      act := BitVec.ofNat 64 x.act, late := x.late, bytes := [], used := 0, segs := 0, content := [], placed := none, left := 0,
      fresh := [], version := none, exact := true, ended := none }
  let s1 := s.setEntry i { LedgerEntry.init with state := .restoring, epoch := (s.entry i).epoch }
  { s1 with serving := { s1.serving with restores := s1.serving.restores ++ [r] } }

/-- Accepting a RESUME (Table 9.4, R230, R255, R378). -/
def State.acceptResume (s : State) (x : InboxCmd) : State :=
  let bs := x.bytes
  let i := cmdIndex bs
  let e := s.entry i
  if bitOf (leAt bs 32 1) 0 then
    if i ≥ ledgerSize then s.refuseTag bs 0x01
    else if x.ver1 then s.refuseTag bs 0x04
    else if e.state ≠ .free || s.waits i 1 then s.refuseTag bs 0x01
    else s.startRestore x
  else
    match s.tagCause bs true with
    | some c => s.refuseTag bs c
    | none =>
      if e.isIn [.held, .paused] || s.waits i 4 then (s.dropRivals i 4 x.act).keepCmd x
      else s.refuseState i e.epoch.toNat

/-! ### Graft and Warden commands -/

/-- Refusing a graft record: the event names the slot (R251, R259). -/
def State.refuseSlot (s : State) (slot cause : Nat) : State := s.refuseCmd 0xFFFF 0 slot cause

/-- A LOAD_GRAFT that loads (R258, R379). -/
def State.acceptLoadGraft (s : State) (bs : List Byte) : State :=
  let k := leAt bs 16 1
  if k = 0 || (s.graft k).state ≠ 0 then s.refuseSlot k 0x09
  else s.setGraft k
    { GraftSlot.init with
      state := 1, rank := BitVec.ofNat 4 (leAt bs 17 1), tenant := BitVec.ofNat 12 (leAt bs 18 2),
      gid := BitVec.ofNat 32 (leAt bs 20 4), ver := BitVec.ofNat 16 (leAt bs 24 2), addr := BitVec.ofNat 48 (leAt bs 32 6),
      size := BitVec.ofNat 32 (leAt bs 40 4), lastData := s.ringCount }

/-- A LOAD_GRAFT with abort = 1 (R259, R379): the slot returns to FREE at the next clearing. -/
def State.acceptGraftAbort (s : State) (bs : List Byte) : State :=
  let k := leAt bs 16 1
  if k = 0 || (s.graft k).state ≠ 1 then s.refuseSlot k 0x09 else s.setGraft k { s.graft k with aborted := true }

/-- Whether a grove is a batch grove: the power class of a plot with a glade in it (R410, Table 14.4). -/
def State.groveBatch (s : State) (gv : Nat) : Bool :=
  match s.glades.find? fun e => e.2.inService && decide (groveOf e.1 = gv) with
  | some e => decide ((s.plot e.2.plot.toNat).pclass = 1)
  | none => false

/-- The groves of a mask. -/
def grovesIn (mask : Nat) : List Nat := (List.range 16).filter fun g => bitOf mask g

/-- The preset of a demand (R423). -/
def presetOf (u : Nat) : Nat := ((List.range 8).find? fun k => decide (u * (8 - k) ≤ 2048)).getD 7

/-- A PHASE_HINT enters the hint table (R423, R424); one with a batch grove in its mask counts, its other bits stand.
DEDUCED, unsafe: log entry 161. -/
def State.acceptHint (s : State) (bs : List Byte) : State :=
  let b := leAt bs 32 8
  let d := leAt bs 40 4
  let m := leAt bs 44 2
  let s1 := if (grovesIn m).any s.groveBatch then s.bump Reg.wardenHdrop 1 else s
  if b + d ≤ s.rt || s.power.hints.length ≥ 64 then s1.bump Reg.wardenHdrop 1
  else
    let h : Hint := { start := BitVec.ofNat 64 b, dur := BitVec.ofNat 32 d, mask := BitVec.ofNat 16 m, preset := BitVec.ofNat 3 (presetOf (leAt bs 46 1)), id := BitVec.ofNat 8 (leAt bs 47 1) }
    { s1 with power := { s1.power with hints := s1.power.hints ++ [h] } }

/-- An OP_POINT waits for its period (R425); one with an interactive grove in its mask counts, its other bits stand.
DEDUCED, unsafe: log entry 161. -/
def State.acceptOpPoint (s : State) (bs : List Byte) : State :=
  let m := leAt bs 40 2
  let s1 := if (grovesIn m).any fun g => !s.groveBatch g then s.bump Reg.wardenHdrop 1 else s
  let mine := (grovesIn m).filter s.groveBatch
  if mine.isEmpty then s1
  else
    let w : OpWait := { at_ := BitVec.ofNat 64 (leAt bs 32 8), mask := BitVec.ofNat 16 ((mine.map fun g => 2 ^ g).sum), op := BitVec.ofNat 3 (leAt bs 42 1), id := BitVec.ofNat 8 (leAt bs 43 1) }
    { s1 with power := { s1.power with opWaits := s1.power.opWaits ++ [w] } }

/-- Processing one command record (R376): its credit returns. -/
def State.processCmd (s : State) (x : InboxCmd) : State :=
  let bs := x.bytes
  let s := s.returnCredit 0 bs
  match recKind bs with
  | 1 => s.acceptAdmit x
  | 2 => s.acceptAppend x
  | 3 => s.acceptCancel x
  | 4 => s.acceptPause x
  | 5 => s.acceptResume x
  | 6 => if bitOf (leAt bs 17 1) 7 then s.acceptGraftAbort bs else s.acceptLoadGraft bs
  | 7 => s.acceptHint bs
  | 8 => s.acceptOpPoint bs
  | _ => s

/-- Processing commands in order. -/
def processAll : List InboxCmd → State → State
  | [], s => s
  | c :: cs, s => processAll cs (s.processCmd c)

/-- Processing the inbox while the serving block works (R376). -/
def State.drainInbox (s : State) : State :=
  if s.servingOn then processAll s.ohmip.inbox { s with ohmip := { s.ohmip with inbox := [] } } else s

/-- A command record enters the inbox (R376). DEDUCED, unsafe: log entry 74. -/
def State.enterInbox (s : State) (bs : List Byte) : State :=
  let s1 := { s with ohmip := { s.ohmip with inbox := s.ohmip.inbox ++ [s.arrived bs] } }
  (s1.bump Reg.ohmCmd 1).drainInbox

/-- A command row of channel 0. -/
def commandRow (kind : Nat) (bs : List Byte) (s : State) : Out := takeRecord 0 kind bs s fun t => t.enterInbox bs

/-- ADMIT (R377). -/
def execAdmitReq (rec : List Byte) (s : State) : Out := commandRow 1 rec s
/-- APPEND (R377). -/
def execAppendReq (rec : List Byte) (s : State) : Out := commandRow 2 rec s
/-- CANCEL (R230). -/
def execCancelReq (rec : List Byte) (s : State) : Out := commandRow 3 rec s
/-- PAUSE (R253). -/
def execPauseReq (rec : List Byte) (s : State) : Out := commandRow 4 rec s
/-- RESUME (R255). -/
def execResumeReq (rec : List Byte) (s : State) : Out := commandRow 5 rec s
/-- LOAD_GRAFT with abort = 0 (R258, R379); a record with abort = 1 is the other row's. -/
def execLoadGraft (rec : List Byte) (s : State) : Out :=
  if recIntact 0 rec && recKind rec == 6 && bitOf (leAt rec 17 1) 7 then .next s else commandRow 6 rec s
/-- LOAD_GRAFT with abort = 1 (R259, R379); a record with abort = 0 is the other row's. -/
def execLoadGraftAbort (rec : List Byte) (s : State) : Out :=
  if recIntact 0 rec && recKind rec == 6 && !bitOf (leAt rec 17 1) 7 then .next s else commandRow 6 rec s
/-- PHASE_HINT (R380, R423). -/
def execPhaseHint (rec : List Byte) (s : State) : Out := commandRow 7 rec s
/-- OP_POINT (R380, R425). -/
def execOpPoint (rec : List Byte) (s : State) : Out := commandRow 8 rec s

/-! ### Acknowledgements -/

/-- Records sent on a channel that the host has not acknowledged, after an ACK up to a sequence; 0xFFFF_FFFF is none. -/
def ackList (c last : Nat) (l : List OutRecord) : List OutRecord :=
  if last = noRecord then l else l.filter fun r => decide (r.chan ≠ c) || decide (r.seq.toNat > last)

/-- Sending records of a channel again from a sequence that the host has discarded (R374): they wait for credit like any
record, before anything new of the channel, and keep their sequences. -/
def State.resendFrom (s : State) (chan nak : Nat) : State :=
  let o := s.ohmip
  let isDue := fun (r : OutRecord) => nak ≠ noRecord && decide (r.chan = chan) && decide (nak ≤ r.seq.toNat)
  match o.sent.find? isDue with
  | none => s
  | some r => State.pump { s with ohmip := { o with
      sent := o.sent.filter fun e => !isDue e
      nextOut := setAt o.nextOut chan r.seq
      outq := ((o.sent.filter isDue).map fun e => { e with cls := 0 }) ++ o.outq } }

/-- ACK from the host (R374, R375): what it accepted is dropped, what it discarded is sent again from there. -/
def execHostAck (rec : List Byte) (s : State) : Out :=
  takeRecord 0 0xF rec s fun t =>
    let o := t.ohmip
    let kept := ackList 1 (leAt rec 20 4) (ackList 0 (leAt rec 16 4) o.sent)
    (State.resendFrom { t with ohmip := { o with sent := kept } } (leAt rec 28 1) (leAt rec 24 4)).returnCredit 0 rec

/-- A sequence as an acknowledgement or a hello states it. -/
def seqOrNone (q : Option (BitVec 32)) : Nat := match q with
  | some x => x.toNat
  | none => noRecord

/-- The last sequence that a channel acknowledges (R375): LOAD, GRAFT_DATA and REPAIR records that wait for the device
range are not accepted yet. -/
def State.lastAccepted (s : State) (c : Nat) : Option (BitVec 32) :=
  match s.ohmip.dataIn.find? fun b => recKind b ≠ 0x22 with
  | some b =>
    if c = 1 then (if leAt b 8 4 = 0 then none else some (BitVec.ofNat 32 (leAt b 8 4 - 1))) else (s.inChan c).accepted
  | none => (s.inChan c).accepted

/-- OHMIP_ACK_SEND (R374, R375): the last accepted sequences, and one discard that no acknowledgement has reported. -/
def execOhmipAckSend (s : State) : Out :=
  let c0 := s.inChan 0
  let c1 := s.inChan 1
  if s.ohmip.up && (c0.dirty || c1.dirty) then
    let nak := if c0.nak && c0.failed.isSome then (c0.failed, 0)
      else if c1.nak && c1.failed.isSome then (c1.failed, 1) else (none, 0)
    let more := c0.nak && c0.failed.isSome && c1.nak && c1.failed.isSome
    let body := leBytes 4 (seqOrNone (s.lastAccepted 0)) ++ leBytes 4 (seqOrNone (s.lastAccepted 1)) ++ leBytes 4 (seqOrNone nak.1)
      ++ leBytes 1 nak.2 ++ [0, 0, 0]
    .next (((s.setInChan 0 { c0 with nak := false, dirty := false }).setInChan 1 { c1 with nak := more, dirty := more }).hostSend
      0 0 0x00F body)
  else .next s

/-! ### Data records -/

/-- Whether two extents meet. -/
def meets (a n b m : Nat) : Bool := decide (a < b + m) && decide (b < a + n)

/-- Whether an extent meets a table of a base register; a base of zero names no table. -/
def State.onTable (s : State) (reg size a n : Nat) : Bool := s.base48 reg != 0 && meets a n (s.base48 reg) size

/-- Whether LOAD may not touch an extent while stepping (R381): bias tables, load tables, or the scout statistics, whose
extent the spec does not give and a free value decides. DESIGN CHOICE, safe: log entry 78. -/
def State.guarded (s : State) (a n : Nat) : Bool × State :=
  if s.regN Reg.stepPeriod = 0 then (false, s)
  else if s.onTable Reg.rteBiasBaseLo (512 * 1024) a n || s.onTable Reg.rteLoadBaseLo (1024 * 1024) a n then (true, s)
  else if s.base48 Reg.sctBaseLo != 0 && decide (s.base48 Reg.sctBaseLo < a + n) then s.drawBool
  else (false, s)

/-- Refusing a data record (R374, R381): a link data fault; its sequence is not accepted, and the channel waits for it.
DEDUCED, unsafe: log entry 77. -/
def State.refuseData (s : State) (bs : List Byte) : State :=
  let q := BitVec.ofNat 32 (leAt bs 8 4)
  (s.setInChan 1 { accepted := if q = 0 then none else some (q - 1), failed := some q, nak := true, dirty := true }).hostLinkFault q.toNat

/-- Applying a LOAD (R381). -/
def State.applyLoad (s : State) (bs : List Byte) : State :=
  let a := leAt bs 16 6
  let data := bs.drop 32
  let s := s.returnCredit 1 bs
  let r := s.guarded a data.length
  let fits := match s.mem.regionOf a data.length with
    | some e => decide (e.2.kind ≠ 2)
    | none => false
  if a % 8 ≠ 0 || !fits || r.1 then r.2.refuseData bs else r.2.devWriteQuiet a data

/-- Applying a REPAIR (R382, R324). -/
def State.applyRepair (s : State) (bs : List Byte) : State :=
  let s := s.returnCredit 1 bs
  let region := leAt bs 16 1
  let off := leAt bs 20 8
  if leAt bs 17 1 = 0 then s.hostCopy region off (sliceBytes bs 32 (leAt bs 28 4))
  else if s.mem.repairs.any fun e => decide (e.region = region ∧ e.off = off) then s
  else s.bump Reg.ohmDup 1

/-- Applying a GRAFT_DATA (R259, R379). -/
def State.applyGraftData (s : State) (bs : List Byte) : State :=
  let s := s.returnCredit 1 bs
  let k := leAt bs 16 1
  let g := s.graft k
  let off := leAt bs 24 8
  let data := bs.drop 32
  if k = 0 || g.state ≠ 1 || g.closed || g.aborted || g.timedOut || decide (off + data.length > 4096 * g.size.toNat) then
    s.refuseSlot k 0x09
  else
    (s.devWriteQuiet (g.addr.toNat + off) data).setGraft k
      { g with lastData := s.ringCount, received := off + data.length, closed := bitOf (leAt bs 17 1) 0 }

end Sys2Proof.Machine
end

