-- ==== Sys2Proof/Machine/Bundles.lean ====
section
/-!
DEFINITION. Sealed bundles (R254, R255, R386 to R389, R475, R477): their contents, chunks and segments, sealing one
segment at a time, restoring, and the data records of channel 1 (R381, R382, R379, R434).
-/

namespace Sys2Proof.Machine

/-! ### Contents (Table 13.12) -/

/-- A ledger entry from its 64 bytes (Table 9.2); the state is FREE. -/
def LedgerEntry.decode (bs : List Byte) : LedgerEntry :=
  let f := fun (a n : Nat) => leAt bs a n
  let fl := f 1 1
  { LedgerEntry.init with
    group := BitVec.ofNat 4 (f 0 1 / 16), gen := bitOf fl 0, cpcUse := bitOf fl 1, cpcIns := bitOf fl 2,
    prompt := bitOf fl 3, late := bitOf fl 6, apx := bitOf fl 7, tenant := BitVec.ofNat 12 (f 2 2),
    epoch := BitVec.ofNat 16 (f 4 2), prio := BitVec.ofNat 8 (f 6 1), len := BitVec.ofNat 28 (f 8 4),
    pending := BitVec.ofNat 28 (f 12 4), limit := BitVec.ofNat 28 (f 16 4), npages := BitVec.ofNat 24 (f 20 3),
    deadline := BitVec.ofNat 64 (f 32 8), ns := BitVec.ofNat 32 (f 48 4), inHead := BitVec.ofNat 20 (f 52 4),
    chunk := BitVec.ofNat 12 (f 52 4 / 2 ^ 20), chain := BitVec.ofNat 64 (f 56 8) }

/-- The instruction-set version that a bundle names: that of the lowest plot that consumes the batch. -/
def State.bundleIsa (s : State) : Byte := match s.plots.find? fun e => e.2.batch with
  | some e => e.2.isa
  | none => 0

/-- The identity part up to the graft (Table 13.12). -/
def State.identPart (s : State) : List Byte :=
  padBytes s.image.identity 64 ++ padBytes s.image.heartwood 16 ++ [s.bundleIsa, 0, 0, 0] ++ leBytes 4 (s.regN Reg.cnpPgeom)
where
  /-- The first `n` bytes, zero beyond the end. -/
  padBytes (bs : List Byte) (n : Nat) : List Byte := sliceBytes bs 0 n

/-- Slices of a page. -/
def State.pageSlices (s : State) : Nat := s.nLayer * s.nKv

/-- One page of a bundle. -/
def State.sealPage (s : State) (p : Nat) : List Byte :=
  let e := s.getPte p
  let h := if e.cpc then s.devNat (s.recAddr e.crec) 8 else 0
  leBytes 8 h ++ leBytes 1 e.fill ++ leBytes 1 (natOfBool e.dvalid) ++ zeroBytes 6
  ++ s.dev (s.pageAddr p) (s.pageSlices * sliceSize s.kvForm)
  ++ (if e.dvalid then s.dev (s.digestAddr p) (s.pageSlices * digestSize s.kvForm) else [])

/-- The 64 bytes of an entry as a bundle shows them (Table 13.12). -/
def LedgerEntry.shown (e : LedgerEntry) : List Byte :=
  { e with state := .free, hold := 0, plist := 0, pcap := 0, expiry := 0, gslot := 0 }.encode

/-- The contents of a bundle before its trailer (Table 13.12). -/
def State.sealBody (s : State) (i : Nat) (st : SealStart) : List Byte :=
  let e := s.entry i
  let g := s.graft e.gslot.toNat
  let pinned := e.gslot ≠ 0
  let toks := s.ringTokens i e.inHead.toNat e.pending.toNat ++ e.tail
  s.identPart ++ (if pinned then leBytes 4 g.gid.toNat ++ leBytes 2 g.ver.toNat ++ [1, 0] else zeroBytes 8)
  ++ st.entry ++ leBytes 2 i ++ zeroBytes 6 ++ leBytes 4 st.epoch.toNat ++ zeroBytes 4 ++ leBytes 8 st.step.toNat
  ++ padTo 8 (leBytes 4 toks.length ++ toks.flatMap (leBytes 4))
  ++ (s.listPages e).flatMap s.sealPage

/-- The trailer after some content bytes (Table 13.12). -/
def trailerOf (body : List Byte) (aborted : Bool) : List Byte :=
  leBytes 8 body.length ++ leBytes 8 (crc64 body) ++ leBytes 1 (if aborted then 2 else 1) ++ zeroBytes 7

/-! ### Chunks and segments (R386, R387) -/

/-- Bytes of content in a chunk. -/
def chunkSize : Nat := 2 ^ 20

/-- Cutting a byte string into pieces of `n` bytes. -/
def pieces (n : Nat) : Nat → List Byte → List (List Byte)
  | 0, _ => []
  | fuel + 1, bs => if bs.isEmpty then [] else bs.take n :: pieces n fuel (bs.drop n)

/-- A chunk: raw when its frame would not be shorter. -/
def chunkOf (content : List Byte) : List Byte :=
  let z := Config.zstdEncode content
  let raw := decide (z.length ≥ content.length)
  let p := if raw then content else z
  leBytes 4 (p.length + (if raw then 2 ^ 31 else 0)) ++ leBytes 4 content.length ++ p

/-- The plaintext of a segment of content. -/
def segmentText (content : List Byte) : List Byte := (pieces chunkSize (content.length / chunkSize + 1) content).flatMap chunkOf

/-- The bundle header (R386). -/
def bundleHeader (i : Nat) (tenant : BitVec 12) (st : SealStart) : List Byte :=
  leBytes 2 1 ++ [0, 0] ++ leBytes 4 st.ident.toNat ++ leBytes 2 i ++ leBytes 2 tenant.toNat ++ leBytes 4 st.version.toNat
  ++ st.iv ++ zeroBytes 36

/-- The IV of segment `k` (R386). -/
def segmentIv (iv : List Byte) (k : Nat) : List Byte := iv.take 8 ++ leBytes 4 ((leAt iv 8 4 + k) % 2 ^ 32)

/-- One sealed segment. -/
def sealSegment (key hdr iv : List Byte) (k : Nat) (content : List Byte) (last abort : Bool) : List Byte :=
  let text := segmentText content
  let sh := leBytes 4 k ++ leBytes 4 text.length ++ leBytes 1 (natOfBool last + 2 * natOfBool abort) ++ zeroBytes 7
  let r := Config.gcmSeal key (segmentIv iv k) (hdr ++ sh) text
  sh ++ r.1 ++ r.2

/-- Content of segment `k` of at most 1,024 chunks. -/
def segmentContent (content : List Byte) (k : Nat) : List Byte := (content.drop (k * 1024 * chunkSize)).take (1024 * chunkSize)

/-- Segments of some content. -/
def segmentCount (content : List Byte) : Nat := ceilDiv content.length (1024 * chunkSize)

/-! ### Sealing (R254) -/

/-- The bundle keys of a tenant, the current one first. -/
def State.bundleKeys (s : State) (tenant : BitVec 12) : List BundleKey :=
  ((s.security.tenants.find? fun t => t.tenant = tenant).map (·.bundles)).getD []

/-- The key of a version of a tenant. -/
def State.bundleKey (s : State) (tenant : BitVec 12) (v : BitVec 32) : Option BundleKey :=
  (s.bundleKeys tenant).find? fun k => k.version = v

/-- Replacing a bundle key of a tenant. -/
def State.setBundleKey (s : State) (tenant : BitVec 12) (k : BundleKey) : State :=
  let swap := fun (x : BundleKey) => if x.version = k.version then k else x
  let new := s.security.tenants.map fun t => if t.tenant = tenant then { t with bundles := t.bundles.map swap } else t
  { s with security := { s.security with tenants := new } }

/-- The seal of an entry. -/
def State.sealRun (s : State) (i : Nat) : Option SealRun := s.serving.sealRuns.find? fun r => r.index = i

/-- Replacing the seal of an entry. -/
def State.setSeal (s : State) (r : SealRun) : State :=
  { s with serving := { s.serving with sealRuns := s.serving.sealRuns.map fun x => if x.index = r.index then r else x } }

/-- Removing the seal of an entry. -/
def State.dropSeal (s : State) (i : Nat) : State :=
  { s with serving := { s.serving with sealRuns := s.serving.sealRuns.filter fun x => x.index ≠ i } }

/-- Bytes of bundle in one record: the host's largest record, at most that of Table 13.8. -/
def State.bundlePiece (s : State) : Nat := max 8 ((min s.ohmip.maxRecord 65552 - 32) / 8 * 8)

/-- Sending bundle bytes as BUNDLE_OUT records from an offset. -/
def sendBundle (i : Nat) (ident : Word) : Nat → List (List Byte) → State → State
  | _, [], s => s
  | off, b :: bs, s =>
    sendBundle i ident (off + b.length) bs
      (s.hostSend 1 0 0x043 (leBytes 4 ident.toNat ++ leBytes 2 i ++ [0, 0] ++ leBytes 8 off ++ b))

/-- Sending bundle bytes and counting them. -/
def State.sendSeal (s : State) (r : SealRun) (st : SealStart) (bs content : List Byte) : State :=
  let n := s.bundlePiece
  let s1 := s.setSeal { r with sent := r.sent + bs.length, content := r.content + content.length }
  sendBundle r.index st.ident r.sent (pieces n (bs.length / n + 1) bs) s1

/-- The IV base of a new bundle of a key (R477). -/
def State.takeIv (s : State) (tenant : BitVec 12) (k : BundleKey) : List Byte × State :=
  let d := s.drawRandom 6
  let fresh := k.count ≥ 65536
  let k1 := if fresh then { k with iv := d.1, count := 0 } else k
  let s1 := if fresh then d.2 else s
  (k1.iv ++ leBytes 2 k1.count ++ zeroBytes 4, s1.setBundleKey tenant { k1 with count := k1.count + 1 })

/-- Registering the sealing engine as a reader (R239). -/
def readPages : List Nat → State → State
  | [], s => s
  | p :: ps, s => readPages ps (s.readerOn p)

/-- Starting a bundle: its header is sent, and the start is reported with the bytes expected (R251, R254).
DESIGN CHOICE, safe: log entry 86. -/
def State.startSeal (s : State) (r : SealRun) (k : BundleKey) : State :=
  let e := s.entry r.index
  let iv := s.takeIv e.tenant k
  let d := iv.2.draw 32
  let st : SealStart := { version := k.version, iv := iv.1, ident := d.1, epoch := s.serving.epoch, step := if s.step.taken then s.step.num else 0, entry := e.shown }
  let body := d.2.sealBody r.index st
  let all := body ++ trailerOf body false
  let hdr := bundleHeader r.index e.tenant st
  let n := segmentCount all
  let segs := (List.range n).map fun j => sealSegment k.key hdr st.iv j (segmentContent all j) (decide (j + 1 = n)) false
  let r1 := { r with version := some k.version, start := some st }
  let s1 := d.2.event 0x07 0 r.index e.epoch.toNat (64 + (segs.map (·.length)).sum)
  s1.sendSeal r1 st hdr []

/-- Sending the next segment of a bundle. -/
def State.nextSegment (s : State) (r : SealRun) (st : SealStart) (k : BundleKey) : State :=
  let e := s.entry r.index
  let body := s.sealBody r.index st
  let all := body ++ trailerOf body false
  let last := decide (r.segs + 1 = segmentCount all)
  let c := segmentContent all r.segs
  let bs := sealSegment k.key (bundleHeader r.index e.tenant st) st.iv r.segs c last false
  (readPages (s.listPages e) s).sendSeal { r with segs := r.segs + 1, done := last } st bs c

/-- SEAL_BUNDLE (R254, R378): one unit of the sealing engine's work on an entry; it waits for a key and for the stream, and while
what it reads lies in a block under repair (R322). -/
def execSealBundle (index : BitVec 14) (s : State) : Out :=
  let i := index.toNat
  let e := s.entry i
  match s.sealRun i with
  | none => .next s
  | some r =>
    let es := (s.listAddr e 0, 4 * e.npages.toNat) :: (s.listPages e).map fun p => (s.pageAddr p, s.pageBytes)
    if e.state ≠ .sealing || r.done || !s.deviceUp then .next s
    else if s.mem.blocked es then .next (s.whenReadable none es s)
    else
      let key := match r.version with
        | some v => s.bundleKey e.tenant v
        | none => (s.bundleKeys e.tenant).head?
      let down := !s.ohmip.up || s.ohmip.ver == 1
      let s1 := if key.isNone && !r.blockedKey then s.event 0x09 0 i e.epoch.toNat 1 else s
      let s2 := if down && !r.blockedLink then s1.event 0x09 0 i e.epoch.toNat 2 else s1
      let r1 := { r with blockedKey := r.blockedKey || key.isNone, blockedLink := r.blockedLink || down }
      match key, down with
      | some k, false =>
        match r.start with
        | none => .next (s2.startSeal r1 k)
        | some st => .next (s2.nextSegment r1 st k)
      | _, _ => .next (s2.setSeal r1)

/-- Ending a bundle in progress with an abort trailer (R254, R388). -/
def State.abortSeal (s : State) (i : Nat) : State :=
  match s.sealRun i with
  | none => s
  | some r =>
    let s1 := match r.start with
      | some st =>
        let e := s.entry i
        match s.bundleKey e.tenant st.version with
        | some k =>
          if r.done then s
          else
            let sentBody := (s.sealBody i st).take r.content
            let t := trailerOf sentBody true
            s.sendSeal r st (sealSegment k.key (bundleHeader i e.tenant st) st.iv r.segs t true true) t
        | none => s
      | none => s
    s1.dropSeal i

/-- Whether the last byte of a bundle has gone to Ohmip (Table 9.3). -/
def State.sealSent (s : State) (r : SealRun) : Bool :=
  match r.start with
  | some st =>
    r.done && !s.ohmip.outq.any fun o => decide (recKind o.bytes = 0x043) && decide (leAt o.bytes 16 4 = st.ident.toNat)
      && decide (leAt o.bytes 20 2 = r.index)
  | none => false

/-! ### Restoring (R255, R389) -/

/-- The restore of an entry. -/
def State.restoreRun (s : State) (i : Nat) : Option RestoreRun := s.serving.restores.find? fun r => r.index = i

/-- Replacing the restore of an entry. -/
def State.setRestore (s : State) (r : RestoreRun) : State :=
  { s with serving := { s.serving with restores := s.serving.restores.map fun x => if x.index = r.index then r else x } }

/-- Failing a restore with a cause of refusal (R389). -/
def State.failRestore (s : State) (r : RestoreRun) (cause : Nat) : State :=
  (s.setRestore { r with ended := some false }).refuseCmd r.index (s.entry r.index).epoch.toNat 0 cause

/-- The contents of a run of chunks of a segment; none where one breaks R387: a chunk of less than 1 MiB is the remainder at
the end of the last segment. -/
def readChunks (last : Bool) : Nat → List Byte → Option (List Byte)
  | 0, bs => if bs.isEmpty then some [] else none
  | fuel + 1, bs =>
    if bs.isEmpty then some []
    else
      let h := leAt bs 0 4
      let n := h % 2 ^ 31
      let want := leAt bs 4 4
      let p := (bs.drop 8).take n
      let c := if bitOf h 31 then some p else Config.zstdDecode p
      match c with
      | some c =>
        let end_ := last && decide (bs.length = 8 + n)
        if bs.length < 8 + n || c.length ≠ want || want > chunkSize || (want ≠ chunkSize && !end_) then none
        else (readChunks last fuel (bs.drop (8 + n))).map (c ++ ·)
      | none => none

/-- The place of a graft that a bundle names (R258): the slot to pin and whether the resume is exact, or a cause. -/
def State.restoreGraft (s : State) (r : RestoreRun) (tenant : BitVec 12) (gid : Word) (ver : BitVec 16) : Nat ⊕ (Nat × Bool) :=
  match s.serving.grafts.find? fun e => (e.2.state = 2 || e.2.state = 3) && e.2.tenant = tenant && e.2.gid = gid && e.2.ver = ver with
  | some e => .inr (e.1, true)
  | none =>
    if r.repin then
      match s.currentGraft tenant gid with
      | some k => .inr (k, false)
      | none => .inl 0x03
    else .inl 0x05

/-- The page that stands in for a bundled copy (R255): a record whose hash, seed, tenant and parent are the request's. A
bundle does not carry the tokens that R243 compares as well. -/
def State.restoreHit (s : State) (e : LedgerEntry) (h parent : Nat) : Option Nat :=
  let ok := fun (bs : List Byte) => recValid bs && decide (leAt bs 0 8 = h) && decide (leAt bs 8 4 = e.ns.toNat)
    && decide (leAt bs 12 2 = recTenant e.ns e.tenant) && decide (leAt bs 20 4 = parent)
  (((List.range 4).map fun w => s.dev (s.recAddr (s.bucket h + w)) 128).find? ok).map fun bs => leAt bs 16 4

/-- Restoring the next page of an entry from contents that begin with its header (R255): a confirmed hit stands in for it, or
a page is allocated and written, not resident; false where no page is free. -/
def State.restorePage (s : State) (r : RestoreRun) (bs : List Byte) (body dig : Nat) : Bool × State :=
  let i := r.index
  let e := s.entry i
  let h := leAt bs 0 8
  let hit := if h = 0 then none else s.restoreHit e h (s.parentOf e e.npages.toNat)
  match hit with
  | some p => (true, (((s.readerOn p).addRef p).appendPage i p).setRestore r)
  | none =>
    match s.allocPage e.tenant.toNat (leAt bs 8 1) false with
    | none => (false, s)
    | some (p, s1) =>
      let s2 := s1.devWrite (s1.pageAddr p) ((bs.drop 16).take body)
      let s3 := if dig = 0 then s2 else s2.devWrite (s2.digestAddr p) ((bs.drop (16 + body)).take dig)
      let s4 := s3.setPte p { s3.getPte p with dvalid := bitOf (leAt bs 9 1) 0 }
      (true, (s4.appendPage i p).setRestore { r with fresh := r.fresh ++ [p] })

/-- Writing the pages of an entry, in list order, whose contents have come whole (R389). -/
def placePages (i : Nat) : Nat → State → State
  | 0, s => s
  | fuel + 1, s =>
    match s.restoreRun i with
    | none => s
    | some r =>
      match r.placed with
      | none => s
      | some at_ =>
        let bs := r.content.drop at_
        let body := s.pageSlices * sliceSize s.kvForm
        let dig := if bitOf (leAt bs 9 1) 0 then s.pageSlices * digestSize s.kvForm else 0
        if r.left = 0 || bs.length < 16 + body + dig then s
        else
          let p := s.restorePage { r with placed := some (at_ + 16 + body + dig), left := r.left - 1 } bs body dig
          if p.1 then placePages i fuel p.2
          else (p.2.setRestore { r with ended := some false }).refuseState i (s.entry i).epoch.toNat

/-- The bytes of contents before the page part: the identity, the entry, the step and the input of Table 13.12. -/
def headLength (body : List Byte) : Nat := 184 + (4 + 4 * leAt body 184 4 + 7) / 8 * 8

/-- Rebuilding an entry from the contents before the page part (R255): its identity, fields, graft and tokens. -/
def State.rebuild (s : State) (r : RestoreRun) (body : List Byte) : State :=
  let i := r.index
  let e0 := LedgerEntry.decode (sliceBytes body 96 64)
  let graft := if bitOf (leAt body 94 1) 0 then
      s.restoreGraft r e0.tenant (BitVec.ofNat 32 (leAt body 88 4)) (BitVec.ofNat 16 (leAt body 92 2))
    else .inr (0, true)
  if sliceBytes body 0 88 ≠ s.identPart then s.failRestore r 0x04
  else match graft with
  | .inl c => s.failRestore r c
  | .inr (slot, exact) =>
    let pl := s.draw 32
    let pc := pl.2.draw 24
    let toks := cmdTokens body 188 (leAt body 184 4)
    let e : LedgerEntry := { e0 with
      state := .restoring, epoch := (s.entry i).epoch, gslot := BitVec.ofNat 8 slot, npages := 0, plist := pl.1, pcap := pc.1,
      first := true, group := r.setGrp.getD e0.group, deadline := if r.deadline = 0 then e0.deadline else r.deadline,
      late := e0.late && decide (r.deadline = 0), tail := toks.drop e0.pending.toNat }
    let s1 := (if slot = 0 then pc.2 else pc.2.pin slot).setEntry i e
    let s2 := putTokens i e.inHead.toNat (toks.take e0.pending.toNat) s1
    s2.setRestore { r with placed := some (headLength body), left := e0.npages.toNat, exact := exact }

/-- Rebuilding the entry, and writing pages, as far as the contents that have come allow (R255, R389). -/
def State.place (s : State) (i : Nat) : State :=
  match s.restoreRun i with
  | none => s
  | some r =>
    let head := r.placed.isNone && decide (188 ≤ r.content.length) && decide (headLength r.content ≤ r.content.length)
    let s1 := if head then s.rebuild r r.content else s
    placePages i (r.content.length / 16 + 1) s1

/-- Making pages resident. -/
def makeResident : List Nat → State → State
  | [], s => s
  | p :: ps, s => makeResident ps (s.setPte p { s.getPte p with resident := true })

/-- The end of a bundle (R255, R389): with its trailer right and every page in place, the pages are resident. -/
def State.finishRestore (s : State) (r : RestoreRun) (abort : Bool) : State :=
  let n := r.content.length
  let t := r.content.drop (n - 24)
  let body := r.content.take (n - 24)
  if abort || decide (n < 24 + 188) || r.placed ≠ some (n - 24) || r.left ≠ 0 || decide (leAt t 0 8 ≠ body.length)
      || decide (leAt t 8 8 ≠ crc64 body) || leAt t 16 1 % 4 != 1 then
    s.failRestore r 0x04
  else (makeResident r.fresh s).setRestore { r with ended := some true }

/-- Decrypting the segments that have come whole (R389). -/
def takeSegments (i : Nat) : Nat → State → State
  | 0, s => s
  | fuel + 1, s =>
    match s.restoreRun i with
    | none => s
    | some r =>
      let hdr := r.bytes.take 64
      let at_ := r.bytes.drop r.used
      let sh := at_.take 16
      let len := leAt sh 4 4
      if r.ended.isSome || at_.length < 16 || at_.length < 32 + len then s
      else
        let tenant := BitVec.ofNat 12 (leAt hdr 10 2)
        match s.bundleKey tenant (BitVec.ofNat 32 (leAt hdr 12 4)) with
        | none => s.failRestore r 0x04
        | some k =>
          let text := if leAt sh 0 4 = r.segs then
              Config.gcmOpen k.key (segmentIv (sliceBytes hdr 16 12) r.segs) (hdr ++ sh) ((at_.drop 16).take len) ((at_.drop (16 + len)).take 16)
            else none
          let fl := leAt sh 8 1
          match text.bind (readChunks (bitOf fl 0) 1024) with
          | none => s.failRestore r 0x04
          | some c =>
            let s1 := (s.setRestore { r with used := r.used + 32 + len, segs := r.segs + 1, content := r.content ++ c }).place i
            match s1.restoreRun i with
            | none => s1
            | some r1 => if bitOf fl 0 && r1.ended.isNone then s1.finishRestore r1 (bitOf fl 1) else takeSegments i fuel s1

/-- The bundle header has come whole (R386, R475): format, identity and key version. -/
def State.takeHeader (s : State) (r : RestoreRun) : State :=
  let hdr := r.bytes.take 64
  let tenant := BitVec.ofNat 12 (leAt hdr 10 2)
  let v := BitVec.ofNat 32 (leAt hdr 12 4)
  if leAt hdr 0 2 ≠ 1 || leAt hdr 4 4 ≠ r.ident.toNat || (s.bundleKey tenant v).isNone then s.failRestore r 0x04
  else (s.setRestore { r with used := 64, version := some v }).setEntry r.index { s.entry r.index with tenant := tenant }

/-- Applying a BUNDLE_IN (R389): bundle bytes in order, for a RESTORING entry. -/
def State.applyBundle (s : State) (bs : List Byte) : State :=
  let s := s.returnCredit 1 bs
  let i := leAt bs 20 2
  match s.restoreRun i with
  | none => s
  | some r =>
    if r.ended.isSome || leAt bs 16 4 ≠ r.ident.toNat || leAt bs 24 8 ≠ r.bytes.length then s
    else
      let r1 := { r with bytes := r.bytes ++ bs.drop 32 }
      let s1 := s.setRestore r1
      let s2 := if r1.used = 0 && decide (64 ≤ r1.bytes.length) then s1.takeHeader r1 else s1
      match s2.restoreRun i with
      | some r2 => if r2.used = 0 then s2 else takeSegments i (r2.bytes.length / 32 + 1) s2
      | none => s2

/-! ### Data records -/

/-- Applying one data record. -/
def State.applyData (s : State) (bs : List Byte) : State :=
  match recKind bs with
  | 0x20 => s.applyLoad bs
  | 0x21 => s.applyGraftData bs
  | 0x22 => s.applyBundle bs
  | 0x23 => s.applyRepair bs
  | _ => s

/-- Applying data records in order; those from a refused one on are discarded (R374). -/
def applyAllData : List (List Byte) → State → State
  | [], s => s
  | b :: bs, s =>
    if (s.inChan 1).failed.any fun q => decide (q.toNat ≤ leAt b 8 4) then applyAllData bs (s.returnCredit 1 b)
    else applyAllData bs (s.applyData b)

/-- Applying the data records that waited for the device range (R434). -/
def State.drainData (s : State) : State :=
  if s.deviceUp then applyAllData s.ohmip.dataIn { s with ohmip := { s.ohmip with dataIn := [] } } else s

/-- A data row of channel 1: applied in sequence order, or buffered in S3 and S4 (R434). -/
def dataRow (kind : Nat) (bs : List Byte) (s : State) : Out :=
  takeRecord 1 kind bs s fun t => State.drainData { t with ohmip := { t.ohmip with dataIn := t.ohmip.dataIn ++ [bs] } }

/-- LOAD (R381). -/
def execLoadRec (rec : List Byte) (s : State) : Out := dataRow 0x20 rec s
/-- GRAFT_DATA (R379). -/
def execGraftData (rec : List Byte) (s : State) : Out := dataRow 0x21 rec s
/-- BUNDLE_IN (R389). -/
def execBundleIn (rec : List Byte) (s : State) : Out := dataRow 0x22 rec s
/-- REPAIR (R382). -/
def execRepairRec (rec : List Byte) (s : State) : Out := dataRow 0x23 rec s

end Sys2Proof.Machine
end

