-- ==== Sys2Proof/Machine/GraftSlots.lean ====
section
/-!
DEFINITION. Graft slots (R257 to R259, R478): the check of a loaded graft, the load timeout, and what the clearing does
with the table.
-/

namespace Sys2Proof.Machine

/-- The graft statement that the signature covers (R478). -/
def GraftSlot.statement (g : GraftSlot) : List Byte :=
  leBytes 2 g.tenant.toNat ++ leBytes 4 g.gid.toNat ++ leBytes 2 g.ver.toNat ++ leBytes 1 g.rank.toNat ++ [0, 0, 0]
  ++ leBytes 4 g.size.toNat

/-- The identifier of a public key: the first bytes of its digest (R470). -/
def keyIdent (pub : List Byte) : List Byte := (Config.sha512 pub).take 4

/-- Whether the signature block at the end of a graft's data names its tenant's key and verifies (R478). -/
def State.graftSigned (s : State) (g : GraftSlot) : Bool :=
  let data := s.dev g.addr.toNat g.received
  let block := data.drop (g.received - 1024)
  match s.security.tenants.find? fun t => t.tenant = g.tenant with
  | some t =>
    decide (1024 ≤ g.received) && decide (sliceBytes block 512 4 = keyIdent t.pub)
    && Config.rsaVerify t.pub (g.statement ++ data.take (g.received - 1024)) (block.take 512)
  | none => false

/-- GRAFT_VERIFY_COMPLETE (R258, R478): a closed load is marked verified, or its slot is FREE again with cause 0x0A. Where
the check values of its blocks (R63) stand is not stated: whether they hold is a free value.
DESIGN CHOICE, safe: log entry 45. -/
def execGraftVerifyComplete (slot : BitVec 8) (s : State) : Out :=
  let k := slot.toNat
  let g := s.graft k
  if k = 0 || g.state ≠ 1 || !g.closed || g.verified || g.aborted || g.timedOut then .next s
  else if s.mem.blocked [(g.addr.toNat, g.received)] then .next (s.whenReadable none [(g.addr.toNat, g.received)] s)
  else
    let t := s.drawBool.2
    if !s.graftSigned g then .next ((t.verifyFailed.setGraft k GraftSlot.init).refuseSlot k 0x0A)
    else if s.drawBool.1 then .next (t.setGraft k { g with verified := true })
    else .next ((t.setGraft k GraftSlot.init).refuseSlot k 0x0A)

/-- GRAFT_LOAD_TIMEOUT (R259): the slot returns to FREE at the next clearing. -/
def execGraftLoadTimeout (slot : BitVec 8) (s : State) : Out :=
  let k := slot.toNat
  let g := s.graft k
  if k = 0 || g.state ≠ 1 || g.aborted || g.timedOut || decide (s.rt < g.lastData.toNat + s.regN Reg.srvGtmo) then
    .next s
  else .next (s.setGraft k { g with timedOut := true })

/-- The slots with an entry in the graft table. -/
def State.graftSlots (s : State) : List Nat := s.serving.grafts.map (·.1)

/-- Loads that end at a clearing (R258, R259): aborted or timed out ones are FREE, verified ones CURRENT.
DEDUCED, unsafe: log entry 85. -/
def endLoads : List Nat → State → State
  | [], s => s
  | k :: ks, s =>
    let g := s.graft k
    if g.state ≠ 1 then endLoads ks s
    else if g.aborted then endLoads ks ((s.setGraft k GraftSlot.init).event 0x11 k 0xFFFF 0 g.eventValue)
    else if g.timedOut then endLoads ks ((s.setGraft k GraftSlot.init).event 0x02 k 0xFFFF 0 0x0A)
    else if g.verified then
      let retire := fun (x : GraftSlot) => if x.state = 2 && x.tenant = g.tenant && x.gid = g.gid then { x with state := 3 } else x
      let new := s.serving.grafts.map fun e => (e.1, retire e.2)
      let s1 := { s with serving := { s.serving with grafts := new } }
      endLoads ks ((s1.setGraft k { g with state := 2, lepoch := s.serving.epoch }).event 0x10 k 0xFFFF 0 g.eventValue)
    else endLoads ks s

/-- RETIRING slots without a pin become FREE (R258). -/
def freeGrafts : List Nat → State → State
  | [], s => s
  | k :: ks, s =>
    let g := s.graft k
    if g.state = 3 && g.pins = 0 then freeGrafts ks ((s.setGraft k GraftSlot.init).event 0x11 k 0xFFFF 0 g.eventValue)
    else freeGrafts ks s

/-- The copy of the table in the device range (R257). -/
def writeGrafts : List Nat → State → State
  | [], s => s
  | k :: ks, s => writeGrafts ks (s.devWrite (s.base48 Reg.srvGtBaseLo + 32 * k) (s.graft k).encode)

/-- Action 11 of the clearing for the graft table. -/
def State.clearGrafts (s : State) : State :=
  let s1 := endLoads s.graftSlots s
  let s2 := freeGrafts s1.graftSlots s1
  writeGrafts ((List.range 255).map (· + 1)) s2

end Sys2Proof.Machine
end

