-- ==== Sys2Proof/Machine/Snapshot.lean ====
section
/-!
DEFINITION. The batch snapshot (R52, R230, R232 to R237): commands applied at a snapshot, the coppice walk (R244), forks
(R247), allocation and copy-on-write (R233 to R235), the batch descriptor (R236), its release and its broadcasts (R191).
-/

namespace Sys2Proof.Machine

/-! ### Commands applied at a snapshot -/

/-- Counting and reporting a command that applies after its activation step (R230). -/
def State.noteLate (s : State) (i : Nat) (late : Bool) (act : DWord) : State :=
  if late then (s.bump Reg.srvLatecmd 1).event 0x0D 0 i (s.entry i).epoch.toNat act.toNat else s

/-- Telling of a command that applies now. -/
def State.tellLate (s : State) (c : PendingCmd) : State := s.noteLate (cmdIndex c.bytes) c.late c.act

/-- The cause for which an ADMIT is refused at its snapshot (R230, R247, R258). -/
def State.admitRefusal (s : State) (bs : List Byte) : Option Nat :=
  let tenant := BitVec.ofNat 12 (leAt bs 34 2)
  let gid := BitVec.ofNat 32 (leAt bs 36 4)
  let src := s.entry (leAt bs 68 2)
  if (s.entry (cmdIndex bs)).state ≠ .free then some 0x01
  else if gid ≠ 0 && (s.currentGraft tenant gid).isNone then some 0x03
  else if bitOf (leAt bs 32 1) 7 then
    if leAt bs 68 2 ≥ ledgerSize || !src.isIn [.live, .held, .paused] || src.tenant ≠ tenant
        || src.epoch.toNat ≠ leAt bs 70 2 then some 0x07
    else if leAt bs 64 4 % 2 ^ 24 < src.npages.toNat then some 0x08
    else none
  else none

/-- Sharing the pages of a fork source (R247): word, reference and reader for each. -/
def sharePages (i : Nat) : List Nat → State → State
  | [], s => s
  | p :: ps, s => sharePages i ps (((s.addRef p).readerOn p).appendPage i p)

/-- Applying an ADMIT (Table 9.4, R247, R258). DEDUCED, unsafe: log entry 44. -/
def State.applyAdmit (s : State) (bs : List Byte) : State :=
  let i := cmdIndex bs
  match s.admitRefusal bs with
  | some c => s.refuseTag bs c
  | none =>
    let f := leAt bs 32 1
    let tenant := BitVec.ofNat 12 (leAt bs 34 2)
    let gid := BitVec.ofNat 32 (leAt bs 36 4)
    let slot := if gid = 0 then 0 else (s.currentGraft tenant gid).getD 0
    let ns := BitVec.ofNat 32 (leAt bs 56 4)
    let e : LedgerEntry := { LedgerEntry.init with
      state := .live, group := BitVec.ofNat 4 f, gen := bitOf f 4, cpcUse := bitOf f 5, cpcIns := bitOf f 6, prompt := true,
      tenant := tenant, epoch := (s.entry i).epoch, prio := BitVec.ofNat 8 (leAt bs 33 1), gslot := BitVec.ofNat 8 slot,
      pending := BitVec.ofNat 28 (leAt bs 72 4), limit := BitVec.ofNat 28 (leAt bs 40 4),
      plist := BitVec.ofNat 32 (leAt bs 60 4), pcap := BitVec.ofNat 24 (leAt bs 64 4),
      deadline := BitVec.ofNat 64 (leAt bs 48 8), ns := ns, chunk := BitVec.ofNat 12 (leAt bs 44 2),
      chain := BitVec.ofNat 64 (seedOf ns tenant), first := true }
    let s1 := if slot = 0 then s else s.pin slot
    let s2 :=
      if bitOf f 7 then
        let src := s.entry (leAt bs 68 2)
        sharePages i (s.listPages src) (s1.setEntry i { e with len := src.len, chain := src.chain, ns := src.ns, prompt := src.prompt, tail := src.tail })
      else s1.setEntry i e
    s2.event 0x01 0 i e.epoch.toNat 0

/-- A deadline that a record sets; 0 leaves it unchanged, a new one clears late (R252). -/
def LedgerEntry.withDeadline (e : LedgerEntry) (d : Nat) : LedgerEntry :=
  if d = 0 then e else { e with deadline := BitVec.ofNat 64 d, late := false }

/-- Applying an APPEND (Table 9.4). -/
def State.applyAppend (s : State) (bs : List Byte) : State :=
  let i := cmdIndex bs
  let e := s.entry i
  match s.tagCause bs true with
  | some c => s.refuseTag bs c
  | none =>
    if !e.isIn [.live, .held, .paused] then s.refuseState i e.epoch.toNat
    else s.setEntry i ({ e with pending := e.pending + BitVec.ofNat 28 (leAt bs 40 4) }.withDeadline (leAt bs 32 8))

/-- The hints of an entry that returns to LIVE (R312): all cleared, then HOT for the last pages of its list. -/
def State.resumeHints (s : State) (e : LedgerEntry) : State :=
  let ps := s.listPages e
  let hot := ps.drop (ps.length - s.field Reg.memMigCtl 15 8)
  hintPages 1 s.hotUntil hot (hintPages 0 0 ps s)

/-- Applying a RESUME without bundle (Table 9.4, R256). -/
def State.applyResume (s : State) (bs : List Byte) : State :=
  let i := cmdIndex bs
  let e := s.entry i
  let f := leAt bs 32 1
  match s.tagCause bs true with
  | some c => s.refuseTag bs c
  | none =>
    let e1 := { e with group := if bitOf f 2 then BitVec.ofNat 4 (f / 16) else e.group, pauseP := false }.withDeadline (leAt bs 40 8)
    if e.isIn [.held, .paused] then
      let e2 := { e1 with state := .live, hold := 0, resumed := true }
      let s1 := ((s.setEntry i e2).bump Reg.srvResume 1).event 0x0A 0 i e.epoch.toNat 1
      if e.state = .paused then s1.resumeHints e2 else s1
    else if e.state = .live then s.setEntry i e1
    else s.refuseState i e.epoch.toNat

/-- Applying a PAUSE (Table 9.4, R253). -/
def State.applyPause (s : State) (bs : List Byte) : State :=
  let i := cmdIndex bs
  let e := s.entry i
  match s.tagCause bs true with
  | some c => s.refuseTag bs c
  | none =>
    if e.cancelP then s
    else if e.isIn [.live, .held, .paused] then s.setEntry i { e with pauseP := true, ttl := BitVec.ofNat 64 (leAt bs 32 8) }
    else s.refuseState i e.epoch.toNat

/-- Applying one command at a snapshot. -/
def State.applyAtSnapshot (s : State) (c : PendingCmd) : State :=
  let s := s.tellLate c
  match recKind c.bytes with
  | 1 => s.applyAdmit c.bytes
  | 2 => s.applyAppend c.bytes
  | 4 => s.applyPause c.bytes
  | 5 => s.applyResume c.bytes
  | _ => s

/-- Applying commands in arrival order. -/
def applyCmds (f : State → PendingCmd → State) : List PendingCmd → State → State
  | [], s => s
  | c :: cs, s => applyCmds f cs (f s c)

/-- Commands due at the snapshot (or the clearing) of step `n`: entered before it, their activation step reached (R52,
R230). A PAUSE applies at the first of both. DEDUCED, unsafe: log entry 142. -/
def PendingCmd.due (snap : Bool) (n before : Nat) (c : PendingCmd) : Bool :=
  (recKind c.bytes == 4 || atSnapshot (recKind c.bytes) == snap) && decide (c.act.toNat ≤ n) && decide (c.entered.toNat < before)

/-- Applying the due commands of a kind of point. -/
def State.applyDue (s : State) (snap : Bool) (n before : Nat) (f : State → PendingCmd → State) : State :=
  let due := s.serving.cmds.filter (PendingCmd.due snap n before)
  let kept := s.serving.cmds.filter fun c => !c.due snap n before
  applyCmds f due { s with serving := { s.serving with cmds := kept } }

/-! ### The coppice walk (R244) -/

/-- Adding a hit to the value of the event 0x01 of an entry admitted at this snapshot (Table 9.12). -/
def State.countHit (s : State) (i : Nat) : State :=
  let add := fun (e : Event) => if e.code = 1 && e.index.toNat = i && e.step = s.step.num then { e with value := e.value + 1 } else e
  { s with serving := { s.serving with events := s.serving.events.map add } }

/-- Up to `k` lookups for an entry. The walk looks up the page that is next on the list; it also ends at pcap. -/
def walk (i : Nat) : Nat → State → State
  | 0, s => s
  | k + 1, s =>
    let e := s.entry i
    let pi := e.len.toNat / 16
    if e.pending.toNat < 16 || e.npages.toNat ≠ pi || e.npages ≥ e.pcap then s
    else
      let toks := s.ringTokens i e.inHead.toNat 16
      let h := pageHash e.chain.toNat toks
      match s.coppiceHit h e.ns e.tenant (s.parentOf e pi) toks with
      | none => s.bump Reg.srvCpcm 1
      | some p =>
        let s1 := ((s.readerOn p).addRef p).appendPage i p
        let e1 := s1.entry i
        let e2 := { e1 with len := e1.len + 16, pending := e1.pending - 16, inHead := BitVec.ofNat 20 ((e1.inHead.toNat + 16) % s.ringCap), chain := BitVec.ofNat 64 h }
        walk i k (((s1.setEntry i e2).bump Reg.srvCpch 1).countHit i)

/-- The walk of an entry that meets R233 step 1. -/
def State.walkEntry (s : State) (i : Nat) : State :=
  let e := s.entry i
  if s.field Reg.srvCtl 1 1 = 1 && e.cpcUse && e.prompt && e.len.toNat % 16 == 0 && decide (e.pending.toNat ≥ 16) then
    walk i (s.field Reg.srvCpc 15 8) s
  else s

/-- Walking entries in order. -/
def walkAll : List Nat → State → State
  | [], s => s
  | i :: is, s => walkAll is (s.walkEntry i)

/-! ### Candidates (R232, R233) -/

/-- The new tokens of an entry in a step (R233 step 2). -/
def LedgerEntry.tokensNow (e : LedgerEntry) : Nat :=
  if e.pending ≠ 0 then min e.pending.toNat e.chunk.toNat else if e.gen && e.len ≠ 0 then 1 else 0

/-- The order in which candidates are taken (R232): priority, deadline with 0 last, index. -/
def comesFirst (a b : Nat × LedgerEntry) : Bool :=
  let d := fun (e : LedgerEntry) => if e.deadline = 0 then 2 ^ 64 else e.deadline.toNat
  if a.2.prio ≠ b.2.prio then decide (a.2.prio.toNat > b.2.prio.toNat)
  else if d a.2 ≠ d b.2 then decide (d a.2 < d b.2)
  else decide (a.1 < b.1)

/-- The candidates taken, ascending index. -/
def takeCandidates (n : Nat) (l : List (Nat × LedgerEntry)) : List Nat :=
  (l.filter fun x => decide ((l.filter fun y => comesFirst y x).length < n)).map (·.1)

/-- Allocating pages for an entry until it has `need` (R233 step 3), or a hold cause. -/
def allocate (i need : Nat) : Nat → State → Option Nat × State
  | 0, s => (none, s)
  | k + 1, s =>
    let e := s.entry i
    if e.npages.toNat ≥ need then (none, s)
    else if e.npages.toNat + 1 > e.pcap.toNat then (some 0x11, s)
    else match s.allocPage e.tenant.toNat 0 true with
      | none => (some 0x10, s)
      | some (p, s1) => allocate i need k (s1.appendPage i p)

/-- A copy-on-write of word `pi` of an entry's list (R235); with no free page, hold cause 0x10. -/
def State.copyOnWrite (s : State) (i pi : Nat) : Option Nat × State :=
  let e := s.entry i
  let p := s.listPage e pi
  match s.allocPage e.tenant.toNat (s.getPte p).fill true with
  | none => (some 0x10, s)
  | some (q, s1) =>
    let s2 := (s1.touchRead (s1.pageAddr p) s1.pageBytes).devWrite (s1.pageAddr q) (s1.dev (s1.pageAddr p) s1.pageBytes)
    (none, (((s2.setListPage e pi q).dropRef p).readerOn p).bump Reg.srvCow 1)

/-- R233 steps 3 and 4 for a candidate: pages allocated, and the written page no longer shared. -/
def State.preparePages (s : State) (i a : Nat) : Option Nat × State :=
  let e := s.entry i
  let need := ceilDiv (e.len.toNat + a) 16
  let r := allocate i need (need + 1) s
  match r.1 with
  | some c => (some c, r.2)
  | none =>
    let pi := e.len.toNat / 16
    if (r.2.getPte (r.2.listPage (r.2.entry i) pi)).refs ≥ 2 then r.2.copyOnWrite i pi else r

/-- The row of a prepared candidate (Table 9.7), its tokens, and the entry moved past them (R236). -/
def State.makeRow (s : State) (i a : Nat) : (BatchRow × List Nat) × State :=
  let e := s.entry i
  let pre := decide (e.pending ≠ 0)
  let r : BatchRow := { index := i, epoch := e.epoch, len := e.len.toNat + a, a, ring0 := e.inHead.toNat, gslot := e.gslot, first := e.first, resumed := e.resumed, prefill := pre, npages := e.npages.toNat, plist := e.plist, tenant := e.tenant, reports := [] }
  let head := if pre then BitVec.ofNat 20 ((e.inHead.toNat + a) % s.ringCap) else e.inHead
  ((r, if pre then s.ringTokens i e.inHead.toNat a else []), s.setEntry i { e with first := false, resumed := false, inHead := head })

/-- Holding an entry for want of pages (R233). -/
def State.holdForPages (s : State) (i cause : Nat) : State :=
  let e := s.entry i
  ((s.setEntry i { e with state := .held, hold := BitVec.ofNat 8 cause }).bump Reg.srvNopage 1).event 0x06 0 i e.epoch.toNat cause

/-- The rows of the candidates taken, in ascending index (R233, R234). -/
def buildRows : List Nat → State → List (BatchRow × List Nat) × State
  | [], s => ([], s)
  | i :: is, s =>
    let a := (s.entry i).tokensNow
    let r := s.preparePages i a
    match r.1 with
    | some c => buildRows is (r.2.holdForPages i c)
    | none =>
      let m := r.2.makeRow i a
      let rest := buildRows is m.2
      (m.1 :: rest.1, rest.2)

/-! ### The descriptor (R236) -/

/-- The 24 bytes of a batch row (Table 9.7). -/
def BatchRow.bytes (r : BatchRow) : List Byte :=
  leBytes 2 r.index ++ leBytes 2 r.epoch.toNat ++ leBytes 4 r.len ++ leBytes 2 r.a ++ [r.gslot]
  ++ leBytes 1 (natOfBool r.first + 2 * natOfBool r.resumed + 4 * natOfBool r.prefill) ++ leBytes 3 r.npages ++ [0]
  ++ leBytes 4 r.plist.toNat ++ leBytes 2 r.tenant.toNat ++ [0, 0]

/-- Broadcasts of a descriptor. -/
def broadcasts (rows : Nat) : Nat := ceilDiv (32 + 24 * rows) 16384

/-- The batch header (Table 9.6). -/
def State.batchHeader (s : State) (n group rows : Nat) : List Byte :=
  leBytes 8 n ++ leBytes 2 rows ++ leBytes 1 (broadcasts rows) ++ leBytes 1 group ++ leBytes 4 s.serving.epoch.toNat
  ++ leBytes 6 (s.base48 Reg.srvPlistBaseLo) ++ [0, 0]
  ++ leBytes 6 (if s.field Reg.srvCtl 3 3 = 1 then s.base48 Reg.srvInbBaseLo else 0) ++ [0, 0]

/-- The rotation group of step `n` (R232). -/
def State.groupOf (s : State) (n : Nat) : Nat :=
  codeOf0 ((n : Int) - s.field Reg.srvRot 7 4) (s.field Reg.srvRot 3 0 + 1)
where
  /-- The remainder of an integer. -/
  codeOf0 (z : Int) (m : Nat) : Nat := (z % (m : Int)).toNat

/-- The snapshot of step `n`, whose boundary is at ring count `at_` (R52, R232 to R237). -/
def State.snapshot (s : State) (n at_ : Nat) : State :=
  let s := s.drainInbox
  let s := s.applyDue true n at_ State.applyAtSnapshot
  if !s.servingOn then s
  else
    let group := s.groupOf n
    let mine := fun (e : Nat × LedgerEntry) =>
      decide (e.2.state = .live) && !e.2.pauseP && decide (e.2.group.toNat = group)
    let s1 := walkAll ((s.serving.ledger.filter mine).map (·.1)) s
    let cands := s1.serving.ledger.filter fun e => mine e && decide (e.2.tokensNow ≠ 0)
    let bmax := s1.field Reg.srvBmax 10 0
    let s2 := s1.bump Reg.srvDefer (cands.length - bmax)
    let r := buildRows (takeCandidates bmax cands) s2
    let rows := r.1.map (·.1)
    let b : Batch := { step := BitVec.ofNat 64 n, group, epoch := r.2.serving.epoch, rows, tokens := r.1.map (·.2), bytes := r.2.batchHeader n group rows.length ++ rows.flatMap BatchRow.bytes, released := false }
    { r.2 with serving := { r.2.serving with batch := some b } }

/-! ### Release and broadcast -/

/-- Writing the input block: row `i` at 4 × the sum of a of the rows before it (R236). -/
def writeInputs : Nat → List (BatchRow × List Nat) → State → State
  | _, [], s => s
  | off, r :: rs, s =>
    writeInputs (off + 4 * r.1.a) rs (s.devWrite (s.base48 Reg.srvInbBaseLo + off) (r.2.flatMap (leBytes 4)))

/-- BATCH_RELEASE (R236): the input block, then the broadcasts. -/
def execBatchRelease (s : State) : Out :=
  match s.serving.batch with
  | none => .next s
  | some b =>
    if b.released || !s.step.active || s.step.clearing then .next s
    else if s.servingHeld then .next (s.whenReadable none s.servingReads s)
    else
      let s1 := if s.field Reg.srvCtl 3 3 = 1 then writeInputs 0 (List.zip b.rows b.tokens) s else s
      let out := (List.range (broadcasts b.rows.length)).map fun k => (k, none)
      .next { s1 with
        serving := { s1.serving with batch := some { b with released := true } }
        step := { s1.step with bcasts := s1.step.bcasts ++ out } }

/-- The route of a broadcast piece to a glade (Table 7.9): the serving block, no plot, tag 0 (R188). -/
def bcastRoute (g unit len : Nat) : Route :=
  { dst := g, addr := unit, ctr := 62, nflit := flitsOf len, kind := 3, src := 0x3FF, plot := 0, attempt := 0 }

/-- A message of the serving block written: its bytes, and its counter (R191). -/
def State.landRoute (s : State) (r : Route) (bs : List Byte) : State :=
  (s.setGlade r.dst ((s.glade r.dst).writeFor none (some (BitVec.ofNat 6 r.ctr)) (8 * r.addr) bs)).countUp r.dst r.ctr 1

/-- A piece of the descriptor lands in glades and counts on counter 62 (R191). -/
def landPiece (unit : Nat) (bs : List Byte) : List Nat → State → State
  | [], s => s
  | g :: gs, s => landPiece unit bs gs (s.landRoute (bcastRoute g unit bs.length) bs)

/-- BROADCAST_ARRIVAL (R44, R191, R236): the oldest broadcast in flight lands. -/
def execBroadcastArrival (s : State) : Out :=
  match s.step.bcasts, s.serving.batch with
  | (k, dest) :: rest, some b =>
    let s1 := { s with step := { s.step with bcasts := rest } }
    let gs := match dest with
      | some p => s.gladesOf p
      | none => (s.glades.filter fun e => e.2.inService).map (·.1)
    .next (landPiece (s.bcast / 8 + 2048 * k) ((b.bytes.drop (16384 * k)).take 16384) gs s1)
  | _, _ => .next s

end Sys2Proof.Machine
end

