-- ==== Sys2Proof/Machine/Clearing.lean ====
section
/-!
DEFINITION. The clearing of a step (R167, R248 to R252): its fifteen actions in order, the loads and biases of routing and
the scout statistics that follow it (R275, R276, R278, R286), layer records and counters (R79 to R81), training
generations (R136), and the token and event batches (R53, R251, R383 to R385).
-/

namespace Sys2Proof.Machine

/-! ### Commands applied at a clearing -/

/-- Applying a CANCEL (Table 9.4, R230): it overrides every other command of the entry. -/
def State.applyCancel (s : State) (bs : List Byte) : State :=
  let i := cmdIndex bs
  let e := s.entry i
  match s.tagCause bs false with
  | some c => s.refuseTag bs c
  | none =>
    if e.isIn [.free, .releasing] then s.refuseState i e.epoch.toNat
    else
      let kept := s.serving.cmds.filter fun c => cmdIndex c.bytes ≠ i
      { s with serving := { s.serving with cmds := kept } }.setEntry i { e with cancelP := true, pauseP := false }

/-- Applying one command at a clearing. -/
def State.applyAtClearing (s : State) (c : PendingCmd) : State :=
  let s := s.tellLate c
  if recKind c.bytes = 3 then s.applyCancel c.bytes else s.applyPause c.bytes

/-! ### Action 1: receive slots (R274) -/

/-- Setting slots EMPTY. -/
def emptySlots : List Nat → State → State
  | [], s => s
  | a :: as, s => emptySlots as (s.devWrite (a + 32) [0])

/-- Freeing the slots of one layer. -/
def State.freeLayer (s : State) (l : RouteLayer) : State :=
  let d := routeDesc l.desc
  let slots := (l.gotten.map fun c => d.copySlot c.peer c.row) ++ ((l.sent ++ l.answered).map fun k => d.answerSlot k.1 k.2)
  (emptySlots slots s).bump Reg.rteUnans l.sent.length

/-- Freeing the slots of layers in order. -/
def freeLayers : List RouteLayer → State → State
  | [], s => s
  | l :: ls, s => freeLayers ls (s.freeLayer l)

/-- Action 1: the slots of the step; items still held for it are stale. -/
def State.freeSlots (s : State) : State :=
  let old := fun (h : HeldItem) => decide ((itemHdr h.item).step = s.step16.toNat)
  let s1 := freeLayers (s.routing.layers.filter fun l => l.step = s.step16) s
  let kept := s1.routing.hold.filter fun h => !old h
  { s1 with routing := { s1.routing with hold := kept } }.bump Reg.rteStale (s.routing.hold.filter old).length

/-! ### Actions 2 to 4: rows, pages, the coppice -/

/-- The attention cause that poisoned a row, or one of its queries (R222). -/
def BatchRow.poison (r : BatchRow) : Option Nat := (r.reports.filterMap (·.cause)).head?

/-- Queries of a row marked approximate. -/
def BatchRow.approx (r : BatchRow) : Nat := (r.reports.filter fun x => x.cause.isNone).length

/-- Marks of a row that do not depend on its values (R252). DEDUCED, unsafe: log entry 88. -/
def State.markRow (s : State) (r : BatchRow) : State :=
  let e := s.entry r.index
  let n := r.approx
  if n = 0 then s else (s.setEntry r.index { e with apx := true }).event 0x0B 0 r.index e.epoch.toNat n

/-- A completed row past its deadline (R252). -/
def State.markLate (s : State) (r : BatchRow) (at_ : Nat) : State :=
  let e := s.entry r.index
  if e.deadline ≠ 0 && decide (at_ > e.deadline.toNat) && !e.late then
    ((s.setEntry r.index { e with late := true }).bump Reg.srvDlate 1).event 0x0C 0 r.index e.epoch.toNat at_
  else s

/-- Action 2 for one row: a poisoned row leaves its tokens pending; another one advances. A decode row has written a token
that the host did not append (R245). -/
def State.advanceRow (s : State) (r : BatchRow) (at_ : Nat) : State :=
  let s1 := s.markRow r
  let e := s1.entry r.index
  match r.poison with
  | some _ => if r.prefill then s1.setEntry r.index { e with inHead := BitVec.ofNat 20 r.ring0 } else s1
  | none =>
    let n := BitVec.ofNat 28 r.a
    let e1 := { e with len := e.len + n, pending := if r.prefill then e.pending - n else e.pending, prompt := e.prompt && r.prefill }
    (s1.setEntry r.index e1).markLate r at_

/-- Action 2. -/
def advanceRows (at_ : Nat) : List BatchRow → State → State
  | [], s => s
  | r :: rs, s => advanceRows at_ rs (s.advanceRow r at_)

/-- A page that reached fill 16 in the step: its row and its place in the list. -/
structure FullPage where
  row : BatchRow
  pi : Nat
  deriving DecidableEq, Repr

/-- Action 3: the fill of the pages a row wrote; which of them are full now. -/
def fillPages (r : BatchRow) : List Nat → State → List FullPage × State
  | [], s => ([], s)
  | pi :: ps, s =>
    let p := s.listPage (s.entry r.index) pi
    let e := s.getPte p
    let fill := min 16 (r.len - 16 * pi)
    if fill > e.fill then
      let rest := fillPages r ps (s.setPte p { e with fill })
      (if fill = 16 then { row := r, pi } :: rest.1 else rest.1, rest.2)
    else fillPages r ps s

/-- Action 3 for the rows that were not poisoned. -/
def fillRows : List BatchRow → State → List FullPage × State
  | [], s => ([], s)
  | r :: rs, s =>
    match r.poison with
    | some _ => fillRows rs s
    | none =>
      let p0 := (r.len - r.a) / 16
      let x := fillPages r ((List.range ((r.len - 1) / 16 + 1 - p0)).map (p0 + ·)) s
      let rest := fillRows rs x.2
      (x.1 ++ rest.1, rest.2)

/-- Digest-valid flags (R214): a full page in every slice of which the step has written slot 15. -/
def validDigests : List Nat → State → State
  | [], s => { s with serving := { s.serving with slot15 := [] } }
  | p :: ps, s =>
    let e := s.getPte p
    let n := ((s.serving.slot15.filter fun x => x.page = p).map (·.slice)).dedup.length
    if e.valid && decide (e.fill = 16) && decide (s.pageSlices ≠ 0) && decide (n ≥ s.pageSlices) then
      validDigests ps (s.setPte p { e with dvalid := true })
    else validDigests ps s

/-- The pages with a slot 15 written. -/
def State.slot15Pages (s : State) : List Nat := (s.serving.slot15.map (·.page)).dedup

/-- Writing a coppice record for a full page (R245). -/
def State.insertRecord (s : State) (i pi h : Nat) (toks : List Nat) : State :=
  let e := s.entry i
  let parent := s.parentOf e pi
  match s.coppiceHit h e.ns e.tenant parent toks with
  | some p => (s.readerOn p).bump Reg.srvCpcdup 1
  | none =>
    match (List.range 4).find? fun w => !recValid (s.dev (s.recAddr (s.bucket h + w)) 128) with
    | none => s.bump Reg.srvCpcfull 1
    | some w =>
      let r := s.bucket h + w
      let p := s.listPage e pi
      let s1 := s.devWrite (s.recAddr r) (recordBytes h e.ns e.tenant p parent s.serving.epoch.toNat toks)
      let x := s1.getPte p
      let hold := decide (s.field Reg.srvCtl 2 2 = 1)
      s1.setPte p { x with cpc := true, crec := r, chold := hold, refs := x.refs + natOfBool hold }

/-- Action 4 for one full page: chain follows every full prompt page (Table 9.2). -/
def State.insertPage (s : State) (f : FullPage) : State :=
  let i := f.row.index
  let e := s.entry i
  if !e.prompt then s
  else
    let toks := (e.tail ++ s.ringTokens i f.row.ring0 f.row.a).drop (16 * (f.pi - (f.row.len - f.row.a) / 16)) |>.take 16
    let h := pageHash e.chain.toNat toks
    let s1 := if s.field Reg.srvCtl 1 1 = 1 && e.cpcIns then s.insertRecord i f.pi h toks else s
    s1.setEntry i { s1.entry i with chain := BitVec.ofNat 64 h }

/-- Action 4. -/
def insertPages : List FullPage → State → State
  | [], s => s
  | f :: fs, s => insertPages fs (s.insertPage f)

/-- The tokens of the last partial pages after the step: those of the row follow those that were there (R245, R254). -/
def keepTails : List BatchRow → State → State
  | [], s => s
  | r :: rs, s =>
    let e := s.entry r.index
    let toks := e.tail ++ s.ringTokens r.index r.ring0 r.a
    let tail := if e.prompt then toks.drop (toks.length / 16 * 16) else []
    keepTails rs (if r.poison.isSome then s else s.setEntry r.index { e with tail })

/-! ### Actions 5 to 9: entry states -/

/-- Whether a plot that consumes the batch is halted (R248 action 5). -/
def State.batchHalted (s : State) : Bool := s.plots.any fun e => e.2.batch && e.2.halted

/-- Action 5. DEDUCED, unsafe: log entry 84. -/
def holdRows : List BatchRow → State → State
  | [], s => s
  | r :: rs, s =>
    let e := s.entry r.index
    let cause := match r.poison with
      | some c => some c
      | none => if s.batchHalted then some 0x12 else none
    match cause with
    | some c =>
      if e.state = .live then
        holdRows rs ((s.setEntry r.index { e with state := .held, hold := BitVec.ofNat 8 c }).event 0x06 0 r.index e.epoch.toNat c)
      else holdRows rs s
    | none => holdRows rs s

/-- Action 6: cancelled entries and those at their limit. -/
def endEntries : List Nat → State → State
  | [], s => s
  | i :: is, s =>
    let e := s.entry i
    let gone := { e with state := .releasing, cancelP := false, pauseP := false, hold := 0, released := 0 }
    if e.cancelP && !e.isIn [.free, .releasing] then
      let s1 := if e.state = .sealing then s.abortSeal i else s
      let kept := s1.serving.restores.filter fun r => r.index ≠ i
      endEntries is (({ s1 with serving := { s1.serving with restores := kept } }.setEntry i gone).event 0x04 0 i e.epoch.toNat e.len.toNat)
    else if e.state = .live && e.limit ≠ 0 && e.len ≥ e.limit then
      endEntries is ((s.setEntry i gone).event 0x03 0 i e.epoch.toNat e.len.toNat)
    else endEntries is s

/-- The expiry of a pause (R248 action 7). -/
def pauseExpiry (at_ : Nat) (ttl : DWord) : DWord := BitVec.ofNat 64 (min (at_ + ttl.toNat) (2 ^ 64 - 1))

/-- Pages of a list that no other list shares. -/
def State.ownPages (s : State) (e : LedgerEntry) : List Nat := (s.listPages e).filter fun p => (s.getPte p).refs = 1

/-- Action 7, with the COLD hints of R312. -/
def pauseEntries (at_ : Nat) : List Nat → State → State
  | [], s => s
  | i :: is, s =>
    let e := s.entry i
    if e.pauseP && e.isIn [.live, .held, .paused] then
      let x := pauseExpiry at_ e.ttl
      let e1 := { e with state := .paused, pauseP := false, hold := 0, expiry := x }
      let s1 := (s.setEntry i e1).event 0x05 0 i e.epoch.toNat x.toNat
      pauseEntries at_ is
        (if e.state = .paused then s1 else hintPages 2 (if x = BitVec.allOnes 64 then 0 else x) (s.ownPages e) s1)
    else pauseEntries at_ is s

/-- Whether a RESUME of an entry has been accepted in this interval (R230). -/
def State.resumedNow (s : State) (i : Nat) : Bool :=
  (s.cmdsOf i).any fun c => decide (recKind c.bytes = 5) && decide (c.act.toNat ≤ s.step.num.toNat)

/-- Action 8: pauses that have expired start to seal; the key version is the one current now (R475). -/
def sealEntries (at_ : Nat) : List Nat → State → State
  | [], s => s
  | i :: is, s =>
    let e := s.entry i
    if e.state = .paused && e.expiry ≠ BitVec.allOnes 64 && decide (e.expiry.toNat ≤ at_) && !s.resumedNow i then
      let r : SealRun := { index := i, version := (s.bundleKeys e.tenant).head?.map (·.version), blockedKey := false, blockedLink := false, start := none, segs := 0, sent := 0, content := 0, done := false }
      sealEntries at_ is ({ s with serving := { s.serving with sealRuns := s.serving.sealRuns ++ [r] } }.setEntry i { e with state := .sealing })
    else sealEntries at_ is s

/-- Action 9: bundles that are complete, failed or written. -/
def endBundles : List Nat → State → State
  | [], s => s
  | i :: is, s =>
    let e := s.entry i
    if e.state = .sealing then
      match s.sealRun i with
      | some r =>
        if s.sealSent r then
          endBundles is ((((s.dropSeal i).setEntry i { e with state := .releasing, released := 0 }).bump Reg.srvSeal 1).event 0x08 0 i
            e.epoch.toNat r.sent)
        else endBundles is s
      | none => endBundles is s
    else if e.state = .restoring then
      match s.restoreRun i with
      | some r =>
        let kept := s.serving.restores.filter fun x => x.index ≠ i
        let s1 := { s with serving := { s.serving with restores := kept } }
        match r.ended with
        | some false => endBundles is (s1.setEntry i { e with state := .releasing, released := 0 })
        | some true =>
          if r.act.toNat ≤ s.step.num.toNat then
            endBundles is ((((s1.noteLate i r.late r.act).setEntry i { e with state := .live }).bump Reg.srvResume 1).event 0x0A 0 i e.epoch.toNat
              (if r.exact then 1 else 2))
          else endBundles is s
        | none => endBundles is s
      | none => endBundles is s
    else endBundles is s

/-! ### Actions 10 to 12: references, grafts, pages -/

/-- Taking the references of pages. -/
def dropRefs : List Nat → State → State
  | [], s => s
  | p :: ps, s => dropRefs ps (s.dropRef p)

/-- Releasing RELEASING entries within a budget of pages (R249). DEDUCED, unsafe: log entry 82. -/
def releaseEntries : List Nat → Nat → State → State
  | [], _, s => s
  | i :: is, budget, s =>
    let e := s.entry i
    if e.state ≠ .releasing then releaseEntries is budget s
    else
      let ps := ((s.listPages e).drop e.released).take budget
      let s1 := dropRefs ps s
      if e.released + ps.length ≥ e.npages.toNat then
        releaseEntries is (budget - ps.length)
          ((s1.unpin e.gslot.toNat).setEntry i { LedgerEntry.init with epoch := e.epoch + 1 })
      else releaseEntries is (budget - ps.length) (s1.setEntry i { e with released := e.released + ps.length })

/-- Pages that a clearing may release (R249). -/
def State.releaseBudget (s : State) : Nat :=
  let rel := s.field Reg.srvClr 31 16
  if rel = 0 then 2 ^ 24 * ledgerSize else 1024 * rel

/-- Records that hold a reference of their page, in the order of release (R246). -/
def State.heldRecords (s : State) : List (Nat × Nat × Nat) :=
  let rs := (List.range (4 * 2 ^ s.field Reg.srvCpc 4 0)).filterMap fun r =>
    let bs := s.dev (s.recAddr r) 32
    let p := leAt bs 16 4
    if recValid bs && (s.getPte p).chold then some (leAt bs 24 4, r, p) else none
  rs.mergeSort fun a b => decide (a.1 < b.1) || (decide (a.1 = b.1) && decide (a.2.1 ≤ b.2.1))

/-- Releasing held references while the free count, with the pages that these releases free, is low (R246). SRV_FREE itself
moves at action 12. DEDUCED, unsafe: log entry 154. -/
def releaseHolds (low : Nat) : Nat → List (Nat × Nat × Nat) → State → State
  | _, [], s => s
  | free, (_, _, p) :: rs, s =>
    if free ≥ low then s
    else
      let e := s.getPte p
      let frees := decide (e.refs = 1) && decide (e.repoch ≠ s.serving.epoch.toNat)
      releaseHolds low (free + natOfBool frees) rs (s.setPte p { e with chold := false, refs := e.refs - 1 })

/-- Action 10 for the coppice. -/
def State.releaseCoppice (s : State) : State :=
  let low := s.field Reg.srvLoww 24 0
  if s.freePages < low then releaseHolds low s.freePages s.heldRecords s else s

/-- A pipeline without look-aside entries of pages (R216). -/
def Canopy.forget (c : Canopy) (ps : List Nat) : Canopy :=
  { c with plb := c.plb.filterMap fun e =>
      let kept := e.2.filter fun p => !ps.contains p
      if kept.isEmpty then none else some (e.1, kept) }

/-- Making pages invalid (R240). -/
def dropPages : List Nat → State → State
  | [], s => s
  | p :: ps, s =>
    let e := s.getPte p
    let s1 := if e.cpc then s.dropRecord e.crec else s
    dropPages ps (((s1.setPte p { e with valid := false }).unmapPage p).bump Reg.srvRecl 1)

/-- Action 12: pages without reference or reader (R240), ascending; they leave the free list in that order. -/
def State.reclaim (s : State) : State :=
  let dead := (List.range s.serving.freeNext).filter fun p =>
    let e := s.getPte p
    e.valid && decide (e.refs = 0) && decide (e.repoch ≠ s.serving.epoch.toNat)
  let s1 := dropPages dead s
  let gs := s1.groves.map fun e => (e.1, { e.2 with canopy := e.2.canopy.forget dead })
  { s1 with
    serving := { s1.serving with freed := dead ++ s1.serving.freed }
    groves := gs.filter fun e => e.2 ≠ Grove.init }

/-! ### Action 13: batches (R53, R251, R383 to R385) -/

/-- The tokens that rows selected on this module: whether a row selected one, and which, are free values.
DESIGN CHOICE, safe: log entry 83. -/
def selectTokens : List BatchRow → State → List (BatchRow × Word) × State
  | [], s => ([], s)
  | r :: rs, s =>
    let b := s.drawBool
    let t := b.2.draw 32
    let rest := selectTokens rs t.2
    let out := b.1 && r.poison.isNone
    (if out then (r, t.1) :: rest.1 else rest.1, rest.2)

/-- One row of a token batch (R383); `capped`: the request has reached its limit. -/
def tokenRow (capped : Bool) (x : BatchRow × Word) : List Byte :=
  leBytes 2 x.1.index ++ leBytes 2 x.1.epoch.toNat ++ leBytes 4 x.2.toNat ++ leBytes 4 x.1.len
  ++ leBytes 1 (natOfBool (decide (x.1.approx ≠ 0)) + 2 * natOfBool capped) ++ [0, 0, 0]

/-- The 24 bytes of an event record (R384). -/
def Event.bytes (e : Event) : List Byte :=
  [e.code, e.slot] ++ leBytes 2 e.index.toNat ++ leBytes 2 e.epoch.toNat ++ [0, 0] ++ leBytes 8 e.step.toNat ++ leBytes 8 e.value.toNat

/-- The start of a batch's body (R383). -/
def State.batchStart (s : State) (n : Nat) : List Byte := leBytes 8 s.step.num.toNat ++ leBytes 2 n ++ zeroBytes 6

/-- The bytes of token and event batches that wait in the outbound queue (R385). -/
def State.outBytes (s : State) : Nat :=
  ((s.ohmip.outq.filter fun r => [0x041, 0x042].contains (recKind r.bytes)).map fun r => r.bytes.length).sum

/-- Sending the event batch, if there is an event. -/
def State.sendEvents (s : State) : State :=
  if s.serving.events.isEmpty then s
  else
    let es := s.serving.events.mergeSort fun a b =>
      decide (a.index.toNat < b.index.toNat) || (decide (a.index = b.index) && decide (a.code.toNat ≤ b.code.toNat))
    { s with serving := { s.serving with events := [] } }.hostSend 0 2 0x042 (s.batchStart es.length ++ es.flatMap Event.bytes)

/-- Sending the token batch, if a row selected a token. A finished request's last token is sent; a cancelled one's is not.
`capped`: the indices at their limit. -/
def State.sendTokens (s : State) (toks : List (BatchRow × Word)) (capped : List Nat) : State :=
  if toks.isEmpty then s
  else s.hostSend 0 2 0x041 (s.batchStart toks.length ++ toks.flatMap fun x => tokenRow (capped.contains x.1.index) x)

/-! ### Action 14: counters, layer records, loads and statistics -/

/-- Counters of 64 bits (R143, R226). -/
def isWide (reg : Nat) : Bool := reg == Reg.spuLaneLo || reg == Reg.spuIdleLo || reg == Reg.cnpPagesLo

/-- Applying the counts kept for the clearing (R81). -/
def applyCounts : List PendCount → State → State
  | [], s => s
  | c :: cs, s =>
    applyCounts cs (if isWide c.reg then s.setReg64 c.reg ((s.reg64 c.reg + c.n) % 2 ^ 64) else s.bump c.reg c.n)

/-- The layer totals before a step. -/
def LayerTotal.start (t : LayerTotal) : LayerTotal := { t with ran := false, exact := false, sat := 0, zero := 0, under := 0 }

/-- Adding an attempt's counts to a layer (R79). -/
def LayerTotal.add (t : LayerTotal) (c : PendLayer) : LayerTotal :=
  { ran := true, exact := t.exact || c.exact, sat := addCnt32 t.sat c.sat, zero := addCnt32 t.zero c.zero,
    under := addCnt32 t.under c.under, satTotal := addCnt32 t.satTotal c.sat, zeroTotal := addCnt32 t.zeroTotal c.zero }

/-- Layer totals after the attempts of a step. -/
def addLayers : List PendLayer → SMap LayerTotal → SMap LayerTotal
  | [], m => m
  | c :: cs, m => addLayers cs (mset LayerTotal.init m c.layer ((mget LayerTotal.init m c.layer).add c))

/-- A layer record (Table 3.8). Flag [1] says that one of the record's own 32-bit counts stands at its limit; a tile's
16-bit count that saturated leaves no trace here. DESIGN CHOICE, unsafe: log entry 150. -/
def layerRecord (step : DWord) (layer : Nat) (t : LayerTotal) : List Byte :=
  let full := t.sat = BitVec.allOnes 32 ∨ t.zero = BitVec.allOnes 32 ∨ t.under = BitVec.allOnes 32
    ∨ t.satTotal = BitVec.allOnes 32 ∨ t.zeroTotal = BitVec.allOnes 32
  leBytes 8 step.toNat ++ leBytes 4 t.sat.toNat ++ leBytes 4 t.zero.toNat ++ leBytes 4 t.under.toNat
  ++ leBytes 4 t.satTotal.toNat ++ leBytes 4 t.zeroTotal.toNat ++ leBytes 2 layer
  ++ leBytes 1 (natOfBool t.exact + 2 * natOfBool (decide full)) ++ [0]

/-- Writing the records of the layers that ran (R80). -/
def writeLayers : List (Nat × LayerTotal) → State → State
  | [], s => s
  | (l, t) :: ls, s =>
    writeLayers ls (if t.ran then s.devWrite (s.base48 Reg.numLrecBaseLo + 32 * l) (layerRecord s.step.num l t) else s)

/-- Counters and layer records (R79 to R81). DEDUCED, unsafe: log entry 66. -/
def State.clearCounts (s : State) : State :=
  let s1 := applyCounts s.pendCounts s
  let ls := addLayers s.pendLayers (s.layers.map fun e => (e.1, e.2.start))
  let s2 := { s1 with layers := ls.filter fun e => e.2 ≠ LayerTotal.init, pendCounts := [], pendLayers := [] }
  let s3 := ((s2.bump Reg.numSat (s.pendLayers.map (·.sat)).sum).bump Reg.numZero (s.pendLayers.map (·.zero)).sum).bump
    Reg.numUnder (s.pendLayers.map (·.under)).sum
  if s.field Reg.numCtl 0 0 = 1 then writeLayers ls s3 else s3

/-- Adding one selection to the load table (R275). -/
def addLoads (layer : Nat) : List Nat → State → State
  | [], s => s
  | x :: xs, s =>
    let a := s.base48 Reg.rteLoadBaseLo + 1024 * layer + 4 * x
    addLoads layer xs (s.devWrite a (leBytes 4 (s.devNat a 4 + 1)))

/-- Counting the selections of the layers whose plot completed the step (R275), and marking them as having routed. -/
def countLoads : List RouteLayer → State → State
  | [], s => s
  | l :: ls, s =>
    if l.routed then
      let s1 := addLoads l.layer.toNat l.picks s
      let d : BiasDue := { layer := l.layer, ne := BitVec.ofNat 8 ((routeDesc l.desc).ne - 1), plot := l.plot }
      let kept := s1.routing.biased.filter fun b => b.layer ≠ l.layer
      countLoads ls { s1 with routing := { s1.routing with biased := kept ++ [d] } }
    else countLoads ls s

/-- A bias after an update (R276). -/
def newBias (old step lim : Int) (c total : Nat) : Int :=
  let b := if c < total then old + step else if c > total then old - step else old
  max (-lim) (min lim b)

/-- Updating the experts of a layer (R276). -/
def biasExperts (layer ne total : Nat) (loads : List Nat) : List Nat → State → State
  | [], s => s
  | x :: xs, s =>
    let a := s.base48 Reg.rteBiasBaseLo + 512 * layer + 2 * x
    let b := newBias (signedOf 16 (s.devNat a 2)) (s.field Reg.rteBias 23 16) (16 * s.field Reg.rteBias 31 24)
      (loads.getD x 0 * ne) total
    biasExperts layer ne total loads xs
      ((s.devWrite a (leBytes 2 (codeOf 16 b))).devWrite (s.base48 Reg.rteLoadBaseLo + 1024 * layer + 4 * x) [0, 0, 0, 0])

/-- The bias update of the layers that have routed since their last (R276, R278). -/
def biasLayers : List BiasDue → State → State
  | [], s => s
  | d :: ds, s =>
    if (s.plot d.plot.toNat).exact then biasLayers ds (s.bump Reg.rteXovr 1)
    else
      let ne := d.ne.toNat + 1
      let loads := (List.range ne).map fun x => s.devNat (s.base48 Reg.rteLoadBaseLo + 1024 * d.layer.toNat + 4 * x) 4
      biasLayers ds (biasExperts d.layer.toNat ne loads.sum loads (List.range ne) s)

/-- The bias loop at a clearing. -/
def State.biasLoop (s : State) : State :=
  let per := s.field Reg.rteBias 15 0
  if s.field Reg.rteCtl 0 0 = 1 && per ≠ 0 && decide (s.step.num.toNat % per = per - 1) then
    let s1 := biasLayers s.routing.biased s
    { s1 with routing := { s1.routing with biased := [] } }
  else s

/-- Entering audited entries in the statistics (R285, R286). -/
def addMarks : List AuditMark → State → State
  | [], s => s
  | m :: ms, s =>
    let a := s.base48 Reg.sctBaseLo + 8 * m.record
    let add := fun (x n : Nat) => min (x + n) (2 ^ 32 - 1)
    addMarks ms (s.devWrite a (leBytes 4 (add (s.devNat a 4) 1) ++ leBytes 4 (add (s.devNat (a + 4) 4) (natOfBool m.active))))

/-- What routing and the scout do at a clearing (R275, R276, R286). -/
def State.clearRouting (s : State) : State :=
  let s1 := countLoads (s.routing.layers.filter fun l => l.step = s.step16) s
  let s2 := (addMarks s1.routing.marks s1).biasLoop
  let r := s2.routing
  let steps := if r.audited.isEmpty || r.steps = 0xFFFF then r.steps else r.steps + 1
  let kept := r.layers.filter fun l => l.step ≠ s.step16
  { s2 with routing := { r with marks := [], audited := [], steps, layers := kept } }

/-- The delivery maps of a step cleared at its clearing (R334), with the resends asked for it (R336). DEDUCED, unsafe: log
entry 48. -/
def State.clearMaps (s : State) : State :=
  let n := s.step16
  { s with fabric := { s.fabric with
      delivered := s.fabric.delivered.filter fun d => d.tstep ≠ n
      asked := s.fabric.asked.filter fun a => a.slot.tstep ≠ n } }

/-! ### Action 15 -/

/-- A plot after the clearing of a step it completed (R136, R446). -/
def Plot.finish (p : Plot) : Plot := { p with run := .none, replaying := false, replays := 0, lastFault := none, generation := p.generation + 1 }

/-- The plots that completed the step: their attempts end, and with them what was kept of the sources of their transfers
(R117). -/
def finishPlots : List Nat → State → State
  | [], s => s
  | p :: ps, s =>
    let x := s.plot p
    if x.run = .running then
      let s1 := s.setPlot p x.finish
      let s2 := mapGlades (fun gl => { gl with kept := [], sources := [] }) (s1.gladesOf p) s1
      if !x.replaying then finishPlots ps s2
      else
        let life := s2.dep.life
        finishPlots ps ({ s2 with dep := { s2.dep with life := { life with replays := addCnt32 life.replays 1 } } }.bump Reg.recReplay 1)
    else finishPlots ps s

/-! ### The clearing -/

/-- Whether a glade has reached STEP.END, emptied its engine queues and its transfer queue, and completed the transfers it
started (R167, R324). -/
def Glade.atEnd (gl : Glade) : Bool :=
  decide (gl.mode = .ended) && gl.engine.isEmpty && gl.queue.isEmpty && gl.settled

/-- Whether every plot that runs the step has completed it (R167). DEDUCED, unsafe: log entry 131. -/
def State.stepDone (s : State) : Bool :=
  (List.range 64).all fun p =>
    match (s.plot p).run with
    | .none => true
    | .abandoned => false
    | .running => (s.gladesOf p).all fun g => (s.glade g).drained || (s.glade g).atEnd

/-- Actions 1 to 9. -/
def State.clearEntries (s : State) (at_ : Nat) (rows : List BatchRow) : State :=
  let s := s.freeSlots
  let s := advanceRows at_ rows s
  let f := fillRows rows s
  let s := validDigests f.2.slot15Pages f.2
  let s := holdRows rows (keepTails rows (insertPages f.1 s))
  let s := endEntries s.entries s
  let s := pauseEntries at_ s.entries s
  let s := sealEntries at_ s.entries s
  endBundles s.entries s

/-- Actions 10 to 12. -/
def State.clearPages (s : State) : State :=
  State.reclaim (State.clearGrafts (State.releaseCoppice (releaseEntries s.entries s.releaseBudget s)))

/-- Actions 13 to 15. -/
def State.clearOutput (s : State) (toks : List (BatchRow × Word)) (capped : List Nat) : State :=
  let s := (s.sendTokens toks capped).sendEvents
  let s := if s.outBytes > 2 ^ 22 then s.bump Reg.ohmBprs 1 else s
  let s := s.clearCounts.clearRouting.clearMaps
  let s := finishPlots (s.plots.map (·.1)) s
  { s with serving := { s.serving with epoch := s.serving.epoch + 1 } }

/-- The rows of the step's batch. -/
def State.batchRowsNow (s : State) : List BatchRow := (s.serving.batch.map (·.rows)).getD []

/-- CLEARING (R167, R248): the fifteen actions, once every plot of the step has completed it; it waits while the serving block
reads a block under repair (R322, R324). DEDUCED, unsafe: log entry 87. -/
def execClearing (s : State) : Out :=
  if !s.step.active || s.step.clearing || !s.stepDone then .next s
  else if s.servingHeld then .next (s.whenReadable none s.servingReads s)
  else
    let at_ := s.rt
    let s := { s with step := { s.step with clearing := true, clearAt := s.ringCount } }
    let s := (s.drainInbox).applyDue false s.step.num.toNat at_ State.applyAtClearing
    let rows := s.batchRowsNow
    let cancelled := (rows.filter fun r => (s.entry r.index).cancelP).map (·.index)
    let s := s.clearEntries at_ rows
    let t := selectTokens (rows.filter fun r => !cancelled.contains r.index) s
    let capped := (rows.filter fun r => (s.entry r.index).limit ≠ 0 && (s.entry r.index).len ≥ (s.entry r.index).limit).map (·.index)
    .next (t.2.clearPages.clearOutput t.1 capped)

end Sys2Proof.Machine
end

