-- ==== Sys2Proof/Machine/Ring.lean ====
section
/-!
DEFINITION. The ring count (R347 to R354) and the stand frequency (R355 to R357, R426, R427): marker lock, alignment,
holdover, FAULT, agreement rounds, lower items and the offer.
-/

namespace Sys2Proof.Machine

/-! ### fmax and the offer -/

/-- The current fmax of a physical glade (R426). -/
def State.curFmax (s : State) (ph : Nat) : Nat :=
  match (mget PhysGlade.init s.power.phys ph).cur with
  | some c => c.toNat
  | none => (Config.fuseFmax ph).toNat

/-- The physical glades in service. -/
def State.servicePhys (s : State) : List Nat :=
  (s.glades.filter fun e => e.2.inService).filterMap fun e => s.physOf e.1

/-- The lowest current fmax and its glade, marginal glades left out during their grace (R427); 800 MHz and no glade
where none counts (PWR_FMOD's reset). -/
def State.fmaxGlade (s : State) : Nat × Nat :=
  let counts := s.servicePhys.filter fun ph =>
    let x := mget PhysGlade.init s.power.phys ph
    !x.marginal || x.inFmax
  match counts with
  | [] => (800, 0x7FF)
  | ph :: phs => phs.foldl (fun b x => if s.curFmax x < b.1 then (s.curFmax x, x) else b) (s.curFmax ph, ph)

/-- The module's offer (R355). -/
def State.offer (s : State) : Nat :=
  let cap := s.field Reg.freqCfg 10 0
  if cap = 0 then s.fmaxGlade.1 else min s.fmaxGlade.1 cap

/-- The pending frequencies with their apply counts: the result of the rounds, and lower values. -/
def Ring.pending (r : Ring) : List (Nat × Nat) :=
  (if r.pendFromRounds then [(r.pend.toNat, r.pendAt.toNat)] else []) ++ r.lowers.map fun w => (w.value.toNat, w.at_.toNat)

/-- The pending value (R356): the lowest of the frequencies pending, else the current one. DEDUCED, unsafe: log entry 156. -/
def Ring.pendingValue (r : Ring) : Nat := match r.pending with
  | [] => r.cur.toNat
  | x :: xs => (xs.map (·.1)).foldl min x.1

/-- The pending frequency that applies first: value and count. -/
def Ring.nextPend (r : Ring) : Option (Nat × Nat) :=
  match r.pending with
  | [] => none
  | x :: xs => some (xs.foldl (fun b y => if y.2 < b.2 ∨ (y.2 = b.2 ∧ y.1 < b.1) then y else b) x)

/-! ### Core rails (R419, R420, R429) -/

/-- The voltage guard of an operating point in mV (Table 15.3). -/
def guardOf (k : Nat) : Nat := [40, 35, 30, 25, 20, 15, 10].getD k 10

/-- The frequency that the rails allow for: the stand frequency, 800 MHz while none is held, or a higher one for which they
have been raised. -/
def State.railFreq (s : State) : Nat :=
  let f := if s.ring.held then s.ring.cur.toNat else 800
  match s.ring.nextPend with
  | some (v, _) => if s.ring.preRaised then max f v else f
  | none => f

/-- The set point of a grove's core rail at an operating point (R419). -/
def State.setPoint (s : State) (gv k : Nat) : Nat := (Config.fusedVolt gv s.railFreq).toNat + guardOf k

/-- The voltage that a grove's core rail has reached: it rises at 10 mV per µs (R420). -/
def State.railNow (s : State) (gv : Nat) (x : GrovePower) : Nat :=
  if !x.railUp then 0
  else if x.raising.isNone then x.rail.toNat
  else min (max x.rail.toNat (s.setPoint gv x.op.toNat)) (x.rail.toNat + (s.rt - x.railAt.toNat) / 10)

/-- A grove's rail at its set point. -/
def GrovePower.settle (s : State) (gv : Nat) (x : GrovePower) : GrovePower :=
  { x with rail := BitVec.ofNat 16 (s.setPoint gv x.op.toNat), railAt := s.ringCount }

/-- The rails of the groves that are up and do not wait for one to rise, at their set points (R429). -/
def State.setRails (s : State) : State :=
  { s with power := { s.power with groves := s.power.groves.map fun e =>
      (e.1, if e.2.railUp && e.2.raising.isNone then e.2.settle s e.1 else e.2) } }

/-- A frequency item (Table 12.3). -/
def freqItem (type round value at_ : Nat) : Item :=
  itemOf [6 + type % 4 * 2 ^ 4 + round % 256 * 2 ^ 8 + value % 4096 * 2 ^ 16, at_]

/-- The first multiple of 2¹⁶ at or after the ring count plus 2²⁰ (R356). -/
def State.lowerCount (s : State) : Nat := ceilDiv (s.rt + 2 ^ 20) (2 ^ 16) * 2 ^ 16

/-- Sending a lower item of the module's own, when its offer is below the current or pending frequency (R356). -/
def State.checkOffer (s : State) : State :=
  let v := s.offer
  if v < s.ring.pendingValue then
    let c := s.lowerCount
    let s1 := (s.broadcastItem (freqItem 2 0 v c)).bumpField Reg.freqSplit 31 16 1
    { s1 with ring := { s1.ring with lowers := s1.ring.lowers ++ [{ value := BitVec.ofNat 12 v, at_ := BitVec.ofNat 64 c }] } }
  else s

/-! ### Ring states -/

/-- The code of a ring state (Table 12.9). -/
def RingMode.code : RingMode → Nat
  | .free => 0
  | .locl => 1
  | .aligned => 2
  | .holdover => 3
  | .fault => 4

/-- Replacing the ring. -/
def State.setRing (s : State) (r : Ring) : State := { s with ring := r }

/-- FREE and FAULT end in LOCAL once the reference and marker lock are present (Table 12.9). -/
def Ring.settle (r : Ring) : Ring :=
  if (r.mode = .free ∨ r.mode = .fault) ∧ r.rref ∧ r.marker then
    { r with mode := .locl, localAt := r.lc, okRun := 0, port := 7, rejoin := false, loaded := false }
  else r

/-- One tick of the ring count with no command waiting (R347, R353): an RREF edge, or in HOLDOVER a tick of the internal
oscillator, and the power-on time of the lifetime counters (Table 16.6). -/
def State.tick (s : State) : State :=
  if s.board.on.getLsbD 29 then
    let r := s.ring
    let r1 := if r.rref || r.mode == .holdover then { r with lc := r.lc + 1 } else r
    { s.setRing r1.settle with
      dep := { s.dep with life := { s.dep.life with pon := s.dep.life.pon + 1 } } }
  else s

/-- Abandoning a running plot under R448, which does not count toward maxrep. -/
def State.abandonForClock (s : State) (cause p : Nat) : State :=
  match (s.plot p).run with
  | .running =>
    let s1 := s.abandonStep p { cls := 0x0E, cause := BitVec.ofNat 8 cause, glade := 0x3FF, pc := 0 }
    s1.setPlot p { s1.plot p with replays := (s.plot p).replays }
  | _ => s

/-- Every plot abandoned. -/
def abandonPlots (cause : Nat) : List Nat → State → State
  | [], s => s
  | p :: ps, s => abandonPlots cause ps (s.abandonForClock cause p)

/-- A clock fault record (class 0x0E). -/
def State.clockFault (s : State) (cause : Nat) : State :=
  s.raise { cls := 0x0E, cause := cause, detail := leBytes 4 s.ring.ofs.toNat }

/-- Entering FAULT (R354, R448). -/
def State.ringFault (s : State) (cause : Nat) : State :=
  let s1 := (s.setRing { s.ring with mode := .fault, okRun := 0, faulted := true }).setCause 2
  let s2 := s1.broadcastItem (itemOf [8 + 2 ^ 8])
  abandonPlots cause (List.range 64) ((s2.clockFault cause).bumpField Reg.ringHold 31 16 1)

/-- FRAME_MARKER_PULSE (R347). -/
def execFrameMarkerPulse (s : State) : Out :=
  let r := s.ring
  if !s.board.on.getLsbD 29 then .next s
  else if !r.marker then
    .next (s.setRing { r with lc := BitVec.ofNat 64 (r.lc.toNat / 2 ^ 16 * 2 ^ 16), marker := true }.settle)
  else if r.lc.toNat % 2 ^ 16 ≠ 0 then .next (s.bump Reg.ringMiss 1)
  else .next s

/-- FRAME_MARKER_ABSENT (R347). -/
def execFrameMarkerAbsent (s : State) : Out :=
  if s.ring.marker && s.ring.rref && decide (s.ring.lc.toNat % 2 ^ 16 = 0) then .next (s.bump Reg.ringMiss 1) else .next s

/-- RACK_REFERENCE_LOSS (R24, R353). A count that is not aligned yet has no reference left, and is FREE (Table 12.9).
DEDUCED, unsafe: log entry 30. -/
def execRackReferenceLoss (s : State) : Out :=
  let r := s.ring
  if !r.rref then .next s
  else if !s.board.on.getLsbD 29 then .next (s.setRing { r with rref := false })
  else
    let s1 := (s.setRing { r with rref := false }).clockFault 1
    match r.mode with
    | .aligned => .next (((s1.setRing { s1.ring with mode := .holdover, lossAt := r.lc }).bumpField Reg.ringHold 15 0 1).setCause 2)
    | .locl => .next (s1.setRing { s1.ring with mode := .free, okRun := 0 })
    | _ => .next s1

/-- RACK_REFERENCE_RETURN (R353): `off` is the distance of the returned edges from the held ticks, in 1/256 rt. -/
def execRackReferenceReturn (off : Int) (s : State) : Out :=
  let r := s.ring
  if r.rref then .next s
  else if !s.board.on.getLsbD 29 then .next (s.setRing { r with rref := true })
  else
    let s1 := s.setRing { r with rref := true }
    match r.mode with
    | .holdover =>
      if r.lc.toNat - r.lossAt.toNat ≤ 2 ^ s.field Reg.ringCfg 20 16 ∧ off.natAbs ≤ 64 then
        .next (s1.setRing { s1.ring with mode := .aligned })
      else .next (s1.ringFault 4)
    | _ => .next (s1.setRing s1.ring.settle)

/-- HOLDOVER_EXPIRY (R353). -/
def execHoldoverExpiry (s : State) : Out :=
  if s.ring.mode = .holdover ∧ s.ring.lc.toNat - s.ring.lossAt.toNat > 2 ^ s.field Reg.ringCfg 20 16 then
    .next (s.ringFault 4)
  else .next s

/-! ### Measurements -/

/-- A timestamp of the present instant: the ring count mod 2⁵⁶ in units of 1/256 rt, with a fraction (R328).
DESIGN CHOICE, safe: log entry 29. -/
def State.stamp (s : State) (frac : Nat) : Nat := (s.rt % 2 ^ 56 * 256 + frac) % 2 ^ 64

/-- Word 0 of a phase item: kind, sequence, sender ALIGNED, stand frequency, ring count bits [63:56]. -/
def State.phaseWord (s : State) (kind seq freq : Nat) : Nat :=
  kind + seq % 256 * 2 ^ 8 + natOfBool (decide (s.ring.mode = .aligned)) * 2 ^ 16 + freq * 2 ^ 20
    + s.rt / 2 ^ 56 * 2 ^ 56

/-- Whether a measurement of port `p` is due (R350): in LOCAL every 2¹⁰ rt; ALIGNED and HOLDOVER, the port aligned from,
every 2^mper rt. -/
def State.measureDue (s : State) (p : Nat) (x : Port) : Bool :=
  let since := s.ring.lc.toNat - x.lastAsk.toNat
  match s.ring.mode with
  | .locl => decide (since ≥ 2 ^ 10)
  | .aligned => decide (s.ring.port.toNat = p) && decide (since ≥ 2 ^ s.field Reg.ringCfg 7 3)
  | .holdover => decide (s.ring.port.toNat = p) && decide (since ≥ 2 ^ s.field Reg.ringCfg 7 3)
  | _ => false

/-- A port that has received an item which changes nothing else. -/
def State.hear (s : State) (p : Nat) (x : Port) : State := if x.live then s.setPort p x.heard else s

/-- PHASE_MEASUREMENT_TIMER (R350 step 1). -/
def execPhaseMeasurementTimer (p : BitVec 3) (s : State) : Out :=
  onPort "PHASE_MEASUREMENT_TIMER" p s fun x =>
    if x.live && s.measureDue p.toNat x then
      let r := s.draw 8
      let t1 := s.stamp r.1.toNat
      let x1 := { x with ask := some { seq := x.seqOut, t1 := BitVec.ofNat 64 t1, hi := BitVec.ofNat 8 (s.rt / 2 ^ 56) }, seqOut := x.seqOut + 1, lastAsk := s.ring.lc }
      (r.2.setPort p.toNat x1).sendItem p.toNat (itemOf [s.phaseWord 4 x.seqOut.toNat 0, t1])
    else s

/-- PHASE_REQUEST (R350 steps 2 and 3). -/
def execPhaseRequest (p : BitVec 3) (w0 _t1 : BitVec 64) (s : State) : Out :=
  onItem "PHASE_REQUEST" p w0 s fun x =>
    if x.live then
      let r := s.draw 8
      let r' := r.2.draw 8
      let t2 := s.stamp r.1.toNat
      let t3 := (t2 + r'.1.toNat) % 2 ^ 64
      let algn := !x.downSeen && decide (wf w0 16 16 = 1)
      let x1 := { x.heard with nalgn := algn }
      let s1 := r'.2.setRing { r'.2.ring with localAt := if s.ring.mode = .locl ∧ algn then s.ring.lc else s.ring.localAt }
      (s1.setPort p.toNat x1).sendItem p.toNat
        (itemOf [s.phaseWord 5 (wf w0 15 8) s.ring.cur.toNat, t2, t3])
    else s

/-- A timestamp of 64 bits with the ring count bits [63:56] above it. -/
def fullStamp (hi : Nat) (t : BitVec 64) : Int := ((hi * 2 ^ 64 + t.toNat : Nat) : Int)

/-- A difference of full timestamps, which are mod 2⁷². DEDUCED, unsafe: log entry 52. -/
def stampDiff (a b : Int) : Int := signedOf 72 ((a - b) % (2 ^ 72 : Nat)).toNat

/-- A signed 32-bit register value; it saturates. -/
def sat32 (z : Int) : BitVec 32 := BitVec.ofInt 32 (max (-(2 ^ 31)) (min z (2 ^ 31 - 1)))

/-- φ and Δ after φ has moved by `f`, with `k` whole ticks taken from Δ (R351). -/
def Ring.shift (r : Ring) (k f : Int) : Ring :=
  let t : Int := (r.phi.toNat : Int) + f
  { r with phi := BitVec.ofInt 8 t, delta := r.delta - BitVec.ofInt 64 (k + t / 256) }

/-- The correction of R351 for an offset. -/
def Ring.correct (r : Ring) (o : Int) : Ring :=
  let k := o / 256
  let f := o - k * 256
  if f ≥ 128 then r.shift (k + 1) (f - 256) else r.shift k f

/-- The port that a module in LOCAL aligns from (R349): the parent's, else the lowest live one with an ALIGNED
neighbour. -/
def State.source (s : State) : Option Nat :=
  let par := s.field Reg.ringCfg 2 0
  let good := fun (p : Nat) => (s.port p).live && (s.port p).nalgn
  if decide (par < 6) && good par then some par else (List.range 6).find? good

/-- The calendar's reference moves with Δ after a FAULT (R462). -/
def State.moveCal (s : State) (r : Ring) : State :=
  if s.ring.faulted && decide (r.delta ≠ s.ring.delta) then
    let s1 := s.setReg64 Reg.calAtLo ((s.reg64 Reg.calAtLo + (r.delta - s.ring.delta).toNat) % 2 ^ 64)
    { s1 with dep := { s1.dep with calAt := s1.dep.calAt + (r.delta - s.ring.delta),
                                   calState := if s1.dep.calState = 1 then 2 else s1.dep.calState } }
  else s

/-- Becoming ALIGNED with a stand frequency from the neighbour (R349, R351, R357). -/
def State.align (s : State) (p freq : Nat) : State :=
  let r := s.ring
  (s.setRing { r with mode := .aligned, okRun := 0, port := BitVec.ofNat 3 p,
                      rejoin := decide (p ≠ s.field Reg.ringCfg 2 0), loaded := false, faulted := false,
                      cur := BitVec.ofNat 11 freq, held := true }).setRails.checkOffer

/-- A measurement applied in LOCAL (R351). -/
def State.applyLocal (s : State) (p : Nat) (o : Int) (freq : Nat) : State :=
  let r := s.ring
  let ok := decide (o.natAbs ≤ s.field Reg.ringCfg 15 8)
  let run := if !ok then 0 else if r.port.toNat = p then r.okRun + 1 else 1
  let r1 := { r.correct o with okRun := run, port := BitVec.ofNat 3 p }
  let s1 := (s.moveCal r1).setRing r1
  if run ≥ 4 then s1.align p freq else s1

/-- A measurement applied in ALIGNED (R352): one unit of φ toward zero, the slew count, and a slip of half a tick. -/
def State.applyAligned (s : State) (o : Int) : State :=
  let s1 := if o.natAbs > s.field Reg.ringCfg 15 8 then s.bump Reg.ringSlew 1 else s
  if o.natAbs ≥ 128 then s1.ringFault 3 else s1.setRing (s1.ring.shift 0 (sgn o))

/-- PHASE_RESPONSE (R350 step 4, R351, R352). -/
def execPhaseResponse (p : BitVec 3) (w0 t2 t3 t4 : BitVec 64) (s : State) : Out :=
  onItem "PHASE_RESPONSE" p w0 s fun x =>
    match x.ask with
    | none => s.hear p.toNat x
    | some a =>
      if !x.live || decide (a.seq.toNat ≠ wf w0 15 8) then s.hear p.toNat x
      else
        let own := s.rt / 2 ^ 56
        let nbr := wf w0 63 56
        let nbr2 := if t3.toNat < t2.toNat then (nbr + 255) % 256 else nbr
        let back := stampDiff (fullStamp own t4) (fullStamp nbr t3)
        let out := stampDiff (fullStamp nbr2 t2) (fullStamp a.hi.toNat a.t1)
        let o := (back - out) / 2
        let d := (back + out) / 2
        let algn := decide (wf w0 16 16 = 1)
        let x1 := { x.heard with ask := none, nalgn := algn, downSeen := false, idleFar := false, nbrFreq := BitVec.ofNat 12 (wf w0 31 20) }
        let r := s.ring
        let s1 := (s.setPort p.toNat x1).setRing
          { r with ofs := sat32 o, dly := BitVec.ofInt 32 d, localAt := if r.mode = .locl ∧ algn then r.lc else r.localAt }
        match r.mode with
        | .locl => if s1.source = some p.toNat then s1.applyLocal p.toNat o (wf w0 31 20) else s1
        | .aligned => if r.port.toNat = p.toNat then s1.applyAligned o else s1
        | _ => s1

/-! ### The root's load -/

/-- RING_LOAD_ARM (R349, R360): a write of RING_LOAD_HI arms the load. -/
def execRingLoadArm (data : BitVec 32) (s : State) : Out :=
  let s1 := s.setReg Reg.ringLoadHi data
  onReg Reg.ringLoadHi s (s1.setRing { s1.ring with armed := true })

/-- ROOT_RING_LOAD (R349): at a marker edge. A module without a live port takes its own offer as the stand frequency
(R357). -/
def execRootRingLoad (s : State) : Out :=
  let r := s.ring
  let seen := (List.range 6).any fun p => (s.port p).live && (s.port p).nalgn
  if r.mode = .locl ∧ s.field Reg.ringCfg 2 0 = 7 ∧ r.armed ∧ seen = false ∧ r.lc.toNat ≥ r.localAt.toNat + 2 ^ 24
      ∧ r.lc.toNat % 2 ^ 16 = 0 then
    let r1 := { r with delta := BitVec.ofNat 64 (s.reg64 Reg.ringLoadLo) - r.lc, phi := 0, mode := .aligned, okRun := 0,
                       loaded := true, rejoin := false, port := 7, armed := false, faulted := false }
    let r2 := if s.livePorts.isEmpty then { r1 with cur := BitVec.ofNat 11 s.offer, held := true } else r1
    .next (s.setRing r2).setRails
  else .next s

/-! ### The stand frequency -/

/-- The agreement count at or before the present, and the ring ticks since (R355). -/
def State.agreement (s : State) : Nat × Nat :=
  let per := 2 ^ s.field Reg.freqCfg 28 24
  (s.rt / per * per, s.rt % per)

/-- FREQ_ROUND_SEND (R355): at A + 1,000·i. -/
def execFreqRoundSend (s : State) : Out :=
  let a := s.agreement
  let i := a.2 / 1000
  let r := s.ring
  if r.mode = .aligned ∧ a.2 % 1000 = 0 ∧ i < s.field Reg.freqCfg 23 16 then
    let r1 :=
      if i = 0 then { r with roundV := BitVec.ofNat 12 s.offer, roundA := BitVec.ofNat 64 a.1, roundI := 0, roundOn := true }
      else { r with roundI := i }
    if i ≠ 0 ∧ (r.roundOn = false ∨ r.roundA.toNat ≠ a.1) then .next s
    else .next ((s.setRing r1).broadcastItem (freqItem 0 i r1.roundV.toNat a.1))
  else .next s

/-- FREQ_FINAL_SEND (R355): at A + 1,000·rounds. The result is pending until A + 2²⁰. -/
def execFreqFinalSend (s : State) : Out :=
  let a := s.agreement
  let r := s.ring
  let n := s.field Reg.freqCfg 23 16
  if r.mode = .aligned ∧ a.2 = 1000 * n ∧ r.roundOn ∧ r.roundA.toNat = a.1 then
    let r1 := { r with roundOn := false, pend := BitVec.ofNat 11 r.roundV.toNat, pendAt := BitVec.ofNat 64 (a.1 + 2 ^ 20),
                       pendFromRounds := true }
    .next ((s.setRing r1).broadcastItem (freqItem 1 n r.roundV.toNat a.1)).checkOffer
  else .next s

/-- FREQ_ROUND_ITEM (R355). DEDUCED, unsafe: log entry 53. -/
def execFreqRoundItem (p : BitVec 3) (w0 w1 : BitVec 64) (s : State) : Out :=
  onItem "FREQ_ROUND_ITEM" p w0 s fun x =>
    let r := s.ring
    if x.live && r.roundOn && decide (wf w0 5 4 = 0) && decide (r.roundA = w1) then
      (s.setPort p.toNat x.heard).setRing { r with roundV := BitVec.ofNat 12 (min r.roundV.toNat (wf w0 27 16)) }
    else s.hear p.toNat x

/-- FREQ_FINAL_ITEM (R355): a value that differs is merged and counted. -/
def execFreqFinalItem (p : BitVec 3) (w0 w1 : BitVec 64) (s : State) : Out :=
  onItem "FREQ_FINAL_ITEM" p w0 s fun x =>
    let r := s.ring
    let v := wf w0 27 16
    if x.live && decide (wf w0 5 4 = 1) && decide (r.roundA = w1) && decide (v ≠ r.roundV.toNat) then
      let m := min v r.roundV.toNat
      let r1 := { r with roundV := BitVec.ofNat 12 m, pend := if r.pendFromRounds then BitVec.ofNat 11 m else r.pend }
      ((s.setPort p.toNat x.heard).setRing r1).bumpField Reg.freqSplit 15 0 1
    else s.hear p.toNat x

/-- FREQ_LOWER_ITEM (R356): a value below the module's own pending value is forwarded and scheduled. -/
def execFreqLowerItem (p : BitVec 3) (w0 w1 : BitVec 64) (s : State) : Out :=
  onItem "FREQ_LOWER_ITEM" p w0 s fun x =>
    let v := wf w0 27 16
    if x.live && decide (wf w0 5 4 = 2) && decide (v < s.ring.pendingValue) then
      let s1 := (s.setPort p.toNat x.heard).broadcastItem (freqItem 2 (wf w0 15 8) v w1.toNat)
      let s2 := s1.bumpField Reg.freqSplit 31 16 1
      s2.setRing { s2.ring with lowers := s2.ring.lowers ++ [{ value := BitVec.ofNat 12 v, at_ := w1 }] }
    else s.hear p.toNat x

/-- FREQ_RAIL_PRERAISE (R429): 5,000 rt before a rise applies, the grove rails are raised. -/
def execFreqRailPreraise (s : State) : Out :=
  match s.ring.nextPend with
  | some (v, c) =>
    if v > s.ring.cur.toNat ∧ s.rt + 5000 ≥ c then .next (s.setRing { s.ring with preRaised := true }).setRails else .next s
  | none => .next s

/-- FREQ_APPLY (R355, R356, R429): at the first pending apply count the stand frequency changes. -/
def execFreqApply (s : State) : Out :=
  match s.ring.nextPend with
  | some (_, c) =>
    if s.rt < c then .next s
    else
      let r := s.ring
      let rounds := r.pendFromRounds && decide (r.pendAt.toNat ≤ c)
      let base := if rounds then r.pend.toNat else r.cur.toNat
      let due := r.lowers.filter fun w => decide (w.at_.toNat ≤ c)
      let v := (due.map fun w => w.value.toNat).foldl min base
      .next (s.setRing
        { r with
          cur := BitVec.ofNat 11 v
          held := true
          pend := if rounds then 0 else r.pend
          pendAt := if rounds then 0 else r.pendAt
          pendFromRounds := r.pendFromRounds && !rounds
          lowers := r.lowers.filter fun w => decide (c < w.at_.toNat)
          preRaised := false }).setRails
  | none => .next s

end Sys2Proof.Machine
end

