-- ==== Sys2Proof/Machine/Container.lean ====
section
/-!
DEFINITION. The stand image container (R391 to R395): its header, directory, sections and signature block, the checks of
VERIFY, and the NOR slots.
-/

namespace Sys2Proof.Machine

/-! ### Header and directory -/

/-- Most bytes of a container (Table 14.1). -/
def containerMax : Nat := 20967424

/-- The ASCII magic (Table 14.2). -/
def containerMagic : List Byte := asciiBytes "UXT9SIMG"

/-- Header fields (Table 14.2). -/
def hdrFmt (c : List Byte) : Nat := leAt c 8 2
/-- The container's length. -/
def hdrLen (c : List Byte) : Nat := leAt c 12 4
/-- The heartwood identity. -/
def hdrHeartwood (c : List Byte) : List Byte := sliceBytes c 32 16
/-- Modules in the stand. -/
def hdrModules (c : List Byte) : Nat := leAt c 48 4
/-- Allowed link versions. -/
def hdrVlink (c : List Byte) : Nat := leAt c 52 1
/-- Allowed glade instruction-set versions. -/
def hdrVisa (c : List Byte) : Nat := leAt c 53 1
/-- The identity that the image updates. -/
def hdrPrev (c : List Byte) : List Byte := sliceBytes c 64 64

/-- The image identity (R392). -/
def identityOf (c : List Byte) : List Byte := (Config.sha512 c).take 64

/-- A directory entry (R393). -/
structure DirEntry where
  typ : Nat
  phase : Nat
  role : Nat
  packed : Bool
  off : Nat
  stored : Nat
  content : Nat
  crc : Nat
  index : Nat
  deriving DecidableEq, Repr

/-- The directory entry at a container offset. -/
def dirEntry (c : List Byte) (a : Nat) : DirEntry :=
  { typ := leAt c a 1, phase := leAt c (a + 1) 1, role := leAt c (a + 2) 2, packed := bitOf (leAt c (a + 4) 1) 0,
    off := leAt c (a + 8) 4, stored := leAt c (a + 12) 4, content := leAt c (a + 16) 4, crc := leAt c (a + 20) 4,
    index := leAt c (a + 24) 2 }

/-- The directory. -/
def directory (c : List Byte) : List DirEntry := (List.range (leAt c 54 2)).map fun k => dirEntry c (leAt c 56 4 + 32 * k)

/-- The stored bytes of a section. -/
def DirEntry.bytes (c : List Byte) (e : DirEntry) : List Byte := sliceBytes c e.off e.stored

/-- The content of a section, if it can be read: a compressed one is a Zstandard frame. -/
def DirEntry.data (c : List Byte) (e : DirEntry) : Option (List Byte) :=
  if e.packed then Config.zstdDecode (e.bytes c) else some (e.bytes c)

/-- Whether a section lies on a 64-byte boundary between the header and the signature block. -/
def DirEntry.inBounds (c : List Byte) (e : DirEntry) : Bool :=
  decide (e.off % 64 = 0) && decide (256 ≤ e.off) && decide (e.off + e.stored + 1024 ≤ hdrLen c)

/-- Whether a section's check value, compression and content length hold. -/
def DirEntry.intact (c : List Byte) (e : DirEntry) : Bool :=
  decide (crc32c (e.bytes c) = e.crc) && match e.data c with
    | some d => decide (d.length = e.content)
    | none => false

/-! ### VERIFY -/

/-- Whether the header is accepted. -/
def headerOk (c : List Byte) : Bool :=
  decide (c.take 8 = containerMagic) && (hdrFmt c == 1 || hdrFmt c == 2) && decide (256 + 1024 ≤ hdrLen c)
  && decide (hdrLen c ≤ containerMax)

/-- Whether directory and sections are accepted. -/
def sectionsOk (c : List Byte) : Bool :=
  decide (256 ≤ leAt c 56 4) && decide (leAt c 56 4 + 32 * leAt c 54 2 + 1024 ≤ hdrLen c)
  && (directory c).all (fun e => e.inBounds c) && (directory c).all (fun e => e.intact c)

/-- Whether the signature block names a key of the operator table and the signature verifies under it (R392, R471). -/
def State.signatureOk (s : State) (c : List Byte) : Bool :=
  let n := hdrLen c
  match s.security.operators.find? fun k => decide (keyIdent k.pub = sliceBytes c (n - 512) 4) with
  | some k => Config.rsaVerify k.pub (c.take (n - 1024)) (sliceBytes c (n - 1024) 512)
  | none => false

/-- What VERIFY finds (Table 14.6, Table 14.7): the cause, 0 if the container is verified. -/
def State.containerCause (s : State) (c : List Byte) : Nat :=
  if !headerOk c then 0x02
  else if !sectionsOk c then 0x03
  else if !s.signatureOk c then 0x01
  else 0

/-- The first `len` bytes from an address of the device range, as a container with the length that its header states;
only the header where that length is not accepted. -/
def State.stagedContainer (s : State) : List Byte :=
  let a := stagingRegion.base.toNat
  let n := leNat (s.dev (a + 12) 4)
  if n ≤ containerMax then s.dev a (max n 256) else s.dev a 256

/-! ### NOR slots (R395) -/

/-- `n` bytes of the NOR; an erased byte reads 0xFF. PRESUMED, unsafe: log entry 11. -/
def State.norRead (s : State) (a n : Nat) : List Byte := mread 0xFF s.nor a n

/-- Writing bytes to the NOR. -/
def State.norWrite (s : State) (a : Nat) (bs : List Byte) : State := { s with nor := mwrite 0xFF s.nor a bs }

/-- Erasing the NOR bytes from `a` to `b − 1`. -/
def State.norErase (s : State) (a b : Nat) : State := { s with nor := s.nor.filter fun e => decide (e.1 < a ∨ b ≤ e.1) }

/-- The start of a slot. -/
def slotStart (k : Nat) : Nat := 0x01100000 + k * 0x01400000

/-- Whether a slot is marked empty. -/
def State.slotEmpty (s : State) (k : Nat) : Bool := (s.norRead (slotStart k) 128).all fun b => b == 0xFF
/-- A slot's sequence number; 0 where it is empty. -/
def State.slotSeq (s : State) (k : Nat) : Nat := if s.slotEmpty k then 0 else leNat (s.norRead (slotStart k) 4)
/-- A slot's boot flag. -/
def State.slotBoot (s : State) (k : Nat) : Bool := !s.slotEmpty k && bitOf (leNat (s.norRead (slotStart k + 8) 1)) 0

/-- The container of a slot: as many bytes as its header states; none where it is empty or the length is not accepted. -/
def State.slotContainer (s : State) (k : Nat) : List Byte :=
  let n := leNat (s.norRead (slotStart k + 4) 4)
  if s.slotEmpty k || decide (containerMax < n) then [] else s.norRead (slotStart k + 4096) n

/-- A slot header (R395). -/
def slotHeader (seq len : Nat) (boot : Bool) (ident : List Byte) : List Byte :=
  leBytes 4 seq ++ leBytes 4 len ++ [BitVec.ofNat 8 (natOfBool boot)] ++ zeroBytes 55 ++ ident

/-- Writing a slot's boot flag; an empty slot keeps none. -/
def State.setBoot (s : State) (k : Nat) (boot : Bool) : State :=
  if s.slotEmpty k then s else s.norWrite (slotStart k + 8) [BitVec.ofNat 8 (natOfBool boot)]

/-- Writing a container to a slot: erased, and with the sequence after the highest. -/
def State.storeSlot (s : State) (k : Nat) (c : List Byte) : State :=
  let seq := max (s.slotSeq 0) (s.slotSeq 1) + 1
  let a := slotStart k
  ((s.norErase a (a + 0x01400000)).norWrite a (slotHeader seq c.length false (identityOf c))).norWrite (a + 4096) c

end Sys2Proof.Machine
end

