-- ==== Sys2Proof/Machine/SetupParse.lean ====
section
/-!
DEFINITION. What the sections of a stand image say for one module (R393, R394, R399, R400; Tables 14.3 to 14.5, 11.6) and
the checks that an application and a phase make of it (R298 to R301, R342, R359, R396, R399, R410).
-/

namespace Sys2Proof.Machine

/-! ### Sections -/

/-- Consecutive pieces of `n` bytes of a section. -/
def recordsOf (n : Nat) (bs : List Byte) : List (List Byte) :=
  if n = 0 then [] else (List.range (bs.length / n)).map fun k => sliceBytes bs (n * k) n

/-- The sections of a type that hold for a role, in order of phase and then of the directory: phase, index and content. -/
def sectionsOf (c : List Byte) (role typ : Nat) (phases : List Nat) : List (DirEntry × List Byte) :=
  phases.flatMap fun ph => (directory c).filterMap fun e =>
    if e.typ = typ && e.phase = ph && (e.role = role || e.role = 0xFFFF) then (e.data c).map fun d => (e, d) else none

/-- The last of the sections of a type, which the ones before it give way to. -/
def lastSection (c : List Byte) (role typ : Nat) (phases : List Nat) : Option (List Byte) :=
  (sectionsOf c role typ phases).getLast?.map (·.2)

/-- Every phase a section can have, in order. -/
def allPhases : List Nat := List.range 256

/-! ### Entries -/

/-- A plot entry (Table 14.4). -/
def plotEntry (b : List Byte) : PlotCfg :=
  let f := leAt b 0 1
  { defined := bitOf f 0, exact := bitOf f 1, batch := bitOf f 2, isa := BitVec.ofNat 8 (leAt b 1 1),
    pclass := BitVec.ofNat 2 (leAt b 2 1), leases := BitVec.ofNat 5 (leAt b 3 1), owner := BitVec.ofNat 12 (leAt b 4 2) }

/-- A program store image as words, filled past its end (R171). -/
def programOf (d : List Byte) : List Word :=
  (recordsOf 4 d).map (fun w => BitVec.ofNat 32 (leNat w)) ++ List.replicate (8192 - d.length / 4) 0xFFFFFFFF

/-- A receive window of a glade entry. -/
def windowOf (b : List Byte) : Window :=
  { first := BitVec.ofNat 16 (leAt b 0 2), last := BitVec.ofNat 16 (leAt b 2 2), plots := BitVec.ofNat 64 (leAt b 8 8) }

/-- A resident region of a glade entry. -/
def residentOf (b : List Byte) : Resident :=
  { spa := BitVec.ofNat 16 (leAt b 0 2), len := BitVec.ofNat 16 (leAt b 2 2), src := BitVec.ofNat 48 (leAt b 4 6) }

/-- A program by number; the last of that number. -/
def programNo (progs : List (Nat × List Byte)) (n : Nat) : Option (List Word) :=
  (progs.reverse.find? fun x => x.1 = n).map fun x => programOf x.2

/-- A glade entry (Table 14.5) with the program that it names. -/
def gladeEntry (progs : List (Nat × List Byte)) (b : List Byte) : GladeCfg :=
  let f := leAt b 0 1
  { plot := BitVec.ofNat 6 (bitsOf f 5 0), inService := bitOf f 6, progNo := BitVec.ofNat 16 (leAt b 2 2),
    program := (programNo progs (leAt b 2 2)).getD [], entry := BitVec.ofNat 16 (leAt b 4 2),
    windows := ((List.range 8).map fun k => windowOf (sliceBytes b (8 + 16 * k) 16)).filter fun w => w.plots != 0
    resident := ((List.range 4).map fun k => residentOf (sliceBytes b (136 + 16 * k) 16)).filter fun r => r.len != 0 }

/-- A glade with a new text of the program that it names. -/
def GladeCfg.reprogram (progs : List (Nat × List Byte)) (g : GladeCfg) : GladeCfg :=
  { g with program := (programNo progs g.progNo.toNat).getD g.program }

/-- A route (Table 14.3, type 0x06). -/
def routeEntry (b : List Byte) : RouteInfo :=
  { src := BitVec.ofNat 10 (leAt b 0 2), dst := BitVec.ofNat 10 (leAt b 2 2),
    via := (List.range (leAt b 4 1)).map fun k => BitVec.ofNat 10 (leAt b (8 + 2 * k) 2) }

/-- The chains of a section. -/
def chainsOf : Nat → List Byte → List (List (BitVec 10))
  | 0, _ => []
  | _, [] => []
  | fuel + 1, b :: bs =>
    let l := b :: bs
    let n := leAt l 0 2
    ((List.range n).map fun k => BitVec.ofNat 10 (leAt l (2 + 2 * k) 2)) :: chainsOf fuel (l.drop (2 + 2 * n))

/-- A region descriptor (Table 11.6). -/
def regionEntry (b : List Byte) : Region :=
  let f := leAt b 12 1
  let g := leAt b 13 1
  { base := BitVec.ofNat 48 (leAt b 0 6), size := BitVec.ofNat 32 (leAt b 8 4), kind := BitVec.ofNat 2 (bitsOf f 1 0),
    place := BitVec.ofNat 2 (bitsOf f 3 2), ro := bitOf g 0, mirror := bitOf g 1, hrep := bitOf g 2, leaseWr := bitOf g 3,
    gran := BitVec.ofNat 13 (leAt b 14 2), plots := BitVec.ofNat 64 (leAt b 16 8), smask := BitVec.ofNat 8 (leAt b 24 1),
    umask := BitVec.ofNat 16 (leAt b 26 2), sOff := BitVec.ofNat 32 (leAt b 28 4), sLen := BitVec.ofNat 32 (leAt b 32 4),
    uOff := BitVec.ofNat 32 (leAt b 36 4), uLen := BitVec.ofNat 32 (leAt b 40 4), mOff := BitVec.ofNat 32 (leAt b 44 4),
    gt0 := BitVec.ofNat 32 (leAt b 48 4) }

/-- The 64 bytes of a region descriptor (R299). -/
def Region.bytes64 (r : Region) : List Byte :=
  leBytes 6 r.base.toNat ++ [0, 0] ++ leBytes 4 r.size.toNat
  ++ [BitVec.ofNat 8 (r.kind.toNat + 4 * r.place.toNat),
      BitVec.ofNat 8 (natOfBool r.ro + 2 * natOfBool r.mirror + 4 * natOfBool r.hrep + 8 * natOfBool r.leaseWr)]
  ++ leBytes 2 r.gran.toNat ++ leBytes 8 r.plots.toNat ++ leBytes 1 r.smask.toNat ++ [0] ++ leBytes 2 r.umask.toNat
  ++ leBytes 4 r.sOff.toNat ++ leBytes 4 r.sLen.toNat ++ leBytes 4 r.uOff.toNat ++ leBytes 4 r.uLen.toNat
  ++ leBytes 4 r.mOff.toNat ++ leBytes 4 r.gt0.toNat ++ zeroBytes 12

/-- A module map entry (Table 14.3, type 0x01). -/
def mapRow (b : List Byte) : BitVec 24 × Byte × BitVec 16 :=
  (BitVec.ofNat 24 (leAt b 0 3), BitVec.ofNat 8 (leAt b 3 1), BitVec.ofNat 16 (leAt b 4 2))

/-- The module map of a container. -/
def moduleMapOf (c : List Byte) : List (BitVec 24 × Byte × BitVec 16) :=
  ((((directory c).find? fun e => e.typ = 0x01).bind (·.data c)).map fun d => (recordsOf 8 d).map mapRow).getD []

/-- The role of a torus address in a container's module map. DEDUCED, unsafe: log entry 133. -/
def roleOf (c : List Byte) (addr : BitVec 24) : Option Nat :=
  ((moduleMapOf c).find? fun m => m.1 = addr).map (·.2.2.toNat)

/-- Table entries by number, without the default ones. -/
def tableOf {α : Type} [DecidableEq α] (d : α) (xs : List α) : SMap α := (xs.zipIdx.map fun e => (e.2, e.1)).filter fun e => e.2 ≠ d

/-- The last record of a register. -/
def lastRecord (rs : List (Nat × Word)) (a : Nat) : Option Word := (rs.reverse.find? fun e => e.1 = a).map (·.2)

/-- A register record (Table 14.3, type 0x09). -/
def regRecord (b : List Byte) : Nat × Word := (leAt b 0 4, BitVec.ofNat 32 (leAt b 4 4))

/-- A layer's biases (Table 14.3, type 0x0B). -/
def biasEntry (b : List Byte) : Nat × List (BitVec 16) :=
  (bitsOf (leAt b 0 8) 9 0, (List.range 256).map fun k => BitVec.ofNat 16 (leAt b (8 + 2 * k) 2))

/-- The programs that the sections of some phases carry, by number. -/
def programsOf (c : List Byte) (role : Nat) (phases : List Nat) : List (Nat × List Byte) :=
  (sectionsOf c role 0x05 phases).map fun x => (x.1.index, x.2)

/-- A set-up overlaid with the sections of some phases: a table that they carry replaces the one before, a program replaces
the one of its number, and register records and biases are added. A glade table takes its programs from the phases
`known`. -/
def Setup.overlay (u : Setup) (c : List Byte) (role : Nat) (phases known : List Nat) : Setup :=
  let last := fun (t : Nat) => lastSection c role t phases
  let progs := programsOf c role known
  let mine := programsOf c role phases
  let regs := (sectionsOf c role 0x09 phases).flatMap fun x => (recordsOf 8 x.2).map regRecord
  let bias := (sectionsOf c role 0x0B phases).flatMap fun x => (recordsOf 520 x.2).map biasEntry
  { moduleMap := ((last 0x01).map fun d => (recordsOf 8 d).map mapRow).getD u.moduleMap
    slices := ((last 0x02).map (recordsOf 8)).getD u.slices
    plots := ((last 0x03).map fun d => tableOf PlotCfg.none ((recordsOf 16 d).map plotEntry)).getD u.plots
    glades := ((last 0x04).map fun d => tableOf GladeCfg.none ((recordsOf 256 d).map (gladeEntry progs))).getD
      (u.glades.map fun e => (e.1, e.2.reprogram mine))
    routes := ((last 0x06).map fun d => (recordsOf 24 d).map routeEntry).getD u.routes
    chains := ((last 0x07).map fun d => chainsOf d.length d).getD u.chains
    regions := ((last 0x08).map fun d =>
      ((recordsOf 64 d).zipIdx.map fun e => (e.2, regionEntry e.1)).filter fun e => e.2.size != 0).getD u.regions
    regs := u.regs ++ regs
    exchange := ((last 0x0A).map fun d => tableOf 0 ((recordsOf 8 d).map fun b => BitVec.ofNat 64 (leNat b))).getD u.exchange
    bias := u.bias ++ bias }

/-- A plot of a set-up. -/
def Setup.plot (u : Setup) (p : Nat) : PlotCfg := mget PlotCfg.none u.plots p
/-- A glade of a set-up. -/
def Setup.glade (u : Setup) (g : Nat) : GladeCfg := mget GladeCfg.none u.glades g
/-- The value a set-up gives a register: its last record, or the reset value. -/
def Setup.reg (u : Setup) (a : Nat) : Nat := ((lastRecord u.regs a).getD (regReset a)).toNat
/-- A field of a register of a set-up. -/
def Setup.field (u : Setup) (a hi lo : Nat) : Nat := bitsOf (u.reg a) hi lo

/-! ### Register records (R399 step 2) -/

/-- Whether a register is marked LK. -/
def isLk (a : Nat) : Bool := match regSpec? a with
  | some r => r.lk != 0
  | none => false

/-- Whether a value of a register lies in the range that its field map states. -/
def valueOk (a : Nat) (w : Word) : Bool :=
  let x := w.toNat
  let f := fun (hi lo : Nat) => bitsOf x hi lo
  if a = Reg.stepPeriod then x == 0 || decide (1000 ≤ x)
  else if a = Reg.srvBmax then decide (1 ≤ f 10 0 ∧ f 10 0 ≤ 1364)
  else if a = Reg.srvIn then decide (10 ≤ f 4 0 ∧ f 4 0 ≤ 20)
  else if a = Reg.rteBias then f 15 0 != 0
  else if a = Reg.rteShp then decide (f 16 0 ≤ 65536)
  else if a = Reg.fabDim then
    [f 5 0, f 13 8, f 21 16].all fun n => decide (1 ≤ n ∧ n ≤ 32)
  else if a = Reg.cnpPgeom then f 7 0 == 0 || decide (1 ≤ f 13 8 ∧ f 13 8 ≤ 32)
  else if decide (Reg.skCfg ≤ a) && decide (a < Reg.skCfg + 24) then f 2 0 != 6
  else if decide (Reg.gldMap ≤ a) && decide (a < Reg.gldMap + 64) then
    (decide (f 6 0 < 64) || f 6 0 == 0x7F) && (decide (f 14 8 < 64) || f 14 8 == 0x7F)
      && (f 6 0 == 0x7F || f 6 0 != f 14 8)
  else true

/-- Whether every register record names an LK register and carries a value in range. -/
def Setup.recordsOk (u : Setup) : Bool := u.regs.all fun e => isLk e.1 && valueOk e.1 e.2

/-! ### Regions (R298 to R301, R396) -/

/-- Units of 4 KiB of a stack that an image may use (R396), and of an understory channel. -/
def stackUnits : Nat := 18872448
/-- Units of an understory channel. -/
def chanUnits : Nat := 33554432

/-- A run of 4 KiB units in stack `unit` or channel `unit − 8`. -/
structure PoolRun where
  unit : Nat
  lo : Nat
  hi : Nat
  deriving DecidableEq, Repr

/-- Units per stack or channel that a linear pool of a region needs (R300). -/
def Region.perUnit (r : Region) (n : Nat) : Nat := ceilDiv r.size.toNat n

/-- The pool runs of a region. -/
def Region.runs (r : Region) : List PoolRun :=
  let st := setBits 8 r.smask.toNat
  let un := setBits 16 r.umask.toNat
  (if r.place = 1 then [] else st.map fun k => { unit := k, lo := r.sOff.toNat, hi := r.sOff.toNat + r.sLen.toNat })
  ++ (if r.place = 0 then [] else un.map fun k => { unit := 8 + k, lo := r.uOff.toNat, hi := r.uOff.toNat + r.uLen.toNat })
  ++ (if r.mirror then
        un.map fun k => { unit := 8 + k, lo := r.mOff.toNat, hi := r.mOff.toNat + r.perUnit un.length }
      else [])

/-- Whether a region keeps the limits of Tables 11.5 and 11.6 and its pools hold it. -/
def Region.limitsOk (r : Region) (gtab : Nat) : Bool :=
  let ns := (setBits 8 r.smask.toNat).length
  let nu := (setBits 16 r.umask.toNat).length
  decide (r.base.toNat % 4096 = 0) && decide (r.base.toNat + r.bytes ≤ 2 ^ 48)
  && (match r.kind.toNat with
      | 0 => r.place == 0 && !r.mirror && !r.hrep
      | 1 => r.place != 3 && (!r.mirror || r.place == 0)
      | 2 => r.place != 3 && !r.mirror && !r.hrep
      | _ => r.place != 3 && !r.mirror)
  && (match r.place.toNat with
      | 0 => ns != 0 && r.gran == 0 && decide (r.perUnit ns ≤ r.sLen.toNat)
      | 1 => nu != 0 && r.gran == 0 && decide (r.perUnit nu ≤ r.uLen.toNat)
      | _ => decide (1 ≤ r.gran.toNat ∧ r.gran.toNat ≤ 4096) && decide (r.granCount ≤ r.slots false + r.slots true)
             && decide (r.gt0.toNat + r.granCount ≤ gtab))
  && (!r.mirror || nu != 0)

/-- Whether two pool runs share a unit. -/
def PoolRun.meets (a b : PoolRun) : Bool := a.unit == b.unit && decide (a.lo < b.hi) && decide (b.lo < a.hi)

/-- Whether no two of a list are related by a test. -/
def noPair {α : Type} (t : α → α → Bool) : List α → Bool
  | [] => true
  | x :: xs => xs.all (fun y => !t x y) && noPair t xs

/-- Whether two regions overlap in the device range. -/
def Region.overlaps (a b : Region) : Bool := meets a.base.toNat a.bytes b.base.toNat b.bytes

/-- Whether a run keeps to its stack or channel. -/
def PoolRun.fits (r : PoolRun) : Bool := decide (r.hi ≤ if r.unit < 8 then stackUnits else chanUnits)

/-- The granule table's runs: striped over all eight stacks (R301). -/
def Setup.tableRuns (u : Setup) : List PoolRun :=
  let off := u.field Reg.memGtabOff 24 0
  let n := ceilDiv (ceilDiv (16 * u.field Reg.memGtabCnt 27 0) 4096) 8
  if n = 0 then [] else (List.range 8).map fun k => { unit := k, lo := off, hi := off + n }

/-- Whether the regions of a set-up keep every rule (R296, R298, R301, R396). DEDUCED, unsafe: log entry 92. -/
def Setup.regionsOk (s : State) (u : Setup) : Bool :=
  let rs := u.regions.map (·.2)
  let runs := u.tableRuns ++ rs.flatMap (·.runs)
  rs.all (fun r => r.limitsOk (u.field Reg.memGtabCnt 27 0)) && noPair Region.overlaps (stagingRegion :: rs)
  && noPair PoolRun.meets runs && runs.all (fun r => r.fits)
  && runs.all fun r =>
    if r.unit < 8 then (s.mem.stks.getD r.unit StackState.init).state != 3 else s.mem.uch.getD (r.unit - 8) 0 != 3

/-! ### Tables (R399 steps 1 and 5, R410) -/

/-- The plots that a set-up defines. -/
def Setup.defined (u : Setup) : List Nat := (u.plots.filter fun e => e.2.defined).map (·.1)
/-- Glades of a set-up in service. -/
def Setup.inService (u : Setup) : List (Nat × GladeCfg) := u.glades.filter fun e => e.2.inService

/-- Whether every plot's instruction-set version is permitted and supported (GLD_ISA: 1 and 2). -/
def Setup.isaOk (u : Setup) (visa : Nat) : Bool :=
  u.plots.all fun e => !e.2.defined || ((e.2.isa == 1 || e.2.isa == 2) && bitOf visa (e.2.isa.toNat - 1))

/-- Whether a glade entry keeps its field limits. -/
def GladeCfg.ok (u : Setup) (g : GladeCfg) : Bool :=
  !g.inService || ((u.plot g.plot.toNat).defined && !g.program.isEmpty
    && g.windows.all (fun w => decide (w.first.toNat ≤ w.last.toNat))
    && g.resident.all fun r => decide (8 * (r.spa.toNat + r.len.toNat) ≤ spadSize))

/-- Whether each pair of a chain lies in one plot and its second glade admits that plot. -/
def Setup.chainOk (u : Setup) : List (BitVec 10) → Bool
  | a :: b :: rest =>
    let ga := u.glade a.toNat
    let gb := u.glade b.toNat
    decide (ga.plot = gb.plot) && gb.windows.any (fun w => w.plots.getLsbD ga.plot.toNat) && u.chainOk (b :: rest)
  | _ => true

/-- Whether the tables of a set-up keep their field limits: plots, glades, routes, chains. -/
def Setup.tablesOk (u : Setup) : Bool :=
  u.plots.all (fun e => decide (e.2.pclass.toNat < 2)) && u.glades.all (fun e => e.2.ok u)
  && u.routes.all (fun r => decide (r.via.length ≤ 8)) && u.chains.all u.chainOk

/-- Whether no plot in exact mode has isa 1 and every grove's plots share a power class (R410). -/
def Setup.modesOk (u : Setup) : Bool :=
  u.plots.all (fun e => !(e.2.defined && e.2.exact && e.2.isa == 1))
  && (List.range 16).all fun gv =>
    let cs := (u.inService.filter fun e => groveOf e.1 = gv).map fun e => (u.plot e.2.plot.toNat).pclass
    cs.all fun c => decide (c = cs.headD 0)

/-- The coordinates of one axis of a slice: from the first to the last around a ring of `n`, or the whole ring. -/
def intervalOf (n a b : Nat) : List Nat :=
  if a = 0xFF ∧ b = 0xFF then List.range n
  else if n = 0 then [] else (List.range ((b + n - a) % n + 1)).map fun i => (a + i) % n

/-- Whether the modules of every slice of the module map fill the box that the slice's entry gives (R342). -/
def Setup.slicesOk (u : Setup) : Bool :=
  let dim := fun (k : Nat) => u.field Reg.fabDim (8 * k + 5) (8 * k)
  u.moduleMap.all (fun m => decide (m.2.1.toNat < u.slices.length)) &&
  (List.range u.slices.length).all fun k =>
    let b := u.slices.getD k []
    let axis := fun (i : Nat) => intervalOf (dim i) (leAt b (2 * i) 1) (leAt b (2 * i + 1) 1)
    let mine := (u.moduleMap.filter fun m => m.2.1.toNat = k).map (·.1)
    mine.isEmpty || (mine.all (fun a => (List.range 3).all fun i => (axis i).contains (coord a i))
      && decide (mine.dedup.length = (axis 0).length * (axis 1).length * (axis 2).length))

/-- Whether an image that allows Skajor version 1 alone sets vmask to version 1 alone (R359). -/
def Setup.skajorOk (u : Setup) (vlink : Nat) : Bool :=
  bitsOf vlink 6 5 != 1 || u.field Reg.fabCtl 2 1 == 1

/-- Whether the versions in use on the three link kinds are permitted (R390, R399 step 1); a link that is not up uses none. -/
def State.linksOk (s : State) (vlink : Nat) : Bool :=
  (s.alapor.ver == 0 || bitOf vlink (s.alapor.ver - 1)) && (s.ohmip.ver == 0 || bitOf vlink (3 + s.ohmip.ver - 1))
  && s.fabric.ports.all fun p => !p.live || p.ver == 0 || bitOf vlink (5 + p.ver.toNat - 1)

/-- What the checks of an application find (R399; Table 14.7), in its order: the cause, 0 if they pass.
DEDUCED, unsafe: log entry 91. -/
def State.setupCause (s : State) (u : Setup) (c : List Byte) : Nat :=
  if !s.linksOk (hdrVlink c) || !u.isaOk (hdrVisa c) then 0x05
  else if !u.recordsOk then 0x07
  else if !Setup.regionsOk s u then 0x06
  else if !u.tablesOk then 0x07
  else if !u.modesOk || !u.slicesOk || !u.skajorOk (hdrVlink c) then 0x0C
  else 0

/-- Whether the tables that a container carries for a role have the sizes of Table 14.3. -/
def sizesOk (c : List Byte) (role : Nat) : Bool :=
  let ok := fun (t : Nat) (good : Nat → Bool) => (sectionsOf c role t allPhases).all fun x => good x.2.length
  ok 0x01 (· % 8 == 0) && ok 0x02 (· % 8 == 0) && ok 0x03 (· == 1024) && ok 0x04 (· == 262144)
  && ok 0x05 (fun n => decide (n ≤ 32768) && n % 4 == 0) && ok 0x06 (· % 24 == 0) && ok 0x08 (· == 4096)
  && ok 0x09 (· % 8 == 0) && ok 0x0A (· == 2048) && ok 0x0B (· % 520 == 0)

/-! ### The phase table (R400) -/

/-- The hold set that a hold list gives a role. -/
def holdOf (c : List Byte) (role at_ n : Nat) : BitVec 64 :=
  ((List.range n).map fun k => sliceBytes c (at_ + 16 * k) 16).foldl
    (fun m b => if leAt b 0 2 = role ∨ leAt b 0 2 = 0xFFFF then m ||| BitVec.ofNat 64 (leAt b 8 8) else m) 0

/-- The phases of a container for a role; the phase table and the hold lists lie at container offsets (R391). -/
def phasesOf (c : List Byte) (role : Nat) : List PhaseInfo :=
  let t := leAt c 60 4
  if t = 0 then [] else (List.range (leAt c t 1)).map fun k =>
    let b := sliceBytes c (t + 8 + 16 * k) 16
    { num := leAt b 0 1, drain := if leAt b 4 4 = 0 then 100000 else leAt b 4 4, hold := holdOf c role (leAt b 8 4) (leAt b 2 2) }

end Sys2Proof.Machine
end

