-- ==== Sys2Proof/Machine/Apply.lean ====
section
/-!
DEFINITION. Writing what a stand image sets up (R399 steps 3 to 7, R238, R277, R315, R454, R148, R206, R188), the
configuration faults that it may bring (R160, R211, R217, R260, R289, R304, R418), and the start of stepping (R46).
-/

namespace Sys2Proof.Machine

/-! ### Registers -/

/-- A word of a register with the bits of a mask taken from a new value. -/
def maskWord (old new m : Word) : Word := (old &&& ~~~m) ||| (new &&& m)

/-- What a register keeps of a value written to it: a cap above 10,000 W is stored as 10,000 (R418), a bole master outside
its grove as 0x3FF (R160). -/
def keptValue (a : Nat) (w : Word) : Word :=
  if a = Reg.wardenCap && decide (10000 < bitsOf w.toNat 15 0) then withField w 15 0 10000
  else if decide (Reg.boleMaster ≤ a) && decide (a < Reg.boleMaster + 64)
      && groveOf (bitsOf w.toNat 9 0) != (a - Reg.boleMaster) / 4 then withField w 9 0 0x3FF
  else w

/-- Storing a value under the RW and LK bits of a register. -/
def State.storeReg (s : State) (a : Nat) (w : Word) : State :=
  match regSpec? a with
  | some r => s.setReg a (keptValue a (maskWord (s.reg a) w (r.rw ||| r.lk)))
  | none => s

/-- STEP_BASE and STEP_PERIOD, which an application writes last (R399). -/
def isStepReg (a : Nat) : Bool := a == Reg.stepBaseLo || a == Reg.stepBaseHi || a == Reg.stepPeriod

/-- Totals of the layers zeroed (R80). -/
def zeroTotals (m : SMap LayerTotal) : SMap LayerTotal :=
  (m.map fun e => (e.1, { e.2 with satTotal := 0, zeroTotal := 0 })).filter fun e => e.2 ≠ LayerTotal.init

/-- A register written by the host or by a record of a stand image: a write of NUM_LREC_BASE_LO zeroes the cumulative
fields (R80). -/
def State.storeRecord (s : State) (a : Nat) (w : Word) : State :=
  let t := s.storeReg a w
  if a = Reg.numLrecBaseLo then { t with layers := zeroTotals t.layers } else t

/-- Storing each of a list of records, in order. -/
def storeRecords : List (Nat × Word) → State → State
  | [], s => s
  | e :: es, s => storeRecords es (s.storeRecord e.1 e.2)

/-- S_0 and P (R45). -/
def State.s0 (s : State) : Nat := s.reg64 Reg.stepBaseLo
/-- The step period P. -/
def State.period (s : State) : Nat := s.regN Reg.stepPeriod
/-- S_n (R45), as a ring count. -/
def State.stepAt (s : State) (n : Nat) : Nat := s.s0 + n * s.period

/-- The first step whose boundary lies after a ring count (R46). -/
def State.firstAfter (s : State) (rt : Nat) : Nat :=
  if rt < s.s0 then 0 else if s.period = 0 then 0 else (rt - s.s0) / s.period + 1

/-- STEP_PERIOD becoming non-zero: stepping starts at the first boundary to come (R46). -/
def State.startStepping (s : State) : State :=
  if s.period = 0 then s else { s with step := { s.step with next := s.firstAfter s.rt, stopAsked := false } }

/-- Every LK register back at its reset value (R399). -/
def resetLk : List (Nat × Word) → State → State
  | [], s => s
  | e :: es, s => match regSpec? e.1 with
    | some r => resetLk es (s.setReg e.1 (maskWord (s.reg e.1) r.reset r.lk))
    | none => resetLk es s

/-! ### Configuration faults of cause 0 -/

/-- Registers of a 4 KiB aligned base: its low word, the serving block's and the routing engine's (R260, R289). -/
def servingBases : List Nat :=
  [Reg.srvPtBaseLo, Reg.srvPageBaseLo, Reg.srvPlistBaseLo, Reg.srvInBaseLo, Reg.srvInbBaseLo, Reg.srvCpcBaseLo, Reg.srvGtBaseLo]
/-- The routing engine's and the scout's. -/
def routingBases : List Nat :=
  [Reg.rteBiasBaseLo, Reg.rteLoadBaseLo, Reg.rteShpBaseLo, Reg.rteRxBaseLo, Reg.rteRxLimLo, Reg.sctBaseLo]

/-- Bases that the records of a set-up name off a 4 KiB boundary. -/
def Setup.badBases (u : Setup) (bases : List Nat) : List Nat := bases.filter fun a => u.reg a % 4096 != 0

/-- The sum of the Warden's fractions (R418). -/
def State.fracSum (s : State) : Nat := ((List.range 16).map fun g => s.field (Reg.wardenFrac + 4 * g) 16 0).sum

/-- Pairings that name no partner on the same die that names them in return, one leading and one following (R217). -/
def State.badTwins (s : State) : List Nat :=
  (List.range 16).filter fun g => decide (s.field (Reg.cnpTwin + 4 * g) 5 5 = 1) && (s.twin g).isNone

/-- The registers whose values bring a configuration fault: R260, R289, R211, R304, R217, R160, R418. -/
def State.configFaults (s : State) (u : Setup) : List Nat :=
  u.badBases servingBases ++ u.badBases routingBases
  ++ (if 2 ^ 24 < s.pageCount then [Reg.srvPageCnt] else [])
  ++ (if s.field Reg.srvCpc 4 0 < 10 ∨ 20 < s.field Reg.srvCpc 4 0 then [Reg.srvCpc] else [])
  ++ (if s.nLayer != 0 && decide (s.pageBytes < s.nLayer * s.nKv * sliceSize s.kvForm) then [Reg.cnpPgeom] else [])
  ++ (if s.nLayer != 0 && !s.digestsFit then [Reg.memDig] else [])
  ++ s.badTwins.map (fun g => Reg.cnpTwin + 4 * g)
  ++ ((List.range 16).map fun g => Reg.boleMaster + 4 * g).filter (fun a =>
       u.reg a != 0x3FF && groveOf (bitsOf (u.reg a) 9 0) != (a - Reg.boleMaster) / 4)
  ++ (if 65536 < s.fracSum then [Reg.wardenFrac] else [])

/-- A configuration fault of a register (class 0x0F, cause 0). -/
def State.configFault (s : State) (a : Nat) : State := s.raise { cls := 0x0F, cause := 0, detail := leBytes 4 a }

/-- One configuration fault each. -/
def raiseConfig : List Nat → State → State
  | [], s => s
  | a :: as, s => raiseConfig as (s.configFault a)

/-- The configuration faults after a set-up, those before it left out but that of the fractions (R418), and what they
disable. -/
def State.checkConfig (s : State) (u : Setup) (before : List Nat) : State :=
  let s1 := raiseConfig ((s.configFaults u).filter fun a => a = Reg.wardenFrac || !before.contains a) s
  let ok := s1.routing.ok && (u.badBases routingBases).isEmpty
  { s1 with
    serving := { s1.serving with ok := (u.badBases servingBases).isEmpty }
    routing := { s1.routing with ok := ok }
    power := { s1.power with fracBad := decide (65536 < s1.fracSum) } }

/-! ### Regions and the page set -/

/-- Mapping every granule of a region, in ascending order (R315). -/
def mapAll (k : Nat) (r : Region) : List Nat → State → State
  | [], s => s
  | i :: is, s => mapAll k r is (s.mapGranule k r i true)

/-- Unmapping every granule of a region. -/
def unmapAll (k : Nat) (r : Region) : List Nat → State → State
  | [], s => s
  | i :: is, s => unmapAll k r is (s.unmapGranule k r i)

/-- Ending what a region holds before it is changed or removed: its granules and repairs. -/
def State.endRegion (s : State) (k : Nat) (r : Region) : State :=
  let s1 := unmapAll k r (List.range r.granCount) s
  { s1 with mem := Memory.flushLate { s1.mem with repairs := s1.mem.repairs.filter fun e => e.region ≠ k } }

/-- Ending every listed region. -/
def endRegions : List (Nat × Region) → State → State
  | [], s => s
  | e :: es, s => endRegions es (s.endRegion e.1 e.2)

/-- Mapping the granules of the listed MIGRATE regions; those of the page set are mapped as pages are allocated. -/
def mapRegions : List (Nat × Region) → State → State
  | [], s => s
  | e :: es, s =>
    mapRegions es (if e.2.place = 2 ∧ e.2.kind ≠ 2 then mapAll e.1 e.2 (List.range e.2.granCount) s else s)

/-- Replacing the regions of a set-up by those of another; an unchanged region keeps its mapping, counts and hints. -/
def State.setRegions (s : State) (old new : Setup) : State :=
  let gone := old.regions.filter fun e => !new.regions.contains e
  let came := new.regions.filter fun e => !old.regions.contains e
  let s1 := endRegions gone s
  mapRegions came { s1 with mem := { s1.mem with regions := new.regions ++ [(64, stagingRegion)] } }

/-- The module's own write into the device range at a set-up. -/
def State.fillDev (s : State) (a : Nat) (bs : List Byte) : State := { s with mem := s.mem.write a bs }

/-- Coppice records made invalid (R454). -/
def clearCoppice : List Nat → State → State
  | [], s => s
  | r :: rs, s => clearCoppice rs (s.fillDev (s.recAddr r + 14) [0, 0])

/-- Every pipeline's look-aside buffer emptied (R216). -/
def State.emptyPlbs (s : State) : State :=
  { s with groves := (s.groves.map fun e => (e.1, { e.2 with canopy := { e.2.canopy with plb := [] } })).filter fun e =>
      e.2 ≠ Grove.init }

/-- The page table made invalid, every page free, in ascending order (R238), and the look-aside buffers empty (R216). -/
def State.initPages (s : State) : State :=
  let s1 := (s.fillDev (s.pteAddr 0) (zeroBytes (16 * s.pageCount))).emptyPlbs
  { s1 with serving := { s1.serving with freed := [], freeNext := 0, slot15 := [] } }

/-! ### Biases (R277) -/

/-- Whether a set-up has tables at a base: a record names its register. DEDUCED, unsafe: log entry 155. -/
def Setup.names (u : Setup) (lo : Nat) : Bool := u.regs.any fun e => e.1 = lo || e.1 = lo + 4

/-- Writing one layer's bias table, and zeroing its load table. -/
def State.putBias (s : State) (u : Setup) (e : Nat × List (BitVec 16)) : State :=
  let s1 := if u.names Reg.rteBiasBaseLo then
      s.fillDev (s.base48 Reg.rteBiasBaseLo + 512 * e.1) (e.2.flatMap fun b => leBytes 2 b.toNat) else s
  if u.names Reg.rteLoadBaseLo then s1.fillDev (s.base48 Reg.rteLoadBaseLo + 1024 * e.1) (zeroBytes 1024) else s1

/-- Writing the bias tables of a list of layers. -/
def putBiases (u : Setup) : List (Nat × List (BitVec 16)) → State → State
  | [], s => s
  | e :: es, s => putBiases u es (s.putBias u e)

/-- Every layer's biases: those carried, else zero. -/
def Setup.biases (u : Setup) : List (Nat × List (BitVec 16)) :=
  (List.range 1024).map fun l =>
    (l, ((u.bias.reverse.find? fun e => e.1 = l).map (·.2)).getD (List.replicate 256 0))

/-! ### Plots and glades -/

/-- A plot with its entry's fields. -/
def Plot.configure (p : Plot) (c : PlotCfg) : Plot :=
  { p with defined := c.defined, exact := c.exact, batch := c.batch, isa := c.isa, pclass := c.pclass, leases := c.leases,
           owner := c.owner }

/-- A glade with its entry's fields; nothing of an earlier program waits in its engine queues; its generators are loaded anew
if its plot changed (R148). -/
def Glade.configure (g : Glade) (c : GladeCfg) : Glade :=
  { g with
    plot := c.plot, inService := c.inService, program := c.program, entry := c.entry, windows := c.windows
    resident := c.resident, lfsr := if g.plot = c.plot then g.lfsr else [], engine := [] }

/-- Configuring the listed plots. -/
def setPlots (u : Setup) : List Nat → State → State
  | [], s => s
  | p :: ps, s => setPlots u ps (s.setPlot p ((s.plot p).configure (u.plot p)))

/-- Configuring the listed glades. -/
def setGlades (u : Setup) : List Nat → State → State
  | [], s => s
  | g :: gs, s => setGlades u gs (s.setGlade g ((s.glade g).configure (u.glade g)))

/-! ### Initial application (R399) -/

/-- The set-up that a container gives a role. -/
def setupOf (c : List Byte) (role : Nat) : Setup := Setup.none.overlay c role allPhases allPhases

/-- LK registers that the records of a set-up do not name, with the values that they had (R399 step 4). -/
def keepUnnamed (u : Setup) : List (Nat × Word) → State → State
  | [], s => s
  | e :: es, s => match regSpec? e.1 with
    | some r => keepUnnamed u es (if u.regs.any fun x => x.1 = e.1 then s else s.setReg e.1 (maskWord (s.reg e.1) e.2 r.lk))
    | none => keepUnnamed u es s

/-- Steps 3 to 7 of an initial application: the regions and what depends on their registers, the register records, the
tables, biases, generators and tags, and the step registers last. Every register that no record names has its reset value
meanwhile (step 2). DEDUCED, unsafe: log entry 93. -/
def State.install (s : State) (u : Setup) : State :=
  let s1 := storeRecords (u.regs.filter fun e => !isStepReg e.1) (resetLk s.regs.vals s)
  let s2 := s1.setRegions Setup.none u
  let s3 := clearCoppice (List.range (if s2.base48 Reg.srvCpcBaseLo = 0 then 0 else 4 * 2 ^ s2.field Reg.srvCpc 4 0)) s2.initPages
  let s4 := { s3 with plots := [], glades := [], groves := [], lease := { held := [], waiting := [], last := [] } }
  let s5 := setGlades u (u.glades.map (·.1)) (setPlots u (u.plots.map (·.1)) s4)
  let s6 := putBiases u u.biases s5
  let s7 := storeRecords (u.regs.filter fun e => isStepReg e.1) s6
  s7.startStepping

/-- What an initial application of a container finds (R399; Table 14.7): the role's set-up, or the cause. -/
def State.initialSetup (s : State) (c : List Byte) : Setup ⊕ Nat :=
  match roleOf c s.torus with
  | some role =>
    if (lastSection c role 0x03 allPhases).isNone then .inr 0x04
    else if !sizesOk c role then .inr 0x03
    else
      let u := setupOf c role
      let k := s.setupCause u c
      if k = 0 then .inl u else .inr k
  | none => .inr 0x04

/-- An image fault of Table 14.7: IMG_STAT.cause, GBL_STAT.image and a configuration fault record. -/
def State.imageFault (s : State) (cause : Nat) (reg : Nat) (update : Bool) : State :=
  let s1 := (s.raiseAs { cls := 0x0F, cause, detail := if reg = 0 then [] else leBytes 4 reg } update).setCause 4
  { s1 with image := { s1.image with cause := BitVec.ofNat 8 cause } }

/-- The register of the first record that step 2 refuses. -/
def State.badRecord (s : State) (c : List Byte) : Nat :=
  match roleOf c s.torus with
  | some role => (((setupOf c role).regs.find? fun e => !(isLk e.1 && valueOk e.1 e.2)).map (·.1)).getD 0
  | none => 0

/-- A failed application: every step undone, the LK registers at their reset values, no image (R399). -/
def State.refuseImage (s : State) (cause : Nat) (c : List Byte) : State :=
  let s1 := resetLk s.regs.vals s
  s1.imageFault cause (if cause = 0x07 then s.badRecord c else 0) false

/-- A container applied: the current store, the identity, IMG_STAT (R399). -/
def State.holdImage (s : State) (c : List Byte) (u : Setup) : State :=
  { s with image := { s.image with
      state := 1, current := c, identity := identityOf c, heartwood := hdrHeartwood c, standSize := hdrModules c,
      setup := u, undo := u, next := u, op := .none, phases := [], phase := 0, rolling := false, failed := 0 } }

/-- An initial application of a verified container, and whether it succeeds; `bad`: the memory faults while it loads. -/
def State.initialApply (s : State) (c : List Byte) (bad : Bool) : State × Bool :=
  match s.initialSetup c with
  | .inr cause => (s.refuseImage cause c, false)
  | .inl u =>
    if bad then (s.refuseImage 0x0A c, false)
    else
      let t := keepUnnamed u s.regs.vals ((s.install u).checkConfig u [])
      ((t.holdImage c u).checkOffer.drainInbox, true)

end Sys2Proof.Machine
end

