-- ==== Sys2Proof/Machine/Update.lean ====
section
/-!
DEFINITION. Image commands and updates in phases (R397 to R409): staging, storing, applying, scheduling, what a phase may
change (Table 14.8), its begin, drain and commit, rollback and reload, and BOOT_IMAGE_APPLY (R398).
-/

namespace Sys2Proof.Machine

/-- Whether the Ranger runs: its domain is on and it is not held in reset. -/
def State.rangerRuns (s : State) : Bool := s.board.on.getLsbD 29 && !s.board.rangerReset

/-- Whether a phase or rollback phase is in progress (R403). -/
def State.phasing (s : State) : Bool := s.image.phase ≠ 0

/-- Whether a stand image is being applied (R403): a phase is in progress, or a rollback failed and nothing has committed
since. -/
def State.applying (s : State) : Bool := s.phasing || decide (s.image.state = 5) || decide (s.image.state = 2 ∧ s.image.prior = 5)

/-- Replacing the image machinery. -/
def State.setImage (s : State) (i : Image) : State := { s with image := i }

/-- Whether an update, rollback or reload is pending or in progress. -/
def State.imageOpOn (s : State) : Bool := decide (s.image.op ≠ .none)

/-! ### Commands that run (operations 1, 2, 3, 8) -/

/-- A command that the module refuses (cause 0x0D). DEDUCED, unsafe: log entry 90. -/
def State.refuseOp (s : State) : State := s.imageFault 0x0D 0 s.phasing

/-- IMG_STAT.busy: an image command runs, or FW_STORE (R466). -/
def State.imageBusy (s : State) : Bool := s.image.run.isSome || (match s.security.run with
  | some r => decide (r.code = 0x28)
  | none => false)

/-- Starting an image command: refused while one runs. -/
def imageCommand (s : State) (k : State → State) : Out :=
  if !s.rangerRuns then .next s
  else if s.imageBusy then .next s.refuseOp
  else .next (k s)

/-- Starting a command that ends at IMAGE_COMMAND_COMPLETE. -/
def State.startImage (s : State) (op : Nat) (slot : Bool) (cause : Nat) (body : List Byte) : State :=
  s.setImage { s.image with run := some { op, slot, cause := BitVec.ofNat 8 cause, body } }

/-- Operation 1. DEDUCED, unsafe: log entry 89. -/
def State.verify (s : State) : State :=
  let c := s.stagedContainer
  s.startImage 1 false (s.containerCause c) c

/-- Operation 2: refused without a verified container or where the slot carries the boot flag. -/
def State.store (s : State) (slot : Bool) : State :=
  if !s.image.stagedOk || s.slotBoot (natOfBool slot) then s.refuseOp else s.startImage 2 slot 0 s.image.staged

/-- Operation 3. -/
def State.stage (s : State) (slot : Bool) : State :=
  let c := s.slotContainer (natOfBool slot)
  s.startImage 3 slot (s.containerCause c) c

/-- VERIFY (R397). -/
def execVerifyImage (s : State) : Out := imageCommand s State.verify
/-- STORE (R397). -/
def execStoreImage (slot : Bool) (s : State) : Out := imageCommand s fun t => t.store slot
/-- STAGE (R397). -/
def execStageImage (slot : Bool) (s : State) : Out := imageCommand s fun t => t.stage slot
/-- BOOT (R397). -/
def execBootSlot (slot : Bool) (s : State) : Out := imageCommand s fun t => t.startImage 8 slot 0 []

/-- The verified container staged, or the failure of its verification; cause 0x01 is a signature that fails (R471). -/
def State.endVerify (s : State) (r : ImageRun) : State :=
  if r.cause = 0 then s.setImage { s.image with staged := r.body, stagedOk := true }
  else
    let s1 := if r.cause = 1 then s.verifyFailed else s
    (s1.setImage { s1.image with staged := [], stagedOk := false }).imageFault r.cause.toNat 0 s.phasing

/-- A slot marked as holding a verified container, or not. -/
def State.markSlot (s : State) (slot ok : Bool) : State :=
  s.setImage { s.image with valid := setAt s.image.valid (natOfBool slot) ok }

/-- The end of an image command by its operation (Table 14.6). -/
def State.endImage (s : State) (r : ImageRun) : State :=
  let k := natOfBool r.slot
  match r.op with
  | 2 =>
    let s1 := s.storeSlot k r.body
    s1.markSlot r.slot (decide (s1.slotContainer k = r.body))
  | 3 => ((s.fillDev stagingRegion.base.toNat r.body).endVerify r).markSlot r.slot (r.cause == 0)
  | 8 => (s.setBoot k true).setBoot (1 - k) false
  | _ => s.endVerify r

/-- IMAGE_COMMAND_COMPLETE (R397); a program or erase of the SPI NOR waits for the input to recover (R14). -/
def execImageCommandComplete (s : State) : Out :=
  match s.image.run with
  | some r => if !s.rangerRuns || (s.board.norHold && (r.op == 2 || r.op == 8)) then .next s else
      .next (((s.setImage { s.image with run := none }).endImage r).setCause 4)
  | none => .next s

/-! ### Scheduling (operations 4 to 7) -/

/-- The plots of a mask. -/
def plotsIn (m : BitVec 64) : List Nat := (List.range 64).filter fun p => m.getLsbD p
/-- The mask of some plots. -/
def plotMask (ps : List Nat) : BitVec 64 := ps.foldl (fun m p => m ||| (1 <<< p)) 0

/-- An operation pending from step IMG_APPLY. -/
def State.schedule (s : State) (op : ImageOp) (phases : List PhaseInfo) : State :=
  s.setImage { s.image with
    state := 2, prior := s.image.state, op, applyStep := s.reg64 Reg.imgApplyLo, phases, phase := 0, rolling := false, undo := s.image.setup }

/-- What an APPLY as an update finds before it is scheduled: the cause, 0 if none. -/
def State.updateCause (s : State) (c : List Byte) : Nat :=
  if hdrFmt c ≠ 2 then 0x02
  else if hdrPrev c ≠ s.image.identity then 0x08
  else match roleOf c s.torus with
    | some role =>
      if (lastSection c role 0x03 allPhases).isNone then 0x04
      else if (phasesOf c role).isEmpty || !sizesOk c role then 0x03
      else if !s.linksOk (hdrVlink c) then 0x05
      else 0
    | none => 0x04

/-- The phases of a container for this module. -/
def State.myPhases (s : State) (c : List Byte) : List PhaseInfo :=
  match roleOf c s.torus with
  | some role => phasesOf c role
  | none => []

/-- Operation 4 (R399, R401); with its keys unusable the module applies no image (R469). -/
def State.apply (s : State) (bad : Bool) : State :=
  let c := s.image.staged
  if s.imageOpOn || !s.image.stagedOk then s.refuseOp
  else if s.security.idFail then s.imageFault 0x01 0 s.phasing
  else if s.image.state = 0 then
    let r := s.initialApply c bad
    r.1.setCause 4
  else
    let k := s.updateCause c
    if k = 0 then s.schedule .update (s.myPhases c) else s.imageFault k 0 true

/-- APPLY (R397, R399). -/
def execApplyImage (bad : Bool) (s : State) : Out := imageCommand s fun t => t.apply bad

/-- The set-up of the retained image. -/
def State.retainedSetup (s : State) : Setup :=
  match roleOf s.image.retained s.torus with
  | some role => setupOf s.image.retained role
  | none => Setup.none

/-- Every plot that one of two set-ups defines. -/
def Setup.everyPlot (a b : Setup) : List Nat := (List.range 64).filter fun p => (a.plot p).defined || (b.plot p).defined

/-- Operation 5: one phase, which holds every plot. DEDUCED, unsafe: log entry 95. -/
def State.startRollback (s : State) : State :=
  if s.imageOpOn || s.image.state = 0 || s.image.retained.isEmpty then s.refuseOp
  else s.schedule .rollback
    [{ num := 1, drain := 100000, hold := plotMask (Setup.everyPlot s.image.setup s.retainedSetup) }]

/-- ROLLBACK (R397, R408). -/
def execRollback (s : State) : Out := imageCommand s State.startRollback

/-- Operation 6: one phase, which holds the plots it reloads. -/
def State.startReload (s : State) : State :=
  let m := BitVec.ofNat 64 (s.reg64 Reg.imgReloadLo)
  if s.imageOpOn || s.image.state = 0 then s.refuseOp
  else s.schedule (.reload m) [{ num := 1, drain := 100000, hold := m }]

/-- RELOAD (R397, R409). -/
def execReload (s : State) : Out := imageCommand s State.startReload

/-- Operation 7: an operation whose first phase has not begun is withdrawn. -/
def State.cancelImage (s : State) : State :=
  if s.imageOpOn && !s.phasing then (s.setImage { s.image with op := .none, state := s.image.prior, phases := [] }).setCause 4
  else s.refuseOp

/-- IMAGE_CANCEL (R397). -/
def execImageCancel (s : State) : Out := imageCommand s State.cancelImage

/-! ### BOOT_IMAGE_APPLY (R398) -/

/-- Whether training has ended: no stack or channel is off or training. -/
def State.trained (s : State) : Bool := s.mem.stks.all (fun x => 2 ≤ x.state.toNat) && s.mem.uch.all (fun x => 2 ≤ x.toNat)

/-- Staging a slot and applying it, and whether that succeeds. -/
def State.bootSlot (s : State) (k : Nat) (bad : Bool) : State × Bool :=
  let c := s.slotContainer k
  let r : ImageRun := { op := 3, slot := k == 1, cause := BitVec.ofNat 8 (s.containerCause c), body := c }
  let s1 := s.endImage r
  if r.cause = 0 then s1.initialApply c bad else (s1, false)

/-- The slot with the boot flag, then the other one; `bad`, `bad2`: the memory faults while the first, the second loads. -/
def State.boot (s : State) (bad bad2 : Bool) : State :=
  let s0 := s.setImage { s.image with bootDue := false }
  match (List.range 2).find? s.slotBoot with
  | some k =>
    let r := s0.bootSlot k bad
    if r.2 then r.1
    else (r.1.bootSlot (1 - k) bad2).1
  | none => s0

/-- BOOT_IMAGE_APPLY (R398): once after each power-on sequence, when training has ended. -/
def execBootImageApply (bad bad2 : Bool) (s : State) : Out :=
  if !s.rangerRuns || !s.image.bootDue || s.imageApplied || s.security.idFail || s.image.run.isSome || !s.trained || s.board.seq ≠ .idle then .next s
  else .next (s.boot bad bad2)

/-! ### What a phase may change (Table 14.8) -/

/-- Registers of a set-up whose values another changes. -/
def Setup.changedRegs (a b : Setup) : List Nat :=
  ((a.regs ++ b.regs).map (·.1)).dedup.filter fun r => a.reg r ≠ b.reg r

/-- Registers that an update never changes. -/
def neverRegs : List Nat :=
  [Reg.fabAddr, Reg.fabDim, Reg.ringCfg, Reg.freqCfg, Reg.stepBaseLo, Reg.stepBaseHi, Reg.stepPeriod, Reg.srvRot,
   Reg.memGtabOff, Reg.memGtabCnt]

/-- Registers of the page set. -/
def pageRegs : List Nat :=
  [Reg.srvPageBaseLo, Reg.srvPageBaseHi, Reg.srvPageCnt, Reg.srvPtBaseLo, Reg.srvPtBaseHi, Reg.cnpPgeom, Reg.memDigBaseLo,
   Reg.memDigBaseHi, Reg.memDig]

/-- Registers that need every plot held. -/
def everyRegs : List Nat :=
  [Reg.fabCtl, Reg.alpCtl, Reg.ohmCtl] ++ (List.range 6).map fun p => Reg.skCfg + 4 * p

/-- The grove of a register that needs the plots of a grove held. -/
def groveReg (a : Nat) : Option Nat :=
  if decide (Reg.gldMap ≤ a) && decide (a < Reg.gldMap + 64) then some ((a - Reg.gldMap) / 4)
  else if decide (Reg.boleMaster ≤ a) && decide (a < Reg.boleMaster + 64) then some ((a - Reg.boleMaster) / 4)
  else if decide (Reg.cnpTwin ≤ a) && decide (a < Reg.cnpTwin + 64) then some ((a - Reg.cnpTwin) / 4)
  else none

/-- Regions that one set-up has and another has not alike: changed or removed. -/
def Setup.lostRegions (a b : Setup) : List (Nat × Region) := a.regions.filter fun e => !b.regions.contains e

/-- Whether the page set changes. -/
def Setup.pagesChange (a b : Setup) : Bool :=
  (a.changedRegs b).any (fun r => pageRegs.contains r)
  || (a.regions.filter fun e => e.2.kind == 2) != (b.regions.filter fun e => e.2.kind == 2)

/-- The plots that the entries of a glade in two set-ups name; an absent entry names none. -/
def Setup.gladePlots (a b : Setup) (g : Nat) : List Nat :=
  (if a.glade g = GladeCfg.none then [] else [(a.glade g).plot.toNat])
  ++ (if b.glade g = GladeCfg.none then [] else [(b.glade g).plot.toNat])

/-- The register records that a change writes (R400, R401): those of the phase, in order; where the target is no
continuation of the set-up before it, the registers that its phases wrote, or every register of either, at the target's
value. -/
def Setup.toWrite (a b : Setup) : List (Nat × Word) :=
  let l := if a.regs.isPrefixOf b.regs then b.regs.drop a.regs.length
    else
      let names := if b.regs.isPrefixOf a.regs then a.regs.drop b.regs.length else a.regs ++ b.regs
      (names.map (·.1)).dedup.map fun r => (r, BitVec.ofNat 32 (b.reg r))
  l.filter fun e => !neverRegs.contains e.1

/-- Keys that two tables hold differently. -/
def changedKeys {α : Type} [DecidableEq α] (d : α) (a b : SMap α) : List Nat :=
  ((a.map (·.1)) ++ (b.map (·.1))).dedup.filter fun k => mget d a k ≠ mget d b k

/-- Glades whose entries, programs or resident regions change. -/
def Setup.changedGlades (a b : Setup) : List Nat := changedKeys GladeCfg.none a.glades b.glades

/-- The glades that a route or chain list names and another does not hold alike. -/
def Setup.routedGlades (a b : Setup) : List Nat :=
  let rs := (a.routes.filter fun r => !b.routes.contains r) ++ (b.routes.filter fun r => !a.routes.contains r)
  let cs := (a.chains.filter fun c => !b.chains.contains c) ++ (b.chains.filter fun c => !a.chains.contains c)
  (rs.flatMap fun r => r.src.toNat :: r.dst.toNat :: r.via.map (·.toNat)) ++ cs.flatMap fun c => c.map (·.toNat)

/-- The plots that a phase must hold (Table 14.8). -/
def Setup.mustHold (a b : Setup) : List Nat :=
  let every := Setup.everyPlot a b
  let regs := a.changedRegs b
  let gv := regs.filterMap groveReg
  let masks := (a.lostRegions b).flatMap fun e =>
    plotsIn e.2.plots ++ ((b.regions.find? fun x => x.1 = e.1).map fun x => plotsIn x.2.plots).getD []
  let slots := (changedKeys 0 a.exchange b.exchange).flatMap fun k =>
    plotsIn (mget 0 a.exchange k) ++ plotsIn (mget 0 b.exchange k)
  (if a.pagesChange b || a.slices != b.slices || regs.any (fun r => everyRegs.contains r) then every else [])
  ++ changedKeys PlotCfg.none a.plots b.plots
  ++ (a.changedGlades b).flatMap (a.gladePlots b) ++ (a.routedGlades b).flatMap (a.gladePlots b)
  ++ (List.range 1024).flatMap (fun g => if gv.contains (groveOf g) then a.gladePlots b g else [])
  ++ (masks ++ slots).filter fun p => every.contains p

/-- Whether a lease is held on a region. -/
def State.regionLeased (s : State) (k : Nat) : Bool := (s.lease.find (BitVec.ofNat 32 (2 * 2 ^ 24 + k))).isSome

/-- Whether a phase that holds some plots may change one set-up into another (Table 14.8). -/
def State.changeOk (s : State) (a b : Setup) (hold : BitVec 64) : Bool :=
  decide (a.moduleMap = b.moduleMap) && (a.changedRegs b).all (fun r => !neverRegs.contains r)
  && (!a.pagesChange b || s.ledgerUsed == 0) && (a.lostRegions b).all (fun e => !s.regionLeased e.1)
  && (a.mustHold b).all fun p => hold.getLsbD p

/-- What the checks of a phase find: the cause, 0 if they pass. -/
def State.phaseCause (s : State) (a b : Setup) (c : List Byte) (hold : BitVec 64) : Nat :=
  if !s.changeOk a b hold then 0x08 else s.setupCause b c

/-! ### Units that a phase disables (R405) -/

/-- Grove numbers with a glade in service. -/
def Setup.groves (u : Setup) : List Nat := (u.inService.map fun e => groveOf e.1).dedup

/-- Glades, ports, regions and exchange slots that the target takes out of service. -/
def Setup.goneGlades (a b : Setup) : List Nat := (a.inService.map (·.1)).filter fun g => !(b.glade g).inService
/-- Ports that the target sets unused. -/
def Setup.gonePorts (a b : Setup) : List Nat :=
  (List.range 6).filter fun p => a.field (Reg.skCfg + 4 * p) 2 0 ≠ 7 && b.field (Reg.skCfg + 4 * p) 2 0 == 7
/-- Regions that the target removes. -/
def Setup.goneRegions (a b : Setup) : List Nat := (a.regions.map (·.1)).filter fun k => !(b.regions.any fun e => e.1 = k)
/-- Exchange slots that no plot may lease any more. -/
def Setup.goneSlots (a b : Setup) : List Nat := (a.exchange.map (·.1)).filter fun k => mget 0 b.exchange k == 0

/-- Leases on resources that the target removes (R194, R405, R450). -/
def State.goneLeases (s : State) (a b : Setup) : List Lease :=
  s.lease.held.filter fun l =>
    let i := l.res.toNat % 2 ^ 24
    match l.res.toNat / 2 ^ 24 with
    | 1 => a.groves.contains i && !b.groves.contains i
    | 2 => (a.goneRegions b).contains i
    | 4 => (a.goneSlots b).contains i
    | 5 => (a.goneGlades b).contains i
    | _ => false

/-- The units of a phase stop accepting work. -/
def State.disable (s : State) (a b : Setup) : State :=
  let s1 := mapGlades (fun g => { g with drained := true }) (a.goneGlades b) s
  revokeEach (s.goneLeases a b) (s1.setImage { s1.image with
    drainPorts := a.gonePorts b, drainRegions := a.goneRegions b, drainSlots := a.goneSlots b })

/-- Every unit accepts work again. -/
def State.enableAll (s : State) : State :=
  let s1 := mapGlades (fun g => { g with drained := false }) (s.glades.map (·.1)) s
  s1.setImage { s1.image with drainPorts := [], drainRegions := [], drainSlots := [] }

/-! ### Begin of a phase (R401) -/

/-- Holding exactly the plots of a mask. -/
def holdPlots (m : BitVec 64) : List Nat → State → State
  | [], s => s
  | p :: ps, s => holdPlots m ps (s.setPlot p { s.plot p with held := m.getLsbD p })

/-- The phase in progress as its table entry gives it. -/
def State.phaseInfo (s : State) : PhaseInfo := s.image.phases.getD (s.image.phase - 1) { num := 0, drain := 100000, hold := 0 }

/-- Glades of the target that another physical glade serves once the records of a change are written. -/
def State.remapped (s : State) (a b : Setup) : List Nat :=
  let w := a.toWrite b
  let serves := fun (m g : Nat) => if bitsOf m 6 0 = groveIndex g then 64 else if bitsOf m 14 8 = groveIndex g then 65 else 0
  (b.inService.map (·.1)).filter fun g =>
    let r := Reg.gldMap + 4 * groveOf g
    let new := ((lastRecord w r).map (·.toNat)).getD (s.regN r)
    serves (s.regN r) g ≠ serves new g && (s.glade g).inService

/-- The set-up that the current store gives. -/
def State.currentSetup (s : State) : Setup :=
  match roleOf s.image.current s.torus with
  | some role => setupOf s.image.current role
  | none => Setup.none

/-- A set-up with the entries of some plots and of their glades taken from another (R409). -/
def Setup.mergePlots (a b : Setup) (m : BitVec 64) : Setup :=
  let mine := fun (g : GladeCfg) => g.inService && m.getLsbD g.plot.toNat
  let pick := fun (t : SMap PlotCfg) (p : Nat) => mset PlotCfg.none t p (b.plot p)
  { a with
    plots := (plotsIn m).foldl pick a.plots
    glades := (b.glades.filter fun e => mine e.2).foldl (fun t e => mset GladeCfg.none t e.1 e.2)
      (a.glades.filter fun e => !mine e.2) }

/-- The plots that a reload rewrites. -/
def State.reloadPlots (s : State) : List Nat :=
  match s.image.op with
  | .reload m => plotsIn m
  | _ => []

/-- Glades whose resident regions a phase refills: those remapped, and those whose regions it changes (R196, R399). -/
def State.toRefill (s : State) (a b : Setup) : List Nat :=
  (b.inService.map (·.1)).filter fun g =>
    !(b.glade g).resident.isEmpty && ((s.remapped a b).contains g || (a.glade g).resident != (b.glade g).resident
      || s.reloadPlots.contains (b.glade g).plot.toNat)

/-- The container that an operation's phases come from, and the set-up of phase `i`. -/
def State.targetOf (s : State) (i : Nat) : List Byte × Setup :=
  match s.image.op with
  | .rollback => (s.image.retained, s.retainedSetup)
  | .update =>
    let c := s.image.staged
    let nums := (s.image.phases.take i).map (·.num)
    (c, s.image.setup.overlay c ((roleOf c s.torus).getD 0xFFFF) (nums.drop (i - 1)) (0 :: nums))
  | .reload m => (s.image.current, s.image.setup.mergePlots s.currentSetup m)
  | .none => (s.image.current, s.image.setup)

/-- Phase `i` begins at a boundary: its plots are held, it is checked, and its units are disabled.
DEDUCED, unsafe: log entry 94. -/
def State.beginPhase (s : State) (i at_ : Nat) : State :=
  let info := s.image.phases.getD (i - 1) { num := 0, drain := 100000, hold := 0 }
  let t := s.targetOf i
  let k := s.phaseCause s.image.setup t.2 t.1 info.hold
  let s1 := holdPlots info.hold (List.range 64) (s.setImage { s.image with
    state := 3, phase := i, rolling := false, beginRing := BitVec.ofNat 64 at_, drained := false,
    failed := BitVec.ofNat 8 k, next := t.2
    refills := if k = 0 then (s.toRefill s.image.setup t.2).map (BitVec.ofNat 10 ·) else [] })
  if k = 0 then s1.disable s.image.setup t.2 else s1

/-- The union of the hold sets of the phases so far (R407). -/
def State.holdSoFar (s : State) : BitVec 64 := (s.image.phases.take s.image.phase).foldl (fun m x => m ||| x.hold) 0

/-- A rollback phase begins (R407). -/
def State.beginRolling (s : State) (at_ : Nat) : State :=
  let u := s.image.undo
  let s1 := holdPlots s.holdSoFar (List.range 64) (s.setImage { s.image with
    state := 4, rolling := true, beginRing := BitVec.ofNat 64 at_, drained := false, failed := 0, next := u
    refills := (s.toRefill s.image.setup u).map (BitVec.ofNat 10 ·) })
  s1.disable s.image.setup u

/-! ### Commit of a phase (R401, R402, R407, R409) -/

/-- Resident regions read from their device range sources (R196). -/
def Glade.refill (m : Memory) : List Resident → Glade → Glade
  | [], g => g
  | r :: rs, g => Glade.refill m rs (g.write (8 * r.spa.toNat) (m.read r.src.toNat (8 * r.len.toNat)))

/-- Refilling the listed glades. -/
def refillGlades : List Nat → State → State
  | [], s => s
  | g :: gs, s => refillGlades gs (s.setGlade g (Glade.refill s.mem (s.glade g).resident (s.glade g)))

/-- 16 free generator states (R148 names none for a glade that a spare takes over). -/
def State.drawLfsr (s : State) : SMap (BitVec 32) × State :=
  ((List.range 16).foldl (fun m i => mset 0 m i (Config.freeBits 32 (s.fresh + i))) [], { s with fresh := s.fresh + 16 })

/-- A logical glade on another physical glade (R196): counters at zero, buffers and tiles empty; scratchpad and generators
are free values until they are written. DESIGN CHOICE, safe: log entry 125. -/
def State.moveGlade (s : State) (g : Nat) : State :=
  let r := s.drawBytes spadSize
  let q := r.2.drawLfsr
  let gl := q.2.glade g
  q.2.setGlade g { gl with
    spad := mwrite 0 [] 0 r.1, sources := [], counters := [], tiles := [], kept := [], hia := none, active := .zero
    shadow := .zero, shadowLoaded := false, codebook := none, lfsr := q.1, engine := [], queue := [], transfers := [], unseen := []
    engN := none
    accepted := [], acceptedFab := [] }

/-- Moving the listed glades. -/
def moveGlades : List Nat → State → State
  | [], s => s
  | g :: gs, s => moveGlades gs (s.moveGlade g)

/-- Plots whose entry or glades a change rewrites. -/
def Setup.rewritten (a b : Setup) : List Nat :=
  (changedKeys PlotCfg.none a.plots b.plots ++ (a.changedGlades b).flatMap (a.gladePlots b)).dedup

/-- Whether a plot contains a logical glade that no physical glade serves (R198). -/
def State.plotLost (s : State) (p : Nat) : Bool := (s.gladesOf p).any fun g => (s.physOf g).isNone

/-- Plots that run again once reloaded, with attempt tag 0 (R176, R188, R409); a plot that still uses an unmapped glade
stays halted (R198). -/
def revivePlots : List Nat → State → State
  | [], s => s
  | p :: ps, s => revivePlots ps (s.setPlot p { s.plot p with halted := (s.plot p).halted && s.plotLost p })

/-- Held plots released: their next step has attempt tag 0. -/
def releasePlots : List Nat → State → State
  | [], s => s
  | p :: ps, s =>
    let x := s.plot p
    releasePlots ps (s.setPlot p (if x.held then { x with held := false, tag := 0 } else x))

/-- The generators of pipelines leased to a plot that the phase changes are loaded anew (R206). -/
def reseedCanopies (ps : List Nat) : List Lease → State → State
  | [], s => s
  | l :: ls, s =>
    let gv := l.res.toNat % 2 ^ 24
    let c := s.canopy gv
    reseedCanopies ps ls
      (if l.res.toNat / 2 ^ 24 = 1 && ps.contains l.plot.toNat then s.setCanopy gv { c with lfsr := [] } else s)

/-- Preferred operating points at 0 after a change of the groves' plots (R425). -/
def clearPrefs : List Nat → State → State
  | [], s => s
  | gv :: gvs, s =>
    let x := mget GrovePower.init s.power.groves gv
    clearPrefs gvs { s with power := { s.power with groves := mset GrovePower.init s.power.groves gv { x with pref := 0 } } }

/-- Groves whose plots a change rewrites. -/
def Setup.changedGroves (a b : Setup) : List Nat :=
  let ps := a.rewritten b
  ((a.changedGlades b ++ (b.glades.filter fun e => ps.contains e.2.plot.toNat).map (·.1)).map groveOf).dedup

/-- Every item of a change taking effect together. A phase that loads a plot, or carries biases, writes every layer's bias
table (R277). DEDUCED, unsafe: log entry 155. -/
def State.change (s : State) (a b : Setup) : State :=
  let before := s.configFaults a
  let moved := s.remapped a b
  let fill := s.toRefill a b
  let plots := a.rewritten b
  let s1 := (storeRecords (a.toWrite b) s).setRegions a b
  let s2 := if a.pagesChange b then s1.initPages else s1
  let s3 := setGlades b (a.changedGlades b) (setPlots b (changedKeys PlotCfg.none a.plots b.plots) s2)
  let s4 := refillGlades fill (moveGlades moved s3)
  let s5 := if plots.isEmpty && a.bias == b.bias then s4 else putBiases b b.biases s4
  let s6 := reseedCanopies plots s5.lease.held (revivePlots (plots.filter fun p => !s5.image.lost.getLsbD p) s5)
  (clearPrefs (a.changedGroves b) (s6.checkConfig b before)).checkOffer

/-- The plots of a hold set that consume the batch descriptor. -/
def State.batchHeld (s : State) : Bool := s.plots.any fun e => e.2.held && e.2.batch

/-- The rotation offset advanced after a hold step of a batch plot (R402). -/
def State.turnRotation (s : State) : State :=
  let n := s.field Reg.srvRot 3 0 + 1
  s.setField Reg.srvRot 7 4 ((s.field Reg.srvRot 7 4 + 1) % n)

/-- What every commit does: the change, the rotation, plots released, units enabled, the step and the alert. -/
def State.commitTo (s : State) (b : Setup) (n : Nat) : State :=
  let turn := s.batchHeld
  let s1 := s.change s.image.setup b
  let s2 := (releasePlots (List.range 64) s1).enableAll
  let s3 := if turn then s2.turnRotation else s2
  (s3.setImage { s3.image with setup := b, next := b, refills := [] }).setReg64 Reg.imgCstepLo n |>.setCause 4

/-- The end of an operation: the stores and identities as R408 says, IMG_STAT.state 1. -/
def State.endOp (s : State) : State :=
  let i := s.image
  let j := match i.op with
    | .update => { i with
        retained := i.current, retainedId := i.identity, current := i.staged, identity := identityOf i.staged
        heartwood := hdrHeartwood i.staged, standSize := hdrModules i.staged }
    | .rollback => { i with
        retained := i.current, retainedId := i.identity, current := i.retained, identity := i.retainedId
        heartwood := hdrHeartwood i.retained, standSize := hdrModules i.retained }
    | _ => i
  s.setImage { j with state := 1, op := .none, phase := 0, rolling := false, undo := i.setup }

/-- A reload: the entries, programs and resident regions of the plots written again from the current store (R409). -/
def State.reloadItems (s : State) (ps : List Nat) : State :=
  let u := s.image.next
  let gs := (u.inService.filter fun e => ps.contains e.2.plot.toNat).map (·.1)
  let s1 := refillGlades gs (setGlades u gs (setPlots u ps s))
  let s2 := s1.setImage { s1.image with lost := s1.image.lost &&& ~~~plotMask ps }
  revivePlots ps (if ps.isEmpty then s2 else putBiases u u.biases s2)

/-- A phase's end at a taken boundary: it commits, or it fails and a rollback phase begins (R401, R407). -/
def State.endPhase (s : State) (n at_ : Nat) : State :=
  let i := s.image
  let k := if i.failed ≠ 0 then i.failed.toNat else if i.refills.isEmpty then 0 else 0x09
  if k ≠ 0 then (s.imageFault k 0 true).beginRolling at_
  else
    let s1 := State.reloadItems (s.commitTo i.next n) s.reloadPlots
    let s2 := s1.bumpField Reg.imgPhc 15 0 1
    if i.phase < i.phases.length then s2.beginPhase (i.phase + 1) at_ else s2.endOp

/-- Halting the listed plots. -/
def haltPlots : List Nat → State → State
  | [], s => s
  | p :: ps, s => haltPlots ps (s.halt p)

/-- A rollback phase's end: it commits, or it fails and its plots are halted (R407). -/
def State.endRolling (s : State) (n : Nat) : State :=
  if s.image.refills.isEmpty then
    let s1 := (s.commitTo s.image.undo n).bumpField Reg.imgPhc 31 16 1
    s1.setImage { s1.image with state := 1, op := .none, phase := 0, rolling := false }
  else
    let s1 := haltPlots (plotsIn s.holdSoFar) (s.imageFault 0x0B 0 true)
    let s2 := (releasePlots (List.range 64) s1).enableAll
    s2.setImage { s2.image with state := 5, op := .none, phase := 0, rolling := false, refills := [], lost := s2.image.lost ||| s.holdSoFar }

/-- What the image machinery does at a boundary (R401): a phase in progress ends where the boundary is taken, and a
pending operation begins at its step. -/
def State.imageAtBoundary (s : State) (n at_ : Nat) (taken : Bool) : State :=
  if s.phasing then
    if !taken then s else if s.image.rolling then s.endRolling n else s.endPhase n at_
  else if s.imageOpOn && decide (s.image.applyStep ≤ n) then s.beginPhase 1 at_
  else s

/-! ### Drain (R406) -/

/-- One aborted item: a drain-abort record (class 0x10) to the owner of its plot, and IMG_DABRT. -/
def State.drainAbort (s : State) (f : FaultArgs) : State := (s.raise { f with cls := 0x10 }).bump Reg.imgDabrt 1

/-- Whether a transfer must end: its glade or its plot's step is drained, or its region goes. -/
def State.mustEnd (s : State) (g : Nat) (t : Transfer) : Bool :=
  let gl := s.glade g
  let gone := match s.mem.regionOf t.addr t.len with
    | some e => s.image.drainRegions.contains e.1
    | none => false
  gl.drained || (s.plot gl.plot.toNat).held || gone

/-- The aborted transfers of a glade: held reads and others, each reported. -/
def abortTransfers (g : Nat) : List Transfer → State → State
  | [], s => s
  | t :: ts, s =>
    let held := !t.write && !t.waiting.isEmpty
    abortTransfers g ts (if s.mustEnd g t then
      s.drainAbort { cls := 0x10, cause := if held then 2 else 1, plot := some (s.plotOf g), glade := some g, pc := t.pc,
                     detail := leBytes 6 t.addr }
    else s)

/-- The queued transfers of a glade that ends, each reported. -/
def abortQueued (g : Nat) : List QueuedInstr → State → State
  | [], s => s
  | q :: qs, s => abortQueued g qs (s.drainAbort { cls := 0x10, cause := 1, plot := some (s.plotOf g), glade := some g, pc := q.pc })

/-- The transfers of every glade, started and queued, aborted or kept. -/
def drainGlades : List Nat → State → State
  | [], s => s
  | g :: gs, s =>
    let gl := s.glade g
    let ends := gl.drained || (s.plot gl.plot.toNat).held
    let s1 := abortTransfers g gl.transfers s
    let s2 := if ends then abortQueued g gl.queue s1 else s1
    let kept := gl.transfers.filter fun t => !s.mustEnd g t
    drainGlades gs (s2.setGlade g { s2.glade g with transfers := kept, queue := if ends then [] else gl.queue })

/-- Held plots still in their step are halted (R406). -/
def drainPlots : List Nat → State → State
  | [], s => s
  | p :: ps, s =>
    let x := s.plot p
    drainPlots ps (if x.held && decide (x.run ≠ .none) then
      (s.drainAbort { cls := 0x10, cause := 3, plot := some p, halted := true }).halt p
    else s)

/-- Items of one kind aborted, each reported. -/
def drainItems (f : FaultArgs) : Nat → State → State
  | 0, s => s
  | n + 1, s => drainItems f n (s.drainAbort f)

/-- Blocks in the replay buffers of disabled ports are dropped, each reported. -/
def drainPorts : List Nat → State → State
  | [], s => s
  | p :: ps, s =>
    let x := s.port p
    let s1 := drainItems { cls := 0x10, cause := 4, detail := leBytes 6 p } (x.txNext - x.txOld).toNat s
    drainPorts ps (s1.setPort p { s1.port p with txOld := x.txNext, out := [], waiting := [] })

/-- Repair entries aborted, each reported. -/
def abortRepairs : List RepairEntry → State → State
  | [], s => s
  | e :: es, s =>
    abortRepairs es (s.drainAbort { cls := 0x10, cause := 1, plot := (s.waitingPlots e).head?.map (·.toNat)
                                    detail := leBytes 6 (s.mem.repairAddr e) })

/-- Repairs and moves that remain in a region which the phase changes or removes, or of which every read that waits is of a
held plot, end (R406). DEDUCED, unsafe: log entry 119. -/
def State.drainMemory (s : State) : State :=
  let gone := fun (k : Nat) => (s.image.setup.lostRegions s.image.next).any fun x => x.1 = k
  let ends := fun (e : RepairEntry) =>
    let ps := s.waitingPlots e
    gone e.region || (!ps.isEmpty && ps.all fun p => (s.plot p.toNat).held)
  let s1 := abortRepairs (s.mem.repairs.filter ends) s
  let s2 := drainItems { cls := 0x10, cause := 1 } (s.mem.moves.filter fun v => gone v.region).length s1
  { s2 with mem := Memory.flushLate { s2.mem with
      repairs := s.mem.repairs.filter fun e => !ends e
      moves := s.mem.moves.filter fun v => !gone v.region } }

/-- DRAIN_LIMIT_EXPIRY (R406): once per phase, when the ring count reaches the begin count plus the drain limit.
DEDUCED, unsafe: log entry 119. -/
def execDrainLimitExpiry (s : State) : Out :=
  if !s.phasing || s.image.drained || decide (s.rt < s.image.beginRing.toNat + s.phaseInfo.drain) then .next s
  else
    let s1 := drainGlades (s.glades.map (·.1)) s.drainMemory
    let s2 := drainPorts s.image.drainPorts (drainPlots (List.range 64) s1)
    .next (s2.setImage { s2.image with drained := true })

end Sys2Proof.Machine
end

