-- ==== Sys2Proof/Machine/Steps.lean ====
section
/-!
DEFINITION. Steps (R45 to R48, R51, R166, R401, R402, R431, R447), writes of STEP_BASE, STEP_PERIOD and NUM_LREC_BASE,
replay (R444, R448), and glade failure and remap (R195 to R198, R428, R443, R447).
-/

namespace Sys2Proof.Machine

/-! ### Boundaries -/

/-- Boundaries missed: STEP_STAT.missed and its cause of GBL_STAT. -/
def State.noteMissed (s : State) (k : Nat) : State := if k = 0 then s else (s.bumpField Reg.stepStat 15 0 k).setCause 10

/-- Replacing where stepping stands. -/
def State.setStep (s : State) (x : StepState) : State := { s with step := x }

/-- Whether the ring takes boundaries (R348). -/
def State.ringSteps (s : State) : Bool := decide (s.ring.mode = .aligned) || decide (s.ring.mode = .holdover)

/-- The step whose boundary the ring count has reached, if it is one to come (R45). DEDUCED, unsafe: log entry 58. -/
def State.boundary? (s : State) : Option Nat :=
  let p := s.period
  let n := (s.rt - s.s0) / p
  if p = 0 ∨ !s.imageApplied ∨ s.rt < s.s0 ∨ s.rt ≠ s.stepAt n ∨ n < s.step.next then none else some n

/-- Programs that start: registers, counters of the step and latches (R166, Table 7.2). -/
def Glade.start (num sBase : DWord) (genBit : Bool) (g : Glade) : Glade :=
  { g with gp := [], pc := 4 * g.entry.toNat, mode := .running, wdl := 0, stepNum := num, sBase, genBit, engN := none,
           unseen := g.unseen.filter fun u => u.queue.isNone, tiles := g.drainOver.tiles }

/-- A glade at a boundary: what it has accepted for other steps than this and the next no longer counts (R338, R442). -/
def Glade.newStep (n : Nat) (g : Glade) : Glade :=
  { g with accepted := [], acceptedFab := g.acceptedFab.filter fun a => decide ((a.2.toNat + 65536 - n % 65536) % 65536 ≤ 1) }

/-- Starting the programs of a plot's glades that are in service. -/
def State.startPrograms (s : State) (p : Nat) : State :=
  let gen := (s.plot p).generation % 2 == 1
  mapGlades (fun g => if g.drained then g else g.start s.step.num s.step.sBase gen) (s.gladesOf p) s

/-- The plots that run the step (R167): defined, neither halted nor held. -/
def startPlots : List Nat → State → State
  | [], s => s
  | p :: ps, s =>
    let x := s.plot p
    startPlots ps (if x.defined && !x.halted && !x.held then
      (s.setPlot p { x with run := .running, replaying := false, replays := 0, lastFault := none, poisonAt := none }).startPrograms p
    else s)

/-- Step boundaries taken, in the lifetime counters (Table 16.6). -/
def State.countStep (s : State) : State :=
  let l := s.dep.life
  { s with dep := { s.dep with life := { l with steps := if l.steps = BitVec.allOnes 64 then l.steps else l.steps + 1 } } }

/-- Step `n` begins (R45, R52, R166, R402): in a hold step of a batch plot no snapshot is taken. -/
def State.startStep (s : State) (n : Nat) : State :=
  let s1 := s.setStep { s.step with
    active := true, clearing := false, num := BitVec.ofNat 64 n, sBase := s.ringCount, next := n + 1, taken := true, bcasts := [] }
  let s2 := startPlots (List.range 64) (mapGlades (Glade.newStep n) (s1.glades.map (·.1)) s1).countStep
  if s2.batchHeld then s2.bump Reg.imgHold 1 else s2.snapshot n s2.rt

/-- Suspension at boundary `n` (R431): it begins at its step; it ends at the step armed to resume. Boundaries passed in
between are not missed. -/
def State.suspendAt (s : State) (n : Nat) : State :=
  let s1 := match s.power.suspArmed with
    | some k => if !s.power.suspended && decide (k.toNat ≤ n) then
        let t := s.noteMissed (k.toNat - s.step.next)
        { t with power := { t.power with suspended := true, suspArmed := none }
                 step := { t.step with next := max t.step.next k.toNat } }
      else s
    | none => s
  if s1.power.suspended then
    match s1.power.resArmed with
    | some r => if r.toNat ≤ n then
        { s1 with power := { s1.power with suspended := false, resArmed := none }
                  step := { s1.step with next := max s1.step.next r.toNat } }
      else s1
    | none => s1
  else s1

/-- Whether step `n` can begin: the ring takes boundaries, the last step is cleared, no remap is in progress, the module is awake,
and the serving block waits for no block under repair, so that its snapshot can be taken (R322). -/
def State.canStep (s : State) : Bool :=
  s.ringSteps && !s.servingHeld && !s.step.active && s.dep.refills.isEmpty && decide (s.power.state.toNat ≤ 1)

/-- S1 ends before a boundary (R432). -/
def State.leaveS1 (s : State) : State :=
  if s.power.state = 1 then { s with power := { s.power with state := 0 }, board := { s.board with asleep := 0 } } else s

/-- STEP_BOUNDARY (R45 to R48, R348, R401, R431, R447). A boundary that comes after the stop write while the last step still
runs is missed (R48). DEDUCED, unsafe: log entry 141. -/
def execStepBoundary (s : State) : Out :=
  match s.boundary? with
  | none => .next s
  | some n =>
    let s := s.suspendAt n
    let late := n - s.step.next
    if s.step.stopAsked && !s.step.active then
      .next ((s.setReg Reg.stepPeriod 0).setStep { s.step with stopAsked := false })
    else if s.power.suspended then .next (s.setStep { s.step with next := n + 1 })
    else if s.canStep then
      .next (((s.noteMissed late).leaveS1.imageAtBoundary n s.rt true).startStep n)
    else .next ((((s.noteMissed (late + 1)).setStep { s.step with next := n + 1 })).imageAtBoundary n s.rt false)

/-! ### Writes of the step registers -/

/-- A write of an LK register: ignored and recorded while a stand image is being applied (Table 0.4, R403, R491). -/
def State.lkWrite (s : State) (k : State → State) : State := if s.applying then s.setCause 8 else k s

/-- A write of STEP_PERIOD (R46, R47). DEDUCED, unsafe: log entry 59. -/
def State.writePeriod (s : State) (w : Word) : State :=
  if s.period ≠ 0 then
    if w = 0 then s.setStep { s.step with stopAsked := true } else s
  else if w = 0 then s
  else if w.toNat < 1000 then s.configFault Reg.stepPeriod
  else (s.setReg Reg.stepPeriod w).startStepping

/-- STEP_PERIOD_WRITE (R46). -/
def execStepPeriodWrite (data : BitVec 32) (s : State) : Out :=
  onReg Reg.stepPeriod s (s.lkWrite fun t => t.writePeriod data)

/-- STEP_BASE_WRITE (R46): only while STEP_PERIOD reads zero. -/
def execStepBaseWrite (hi : Bool) (data : BitVec 32) (s : State) : Out :=
  onReg Reg.stepBaseLo s
    (s.lkWrite fun t => if t.period ≠ 0 then t else t.setReg (if hi then Reg.stepBaseHi else Reg.stepBaseLo) data)

/-- STEP_STOP (R47): the write of zero to STEP_PERIOD. DESIGN CHOICE, safe: log entry 135. -/
def execStepStop (s : State) : Out := onReg Reg.stepPeriod s (s.lkWrite fun t => t.writePeriod 0)

/-- NUM_LREC_BASE_WRITE (R80). -/
def execNumLrecBaseWrite (data : BitVec 32) (s : State) : Out :=
  onReg Reg.numLrecBaseLo s (s.lkWrite fun t => t.storeRecord Reg.numLrecBaseLo data)

/-! ### Replay -/

/-- Whether messages of a plot's abandoned attempt are still in the mesh (R442 step 2). -/
def State.inMesh (s : State) (p : Nat) : Bool :=
  s.mesh.any fun m => decide ((routeOf m.route).plot = p) && decide ((routeOf m.route).kind ≠ 2)

/-- Whether the replay of a plot can start (R444, R448, R196). DEDUCED, unsafe: log entry 60. -/
def State.canReplay (s : State) (p : Nat) : Bool :=
  let x := s.plot p
  decide (x.run = .abandoned) && decide (x.replayFrom.toNat ≤ s.rt) && !s.inMesh p && !s.ring.faulted
  && !(s.dep.refills.any fun g => decide (s.plotOf g.toNat = p))

/-- The retained descriptor's broadcasts for one plot (R442 step 5). -/
def State.rebroadcast (s : State) (p : Nat) : List (Nat × Option Nat) :=
  match s.serving.batch with
  | some b => if b.released then (List.range (broadcasts b.rows.length)).map fun k => (k, some p) else []
  | none => []

/-- REPLAY_START (R444). -/
def execReplayStart (plot : BitVec 6) (s : State) : Out :=
  let p := plot.toNat
  if s.canReplay p then
    let s1 := s.setPlot p { s.plot p with run := .running, replaying := true, replayFrom := s.ringCount }
    let gs := s.gladesOf p
    let s2 := mapGlades (fun g => if g.drained then g else g.start g.stepNum g.sBase g.genBit) gs s1
    .next (s2.setStep { s2.step with bcasts := s2.step.bcasts ++ s.rebroadcast p })
  else .next s

/-! ### Glade failure and remap -/

/-- What the module knows of a physical glade. -/
def State.physGlade (s : State) (ph : Nat) : PhysGlade := mget PhysGlade.init s.power.phys ph
/-- Replacing it. -/
def State.setPhys (s : State) (ph : Nat) (x : PhysGlade) : State :=
  { s with power := { s.power with phys := mset PhysGlade.init s.power.phys ph x } }

/-- The grove index that spare `k` serves (GLD_MAPg); 0x7F: none. -/
def State.spare (s : State) (gv k : Nat) : Nat := s.field (Reg.gldMap + 4 * gv) (8 * k + 6) (8 * k)

/-- The logical glade that a physical glade serves. -/
def State.servedBy (s : State) (ph : Nat) : Option Nat :=
  let gv := ph / 66
  let i := ph % 66
  if i < 64 then if s.spare gv 0 = i ∨ s.spare gv 1 = i then none else some (gladeAt gv i)
  else
    let k := s.spare gv (i - 64)
    if k < 64 then some (gladeAt gv k) else none

/-- Whether a spare may take a glade over: unused, not failed, and no slower than the stand frequency (R428). -/
def State.spareFit (s : State) (gv k : Nat) : Bool :=
  let ph := 66 * gv + 64 + k
  s.spare gv k == 0x7F && !(s.physGlade ph).failed && decide (s.ring.cur.toNat ≤ s.curFmax ph)

/-- Spares that are too slow count as failed (R428). -/
def State.failSlow (s : State) (gv k : Nat) : State :=
  if s.spare gv k = 0x7F ∧ !s.spareFit gv k then s.setField (Reg.gldMap + 4 * gv) (16 + k) (16 + k) 1 else s

/-- A logical glade moved to a spare (R195, R196): the counters of an abandoned attempt keep what was added back. -/
def State.remapTo (s : State) (gv k g : Nat) : State :=
  let old := s.glade g
  let keep := decide ((s.plot old.plot.toNat).run = .abandoned)
  let s1 := (s.setField (Reg.gldMap + 4 * gv) (8 * k + 6) (8 * k) (groveIndex g)).moveGlade g
  let s2 := if keep then s1.setGlade g { s1.glade g with
      counters := old.counters, accepted := old.accepted, acceptedFab := old.acceptedFab } else s1
  { s2 with dep := { s2.dep with refills := s2.dep.refills ++ [BitVec.ofNat 10 g] } }

/-- The grove after a failure: a failed spare is marked. It keeps its place in the map until another takes over what it
serves: until then that glade is unmapped (R198). -/
def State.loseSpare (s : State) (ph : Nat) : State :=
  let gv := ph / 66
  let i := ph % 66
  if i < 64 then s else s.setField (Reg.gldMap + 4 * gv) (16 + (i - 64)) (16 + (i - 64)) 1

/-- A spare that serves a logical glade no longer does. -/
def State.unserve (s : State) (gv g k : Nat) : State :=
  if s.spare gv k = groveIndex g then s.setField (Reg.gldMap + 4 * gv) (8 * k + 6) (8 * k) 0x7F else s

/-- A logical glade whose physical glade has failed: remapped to a healthy spare, or unmapped with its plot halted (R198).
DEDUCED, unsafe: log entry 61. -/
def State.replaceGlade (s : State) (gv g : Nat) : State :=
  let s1 := (s.failSlow gv 0).failSlow gv 1
  match (List.range 2).find? fun k => s1.spareFit gv k with
  | some k => ((s1.unserve gv g 0).unserve gv g 1).remapTo gv k g
  | none =>
    let s2 := s1.setField (Reg.gldMap + 4 * gv) 18 18 1
    if (s.glade g).inService then s2.halt (s.plotOf g) else s2

/-- Whether the map may change now for a glade of a plot (R195): between an abandonment and its replay, or outside steps. -/
def State.mayRemap (s : State) (p : Nat) : Bool := decide ((s.plot p).run = .abandoned) || !s.step.active

/-- Replacing the glades that failed while a step ran in which their plot had no part, or while the clearing ran (R195,
R447). -/
def remapWaiting : List (BitVec 10) → State → State
  | [], s => s
  | g :: gs, s => remapWaiting gs (s.replaceGlade (groveOf g.toNat) g.toNat)

/-- CLEARING_COMPLETE (R250, R385): after the span, once the batches fit the outbound queue; the retained inputs go (R51),
and glades that failed meanwhile are remapped before the next boundary (R195, R447). -/
def execClearingComplete (s : State) : Out :=
  if !s.step.clearing || decide (s.rt < s.step.clearAt.toNat + s.field Reg.srvClr 15 0) || decide (s.outBytes > 2 ^ 22) then .next s
  else
    let s1 := { s with
      step := { s.step with active := false, clearing := false, bcasts := [] }
      serving := { s.serving with batch := none }
      dep := { s.dep with remaps := [] } }
    .next (remapWaiting s.dep.remaps s1)

/-- GLADE_FAILURE (R195, R198, R443, R447). A glade whose plot has no part in the step, or that fails while the clearing
runs, is remapped at the end of the clearing. DEDUCED, unsafe: log entry 149. -/
def execGladeFailure (phys : BitVec 11) (cause : BitVec 8) (s : State) : Out :=
  let ph := phys.toNat
  if 1056 ≤ ph then .fault (.noSuchUnit "GLADE_FAILURE")
  else if (s.physGlade ph).failed || !s.board.on.getLsbD (ph / 66) then .next s
  else
    let l := s.dep.life
    let s1 := (s.setPhys ph { s.physGlade ph with failed := true }).history 0x06 ph (BitVec.ofNat 64 cause.toNat)
    let s1 := { s1 with dep := { s1.dep with life := { l with gfail := addCnt32 l.gfail 1 } } }
    let args : FaultArgs := { cls := 0x13, cause := cause.toNat, detail := leBytes 2 ph }
    match s.servedBy ph with
    | some g =>
      let gl := s.glade g
      let s1b := ((s1.loseSpare ph).failSlow (ph / 66) 0).failSlow (ph / 66) 1
      let lost := !(List.range 2).any fun k => s1b.spareFit (ph / 66) k
      let s2 := if gl.inService then s1.abandonFault gl.plot.toNat { args with glade := some g, halted := lost } true else s1.raise args
      let s3 := s2.loseSpare ph
      if s3.mayRemap gl.plot.toNat then .next (s3.replaceGlade (ph / 66) g)
      else .next { s3 with dep := { s3.dep with remaps := s3.dep.remaps ++ [BitVec.ofNat 10 g] } }
    | none => .next ((s1.raise args).loseSpare ph)

/-- GLADE_REMAP_REFILL_DONE (R196): the resident regions hold their sources' bytes. A phase's refill is complete; its bytes
are read at the commit. -/
def execGladeRemapRefillDone (g : BitVec 10) (s : State) : Out :=
  if s.dep.refills.contains g then
    let s1 := refillGlades [g.toNat] s
    .next { s1 with dep := { s1.dep with refills := s1.dep.refills.filter fun x => x ≠ g } }
  else if s.image.refills.contains g then .next (s.setImage { s.image with refills := s.image.refills.filter fun x => x ≠ g })
  else .next s

end Sys2Proof.Machine
end

