-- ==== Sys2Proof/Machine/Life.lean ====
section
/-!
DEFINITION. Lifetime records (R455 to R459, R463) and the calendar (R460 to R462): snapshots and the history log in the SPI
NOR, what the power-on sequence restores from them, and the events that write them.
-/

namespace Sys2Proof.Machine

/-- Replacing what dependability holds. -/
def State.setDep (s : State) (d : Depend) : State := { s with dep := d }

/-! ### Snapshots -/

/-- The subsectors of the snapshot area (Table 16.5). -/
def snapSubs : Nat := 768
/-- The NOR address of snapshot subsector `i`. -/
def snapAt (i : Nat) : Nat := 0x03900000 + 4096 * i
/-- ASCII "LREC". -/
def snapMagic : List Byte := asciiBytes "LREC"

/-- A field of `n` bytes for each value of a list. -/
def eachBytes (n : Nat) {w : Nat} (xs : List (BitVec w)) : List Byte := xs.flatMap fun x => leBytes n x.toNat

/-- The values of a field of `n` bytes each, `k` of them from an offset. -/
def eachOf (bs : List Byte) (w n k at_ : Nat) : List (BitVec w) := (List.range k).map fun i => BitVec.ofNat w (leAt bs (at_ + n * i) n)

/-- The ageing code of physical glade `ph` with its failed bit (Table 16.6). -/
def State.ageingCode (s : State) (ph : Nat) : BitVec 16 :=
  BitVec.ofNat 16 ((s.physGlade ph).ageing.toNat + 32768 * natOfBool (s.physGlade ph).failed)

/-- Bytes 0 to 4,087 of a snapshot (Table 16.6). -/
def State.snapBody (s : State) (seq erases : Nat) : List Byte :=
  let l := s.dep.life
  snapMagic ++ leBytes 4 1 ++ leBytes 4 seq ++ leBytes 4 erases ++ leBytes 8 l.pon.toNat ++ leBytes 8 l.energy.toNat
  ++ leBytes 8 s.rt ++ leBytes 8 s.calNow.toNat ++ leBytes 4 s.dep.calState.toNat
  ++ eachBytes 4 [l.pons, l.tcyc, l.replays] ++ leBytes 8 l.steps.toNat
  ++ eachBytes 4 [l.trips, l.gfail, l.pfail, l.rfault, l.leak, l.ovolt] ++ eachBytes 4 l.stkCe ++ eachBytes 4 l.stkUe
  ++ eachBytes 2 l.stkWeak ++ l.stkRep ++ l.stkSusp ++ eachBytes 4 l.uchUe
  ++ eachBytes 2 ((List.range 1056).map s.ageingCode) ++ eachBytes 4 ((List.range 320).map fun k => mget (0 : BitVec 32) l.fec k)
  ++ zeroBytes 440

/-- A snapshot with its check value. -/
def State.snapshotBytes (s : State) (seq erases : Nat) : List Byte :=
  let b := s.snapBody seq erases
  b ++ leBytes 8 (crc64 b)

/-- Whether a subsector holds a valid snapshot (R456). -/
def snapValid (bs : List Byte) : Bool :=
  sliceBytes bs 0 4 == snapMagic && leAt bs 4 2 == 1 && leAt bs 4088 8 == crc64 (bs.take 4088)

/-- The snapshots that the NOR lists in the area: subsector and bytes. -/
def State.snapshots (s : State) : List (Nat × List Byte) :=
  ((List.range snapSubs).filter fun i => s.nor.any fun e => e.1 = snapAt i).map fun i => (i, s.norRead (snapAt i) 4096)

/-- The valid snapshot with the highest sequence (R456). -/
def State.newestSnap (s : State) : Option (Nat × List Byte) :=
  (s.snapshots.filter fun e => snapValid e.2).foldl
    (fun b e => match b with
      | some x => if leAt x.2 8 4 < leAt e.2 8 4 then some e else some x
      | none => some e) none

/-- The erase count that a subsector's snapshot carries. -/
def State.snapErases (s : State) (i : Nat) : Nat :=
  let bs := s.norRead (snapAt i) 16
  if sliceBytes bs 0 4 == snapMagic then leAt bs 12 4 else 0

/-- The counters that a snapshot carries. -/
def lifeOf (bs : List Byte) : LifeCounts :=
  let w := fun (at_ : Nat) => BitVec.ofNat 32 (leAt bs at_ 4)
  { pon := BitVec.ofNat 64 (leAt bs 16 8), energy := BitVec.ofNat 64 (leAt bs 24 8), energyFrac := 0, pons := w 52,
    tcyc := w 56, replays := w 60, steps := BitVec.ofNat 64 (leAt bs 64 8), trips := w 72, gfail := w 76, pfail := w 80,
    rfault := w 84, leak := w 88, ovolt := w 92, stkCe := eachOf bs 32 4 8 96, stkUe := eachOf bs 32 4 8 128,
    stkWeak := eachOf bs 16 2 8 160, stkRep := sliceBytes bs 176 8, stkSusp := sliceBytes bs 184 8,
    uchUe := eachOf bs 32 4 16 192,
    fec := (List.range 320).foldl (fun m k => mset 0 m k (BitVec.ofNat 32 (leAt bs (2368 + 4 * k) 4))) [] }

/-- Ageing codes brought to a snapshot: the lower of the stored code and a reported fmax (R457). -/
def ageAll : List Nat → State → State
  | [], s => s
  | ph :: phs, s =>
    let x := s.physGlade ph
    ageAll phs (match x.cur with
      | some c => s.setPhys ph { x with ageing := if c < x.ageing then c else x.ageing }
      | none => s)

/-- The subsectors of the history log in use (Table 16.5). -/
def State.histUsed (s : State) : List Nat :=
  (List.range 1024).filter fun i => s.nor.any fun e => decide (0x03C00000 + 4096 * i ≤ e.1 ∧ e.1 < 0x03C00000 + 4096 * (i + 1))

/-- Healthy physical spares that no glade uses (R463). -/
def State.freeSpares (s : State) : Nat :=
  ((List.range 16).flatMap fun gv => (List.range 2).filter fun k =>
    s.spare gv k == 0x7F && s.field (Reg.gldMap + 4 * gv) (16 + k) (16 + k) == 0 && !(s.physGlade (66 * gv + 64 + k)).failed).length

/-- LIFE_WEAR and LIFE_NOR after a snapshot (R463). -/
def State.updateWear (s : State) : State :=
  let codes := (s.servicePhys.map fun ph => (s.physGlade ph).ageing.toNat).filter fun c => c ≠ 0x7FF
  let f := s.ring.cur.toNat
  let head := match codes with
    | [] => 0x7FF
    | c :: cs => codeOf 12 ((cs.foldl min c : Nat) - (f : Int))
  let near := min 255 (codes.filter fun c => c ≤ f + s.field Reg.pwrFcfg 7 0).length
  let erases := ((List.range snapSubs).map s.snapErases).foldl max 0
  s.setDep { s.dep with
    wear := BitVec.ofNat 32 (head + 2 ^ 12 * near + 2 ^ 20 * s.freeSpares)
    nor := BitVec.ofNat 32 (min erases (2 ^ 17 - 1) + 2 ^ 17 * s.histUsed.length) }

/-- The subsector after the one that holds the newest snapshot. -/
def State.nextSnap (s : State) : Nat := if s.dep.newest.isEmpty then 0 else (s.dep.snapSub + 1) % snapSubs

/-- Erasing a subsector and writing a snapshot into it. A write or erase that fails its read-back leaves bytes that the
spec does not give. -/
def State.writeSnap (s : State) (i seq : Nat) (ok : Bool) : State :=
  let bs := s.snapshotBytes seq (s.snapErases i + 1)
  let s0 := s.norErase (snapAt i) (snapAt i + 4096)
  if ok then
    let s1 := s0.norWrite (snapAt i) bs
    s1.setDep { s1.dep with newest := bs, snapSub := i, snapSeq := BitVec.ofNat 32 seq }
  else (s0.drawBytes 4096).2.norWrite (snapAt i) (s0.drawBytes 4096).1

/-- Writing a snapshot (R455 to R457, R463): a failed write is tried once more in the next subsector; a second failure
skips the snapshot with cause 2. DEDUCED, unsafe: log entry 98. -/
def State.takeSnapshot (s : State) (writeOk retryOk : Bool) : State :=
  let s0 := ageAll (s.power.phys.map (·.1)) s
  let seq := if s0.dep.newest.isEmpty then 0 else s0.dep.snapSeq.toNat + 1
  let i := s0.nextSnap
  let s1 := s0.writeSnap i seq writeOk
  let s2 := if writeOk then s1 else s1.writeSnap ((i + 1) % snapSubs) seq retryOk
  if writeOk || retryOk then s2.updateWear
  else (s2.setDep { s2.dep with lifeStat := s2.dep.lifeStat ||| 4 }).raise { cls := 0x16, cause := 2 }

/-- Whether the Ranger may write the SPI NOR (R14, R22, R29). -/
def State.norWritable (s : State) : Bool := s.rangerRuns && !s.board.bootRom && !s.board.norHold

/-- LIFETIME_SNAPSHOT (R456): at a ring count that is a multiple of 2³⁶. -/
def execLifetimeSnapshot (writeOk retryOk : Bool) (s : State) : Out :=
  if s.norWritable && decide (s.rt % 2 ^ 36 = 0) then .next (s.takeSnapshot writeOk retryOk) else .next s

/-- A write of LIFE_CTL (R456). -/
def State.flushLife (s : State) (data : Word) (writeOk retryOk : Bool) : State :=
  if data.getLsbD 0 && s.norWritable then s.takeSnapshot writeOk retryOk else s

/-- LIFE_FLUSH (R456). -/
def execLifeFlush (data : BitVec 32) (writeOk retryOk : Bool) (s : State) : Out :=
  if s.board.on.getLsbD 29 then .next (s.flushLife data writeOk retryOk) else .next s

/-! ### The history log -/

/-- Entries of the log: 1,024 subsectors of 128. -/
def histSlots : Nat := 131072
/-- The NOR address of entry `k`. -/
def histAddr (k : Nat) : Nat := 0x03C00000 + 32 * k

/-- A history entry (R458). -/
def histBytes (kind : Byte) (consolidated : Bool) (unit : BitVec 16) (ring cal detail : DWord) : List Byte :=
  let b := [kind, BitVec.ofNat 8 (natOfBool consolidated)] ++ leBytes 2 unit.toNat ++ leBytes 8 ring.toNat ++ leBytes 8 cal.toNat
    ++ leBytes 8 detail.toNat
  b ++ leBytes 4 (crc32c b)

/-- Writing one entry at the head of the log. -/
def State.putHist (s : State) (bs : List Byte) : State :=
  let s1 := s.norWrite (histAddr s.dep.histAt) bs
  s1.setDep { s1.dep with histAt := (s1.dep.histAt + 1) % histSlots }

/-- Writing entries one after the other. -/
def putHists : List (List Byte) → State → State
  | [], s => s
  | b :: bs, s => putHists bs (s.putHist b)

/-- The subsectors after the one of the newest entry, in ring order. -/
def State.histAhead (s : State) : List Nat :=
  let cur := (s.dep.histAt + histSlots - 1) % histSlots / 128
  (List.range 1023).map fun k => (cur + 1 + k) % 1024

/-- How many subsectors ahead of the newest entry are empty. -/
def State.emptyAhead (s : State) : Nat :=
  let used := s.histUsed
  (s.histAhead.takeWhile fun i => !used.contains i).length

/-- Erasing the oldest subsectors that lie wholly before a consolidation, until 64 are empty (R459). `i`: candidates,
oldest first. -/
def eraseOld : List Nat → State → State
  | [], s => s
  | i :: is, s =>
    if s.emptyAhead < 64 then eraseOld is (s.norErase (histAddr (128 * i)) (histAddr (128 * (i + 1)))) else s

/-- A consolidation (R459): what is in force between its 0xFE and 0xFF entries; then the oldest subsectors are erased.
DEDUCED, unsafe: log entry 99. -/
def State.consolidate (s : State) : State :=
  let start := s.dep.histAt
  let mine := s.dep.inForce
  let mk := fun (e : InForce) => histBytes e.kind true e.unit s.ringCount s.calNow e.detail
  let all := [histBytes 0xFE false 0 s.ringCount s.calNow 0] ++ mine.map mk
    ++ [histBytes 0xFF false 0 s.ringCount s.calNow (BitVec.ofNat 64 mine.length)]
  let s1 := putHists all s
  let used := s1.histUsed
  let old := (s1.histAhead.filter used.contains).takeWhile fun i => i ≠ start / 128
  eraseOld old s1

/-- Writing the oldest waiting entry (R458, R459), and after an entry of a module-wide record a snapshot (R456), whose
read-back is a free value here. -/
def State.writeHist (s : State) (e : HistEvent) (rest : List HistEvent) : State :=
  let s0 := s.setDep { s.dep with histQueue := rest }
  let s1 := s0.putHist (histBytes e.kind false e.unit e.ring e.cal e.detail)
  let s2 := if s1.emptyAhead < 64 then s1.consolidate else s1
  if e.isModule then
    let a := s2.drawBool
    let b := a.2.drawBool
    b.2.takeSnapshot a.1 b.1
  else s2

/-- HISTORY_ENTRY_WRITE (R458): deferred while the power-fail warning holds. -/
def execHistoryEntryWrite (s : State) : Out :=
  match s.dep.histQueue with
  | e :: rest => if s.norWritable then .next (s.writeHist e rest) else .next s
  | [] => .next s

/-! ### Restoring at power-on -/

/-- The entries of the log in ring order, oldest first, without empty ones: index and bytes. -/
def State.histEntries (s : State) : List (Nat × List Byte) :=
  let used := s.histUsed
  let first := (used.find? fun i => !used.contains ((i + 1023) % 1024)).getD 0
  let order := ((List.range 1024).map fun k => (first + k) % 1024).filter used.contains
  (order.flatMap fun i => (List.range 128).map fun j => 128 * i + j).filterMap fun k =>
    let bs := s.norRead (histAddr k) 32
    if bs.all fun b => b == 0xFF then none else some (k, bs)

/-- Whether an entry passes its check. -/
def histGood (bs : List Byte) : Bool := leAt bs 28 4 == crc32c (bs.take 28)

/-- Whether a list of entries, from just after a 0xFE, reaches a 0xFF with the right count: `n` entries since it. -/
def closesWith (n : Nat) : List (List Byte) → Bool
  | [] => false
  | b :: bs => if histGood b && leAt b 0 1 == 0xFF then leAt b 20 8 == n else closesWith (n + 1) bs

/-- The entries from the newest 0xFE that a right 0xFF follows, if there is one. -/
def fromConsolidation : List (List Byte) → Option (List (List Byte))
  | [] => none
  | b :: bs =>
    match fromConsolidation bs with
    | some r => some r
    | none => if histGood b && leAt b 0 1 == 0xFE && closesWith 0 bs then some (b :: bs) else none

/-- What an entry puts in force. -/
def inForceOf (b : List Byte) : Option InForce :=
  if staysInForce (leAt b 0 1) then
    some { kind := BitVec.ofNat 8 (leAt b 0 1), unit := BitVec.ofNat 16 (leAt b 2 2), detail := BitVec.ofNat 64 (leAt b 20 8) }
  else none

/-- What is in force put to use (R453): lane repairs, weak blocks and failed glades. -/
def applyForce : List InForce → State → State
  | [], s => s
  | e :: es, s =>
    let d := e.detail.toNat
    let u := e.unit.toNat
    let s1 :=
      if e.kind = 1 then
        let r : LaneRepair := { stack := u, pc := d % 256, lane := d / 256 % 256 }
        { s with mem := { s.mem with laneRepairs := s.mem.laneRepairs ++ [r] } }
      else if e.kind = 3 then
        let p := (if u < 256 then u else u - 256 + 8) * 2 ^ 37 + d
        { s with mem := { s.mem with weak := s.mem.weak ++ [p] } }
      else if e.kind = 6 then s.setPhys u { s.physGlade u with failed := true }
      else s
    applyForce es s1

/-- The history log read at power-on (R459): where it ends, what is in force, and a record of the entries skipped. What
waits to be written is in force too. -/
def State.restoreHist (s : State) : State :=
  let es := s.histEntries
  let last := match es.getLast? with
    | some e => (e.1 + 1) % histSlots
    | none => 0
  let run := (fromConsolidation (es.map (·.2))).getD (es.map (·.2))
  let bad := (run.filter fun b => !histGood b).length
  let waiting := s.dep.histQueue.filterMap fun (e : HistEvent) =>
    if staysInForce e.kind.toNat then some ({ kind := e.kind, unit := e.unit, detail := e.detail } : InForce) else none
  let force := ((run.filter histGood).filterMap inForceOf ++ waiting).eraseDups
  let s1 := applyForce force (s.setDep { s.dep with histAt := last, inForce := force })
  if bad = 0 then s1 else s1.raise { cls := 0x16, cause := 3, detail := leBytes 4 bad }

/-- Ageing codes of a snapshot put in place (R456). -/
def restoreAgeing (bs : List Byte) : List Nat → State → State
  | [], s => s
  | ph :: phs, s =>
    let c := leAt bs (256 + 2 * ph) 2
    restoreAgeing bs phs (s.setPhys ph { s.physGlade ph with ageing := BitVec.ofNat 11 c, failed := (s.physGlade ph).failed || bitOf c 15 })

/-- Ageing codes as manufactured (R456). -/
def clearAgeing : List Nat → State → State
  | [], s => s
  | ph :: phs, s => clearAgeing phs (s.setPhys ph { s.physGlade ph with ageing := 0x7FF })

/-- Counters and ageing codes where there is no valid snapshot (R456). -/
def State.countersFresh (s : State) : State :=
  clearAgeing (s.power.phys.map (·.1))
    (s.setDep { s.dep with life := .zero, lifeStat := 2, newest := [], snapSub := 0, snapSeq := 0 })

/-- LIFETIME_RESTORE (R456, R459): the counters of the newest valid snapshot, or zero with a record of cause 1; then the
history log. -/
def State.restoreLife (s : State) : State :=
  let s1 := match s.newestSnap with
    | some e =>
      restoreAgeing e.2 (List.range 1056) (s.setDep { s.dep with
        life := lifeOf e.2, lifeStat := 1, newest := e.2, snapSub := e.1, snapSeq := BitVec.ofNat 32 (leAt e.2 8 4) })
    | none => s.countersFresh.raise { cls := 0x16, cause := 1 }
  s1.restoreHist

/-! ### The calendar -/

/-- CAL_SET and CAL_AT as the registers hold them, committed (R460, R461): state 1, and a history entry of the signed
change where it moves the carried calendar by more than 1 s (R462). -/
def State.commitCal (s : State) : State :=
  let carried := s.calNow
  let known := decide (s.dep.calState ≠ 0)
  let s1 := s.setDep { s.dep with
    calState := 1, calSet := BitVec.ofNat 64 (s.reg64 Reg.calSetLo), calAt := BitVec.ofNat 64 (s.reg64 Reg.calAtLo) }
  let d : Int := s1.calNow.toInt - carried.toInt
  if known && decide (1000000 < d.natAbs) then s1.history 0x09 0 (BitVec.ofInt 64 d) else s1

/-- CALENDAR_COMMIT (R460): a write of CAL_AT_HI. DEDUCED, unsafe: log entry 126. -/
def execCalendarCommit (data : BitVec 32) (s : State) : Out :=
  if s.board.on.getLsbD 29 then .next (s.setReg Reg.calAtHi data).commitCal else .next s

/-- The Alapor link comes up (R461): a set calendar is carried from then. -/
def State.attach (s : State) : State :=
  if s.dep.calState = 1 then s.setDep { s.dep with calState := 2 } else s

end Sys2Proof.Machine
end

