-- ==== Sys2Proof/Machine/HostLink.lean ====
section
/-!
DEFINITION. The two host links as such: where the Alapor link's training begins (R24, R368), the Ohmip stream's training,
hello, credit, blocks and loss (R24, R369 to R373).
-/

namespace Sys2Proof.Machine

/-- The highest version set in both of two masks; 0: none. -/
def highestCommon (a b n : Nat) : Nat := ((List.range n).filter fun v => bitOf a v && bitOf b v).foldl (fun _ v => v + 1) 0

/-- Whether the host I/O domain is up and OREF is present (R24, R368). -/
def State.hostIo (s : State) : Bool := s.board.on.getLsbD 26 && s.ring.oref && s.rangerRuns

/-! ### Alapor -/

/-- Alapor training begins (R368), with the versions that ALP_CTL allows then (R390). -/
def State.alaporTrains (s : State) : State :=
  { s with alapor := { s.alapor with mask := BitVec.ofNat 3 (s.field Reg.alpCtl 2 0), goodRun := 0, trainVer := 0 } }

/-- The Alapor link down, and training begun again (R368). A wake request is held (R366). -/
def State.alaporDown (s : State) : State :=
  let t := s.alaporTrains
  { t with alapor := { t.alapor with up := false, ver := 0, badRun := 0, lastCode := 0, restart := 0, hiLatch := [] } }

/-- The Alapor link up in the version that its training found (R368). -/
def State.alaporUp (s : State) : State :=
  State.attach { s with alapor := { s.alapor with
    up := true, ver := s.alapor.trainVer, badRun := 0, lastCode := 0, restart := 0, hiLatch := [] } }

/-! ### Ohmip -/

/-- The 64-byte units that waiting records take in the buffer of a channel (R370). -/
def Ohmip.inUse (o : Ohmip) (c : Nat) : Nat :=
  if c = 0 then (o.inbox.map fun e => creditUnits e.bytes.length).sum else (o.dataIn.map fun b => creditUnits b.length).sum

/-- The credit that the module's hello grants (R370): 256 KiB on channel 0 and 4 MiB on channel 1, less what is in use. -/
def Ohmip.grants (o : Ohmip) (c : Nat) : Nat := (if c = 0 then 4096 else 65536) - o.inUse c

/-- The module's hello (Table 13.6): its version mask, credits, largest record and last accepted sequences. -/
def State.helloItem (s : State) : List Byte :=
  leBytes 8 (4 + 2 ^ 8 * s.ohmip.vmask.toNat + 2 ^ 24 * s.ohmip.grants 0)
  ++ leBytes 8 (s.ohmip.grants 1 + 2 ^ 24 * 8194)
  ++ leBytes 4 (seqOrNone (s.lastAccepted 0)) ++ leBytes 4 (seqOrNone (s.lastAccepted 1))

/-- Sending an item that is no record. -/
def State.ohmipItem (s : State) (item : List Byte) : State := { s with ohmip := { s.ohmip with wire := s.ohmip.wire ++ [item] } }

/-- OHMIP_TRAINING (R372, Table 13.7 steps 1 to 4): the lanes have trained, and the module has sent its hello.
DEDUCED, unsafe: log entry 118. -/
def execOhmipTraining (ok : Bool) (s : State) : Out :=
  if s.ohmip.up || !s.hostIo || s.ohmip.idle || !ok then .next s
  else
    let t := { s with ohmip := { s.ohmip with
      hello := true, blockOut := 0, blockIn := 0, blockAcked := 0, vmask := BitVec.ofNat 2 (s.field Reg.ohmCtl 1 0) } }
    .next (t.ohmipItem t.helloItem)

/-- What a channel has to send again (R373): the records above the last sequence that the host has accepted, in order. -/
def resendList (c last : Nat) (l : List OutRecord) : List OutRecord :=
  (l.filter fun r => decide (r.chan = c) && (last == noRecord || decide (last < r.seq.toNat))).map fun r => { r with cls := 0 }

/-- The stream comes up (R373, Table 13.7 step 5): credits as the host's hello grants them, and everything that it has not
accepted goes first. -/
def State.streamUp (s : State) (v : Nat) (w0 w1 w2 : BitVec 64) : State :=
  let o := s.ohmip
  let last := fun (c : Nat) => if c = 0 then wf w2 31 0 else wf w2 63 32
  let again := resendList 0 (last 0) o.sent ++ resendList 1 (last 1) o.sent
  let next := fun (c : Nat) => match again.find? fun r => r.chan = c with
    | some r => r.seq
    | none => o.nextOut.getD c 0
  let credit := [wf w0 47 24, wf w1 23 0]
  State.pump { s with ohmip := { o with
    up := true, ver := v, vfault := false, hello := false, discarding := false, nextOut := [next 0, next 1],
    initial := credit, credit := credit, used := [0, 0], returned := [0, 0], maxRecord := 8 * wf w1 39 24,
    outq := again ++ o.outq, sent := [] } }

/-- HELLO (R370, R372, R373). -/
def execHello (w0 w1 w2 : BitVec 64) (s : State) : Out :=
  if s.ohmip.reserved (wf w0 3 0) then .next s.ohmipRetrain
  else if !s.ohmip.hello || wf w0 3 0 ≠ 4 then .next s
  else
    let v := highestCommon s.ohmip.vmask.toNat (wf w0 15 8) 2
    if v = 0 then .next { s with ohmip := { s.ohmip with hello := false, vfault := true } }
    else .next (s.streamUp v w0 w1 w2)

/-- The credit granted in all, given what a link status says has been returned, cumulative mod 2²⁴ (Table 13.6). -/
def Ohmip.granted (o : Ohmip) (c cum : Nat) : Nat :=
  let ini := o.initial.getD c 0
  let before := o.credit.getD c 0 - ini
  ini + before + (cum + 2 ^ 24 - before % 2 ^ 24) % 2 ^ 24

/-- OHMIP_LINK_STATUS (R369, R370): acknowledged blocks and returned credit, which releases queued output. -/
def execOhmipLinkStatus (w0 w1 : BitVec 64) (s : State) : Out :=
  if s.ohmip.reserved (wf w0 3 0) then .next s.ohmipRetrain
  else if !s.ohmip.up || wf w0 3 0 ≠ 2 then .next s
  else
    let o := s.ohmip
    .next (State.pump { s with ohmip := { o with
      blockAcked := BitVec.ofNat 16 (wf w0 31 16), discarding := false
      credit := [o.granted 0 (wf w1 23 0), o.granted 1 (wf w1 47 24)] } })

/-- OHMIP_REPLAY_REQUEST (R369, R330): the stream goes on from the named block. -/
def execOhmipReplayRequest (w0 : BitVec 64) (s : State) : Out :=
  if s.ohmip.reserved (wf w0 3 0) then .next s.ohmipRetrain
  else if !s.ohmip.up || wf w0 3 0 ≠ 3 then .next s
  else .next ({ s with ohmip := { s.ohmip with blockOut := BitVec.ofNat 16 (wf w0 31 16), discarding := false } }.bump Reg.ohmRply 1)

/-- An uncorrectable block in the histograms of lanes `k` to 19 (Table 16.6). -/
def fecLanes : List Nat → State → State
  | [], s => s
  | k :: ks, s => fecLanes ks (s.countFec k 15)

/-- OHMIP_UNCORRECTABLE_BLOCK (R369, R330): the block and every later one is discarded, and a replay request names it. -/
def execOhmipUncorrectableBlock (block : BitVec 16) (s : State) : Out :=
  if !s.ohmip.up then .next s
  else
    let s1 := fecLanes [12, 13, 14, 15, 16, 17, 18, 19] s
    if s.ohmip.discarding then .next s1
    else .next (State.ohmipItem { s1 with ohmip := { s1.ohmip with discarding := true, blockIn := block } } (leBytes 8 (3 + 2 ^ 16 * block.toNat)))

/-- OHMIP_LANE_LOSS (R372): the stream goes down and both ends retrain. -/
def execOhmipLaneLoss (_lane : BitVec 3) (s : State) : Out := if s.ohmip.up then .next s.ohmipDown else .next s

/-! ### OREF -/

/-- OREF_LOSS (R24): both links go down; a clock record of cause 2, which abandons nothing. -/
def execOrefLoss (s : State) : Out :=
  if !s.ring.oref then .next s
  else if !s.rangerRuns then .next (s.setRing { s.ring with oref := false })
  else .next ((s.setRing { s.ring with oref := false }).clockFault 2).alaporDown.ohmipDown

/-- OREF_RETURN (R24): the links train again. -/
def execOrefReturn (s : State) : Out :=
  let t := s.setRing { s.ring with oref := true }
  if s.ring.oref then .next t else .next t.alaporTrains

end Sys2Proof.Machine
end

