-- ==== Sys2Proof/Machine/Training.lean ====
section
/-!
DEFINITION. Memory training and its degraded units (R292, R294 to R297), the traffic generators (R318) and patrol (R325).
-/

namespace Sys2Proof.Machine

/-! ### Training -/

/-- Whether a lane is replaced at step 2 of a training: repaired before, or suspect (R294, R297). -/
def State.laneReplaced (s : State) (st : Nat) (e : LaneEye) : Bool :=
  (s.mem.laneRepairs.any fun l => decide (l.stack = st ∧ l.pc = e.pc.toNat ∧ l.lane = e.lane.toNat))
  || s.dep.inForce.any fun f => decide (f.kind = 2 ∧ f.unit.toNat = st ∧ f.detail.toNat = e.pc.toNat + 256 * e.lane.toNat)

/-- Whether two eye widths pass steps 5 and 6 (R294). -/
def State.eyeOk (s : State) (r w : Byte) : Bool :=
  decide (s.field Reg.memTrn 23 16 ≤ r.toNat) && decide (s.field Reg.memTrn 23 16 ≤ w.toNat)

/-- Whether a lane is good at the end of steps 5 and 6, and whether it has been replaced. -/
def State.laneEnd (s : State) (st : Nat) (e : LaneEye) : Bool × Bool :=
  if s.laneReplaced st e then (s.eyeOk e.spareRead e.spareWrite, true)
  else if s.eyeOk e.read e.write then (true, false)
  else (s.eyeOk e.spareRead e.spareWrite, true)

/-- Whether a stack passes at a rate. -/
def State.stackPasses (s : State) (st : Nat) (es : List LaneEye) (sweepErr : Bool) : Bool :=
  es.all (fun e => (s.laneEnd st e).1) && !(decide (s.field Reg.memTrn 0 0 = 1) && sweepErr)

/-- The lanes of a list that training has newly replaced, entered in the lifetime records (R294). -/
def addRepairs (st : Nat) : List LaneEye → State → State
  | [], s => s
  | e :: es, s =>
    let l : LaneRepair := { stack := st, pc := e.pc.toNat, lane := e.lane.toNat }
    if (s.laneEnd st e).2 && !s.mem.laneRepairs.contains l then
      let n := s.dep.life.stkRep.getD st 0
      let s1 := s.history 1 st (BitVec.ofNat 64 (e.pc.toNat + 256 * e.lane.toNat))
      addRepairs st es { s1 with
        mem := { s1.mem with laneRepairs := s1.mem.laneRepairs ++ [l] }
        dep := { s1.dep with life := { s1.dep.life with stkRep := setAt s1.dep.life.stkRep st (if n = 0xFF then n else n + 1) } } }
    else addRepairs st es s

/-- The result of a stack's training. -/
def State.setStack (s : State) (st state : Nat) (slow : Bool) (temp : Byte) : State :=
  let x : StackState := { state := BitVec.ofNat 2 state, slow, repairs := s.dep.life.stkRep.getD st 0, temp }
  let s1 := { s with mem := { s.mem with stks := setAt s.mem.stks st x } }
  if state = 3 then s1.raise { cls := 0x12, cause := 1, detail := [BitVec.ofNat 8 st] } else s1

/-- Training one stack: at 8.0 Gbit/s, else at 6.4, else degraded; one with 256 weak blocks is degraded (R294, R295,
R321). -/
def State.trainStack (s : State) (st : Nat) (t : StackTrain) : State :=
  if (s.dep.life.stkWeak.getD st 0).toNat ≥ 256 then s.setStack st 3 false t.temp
  else if s.stackPasses st t.eyes80 t.sweepErr80 then (addRepairs st t.eyes80 s).setStack st 2 false t.temp
  else
    let s1 := addRepairs st t.eyes80 s
    if s1.stackPasses st t.eyes64 t.sweepErr64 then (addRepairs st t.eyes64 s1).setStack st 2 true t.temp
    else (addRepairs st t.eyes64 s1).setStack st 3 true t.temp

/-- Training the stacks. -/
def trainStacks : List (StackTrain × Nat) → State → State
  | [], s => s
  | (t, st) :: ts, s => trainStacks ts (if st < 8 then s.trainStack st t else s)

/-- Whether a channel passes at a rate: its lanes, which have no repair, and the sweep, if one is asked for (R294, R295,
Table 11.12). -/
def State.chanPasses (s : State) (eyes : List (Byte × Byte)) (sweepErr : Bool) : Bool :=
  eyes.all (fun e => s.eyeOk e.1 e.2)
  && !((decide (s.field Reg.memTrn 1 1 = 1) || decide (s.field Reg.memTrn 15 8 ≠ 0)) && sweepErr)

/-- Training one understory channel (R295). -/
def State.trainChan (s : State) (c : Nat) (t : ChanTrain) : State :=
  let fast := s.chanPasses t.eyes8533 t.sweepErr8533
  let slow := !fast && s.chanPasses t.eyes6400 t.sweepErr6400
  let st := if fast || slow then 2 else 3
  let s1 := { s with mem := { s.mem with
    uch := setAt s.mem.uch c (BitVec.ofNat 2 st)
    uslow := BitVec.ofNat 16 (s.mem.uslow.toNat - natOfBool (bitOf s.mem.uslow.toNat c) * 2 ^ c + natOfBool slow * 2 ^ c) } }
  if st = 3 then s1.raise { cls := 0x12, cause := 2, detail := [BitVec.ofNat 8 c] } else s1

/-- Training the channels. -/
def trainChans : List (ChanTrain × Nat) → State → State
  | [], s => s
  | (t, c) :: ts, s => trainChans ts (if c < 16 then s.trainChan c t else s)

/-- Whether memory trains now: the state of every stack and channel is 1. -/
def State.startTraining (s : State) : State :=
  { s with mem := { s.mem with
      retrain := true
      stks := s.mem.stks.map fun x => { x with state := 1 }
      uch := List.replicate 16 1 } }

/-- MEMORY_TRAINING (R294 to R296, Table 11.4): what the stacks and channels hold is not kept.
DEDUCED, unsafe: log entry 102. -/
def execMemoryTraining (sts : List StackTrain) (chans : List ChanTrain) (s : State) : Out :=
  if s.mem.retrain then
    let s1 := { s with mem := { s.mem with retrain := false, phys := [] } }
    .next (trainChans chans.zipIdx (trainStacks sts.zipIdx s1))
  else .next s

/-- MEM_RETRAIN (R297): a write of MEM_TRN; with retrain set it is ignored while an image is applied.
DEDUCED, unsafe: log entry 101. -/
def execMemRetrain (data : BitVec 32) (s : State) : Out :=
  let fields := s.setReg Reg.memTrn (data &&& 0x00FFFF03)
  onReg Reg.memTrn s (if !data.getLsbD 31 then fields else if s.imageApplied then s else fields.startTraining)

/-- UNDERSTORY_RETIMING (R292, Table 11.3): the timing is re-centred with traffic running; no value changes. -/
def execUnderstoryRetiming (s : State) : Out := .next s

/-! ### The traffic generators -/

/-- The generator of a channel. -/
def State.tgUnit (s : State) (c : Nat) : TgUnit := mget TgUnit.init s.mem.tg c

/-- Replacing a generator. -/
def State.setTg (s : State) (c : Nat) (u : TgUnit) : State := { s with mem := { s.mem with tg := mset TgUnit.init s.mem.tg c u } }

/-- The place of a channel-local byte (R291, R293): a stack channel's 128-byte granules alternate between its two
pseudo-channels. -/
def tgPhys (c a : Nat) : Nat :=
  if c < 128 then
    let j := a / 128
    c / 16 * 2 ^ 37 + ((j / 2 * 32 + 2 * (c % 16) + j % 2) * 128 + a % 128)
  else (8 + (c - 128)) * 2 ^ 37 + a

/-- A granule table entry in the layout of Table 11.7. -/
def Granule.word (g : Granule) : Nat :=
  g.slot.toNat + 2 ^ 28 * natOfBool g.under + 2 ^ 29 * natOfBool g.valid + 2 ^ 30 * natOfBool g.moving + 2 ^ 31 * natOfBool g.dirty
  + 2 ^ 32 * g.count.toNat + 2 ^ 48 * g.hint.toNat + 2 ^ 64 * g.hexp.toNat

/-- The granule table entry in which a place of a stack lies, and the byte of it, while an image is applied (R301): the table is
striped over all eight stacks from MEM_GTAB_OFF. -/
def State.tableSpot (s : State) (p : Nat) : Option (Nat × Nat) :=
  let u := p / 2 ^ 37
  let x := p % 2 ^ 37
  let off := s.field Reg.memGtabOff 24 0
  let o := ((x / 4096 - off) * 8 + u) * 4096 + x % 4096
  if s.imageApplied && decide (u < 8) && decide (off ≤ x / 4096) && decide (o / 16 < s.field Reg.memGtabCnt 27 0) then
    some (o / 16, o % 16)
  else none

/-- The byte that a generator reads at a place (R301): of the granule table, or what memory holds. -/
def State.stored (s : State) (ph : SMap Byte) (p : Nat) : Byte :=
  match s.tableSpot p with
  | some (k, i) => (leBytes 16 (mget Granule.init s.mem.granules k).word).getD i 0
  | none => mget 0 ph p

/-- The pattern byte of a generator at a channel-local address (Table 11.12). -/
def TgUnit.byte (u : TgUnit) (a : Nat) : Byte :=
  if u.pattern = 3 then BitVec.ofNat 8 (u.seed.toNat / 2 ^ (8 * (a % 4))) else Config.tgPattern u.pattern.toNat u.seed.toNat a

/-- Whether the stack or channel of a generator is degraded. -/
def State.tgDegraded (s : State) (c : Nat) : Bool :=
  if c < 128 then decide ((s.mem.stks.getD (c / 16) .init).state = 3) else decide (s.mem.uch.getD (c - 128) 0 = 3)

/-- A write of MEM_TG_CTL for the selected generator (R318); on a degraded unit modes 1 to 3 run or not, as the module has it
(R295, R318). DESIGN CHOICE, safe: log entry 103. -/
def State.tgWrite (s : State) (data : BitVec 32) : State :=
  let c := s.field Reg.memTgSel 7 0
  let d := data.toNat
  let mode := bitsOf d 2 0
  let u := s.tgUnit c
  let set := { u with mode := BitVec.ofNat 3 mode, pattern := BitVec.ofNat 3 (bitsOf d 5 3), order := BitVec.ofNat 2 (bitsOf d 7 6), loop := bitOf d 10 }
  if c ≥ 144 then s
  else if bitOf d 8 then
    let ok := !u.busy && decide (1 ≤ mode ∧ mode ≤ 4)
      && (mode = 4 || (if s.tgDegraded c then Config.degradedModes else mode = 2 || !s.imageApplied))
    if ok then
      s.setTg c { set with busy := true, stopping := bitOf d 9, done := false, refused := false, err := false, passes := 0,
                           errCount := 0, faddr := 0, fbits := 0 }
    else s.setTg c { u with refused := true }
  else s.setTg c { set with stopping := u.stopping || (u.busy && bitOf d 9) }

/-- MEM_TG_START (R318). -/
def execMemTgStart (data : BitVec 32) (s : State) : Out := onReg Reg.memTgCtl s (s.tgWrite data)

/-- MEM_TG_STOP (R318): the generator stops at the next 4 KiB unit. -/
def execMemTgStop (data : BitVec 32) (s : State) : Out := onReg Reg.memTgCtl s (s.tgWrite data)

/-- Writing a pattern over channel-local addresses. -/
def tgFill (c : Nat) (u : TgUnit) (m : SMap Byte) (as : List Nat) : SMap Byte :=
  as.foldl (fun m a => mset 0 m (tgPhys c a) (u.byte a)) m

/-- MEM_TG_RUN_COMPLETE (R318): a pass of a generator ends. `flips`: what the range read back differently, address and
changed bits; `poisoned`: channel-local addresses whose accesses came poisoned, each counted in MEM_UE. A stopped pass has done
a free number of units. -/
def execMemTgRunComplete (chan : BitVec 8) (flips : List (Nat × Byte)) (poisoned : List Nat) (s : State) : Out :=
  let c := chan.toNat
  let u := s.tgUnit c
  if c ≥ 144 then .fault (.noSuchUnit "MEM_TG_RUN_COMPLETE")
  else if !u.busy then .next s
  else
    let d := s.draw 26
    let units := if u.stopping then min d.1.toNat u.len.toNat else u.len.toNat
    let s1 := if u.stopping then d.2 else s
    let as := (List.range (units * 4096)).map (u.base.toNat + ·)
    let ph := if u.mode = 1 ∨ u.mode = 3 then tgFill c u s1.mem.phys as else s1.mem.phys
    let width := if c < 128 then 32 else 64
    let diff := fun (a : Nat) =>
      (s1.stored ph (tgPhys c a) ^^^ ((flips.find? fun f => f.1 = a).map (·.2)).getD 0) ^^^ u.byte a
    let wrong := if u.mode = 2 ∨ u.mode = 3 then as.filter fun a => diff a ≠ 0 else []
    let hurt := if u.mode = 1 then [] else poisoned.filter fun a => decide (u.base.toNat ≤ a ∧ a < u.base.toNat + units * 4096)
    let bad := as.filter fun a => wrong.contains a || hurt.contains a
    let accesses := (bad.map (· / width)).dedup.length
    let first := match u.order.toNat with
      | 0 => bad.head?
      | 1 => bad.getLast?
      | _ => bad[(s1.draw 26).1.toNat % bad.length]?
    let s1 := poisonPlaces (hurt.map (tgPhys c)) s1
    let s2 := if u.order.toNat ≥ 2 ∧ bad ≠ [] then (s1.draw 26).2 else s1
    let lanes := wrong.foldl (fun w a => w ||| (diff a).toNat * 2 ^ (8 * (a % 4))) u.fbits.toNat
    let ended := u.stopping || !u.loop
    let u1 := { u with
      busy := !ended
      stopping := u.stopping && !ended
      done := ended
      err := u.err || decide (accesses > 0)
      passes := if u.stopping ∨ u.passes = 0xFFFF then u.passes else u.passes + 1
      errCount := addCnt32 u.errCount accesses
      faddr := if u.err then u.faddr else BitVec.ofNat 37 (first.getD u.faddr.toNat)
      fbits := BitVec.ofNat 32 lanes }
    .next (State.setTg { s2 with mem := { s2.mem with phys := ph } } c u1)

/-! ### Patrol -/

/-- The block that patrol reads next, and the place after it (R325): the blocks of each WEIGHT region in ascending
address, then its mirror, region after region. -/
def State.patrolNext (s : State) : Option (Nat × Region × Nat × Bool × (Nat × Nat × Bool)) :=
  let rs := s.mem.regions.filter fun e => e.2.kind = 1
  let cur := (rs.find? fun e => decide (s.mem.patrolAt.1 ≤ e.1)).orElse fun _ => rs.head?
  match cur with
  | none => none
  | some (k, r) =>
    let same := decide (k = s.mem.patrolAt.1)
    let off := if same then s.mem.patrolAt.2.1 else 0
    let mir := if same then s.mem.patrolAt.2.2 else false
    let next := off + 16384
    let after := if next < r.bytes then (k, next, mir) else if r.mirror && !mir then (k, 0, true) else (k + 1, 0, false)
    some (k, r, off, mir, after)

/-- PATROL_READ (R325): every MEM_PATROL.interval rt; `bad`: the block, or its mirror's copy, fails its check, and waits for a
free entry while the table is full (R322). There is none in S3 and S4 (R434). DESIGN CHOICE, unsafe: log entry 104. -/
def execPatrolRead (bad : Bool) (s : State) : Out :=
  if s.field Reg.memPatrol 16 16 = 0 || s.rt < s.mem.patrolDue.toNat || decide (3 ≤ s.power.state.toNat) then .next s
  else match s.patrolNext with
    | none => .next s
    | some (k, r, off, mirror, after) =>
      if bad && decide (s.mem.repairs.length ≥ 64) then .next s else
      let s1 := { s with mem := { s.mem with patrolAt := after, patrolDue := s.ringCount + BitVec.ofNat 64 (s.field Reg.memPatrol 15 0) } }
      .next (if bad then s1.openRepairOf mirror k off (min 16384 (r.bytes - off)) .patrol else s1)

end Sys2Proof.Machine
end

