-- ==== Sys2Proof/Machine/Board.lean ====
section
/-!
DEFINITION. The board (R14 to R19, R22, R27, R29 to R36): the input supply, PERST_N and SVC_HOLD_N, the power sequence of
Table 1.3, restarts, the SMBus commands other than the window, the trip, the leak sensor, and JTAG.
-/

namespace Sys2Proof.Machine

/-- Replacing the board. -/
def State.setBoard (s : State) (b : Board) : State := { s with board := b }

/-- Replacing the lifetime counters. -/
def State.setLife (s : State) (l : LifeCounts) : State := { s with dep := { s.dep with life := l } }

/-- A saturating step of a 32-bit counter. -/
def up32 (c : BitVec 32) : BitVec 32 := addCnt32 c 1

/-- Bits of board status set (Table 1.9). -/
def State.setStatus (s : State) (bits : Byte) : State := s.setBoard { s.board with status := s.board.status ||| bits }

/-- A board record (class 0x14): step, rail and temperature in bytes 40 to 42, and the die, stack or rail concerned. -/
def State.boardFault (s : State) (cause step rail temp unit : Nat) : State :=
  s.raise { cls := 0x14, cause := cause, unit := unit, detail := [BitVec.ofNat 8 step, BitVec.ofNat 8 rail, BitVec.ofNat 8 temp] }

/-! ### Turning off -/

/-- What outlives the Ranger domain: pins, the SPI NOR, fuses, the operator keys and the firmware images in the NOR, and
what waits to be commanded. -/
def State.survivors (s : State) (b : Board) : State :=
  { State.reset with
    pending := s.pending
    fresh := s.fresh
    nor := s.nor
    board := { b with
      vin := s.board.vin, zone := s.board.zone, perstN := s.board.perstN, svcHoldN := s.board.svcHoldN, ga := s.board.ga
      wet := s.board.wet, hottest := s.board.hottest, flash := s.board.flash }
    ring := { Ring.init with rref := s.ring.rref, oref := s.ring.oref }
    security := { Security.init with
      idFail := s.security.idFail, prefer := s.security.prefer, images := s.security.images, minSvn := s.security.minSvn
      opSeq := s.security.opSeq, operators := s.security.operators } }

/-- Every domain off, the Ranger domain included (R15, R16, R19): what it held is lost. -/
def State.allOff (s : State) : State := s.survivors { Board.init with on := 0, seq := .idle }

/-- The power-up state of the Ranger domain, with the sequence due at step 1 (R488, R19). -/
def State.fromStep1 (s : State) : State := s.survivors Board.init

/-- What the Warden keeps of a physical glade when its grove is off: its current fmax is the fuse again when the grove
rises (R426). -/
def PhysGlade.off (x : PhysGlade) : PhysGlade := { x with cur := none, marginal := false, graceEnd := none, inFmax := false }

/-- The stand frequency and agreement state at their defaults (R453), with the ring count kept (R398). -/
def Ring.restart (r : Ring) : Ring :=
  { r with cur := 800, held := false, pend := 0, pendAt := 0, pendFromRounds := false, roundV := 0, roundA := 0, roundI := 0,
           roundOn := false, lowers := [], preRaised := false }

/-- Every domain but the Ranger domain off (R15, R17, R18, R35): their registers and state return to reset (R486). What
R398 returns to its default on a restart does so here; the Ranger keeps the ring count, the fault queue, its counters
and its keys. -/
def State.rangerOnly (s : State) : State :=
  let vals := s.regs.vals.filter fun e => regDomain e.1 = 29
  let pw := s.power
  let links := s.alaporDown.ohmipDown
  resetLk vals
    { links with
      regs := { links.regs with vals := links.regs.vals.filter fun e => regDomain e.1 = 29 }
      board := { s.board with on := 0x20000000, asleep := 0, seq := .idle }
      power := { Power.init with
        phys := (pw.phys.map fun e => (e.1, e.2.off)).filter fun e => e.2 ≠ PhysGlade.init
        rails := pw.rails, missing := pw.missing, pin := pw.pin, png := pw.png, pool := pw.pool }
      dep := { s.dep with refills := [] }
      ring := s.ring.restart
      step := .init, plots := [], glades := [], groves := [], mesh := []
      mem := { Memory.init with laneRepairs := s.mem.laneRepairs, weak := s.mem.weak, errors := s.mem.errors }
      serving := .init, routing := .init, lease := .init, layers := [], pendCounts := [], pendLayers := []
      fabric := { Fabric.init with rangerLog := s.fabric.rangerLog }
      alapor := .init, ohmip := .init
      image := { Image.init with valid := s.image.valid } }

/-- Powered down to the Ranger domain, which stays up, with the sequence due at a step (R18, R398). -/
def State.restartFrom (s : State) (n : Nat) : State := let t := s.rangerOnly; t.setBoard { t.board with seq := .due n }

/-- A restart from step 3 (R18, R366, R33): powered down, with the sequence due. -/
def State.restart3 (s : State) : State := s.restartFrom 3

/-- A full restart (R366, R33): every domain powered down, with the sequence due at step 1. -/
def State.restart1 (s : State) : State := s.fromStep1

/-! ### The input supply -/

/-- POWER_FAIL_WARNING (R14): below 57 V. -/
def execPowerFailWarning (v : BitVec 16) (s : State) : Out :=
  if v.toNat < 5700 && (decide (s.board.zone = .ok) || decide (s.board.zone = .recovering)) then
    let s1 := s.setBoard { s.board with vin := v, zone := .warned, inRange := 0 }
    if s.rangerRuns then
      .next ((((s1.setLife { s1.dep.life with pfail := up32 s1.dep.life.pfail }).setStatus 1).boardFault 1 0 0 0 0))
    else .next s1
  else .next s

/-- The Ranger domain up after the input came above 58.5 V with PERST_N high: the power-on sequence is due at step 1, or,
while SVC_HOLD_N is low, the Ranger is held in reset (Table 1.3, R22, R29). -/
def State.powerReturns (s : State) : State :=
  if !s.board.perstN then s
  else if s.board.svcHoldN then s.fromStep1
  else s.setBoard { s.board with on := 0x20000000, rangerReset := true }

/-- Whether the input is above 58.5 V (Table 1.3). -/
def State.inputGood (s : State) : Bool := decide (s.board.zone = .ok) || decide (s.board.zone = .recovering)

/-- INPUT_RECOVERY (R15): above 58.5 V before 56 V was reached. A Ranger domain that PERST_N had turned off rises. -/
def execInputRecovery (v : BitVec 16) (s : State) : Out :=
  if 5850 < v.toNat && decide (s.board.zone = .warned) then
    let s1 := s.setBoard { s.board with vin := v, zone := .recovering, inRange := 0 }
    if s.board.on.getLsbD 29 then .next s1 else .next (s1.setBoard { s1.board with zone := .ok }).powerReturns
  else .next s

/-- GROVE_CLOCK_RESUME (R15): four regulator reports in a row with the input in range. -/
def execGroveClockResume (s : State) : Out :=
  if decide (s.board.zone = .recovering) && 4 ≤ s.board.inRange then .next (s.setBoard { s.board with zone := .ok, inRange := 0 }) else .next s

/-- UNDER_VOLTAGE_OFF (R15): below 56 V. -/
def execUnderVoltageOff (v : BitVec 16) (s : State) : Out :=
  if v.toNat < 5600 && (decide (s.board.zone = .ok) || decide (s.board.zone = .warned) || decide (s.board.zone = .recovering)) then
    let s1 := s.setBoard { s.board with vin := v, zone := .under }
    if s.board.on.getLsbD 29 then
      if s.rangerRuns then .next (s1.rangerOnly.boardFault 2 0 0 0 0) else .next s1.rangerOnly
    else .next s1
  else .next s

/-- RANGER_DOMAIN_CUTOFF (R15): below 40 V. -/
def execRangerDomainCutoff (v : BitVec 16) (s : State) : Out :=
  if v.toNat < 4000 && decide (s.board.zone = .under) then .next (s.setBoard { s.board with vin := v, zone := .cutoff }).allOff
  else .next s

/-- INPUT_RETURN (R15, R398): above 58.5 V after 56 V was passed: the sequence from step 1. A Ranger domain that stayed up
keeps what it holds through a restart. After a fall below 40 V board status is zero, the over-voltage bit of an earlier
over-voltage among it. DEDUCED, unsafe: log entry 22. -/
def execInputReturn (v : BitVec 16) (s : State) : Out :=
  if 5850 < v.toNat && (decide (s.board.zone = .under) || decide (s.board.zone = .cutoff)) then
    let s1 := s.setBoard { s.board with vin := v, zone := .ok }
    if s.rangerRuns && s.board.svcHoldN then .next (s1.restartFrom 1) else .next s1.powerReturns
  else .next s

/-- OVER_VOLTAGE_SHUTDOWN (R16): above 82 V. Of what the Ranger domain held, the over-voltage bit alone is kept. -/
def execOverVoltageShutdown (v : BitVec 16) (s : State) : Out :=
  if 8200 < v.toNat && decide (s.board.zone ≠ .over) then
    let s1 := s.setBoard { s.board with vin := v, zone := .over }
    .next (s1.allOff.setStatus 0x10)
  else .next s

/-- OVER_VOLTAGE_RECOVERY (R16): below 81 V; with the input above 58.5 V the sequence starts, else it waits for its return. -/
def execOverVoltageRecovery (v : BitVec 16) (s : State) : Out :=
  if v.toNat < 8100 && decide (s.board.zone = .over) then
    if 5850 < v.toNat then .next ((s.setBoard { s.board with vin := v, zone := .ok }).powerReturns.setStatus (s.board.status &&& 0x10))
    else .next (s.setBoard { s.board with vin := v, zone := .cutoff })
  else .next s

/-! ### The power sequence -/

/-- The domains of a step of Table 1.3; step 8 raises one grove at a time. -/
def stepDomains (n grove : Nat) : BitVec 30 :=
  if n = 3 then 0x04000000 else if n = 4 then 0x00FF0000 else if n = 5 then 0x01000000 else if n = 6 then 0x18000000
  else if n = 7 then 0x02000000 else if n = 8 then BitVec.ofNat 30 (2 ^ grove) else 0x20000000

/-- Raising a step's rails; with the host I/O domain of step 3, Alapor training begins (R368). -/
def State.raiseStep (s : State) (n grove : Nat) : State :=
  let t := s.setBoard { s.board with on := s.board.on ||| stepDomains n grove, seq := .up n grove }
  if n = 3 then t.alaporTrains else t

/-- The order in which the boot ROM tries the images (R465): the preferred one first. -/
def Security.bootOrder (x : Security) : List Bool := [x.prefer, !x.prefer]

/-- A firmware image. -/
def Security.fw (x : Security) (b : Bool) : FwImage := x.images.getD (natOfBool b) { ok := false, svn := 0, digest := [] }

/-- Whether an image passes R465 steps 1 to 4. -/
def Security.fwOk (x : Security) (b : Bool) : Bool := (x.fw b).ok && decide (x.minSvn.toNat ≤ (x.fw b).svn.toNat)

/-- BOOT_ROM_VERIFY (R465): the first valid image runs; with none, the Ranger stays in the ROM with the rail-fault bit.
DEDUCED, unsafe: log entry 129. -/
def State.bootRom (s : State) : State :=
  match s.security.bootOrder.find? s.security.fwOk with
  | some b =>
    let x := s.security
    { s with
      security := { x with image := b, svn := (x.fw b).svn, otherOk := x.fwOk !b, failures := x.bootOrder.takeWhile fun y => !x.fwOk y }
      board := { s.board with bootRom := false } }
  | none =>
    let t := { s with security := { s.security with failures := s.security.bootOrder } }
    (t.setBoard { t.board with bootRom := true, seq := .idle }).setStatus 0x20

/-- A sequence starting (R455: it counts), with what the Ranger restores before step 3 (R456, R461). -/
def State.powerOn (s : State) : State :=
  let s1 := (s.setDep { s.dep with calState := 0 }).restoreLife
  s1.setLife { s1.dep.life with pons := up32 s1.dep.life.pons }

/-- Liquid found at the sensor (R36): the event is counted, the leak bit set and the record raised; the power-down of R18
is due. -/
def State.leakFound (s : State) : State :=
  let s2 := s.setLife { s.dep.life with leak := up32 s.dep.life.leak }
  let s3 := (s2.setStatus 8).boardFault 6 0 0 0 0
  s3.setBoard { s3.board with seq := .down }

/-- A start of the sequence to state `t`, or, with liquid still at the sensor, the power-down of R36. -/
def State.orLeak (s t : State) : State :=
  if !s.board.wet then t
  else if s.board.status.getLsbD 3 then s.setBoard { s.board with seq := .down }
  else s.leakFound

/-- POWER_ON_SEQUENCE (R398, Table 1.3): steps 1 and 2 where it starts at step 1, and then step 3's rails.
It waits for an input above 58.5 V at step 1, and at step 3 for firmware that runs and an input that has not fallen below
56 V. Where liquid is at the sensor, the power-down of R36 is due instead.
DEDUCED, unsafe: log entry 20. DEDUCED, unsafe: log entry 21. -/
def execPowerOnSequence (s : State) : Out :=
  match s.board.seq with
  | .due n =>
    if n = 1 then
      if !s.inputGood then .next s
      else
        let s1 := s.bootRom
        if s1.board.bootRom then .next (s1.orLeak s1) else .next (s1.orLeak (s1.powerOn.raiseStep 3 0))
    else if s.board.bootRom || !(s.inputGood || decide (s.board.zone = .warned)) then .next s
    else .next (s.orLeak (s.powerOn.raiseStep 3 0))
  | _ => .next s

/-- A grove that has risen (R417, R435): no reports seen, its rail at its set point. -/
def State.groveRises (s : State) (gv : Nat) : State :=
  { s with power := { s.power with groves := mset GrovePower.init s.power.groves gv ({ GrovePower.init with railUp := true }.settle s gv) } }

/-- SEQUENCE_STEP_POWER_GOOD (R17): the next step's rails rise; after grove 15 the sequence has ended and memory training
begins. -/
def execSequenceStepPowerGood (s : State) : Out :=
  match s.board.seq with
  | .up n gv =>
    if n < 7 then .next (s.raiseStep (n + 1) 0)
    else if n = 7 then .next (s.raiseStep 8 0)
    else
      let s1 := s.groveRises gv
      if gv < 15 then .next (s1.raiseStep 8 (gv + 1))
      else .next (s1.setBoard { s1.board with seq := .idle }).startTraining
  | _ => .next s

/-- RAIL_POWER_GOOD_MISS (R17): every domain raised in the sequence turns off; the step and the rail are logged.
DEDUCED, unsafe: log entry 23. -/
def execRailPowerGoodMiss (rail : BitVec 8) (s : State) : Out :=
  match s.board.seq with
  | .up n _ =>
    let s1 := s.rangerOnly
    let s2 := s1.setBoard { s1.board with rangerLog := s1.board.rangerLog ++ [(n, rail.toNat)] }
    .next (((s2.setLife { s2.dep.life with rfault := up32 s2.dep.life.rfault }).setStatus 0x20).boardFault 4 n rail.toNat 0 rail.toNat)
  | _ => .next s

/-- POWER_DOWN_SEQUENCE (R18, R36): step 8 to step 3 in reverse. -/
def execPowerDownSequence (s : State) : Out :=
  match s.board.seq with
  | .down => .next s.rangerOnly
  | _ => .next s

/-! ### Pins -/

/-- PERST_N_FALL (R19, R22): everything is powered down and held in reset; the flash has no master.
DEDUCED, unsafe: log entry 22. -/
def execPerstNFall (s : State) : Out :=
  if !s.board.perstN then .next s
  else
    let t := (s.setBoard { s.board with perstN := false, flash := .nobody }).allOff
    .next (t.setBoard { t.board with rangerReset := true })

/-- PERST_N_RISE (R19): the slot address is sampled; the sequence is due at step 1 where the input and SVC_HOLD_N allow. -/
def execPerstNRise (ga : BitVec 5) (s : State) : Out :=
  if s.board.perstN then .next s
  else
    let flash : FlashMaster := if s.board.svcHoldN then .ranger else .header
    let t := s.setBoard { s.board with perstN := true, ga := ga, flash := flash, rangerReset := !s.board.svcHoldN }
    if t.inputGood then .next t.powerReturns else .next t

/-- SVC_HOLD_ASSERT (R29): the Ranger in reset, every other domain off, the flash on J5; PERST_N low overrides it. -/
def execSvcHoldAssert (s : State) : Out :=
  if !s.board.svcHoldN then .next s
  else if !s.board.perstN then .next (s.setBoard { s.board with svcHoldN := false })
  else
    let on := s.board.on
    let t := (s.setBoard { s.board with svcHoldN := false, flash := .header }).allOff
    .next (t.setBoard { t.board with rangerReset := true, on := on &&& 0x20000000 })

/-- SVC_HOLD_RELEASE (R29): the flash back on the Ranger, and step 1, which waits for the input (Table 1.3). -/
def execSvcHoldRelease (s : State) : Out :=
  if s.board.svcHoldN then .next s
  else if !s.board.perstN then .next (s.setBoard { s.board with svcHoldN := true })
  else
    let t := s.setBoard { s.board with svcHoldN := true, flash := .ranger, rangerReset := false }
    if t.inputGood || s.board.on.getLsbD 29 then .next t.powerReturns else .next t

/-! ### SMBus -/

/-- Whether the SMBus target answers (R31): the Ranger domain is up, out of reset, and PERST_N is high. -/
def State.smbusUp (s : State) : Bool := s.rangerRuns && s.board.perstN

/-- An SMBus answer. A Ranger that stays in its ROM (R465) answers too, as R31 says. DEDUCED, unsafe: log entry 138. -/
def State.smbReply (s : State) (bs : List Byte) : Out :=
  if s.smbusUp then .next (s.setBoard { s.board with smbAnswer := bs, smbNack := false }) else .next s

/-- SMBUS_PART_NUMBER (Table 1.9). -/
def execSmbusPartNumber (s : State) : Out := s.smbReply (asciiBytes "UXT9-B0" ++ [0])
/-- SMBUS_SERIAL_NUMBER (Table 1.9, R38). -/
def execSmbusSerialNumber (s : State) : Out := s.smbReply serialBytes
/-- SMBUS_INPUT_VOLTAGE (Table 1.9). -/
def execSmbusInputVoltage (s : State) : Out := s.smbReply (leBytes 2 s.board.vin.toNat)
/-- SMBUS_INPUT_POWER (Table 1.9): the mean of the reports of the last 1 ms, which are 40 Warden periods.
DESIGN CHOICE, unsafe: log entry 24. -/
def execSmbusInputPower (s : State) : Out :=
  let ps := s.board.pins
  s.smbReply (leBytes 2 (if ps.isEmpty then 0 else (ps.map BitVec.toNat).sum / ps.length))
/-- SMBUS_JUNCTION_TEMP (Table 1.9). -/
def execSmbusJunctionTemp (s : State) : Out := s.smbReply [s.board.hottest]

/-- Board status with bits cleared; the leak bit is set again while liquid is there (R36). -/
def Board.clear (b : Board) (m : Byte) : Byte := (b.status &&& ~~~m) ||| (if b.wet then 8 else 0)

/-- SMBUS_BOARD_STATUS (R32, R36, R465): a read, or a write that clears bits. -/
def execSmbusBoardStatus (clear : Option Byte) (s : State) : Out :=
  if !s.smbusUp then .next s
  else match clear with
    | none => .next (s.setBoard { s.board with smbAnswer := [s.board.status], smbNack := false })
    | some m => .next (s.setBoard { s.board with status := s.board.clear m, smbAnswer := [], smbNack := false })

/-- Whether SMBus command 0x06 acts (R33): not while the trip or the leak bit is set. -/
def State.mayRestart (s : State) : Bool := s.smbusUp && !s.board.status.getLsbD 2 && !s.board.status.getLsbD 3

/-- SMBUS_RESTART (R33): value 0x01. -/
def execSmbusRestart (s : State) : Out := if s.mayRestart then .next s.restart3 else .next s
/-- SMBUS_FULL_RESTART (R33): value 0x02. -/
def execSmbusFullRestart (s : State) : Out := if s.mayRestart then .next s.restart1 else .next s

/-- SMB_ALERT_N is low while any bit of board status is set (R32). -/
def Board.alertLow (b : Board) : Bool := b.status ≠ 0

/-- SMBUS_ALERT_RESPONSE (R32): the module answers with its address, 0x40 + GA, in the high seven bits. -/
def execSmbusAlertResponse (s : State) : Out :=
  if s.board.alertLow then s.smbReply [BitVec.ofNat 8 (2 * (0x40 + s.board.ga.toNat))] else .next s

/-! ### Trip and leak -/

/-- THERMAL_TRIP (R35): a die at 110 °C or a stack at 105 °C. -/
def execThermalTrip (stack : Bool) (unit : BitVec 3) (temp : BitVec 8) (s : State) : Out :=
  if !stack && 4 ≤ unit.toNat then .fault (.noSuchUnit "THERMAL_TRIP")
  else if s.rangerRuns && decide ((if stack then 105 else 110) ≤ temp.toNat) && temp.toNat < 128 then
    let s1 := s.rangerOnly
    let s2 := s1.setLife { s1.dep.life with trips := up32 s1.dep.life.trips }
    .next ((s2.setStatus 4).boardFault 5 0 0 temp.toNat unit.toNat)
  else .next s

/-- LEAK_DETECT (R36): liquid at the sensor, or none any more. Liquid that has set the leak bit already is no new event. -/
def execLeakDetect (wet : Bool) (s : State) : Out :=
  let s1 := s.setBoard { s.board with wet := wet }
  if !wet || (s.board.wet && s.board.status.getLsbD 3) || !s.rangerRuns then .next s1 else .next s1.leakFound

/-! ### JTAG -/

/-- The IDCODE of a TAP (R28): dies 0 to 3, then the Ranger controller. -/
def idcode (tap : Nat) : Nat := 1 + 2 * 0x3B5 + 2 ^ 12 * (if tap = 4 then 0x9C0A else 0x9C09) + 2 ^ 28

/-- The `n` low bits of a number, lowest first. -/
def bitsList (n x : Nat) : List Bool := (List.range n).map fun i => bitOf x i

/-- The level of a pin that the model holds. -/
def State.pinLevel (s : State) : BoardPin → Option Bool
  | .perstN => some s.board.perstN
  | .svcHoldN => some s.board.svcHoldN
  | .slotAddr k => some (s.board.ga.getLsbD k)
  | .smbAlertN => some (!s.board.alertLow)
  | .other => none

/-- What `n` boundary cells of a TAP capture (R27): the level of a pin that the model holds, else a free value.
DESIGN CHOICE, safe: log entry 18. -/
def State.capture (s : State) (tap n : Nat) : List Bool × State :=
  let x := s.drawBytes n
  ((List.range n).map fun i => (s.pinLevel (Config.boundaryPin tap i)).getD ((x.1.getD i 0).getLsbD 0), x.2)

/-- One TAP's instruction: the bits of the register it selects, first at TDO. An instruction beyond the four, without a
grant, selects the bypass bit. DESIGN CHOICE, safe: log entry 18. PRESUMED, safe: log entry 139. -/
def State.tapIr (s : State) (tap : Nat) (ir : JtagIr) : List Bool × State :=
  match ir with
  | .bypass => ([false], s)
  | .idcode => (bitsList 32 (idcode tap), s)
  | .samplePreload cells =>
    let x := s.capture tap cells.length
    (x.1, x.2.setBoard { x.2.board with cells := mset [] x.2.board.cells tap cells })
  | .extest =>
    let cells := mget [] s.board.cells tap
    let x := s.capture tap cells.length
    (x.1, x.2.setBoard { x.2.board with driven := mset [] x.2.board.driven tap cells })
  | .other _ => ([false], s)

/-- The instructions of several TAPs, the one nearest TDO first. -/
def shiftChain : List (Nat × JtagIr) → State → List Bool × State
  | [], s => ([], s)
  | x :: xs, s =>
    let a := s.tapIr x.1 x.2
    let b := shiftChain xs a.2
    (a.1 ++ b.1, b.2)

/-- The code of an instruction beyond the four of R27. -/
def otherCode : JtagIr → Option Nat
  | .other code => some code
  | _ => none

/-- JTAG_INSTRUCTION (R27, R28, R479): the instructions of the chain, TDI to dies 0 to 3 and then the Ranger controller;
the bits leave at TDO, the Ranger's first. The four instructions of IEEE 1149.1 always run. Another one does nothing
without a debug grant; under one, the spec gives it no effect. DESIGN CHOICE, safe: log entry 17. -/
def execJtagInstruction (die0 die1 die2 die3 ranger : JtagIr) (s : State) : Out :=
  let irs := [(4, ranger), (3, die3), (2, die2), (1, die1), (0, die0)]
  match irs.findSome? fun x => otherCode x.2, s.security.debug with
  | some code, true => .refused (.debugInstruction code)
  | _, _ =>
    let r := shiftChain irs s
    .next (r.2.setBoard { r.2.board with jtagOut := r.1 })

end Sys2Proof.Machine
end

