-- ==== Sys2Proof/Machine/Migrate.lean ====
section
/-!
DEFINITION. Migration (R310 to R314): visits, moves, count halving and the lapse of hints.
-/

namespace Sys2Proof.Machine

/-- The region and granule of a granule table index. -/
def Memory.granOfIdx (m : Memory) (idx : Nat) : Option (Nat × Region × Nat) :=
  (m.regions.find? fun e => decide (e.2.place = 2) && decide (e.2.gt0.toNat ≤ idx)
    && decide (idx < e.2.gt0.toNat + e.2.granCount)).map fun e => (e.1, e.2, idx - e.2.gt0.toNat)

/-- The granules of one round of visits (R313): hinted ones in order of hinting, then the rest in ascending region and
granule. -/
def Memory.round (m : Memory) : List (Nat × Nat) :=
  let hinted := m.hinted.filterMap fun h => (m.granOfIdx h).map fun x => (x.1, x.2.2)
  let all := (m.regions.filter fun e => e.2.place = 2).flatMap fun e => (List.range e.2.granCount).map fun i => (e.1, i)
  hinted ++ all.filter fun x => !hinted.contains x

/-- Bytes that the copies of the last 10 µs took (R313). -/
def State.copied (s : State) : Nat :=
  ((s.mem.copies.filter fun c => decide (s.rt < c.1.toNat + 1000)).map (·.2)).sum

/-- Whether a move may start: fewer than 16 run, and the copies of the last 10 µs average below MEM_MIG_BW.bw GB/s. -/
def State.mayMove (s : State) : Bool :=
  decide (s.mem.moves.length < 16) && decide (s.copied < s.field Reg.memMigBw 9 0 * 10000)

/-- Starting a move of a granule (R314 step 1); it waits while the destination pool is full. -/
def State.startMove (s : State) (k : Nat) (r : Region) (i : Nat) (toUnder : Bool) : State :=
  if !s.mayMove then s
  else match s.pickSlot k r toUnder with
    | none => s
    | some (slot, s1) =>
      let g := s1.mem.gran r i
      let mem := s1.mem.setGran r i { g with moving := true, dirty := false }
      { s1 with mem := { mem with moves := mem.moves ++ [{ region := k, gran := i, toUnder, slot := BitVec.ofNat 28 slot }] } }

/-- The decision of R313 for a granule. -/
def State.visit (s : State) (k : Nat) (r : Region) (i : Nat) : State :=
  let g := s.mem.gran r i
  let a := r.base.toNat + i * r.granBytes
  if g.moving || !g.valid || s.mem.underRepair a r.granBytes then s
  else
    let h := if g.hexp ≠ 0 ∧ g.hexp.toNat ≤ s.rt then 0 else g.hint.toNat
    if g.under then
      if h = 1 || (h ≠ 2 && decide (s.field Reg.memMigThr 15 0 ≤ g.count.toNat)) then
        if (s.openSlots k r false).isEmpty then s.bump Reg.memNoslot 1 else s.startMove k r i false
      else s
    else if h = 2 || (h ≠ 1 && s.poolLow k r && decide (g.count.toNat < s.field Reg.memMigThr 31 16)) then
      s.startMove k r i true
    else s

/-- MIGRATION_VISIT (R313): the engine visits the next valid granule of its round; not in S3 and S4 (R434). -/
def execMigrationVisit (s : State) : Out :=
  if s.field Reg.memMigCtl 0 0 = 0 || decide (3 ≤ s.power.state.toNat) then .next s
  else
    let vs := if s.mem.visits.isEmpty then s.mem.round else s.mem.visits
    match vs with
    | [] => .next s
    | (k, i) :: rest =>
      let s1 := { s with mem := { s.mem with visits := rest } }
      match s.mem.region k with
      | some r => .next (s1.visit k r i)
      | none => .next s1

/-- The bytes of a slot copied to another (R314 step 2). -/
def copySlot (r : Region) (fromUnder : Bool) (a : Nat) (toUnder : Bool) (b : Nat) (m : SMap Byte) : SMap Byte :=
  (List.range r.granBytes).foldl
    (fun m o => mset 0 m (r.slotPhys toUnder b o) (mget 0 m (r.slotPhys fromUnder a o))) m

/-- Whether an extent meets a granule of a region. -/
def Region.meets (r : Region) (i a n : Nat) : Bool :=
  let g := r.base.toNat + i * r.granBytes
  decide (g < a + n) && decide (a < g + r.granBytes)

/-- A slot noted among those of a request, unless the granule has one there. -/
def addSlot (h : SlotHold) (hs : List SlotHold) : List SlotHold :=
  if hs.any fun x => decide (x.region = h.region) && decide (x.gran = h.gran) then hs else h :: hs

/-- A read that a move finds outstanding: it completes on the slot to which it was translated (R314). -/
def Transfer.keepSlot (r : Region) (h : SlotHold) (t : Transfer) : Transfer :=
  if !t.write && r.meets h.gran t.addr t.len then { t with slots := addSlot h t.slots } else t

/-- The outstanding slice reads of a pipeline, likewise. -/
def Canopy.keepSlot (r : Region) (h : SlotHold) (addr len : Nat → AttRun → Nat) (c : Canopy) : Canopy :=
  { c with run := c.run.map fun x => { x with rounds := x.rounds.map fun y => match y.kind with
      | .visit page _ (some _) none _ =>
        if r.meets h.gran (addr page x) (len page x) then { y with slots := addSlot h y.slots } else y
      | _ => y } }

/-- Whether a MEM.WR that has not completed meets a granule: the move then counts as written to (R314). -/
def State.writesTo (s : State) (r : Region) (i : Nat) : Bool :=
  s.glades.any fun e => e.2.transfers.any fun t => t.write && r.meets i t.addr t.len

/-- The outstanding reads of every engine that a move leaves on the granule's old slot (R314 step 5). -/
def State.keepSlots (s : State) (r : Region) (h : SlotHold) : State :=
  let s1 := mapGlades (fun gl => { gl with transfers := gl.transfers.map (Transfer.keepSlot r h) }) (s.glades.map (·.1)) s
  let gs := s1.groves.map fun e =>
    (e.1, { e.2 with canopy := e.2.canopy.keepSlot r h (fun p x => s.sliceAddr (attDesc x.desc) p) (fun _ _ => sliceSize s.kvForm) })
  { s1 with groves := gs.filter fun e => e.2 ≠ Grove.init }

/-- MIGRATION_COPY_COMPLETE (R314): the copy of move `k` has ended. While the granule holds a block under repair the move does
not end (R322). -/
def execMigrationCopyComplete (k : Nat) (s : State) : Out :=
  match s.mem.moves[k]? with
  | none => .next s
  | some v =>
    match s.mem.region v.region with
    | none => .next { s with mem := { s.mem with moves := s.mem.moves.eraseIdx k } }
    | some r =>
      if s.mem.underRepair (r.base.toNat + v.gran * r.granBytes) r.granBytes then .next s else
      let g := s.mem.gran r v.gran
      let recent := s.mem.copies.filter fun c => decide (s.rt < c.1.toNat + 1000)
      let base := { s.mem with moves := s.mem.moves.eraseIdx k, copies := recent ++ [(s.ringCount, r.granBytes)] }
      if g.dirty || s.writesTo r v.gran then
        .next ({ s with mem := base.setGran r v.gran { g with moving := false, dirty := false } }.bump Reg.memMabrt 1)
      else
        let g1 := { g with slot := v.slot, under := v.toUnder, moving := false, dirty := false }
        let ph := copySlot r g.under g.slot.toNat v.toUnder v.slot.toNat base.phys
        let old : SlotHold := { region := v.region, gran := v.gran, under := g.under, slot := g.slot }
        .next (((s.keepSlots r old).setMem (({ base with phys := ph }.setGran r v.gran g1).dropGlb (r.gt0.toNat + v.gran))).bump
          (if v.toUnder then Reg.memDemo else Reg.memPromo) 1)

/-- Every count of a granule table halved `n` times, rounding down. -/
def halveCounts (n : Nat) (gs : SMap Granule) : SMap Granule :=
  gs.foldl (fun m e => mset Granule.init m e.1 { e.2 with count := e.2.count >>> min 16 n }) gs

/-- COUNT_HALVING_TICK (R310): every count halved once for each multiple of 2^decay that the ring count has passed since the
last halving. -/
def execCountHalvingTick (s : State) : Out :=
  let d := s.field Reg.memMigCtl 7 2
  let n := s.rt / 2 ^ d - s.mem.halved / 2 ^ d
  if n = 0 then .next s
  else .next { s with mem := { s.mem with granules := halveCounts n s.mem.granules, halved := s.rt } }

/-- HINT_LAPSE (R311): a hint lapses when the ring count reaches hexp. -/
def execHintLapse (granule : BitVec 28) (s : State) : Out :=
  let idx := granule.toNat
  let g := mget Granule.init s.mem.granules idx
  if g.hint ≠ 0 ∧ g.hexp ≠ 0 ∧ g.hexp.toNat ≤ s.rt then
    .next { s with mem := { s.mem with
      granules := mset Granule.init s.mem.granules idx { g with hint := 0, hexp := 0 }
      hinted := s.mem.hinted.filter fun h => h ≠ idx } }
  else .next s

end Sys2Proof.Machine
end

