-- ==== Sys2Proof/Machine/Power.lean ====
section
/-!
DEFINITION. The Warden (R415 to R425), droops (R422), the ageing monitors (R426, R427) and the idle states (R430 to R436).
-/

namespace Sys2Proof.Machine

/-- Replacing the power system. -/
def State.setPower (s : State) (p : Power) : State := { s with power := p }

/-- What the Warden holds of a grove. -/
def State.gpower (s : State) (gv : Nat) : GrovePower := mget GrovePower.init s.power.groves gv

/-- Replacing it. -/
def State.setGpower (s : State) (gv : Nat) (x : GrovePower) : State :=
  s.setPower { s.power with groves := mset GrovePower.init s.power.groves gv x }

/-! ### Reports (R415) -/

/-- One rail's report latched: the value, its missing periods in a row, and whether it counts as missing now. After 16
missing periods in a row the PMBus reading takes its place. DEDUCED, unsafe: log entry 55. -/
def latchRail (old : BitVec 16) (miss : Nat) (rep : Option (BitVec 16)) (pmbus : BitVec 16) : BitVec 16 × Nat × Bool :=
  match rep with
  | some v => (v, 0, false)
  | none => (if 16 ≤ miss + 1 then pmbus else old, miss + 1, true)

/-- A domain's rails latched. -/
def latchDomain (old : List (BitVec 16)) (miss : List Nat) (pmbus : List (BitVec 16)) (reps : List (Option (BitVec 16))) :
    List (BitVec 16 × Nat × Bool) :=
  (List.range reps.length).map fun k => latchRail (old.getD k 0) (miss.getD k 0) (reps.getD k none) (pmbus.getD k 0)

/-- Every domain's rails latched. -/
def State.latchAll (s : State) (r : WardenReport) : List (List (BitVec 16 × Nat × Bool)) :=
  (List.range 30).map fun d =>
    latchDomain (s.power.rails.getD d []) (s.power.missing.getD d []) (r.pmbus.getD d []) (r.rails.getD d [])

/-- The sum of a domain's latest reports. -/
def Power.domainSum (p : Power) (d : Nat) : Nat := ((p.rails.getD d []).map BitVec.toNat).sum

/-- Reports latched, WARDEN_TMISS counted, and the rail-fault bit set for a rail that is read over PMBus. -/
def State.latchReports (s : State) (r : WardenReport) : State :=
  let l := s.latchAll r
  let s1 := s.setPower { s.power with
    rails := l.map fun d => d.map (·.1), missing := l.map fun d => d.map (·.2.1), pin := r.pin }
  let misses := (l.map fun d => (d.filter (·.2.2)).length).sum
  let s2 := if misses = 0 then s1 else s1.bump Reg.wardenTmiss misses
  if l.any fun d => d.any fun e => decide (16 ≤ e.2.1) then s2.setStatus 0x20 else s2

/-- Input power over the last 1 ms, and the energy of 25 µs at 0.1 W a unit: 400,000 units are 1 J (Table 16.6). -/
def State.countEnergy (s : State) (pin : BitVec 16) : State :=
  let l := s.dep.life
  let e := l.energyFrac + pin.toNat
  let s1 := s.setBoard { s.board with pins := (pin :: s.board.pins).take 40 }
  s1.setLife { l with energy := BitVec.ofNat 64 (min (l.energy.toNat + e / 400000) (2 ^ 64 - 1)), energyFrac := e % 400000 }

/-! ### Temperatures (R421) -/

/-- The hottest of a list of junctions. -/
def hottestOf : List Byte → Int
  | [] => -128
  | t :: ts => max t.toInt (hottestOf ts)

/-- A die's thermal floor after a period. -/
def thermNext (old : BitVec 3) (die s0 s1 : Int) : BitVec 3 :=
  if 95 ≤ die ∨ 85 ≤ s0 ∨ 85 ≤ s1 then (if old = 7 then 7 else old + 1)
  else if die < 92 ∧ s0 < 82 ∧ s1 < 82 then (if old = 0 then 0 else old - 1)
  else old

/-- Temperatures taken: thermal floors, the throttle bit, the hottest junction, and a thermal cycle (Table 16.6). -/
def State.takeTemps (s : State) (r : WardenReport) : State :=
  let die := fun (d : Nat) => (r.dieTemp.getD d 0).toInt
  let st := fun (k : Nat) => (r.stackTemp.getD k 0).toInt
  let therm := (List.range 4).map fun d => thermNext (s.power.therm.getD d 0) (die d) (st d) (st (d + 4))
  let hot := therm.any fun t => t ≠ 0
  let top := hottestOf r.dieTemp
  let cool := s.board.cool || decide (top < 40)
  let cycle := cool && decide (60 ≤ top)
  let status := if hot then s.board.status ||| 2 else s.board.status &&& 0xFD
  let s1 := s.setPower { s.power with therm := therm }
  let s2 := s1.setBoard { s1.board with
    status := status, hottest := BitVec.ofInt 8 (max top (hottestOf r.stackTemp)), cool := cool && !cycle }
  if cycle then s2.setLife { s2.dep.life with tcyc := up32 s2.dep.life.tcyc } else s2

/-! ### Floors and operating points (R416, R417, R424, R425) -/

/-- OP_POINT records whose ring count has come, in arrival order (R425). -/
def applyOps : List OpWait → SMap GrovePower → SMap GrovePower
  | [], m => m
  | w :: ws, m =>
    applyOps ws ((grovesIn w.mask.toNat).foldl (fun m g => mset GrovePower.init m g { mget GrovePower.init m g with pref := w.op }) m)

/-- Preferred points and hints at a period (R423, R425). -/
def State.takeHints (s : State) : State :=
  let due := s.power.opWaits.filter fun w => decide (w.at_.toNat ≤ s.rt)
  let later := s.power.opWaits.filter fun w => decide (s.rt < w.at_.toNat)
  s.setPower { s.power with
    groves := applyOps due s.power.groves
    opWaits := later
    hints := s.power.hints.filter fun h => decide (s.rt < h.start.toNat + h.dur.toNat) }

/-- Whether a hint's window contains the ring count (R424). -/
def State.inWindow (s : State) (h : Hint) : Bool :=
  decide (h.start.toNat ≤ s.rt + s.field Reg.wardenCfg 31 16) && decide (s.rt ≤ h.start.toNat + h.dur.toNat)

/-- The floor of a grove (R424). -/
def State.floorOf (s : State) (gv : Nat) : Nat :=
  let th := (s.power.therm.getD (gv / 4) 0).toNat
  let th := if s.power.fracBad then 7 else th
  if s.groveBatch gv then max th (s.gpower gv).pref.toNat
  else ((s.power.hints.filter fun h => h.mask.getLsbD gv && s.inWindow h).map fun h => h.preset.toNat).foldl max th

/-- The grove pool (R416); it is not below zero. -/
def State.poolNow (s : State) (png : Nat) : Nat :=
  let cap := s.field Reg.wardenCap 13 0
  min (cap * s.field Reg.wardenCap 23 16 / 256) (cap - png - 10 * s.field Reg.wardenCfg 7 0)

/-- A grove's point after R416: from the old one, its share, the power counted and the tests that do not need it. -/
def nextOp (op share p : Nat) (other : Bool) (floor : Nat) : Nat :=
  let o := if p > share || other then min 7 (op + 1) else if 8 * p ≤ 7 * share then op - 1 else op
  max o floor

/-- A grove that is on after a period (R416, R417, R420). -/
def State.groveNext (s : State) (gv pool : Nat) (all : Bool) : GrovePower :=
  let x := s.gpower gv
  let seen := if all && x.seen.toNat < 4 then x.seen.toNat + 1 else x.seen.toNat
  let share := pool * s.field (Reg.wardenFrac + 4 * gv) 16 0 / 65536
  let report := s.power.domainSum gv
  let p := if 4 ≤ seen then report else share
  let other := decide (s.power.pin.toNat > s.field Reg.wardenCap 13 0) || decide (x.droops > s.field Reg.wardenCfg 15 8)
  let floor := s.floorOf gv
  let op := nextOp x.op.toNat share p other floor
  let eff := (x.raising.getD x.op).toNat
  let rail := if op < eff then s.railNow gv x else s.setPoint gv op
  { x with
    rail := BitVec.ofNat 16 rail, railAt := s.ringCount
    op := BitVec.ofNat 3 op, floor := BitVec.ofNat 3 floor, seen := BitVec.ofNat 3 seen, share := BitVec.ofNat 16 share
    report := BitVec.ofNat 16 report, raising := if op < eff then some (BitVec.ofNat 3 eff) else none, droops := 0 }

/-- A grove that is not on has no share and holds operating point 0 (R416). -/
def State.groveIdle (s : State) (gv : Nat) : GrovePower :=
  { s.gpower gv with op := 0, share := 0, report := 0, raising := none, droops := 0 }

/-- Every grove in turn. -/
def wardenGroves (pool : Nat) (all : List Bool) : List Nat → State → State
  | [], s => s
  | gv :: gvs, s =>
    wardenGroves pool all gvs (s.setGpower gv (if s.board.on.getLsbD gv then s.groveNext gv pool (all.getD gv false) else s.groveIdle gv))

/-- Whether any grove has a higher point than before. -/
def steppedUp (a b : State) : Bool := (List.range 16).any fun gv => decide ((a.gpower gv).op.toNat < (b.gpower gv).op.toNat)

/-- Regulator reports in a row with the input in its operating range (R15, Table 1.2). -/
def Board.countInRange (b : Board) : Board :=
  if b.zone = .recovering then { b with inRange := if 6000 ≤ b.vin.toNat ∧ b.vin.toNat ≤ 8000 then b.inRange + 1 else 0 } else b

/-! ### Corrected errors (R290, R297) -/

/-- Corrected errors of a stack lane added in the present lifetime persistence interval; above 64 the lane is recorded as suspect
in the lifetime records, once (R297, Tables 16.6 and 16.7). -/
def State.laneErrors (s : State) (st pc lane n : Nat) : State :=
  let now := s.rt / 2 ^ 36 * 2 ^ 36
  let old := if s.mem.laneFrom.toNat = now then s.mem.laneErrs else []
  let mine := fun (e : LaneErrors) => decide (e.stack = st ∧ e.pc = pc ∧ e.lane = lane)
  let c := ((old.find? mine).map (·.count)).getD 0 + n
  let errs := { stack := st, pc, lane, count := c } :: old.filter fun e => !mine e
  let s1 := s.setMem { s.mem with laneErrs := errs, laneFrom := BitVec.ofNat 64 now }
  let detail : DWord := BitVec.ofNat 64 (pc + 256 * lane)
  let known := s.dep.inForce.any fun f => decide (f.kind = 2 ∧ f.unit.toNat = st ∧ f.detail = detail)
  if c > 64 && !known then
    let k := s1.dep.life.stkSusp.getD st 0
    (s1.setLife { s1.dep.life with stkSusp := setAt s1.dep.life.stkSusp st (if k = 0xFF then k else k + 1) }).history 2 st detail
  else s1

/-- The corrected errors of a report counted: in MEM_CE, in the lifetime counter of their stack, and, but for parity retries, for
their lane. DESIGN CHOICE, unsafe: log entry 104. -/
def countCorrected : List CeCount → State → State
  | [], s => s
  | e :: es, s =>
    let s1 := s.bump Reg.memCe e.count
    let s2 :=
      if e.unit < 8 then
        s1.setLife { s1.dep.life with stkCe := setAt s1.dep.life.stkCe e.unit (addCnt32 (s1.dep.life.stkCe.getD e.unit 0) e.count) }
      else s1
    countCorrected es (if e.unit < 8 && !e.parity then s2.laneErrors e.unit e.pc.toNat e.lane.toNat e.count else s2)

/-- WARDEN_PERIOD (R415 to R425, R290, R297). -/
def execWardenPeriod (report : WardenReport) (s : State) : Out :=
  if s.rt % 2500 ≠ 0 || !s.rangerRuns || s.board.bootRom then .next s
  else
    let all := (List.range 16).map fun d =>
      let rs := (s.latchAll report).getD d []
      !rs.isEmpty && rs.all fun e => !e.2.2 || decide (16 ≤ e.2.1)
    let s0 := (s.latchReports report).setBoard { (s.latchReports report).board with vin := report.vin }
    let s1 := countCorrected report.ce ((s0.countEnergy report.pin).takeTemps report)
    let s2 := (s1.setBoard s1.board.countInRange).takeHints
    let png := ((List.range 14).map fun d => s2.power.domainSum (d + 16)).sum
    let pool := s2.poolNow png
    let s3 := s2.setPower { s2.power with png := BitVec.ofNat 16 png, pool := BitVec.ofNat 16 pool }
    let s4 := wardenGroves pool all (List.range 16) s3
    let s5 := if steppedUp s3 s4 then s4.bump Reg.wardenThrot 1 else s4
    .next (if s5.power.pin.toNat > s5.field Reg.wardenCap 13 0 then s5.bump Reg.wardenOver 1 else s5)

/-- RAIL_SETTLED (R420): the rail has reached its voltage and issue widens. -/
def execRailSettled (grove : BitVec 4) (s : State) : Out :=
  let x := s.gpower grove.toNat
  if x.raising.isSome then .next (s.setGpower grove.toNat ({ x with raising := none }.settle s grove.toNat)) else .next s

/-! ### Droop (R422) -/

/-- DROOP_DETECT (R422): the clock doubles its period; the onset counts as one event. -/
def execDroopDetect (grove : BitVec 4) (s : State) : Out :=
  let x := s.gpower grove.toNat
  if s.groveRuns grove.toNat && !x.stretched then .next (s.setGpower grove.toNat { x with stretched := true, droops := x.droops + 1 })
  else .next s

/-- DROOP_RECOVERY (R422): after PWR_DROOP.rec cycles above the threshold. `cycles`: the stretched cycles in all. -/
def execDroopRecovery (grove : BitVec 4) (cycles : Nat) (s : State) : Out :=
  let x := s.gpower grove.toNat
  if x.stretched && decide (s.field Reg.pwrDroop 15 8 ≤ cycles) then
    .next ((s.setGpower grove.toNat { x with stretched := false }).bump Reg.pwrStretch cycles)
  else .next s

/-! ### Ageing and fmax (R426, R427) -/

/-- Whether a physical glade is in service. -/
def State.inServicePhys (s : State) (ph : Nat) : Bool := s.servicePhys.contains ph

/-- A glade that has become marginal (R427): its grace begins, the record is sent and the cause set. -/
def State.becomeMarginal (s : State) (ph cur : Nat) : State :=
  let x := s.physGlade ph
  let e := s.ringCount + BitVec.ofNat 64 (2 ^ s.field Reg.pwrFcfg 13 8)
  let s1 := s.setPhys ph { x with marginal := true, graceEnd := some e, inFmax := false }
  (s1.raise { cls := 0x11, cause := 0, detail := leBytes 2 ph ++ leBytes 2 cur }).setCause 3

/-- What a report of an in-service glade below the stand frequency brings (R427): marginal within the guard; further below
it enters the fmax at once. DEDUCED, unsafe: log entry 54. -/
def State.checkMarginal (s : State) (ph cur : Nat) : State :=
  let f := s.ring.pendingValue
  let x := s.physGlade ph
  if f ≤ cur || !s.inServicePhys ph then s
  else if f ≤ cur + s.field Reg.pwrFcfg 7 0 then (if x.marginal then s else s.becomeMarginal ph cur)
  else s.setPhys ph { x with inFmax := true }

/-- AGEING_REPORT (R426, R427): the lowest value reported since the grove rose, rounded down to 5 MHz; it never rises. -/
def execAgeingReport (phys : BitVec 11) (mhz : BitVec 11) (s : State) : Out :=
  let ph := phys.toNat
  if 1056 ≤ ph then .fault (.noSuchUnit "AGEING_REPORT")
  else if !s.groveRuns (ph / 66) then .next s
  else
    let cur := min (s.curFmax ph) (mhz.toNat / 5 * 5)
    let s1 := s.setPhys ph { s.physGlade ph with cur := some (BitVec.ofNat 11 cur) }
    .next (s1.checkMarginal ph cur).checkOffer

/-- MARGINAL_GRACE_EXPIRY (R427): a glade still in service enters the fmax. -/
def execMarginalGraceExpiry (phys : BitVec 11) (s : State) : Out :=
  let x := s.physGlade phys.toNat
  match x.graceEnd with
  | some e =>
    if e.toNat ≤ s.rt then
      let s1 := s.setPhys phys.toNat { x with graceEnd := none, inFmax := s.inServicePhys phys.toNat }
      .next s1.checkOffer
    else .next s
  | none => .next s

/-! ### Which idle state (R430, R432, R434) -/

/-- Exit latency of idle state `k` in rt (Table 15.5). -/
def exitRt (k : Nat) : Nat := if k = 0 then 0 else if k = 1 then 50 else if k = 2 then 2500 else if k = 3 then 200000 else 4000000
/-- Entry time of idle state `k` in rt (Table 15.5). -/
def entryRt (k : Nat) : Nat := if k = 0 then 0 else if k = 1 then 10 else if k = 2 then 1000 else if k = 3 then 100000 else 500000

/-- The host's latency tolerance in rt. -/
def State.tolRt (s : State) : Nat := 100 * s.field Reg.gblLtr 23 0

/-- Whether work in the background keeps the module out of S3 and S4 (R434). -/
def State.background (s : State) : Bool :=
  s.serving.ledger.any (fun e => decide (e.2.state = .sealing) || decide (e.2.state = .restoring))
  || s.serving.grafts.any (fun e => decide (e.2.state = 1))
  || s.mem.repairs.any (fun e => decide (e.step ≠ .failed))
  || !s.mem.moves.isEmpty
  || s.ohmip.dataIn.any (fun b => recKind b == 0x20 || recKind b == 0x23)
  || !s.ohmip.outq.isEmpty

/-- Ring counts until the next boundary (R432). -/
def State.toBoundary (s : State) : Nat := s.stepAt s.step.next - s.rt

/-- Whether idle state `k` is allowed (Table 15.5, R432, R434). -/
def State.idleAllowed (s : State) (k : Nat) : Bool :=
  let quiet := !s.step.active && s.board.seq == .idle
  if k = 0 then true
  else if k = 1 then quiet && (s.power.suspended || (s.step.taken && s.ringSteps && decide (50 < s.toBoundary)))
  else if k = 2 then quiet && s.power.suspended
  else quiet && s.power.suspended && !s.background

/-- Whether the gap to the next boundary is long enough to enter S1 between steps (R432). -/
def State.s1Gap (s : State) : Bool := s.power.suspended || decide (s.field Reg.pwrIdle 15 0 ≤ s.toBoundary)

/-- Ring counts until an armed resume step (R430). -/
def State.toResume (s : State) : Option Nat := s.power.resArmed.map fun r => s.stepAt r.toNat - s.rt

/-- Whether idle state `k` meets every condition of R430. -/
def State.idleMeets (s : State) (k : Nat) : Bool :=
  s.idleAllowed k && decide (exitRt k ≤ s.tolRt) && (decide (k ≠ 1) || s.s1Gap)
  && (match s.toResume with
      | some d => decide (entryRt k + exitRt k ≤ d)
      | none => true)

/-- Whether a wake holds the module in S0 (R366, R436). -/
def State.awakeHeld (s : State) : Bool :=
  s.power.wakeHeld || (match s.power.wakeRing with
    | some w => decide (s.rt < w.toNat + 100000)
    | none => false)

/-- The deepest of the states up to `k` that meets R430. -/
def State.deepest (s : State) : Nat → Nat
  | 0 => 0
  | k + 1 => if s.idleMeets (k + 1) then k + 1 else s.deepest k

/-- The state that R430 chooses. -/
def State.idleTarget (s : State) : Nat := if s.awakeHeld then 0 else s.deepest 4

/-! ### Entry (R433) -/

/-- A glade with what S2 and deeper states lose (Table 15.5, R433 step 2). -/
def Glade.sleep (g : Glade) : Glade :=
  { g with
    tiles := [], kept := [], hia := none, active := .zero, shadow := .zero, shadowLoaded := false, codebook := none
    lfsr := [], counters := [], engine := [], queue := [], transfers := [], sources := [], unseen := [], engN := none }

/-- A glade whose grove turns off: the program store and the scratchpad are lost too. -/
def Glade.powerOff (g : Glade) : Glade := { g.sleep with program := [], spad := [] }

/-- The down item of a module that leaves (R433). -/
def downItem : Item := itemOf [8 + 2 * 2 ^ 8]

/-- The ports after the optics have gone idle: they train again on exit (R435). -/
def portsDown : List Nat → State → State
  | [], s => s
  | p :: ps, s => portsDown ps (s.setPort p { s.port p with live := false, ver := 0 })

/-- The domains that are powered, and those asleep, in an idle state (Table 15.1). -/
def idleOn (k : Nat) : BitVec 30 := if k < 3 then 0x3FFFFFFF else 0x3FFF0000
/-- Clock-gated, in retention or in self-refresh. -/
def idleAsleep (k : Nat) : BitVec 30 :=
  if k = 0 then 0 else if k < 3 then 0x0000FFFF else if k = 3 then 0x00FF0000 else 0x1BFF0000

/-- Physical glades whose groves have turned off. DEDUCED, unsafe: log entry 57. -/
def Power.grovesOff (p : Power) : Power :=
  { p with groves := [], phys := (p.phys.map fun e => (e.1, e.2.off)).filter fun e => e.2 ≠ PhysGlade.init }

/-- Entering idle state `k` (R433). DESIGN CHOICE, unsafe: log entry 56. -/
def State.enterIdle (s : State) (k : Nat) : State :=
  let s1 := s.setBoard { s.board with on := idleOn k, asleep := idleAsleep k }
  let s2 := (s1.setPower { s1.power with state := BitVec.ofNat 3 k }).bump (Reg.pwrIdlec + 4 * (k - 1)) 1
  let gs := s.glades.map (·.1)
  if k < 2 then s2
  else if k = 2 then { mapGlades Glade.sleep gs s2 with groves := [] }
  else
    let s3 := { mapGlades Glade.powerOff gs s2 with groves := [] }
    let s4 := s3.setPower s3.power.grovesOff
    if k = 3 then s4
    else
      let s5 := portsDown (List.range 6) (s4.broadcastItem downItem)
      let s6 := s5.ohmipDown
      { s6 with ohmip := { s6.ohmip with idle := true } }

/-- IDLE_ENTRY (R430, R432, R433): the deepest state that meets R430, if it is deeper than the present one. -/
def execIdleEntry (s : State) : Out :=
  if s.power.state.toNat < s.idleTarget then .next (s.enterIdle s.idleTarget) else .next s

/-! ### Exit (R435, R436) -/

/-- Groves that have risen again. -/
def risenGroves : List Nat → State → State
  | [], s => s
  | gv :: gvs, s => risenGroves gvs (s.groveRises gv)

/-- A glade after exit from S3 or S4 (R435): the program store from the current store, the resident regions refilled, the
rest of the scratchpad free. -/
def State.reloadGlade (s : State) (g : Nat) : State :=
  let r := s.drawBytes spadSize
  let gl := r.2.glade g
  refillGlades [g] (r.2.setGlade g { gl with program := (r.2.image.setup.glade g).program, spad := mwrite 0 [] 0 r.1 })

/-- Every glade reloaded. -/
def reloadAll : List Nat → State → State
  | [], s => s
  | g :: gs, s => reloadAll gs (s.reloadGlade g)

/-- Full exit to S0: everything up; what waited for the device range goes on. -/
def State.exitIdle (s : State) : State :=
  let k := s.power.state.toNat
  let s1 := s.setBoard { s.board with on := 0x3FFFFFFF, asleep := 0 }
  let s2 := s1.setPower { s1.power with state := 0, wakeHeld := false }
  if k < 3 then s2
  else
    let s3 := reloadAll ((s.glades.filter fun e => e.2.inService).map (·.1)) (risenGroves (List.range 16) s2)
    let s4 := { s3 with ohmip := { s3.ohmip with idle := false } }
    s4.drainInbox.drainData

/-- Leaving for idle state `k`: up, and down to it (R436). -/
def State.leaveFor (s : State) (k : Nat) : State := if k = 0 then s.exitIdle else s.exitIdle.enterIdle k

/-- Whether the present idle state may go on (R436): no wake, no approaching resume, and R430 otherwise met. -/
def State.idleStays (s : State) : Bool :=
  let k := s.power.state.toNat
  !s.awakeHeld && s.idleAllowed k && decide (exitRt k ≤ s.tolRt)
  && (match s.toResume with
      | some d => decide (exitRt k < d)
      | none => true)

/-- Where an exit leads: S0 on a wake or an approaching resume, else the deepest shallower state that meets R430. -/
def State.exitTo (s : State) : Nat :=
  let k := s.power.state.toNat
  let near := match s.toResume with
    | some d => decide (d ≤ exitRt k)
    | none => false
  if s.awakeHeld || near then 0 else s.deepest (k - 1)

/-- Leaving the present idle state if R436 says so. -/
def State.checkExit (s : State) : State := if s.power.state = 0 || s.idleStays then s else s.leaveFor s.exitTo

/-- IDLE_EXIT (R435, R436). -/
def execIdleExit (s : State) : Out := .next s.checkExit

/-- S1_EXIT (R432): 50 rt before the next boundary. -/
def execS1Exit (s : State) : Out :=
  if decide (s.power.state = 1) && !s.power.suspended && decide (s.stepAt s.step.next ≤ s.rt + 50) then .next s.leaveS1 else .next s

/-- WAKE (R366, R436): S0 is requested; the request is held until S0 is reached, and holds S0 for 1 ms. -/
def execWake (s : State) : Out :=
  if s.alapor.wakeAsked then
    let s1 := { s with alapor := { s.alapor with wakeAsked := false } }
    .next (s1.setPower { s1.power with wakeHeld := decide (s.power.state ≠ 0), wakeRing := some s.ringCount })
  else .next s

/-! ### Writes that decide it (R431, R492) -/

/-- A write of GBL_LTR (R492): T holds at once, and exit begins if T has fallen below the present state's exit latency. -/
def State.writeLtr (s : State) (data : Word) : State := (s.storeReg Reg.gblLtr data).checkExit

/-- LATENCY_TOLERANCE_WRITE (R492). -/
def execLatencyToleranceWrite (data : BitVec 32) (s : State) : Out := if s.board.on.getLsbD 29 then .next (s.writeLtr data) else .next s

/-- The step of the next boundary to come, while S_0 lies at or before the ring count (R45). -/
def State.nextBoundary (s : State) : Nat :=
  let m := (s.rt - s.s0) / s.period
  if s.rt = s.stepAt m ∧ s.step.next ≤ m then m else m + 1

/-- A write of PWR_SUSP_HI arms the suspension (R431). If S_s is not later than the ring count, suspension starts at the next
boundary, and PWR_SUSP reads that step. DEDUCED, unsafe: log entry 159. -/
def State.writeSusp (s : State) (data : Word) : State :=
  let s1 := s.setReg Reg.pwrSuspHi data
  let k := s1.reg64 Reg.pwrSuspLo
  if s.period ≠ 0 ∧ s.stepAt k ≤ s.rt then
    let s2 := s1.setReg64 Reg.pwrSuspLo s.nextBoundary
    s2.setPower { s2.power with suspArmed := some (BitVec.ofNat 64 s.nextBoundary) }
  else s1.setPower { s1.power with suspArmed := some (BitVec.ofNat 64 k) }

/-- SUSPEND_ARM (R431). -/
def execSuspendArm (data : BitVec 32) (s : State) : Out := if s.board.on.getLsbD 29 then .next (s.writeSusp data) else .next s

/-- A write of PWR_RES_HI arms the resume step (R431). -/
def State.writeRes (s : State) (data : Word) : State :=
  let s1 := s.setReg Reg.pwrResHi data
  s1.setPower { s1.power with resArmed := some (BitVec.ofNat 64 (s1.reg64 Reg.pwrResLo)) }

/-- RESUME_ARM (R431). -/
def execResumeArm (data : BitVec 32) (s : State) : Out := if s.board.on.getLsbD 29 then .next (s.writeRes data) else .next s

/-! ### Restarts over Alapor (R366) -/

/-- ALAPOR_RESTART (R366): code 1, confirmed by two frames in a row. -/
def execAlaporRestart (s : State) : Out := if s.alapor.up && decide (s.alapor.restart = 1) then .next s.restart3 else .next s

/-- ALAPOR_FULL_RESTART (R366): code 2. -/
def execAlaporFullRestart (s : State) : Out := if s.alapor.up && decide (s.alapor.restart = 2) then .next s.restart1 else .next s

end Sys2Proof.Machine
end

