-- ==== Sys2Proof/Machine/Security.lean ====
section
/-!
DEFINITION. The Ranger mailbox (R494) and its commands (Table 17.6): certificates and quotes (R468, R480), operator and
tenant keys (R470 to R477), debug grants (R479), firmware (R465 to R467).
-/

namespace Sys2Proof.Machine

/-- Replacing security. -/
def State.setSec (s : State) (x : Security) : State := { s with security := x }

/-! ### The mailbox (R494) -/

/-- `n` bytes of MBX_DATA. -/
def State.mboxData (s : State) (n : Nat) : List Byte :=
  ((List.range (ceilDiv n 4)).flatMap fun k => leBytes 4 (s.reg (Reg.mbxData + 4 * k)).toNat).take n

/-- Words written to MBX_DATA from word `k`. -/
def putWords : Nat → List Byte → Nat → State → State
  | 0, _, _, s => s
  | n + 1, bs, k, s => putWords n (bs.drop 4) (k + 1) (s.setReg (Reg.mbxData + 4 * k) (BitVec.ofNat 32 (leAt bs 0 4)))

/-- A reply written to MBX_DATA from byte 0; bytes past it stay. -/
def State.putReply (s : State) (bs : List Byte) : State :=
  let n := ceilDiv bs.length 4
  putWords n (bs ++ (s.mboxData (4 * n)).drop bs.length) 0 s

/-- A mailbox command's end (R494): reply, status, rlen, done, and the cause of GBL_STAT. -/
def State.mboxEnd (s : State) (status : Byte) (reply : List Byte) : State :=
  let s1 := s.putReply reply
  (s1.setSec { s1.security with run := none, done := true, status := status, rlen := reply.length }).setCause 5

/-- A write of MBX_CMD (R494): refused while a command runs; a length beyond 4,096 ends at once with status 0x01. `k`
gives the status and the reply that the completion publishes. DESIGN CHOICE, unsafe: log entry 113. -/
def mboxStart (smb : Bool) (code : Byte) (len : BitVec 13) (s : State) (k : List Byte → State → State × Byte × List Byte) : Out :=
  if !s.rangerRuns || s.board.bootRom then .next s
  else if s.security.run.isSome then .next (s.setSec { s.security with refused := true })
  else
    let s1 := s.setSec { s.security with done := false, refused := false, lastSrc := smb }
    if 4096 < len.toNat then .next (s1.mboxEnd 0x01 [])
    else
      let r := k (s1.mboxData len.toNat) s1
      .next (r.1.setSec { r.1.security with run := some { smb, code, status := r.2.1, reply := r.2.2 } })

/-- A command that ends with a status alone. -/
def answer (s : State) (status : Byte) : State × Byte × List Byte := (s, status, [])

/-- A subsector of NOR region 0 rewritten: leading bytes that Table 17.4 gives, and the rest, whose layout the spec does not
give, free. DESIGN CHOICE, safe: log entry 140. -/
def State.putRegion0 (s : State) (subs : List Nat) (head : List Byte) : State :=
  let x := s.drawBytes (4096 - head.length)
  subs.foldl (fun t a => (t.norErase a (a + 4096)).norWrite a (head ++ x.1)) x.2

/-- The boot descriptor (Table 17.4), rewritten. -/
def State.putDescriptor (s : State) : State := s.putRegion0 [0x0000] (asciiBytes "UXBD")

/-- The two copies of the operator key table (Table 17.4), rewritten one after the other. -/
def State.putKeyTable (s : State) : State := s.putRegion0 [0x1000, 0x2000] []

/-- The NOR region of an image (Table 1.8). -/
def fwStart (b : Bool) : Nat := if b then 0x00900000 else 0x00100000

/-- A stored firmware image: written over image A or B, and preferred from then (R466). -/
def State.putFirmware (s : State) (b : Bool) (img : List Byte) : State :=
  let s1 := (s.norErase (fwStart b) (fwStart b + 8 * 2 ^ 20)).norWrite (fwStart b) img
  let fw : FwImage := { ok := true, svn := BitVec.ofNat 16 (leAt img 12 2), digest := Config.sha512 img }
  (s1.setSec { s1.security with images := setAt s1.security.images (natOfBool b) fw, prefer := b }).putDescriptor

/-- A changed operator key table: its sequence rises (R470). -/
def State.putOperators (s : State) (ks : List OperatorKey) (erase : Bool) : State :=
  (s.setSec { s.security with
    operators := ks, tenants := if erase then [] else s.security.tenants, opSeq := s.security.opSeq + 1 }).putKeyTable

/-- What a mailbox command still writes, written. -/
def State.norJob (s : State) : State :=
  let t := s.setSec { s.security with job := .none }
  match s.security.job with
  | .none => t
  | .firmware b img => t.putFirmware b img
  | .operators ks erase => t.putOperators ks erase

/-- MAILBOX_COMMAND_COMPLETE (R494); what it writes to the SPI NOR waits for the end of a power-fail warning (R14). -/
def execMailboxCommandComplete (s : State) : Out :=
  match s.security.run with
  | some r =>
    if !s.rangerRuns || (s.board.norHold && decide (s.security.job ≠ .none)) then .next s
    else .next (s.norJob.mboxEnd r.status r.reply)
  | none => .next s

/-- MAILBOX_UNKNOWN_CODE (R494): a code that Table 17.6 does not have ends at once with status 0x01. -/
def execMailboxUnknownCode (smb : Bool) (code : Byte) (_len : BitVec 13) (s : State) : Out :=
  if 0x20 ≤ code.toNat && code.toNat ≤ 0x29 then .next s
  else if !s.rangerRuns || s.board.bootRom then .next s
  else if s.security.run.isSome then .next (s.setSec { s.security with refused := true })
  else .next ((s.setSec { s.security with done := false, refused := false, lastSrc := smb }).mboxEnd 0x01 [])

/-! ### Signatures -/

/-- What a signature block in the layout of R392 by an operator key gives over a message: no status if it verifies, else
0x03 or 0x02. -/
def State.operatorSigned (s : State) (msg block : List Byte) : Option Byte :=
  match s.security.operators.find? fun k => decide (keyIdent k.pub = sliceBytes block 512 4) with
  | some k => if Config.rsaVerify k.pub msg (block.take 512) then none else some 0x02
  | none => some 0x03

/-- A signature's failure answered and counted. -/
def signFail (s : State) (status : Byte) : State × Byte × List Byte := answer s.verifyFailed status

/-! ### Identity and attestation (R468, R480) -/

/-- CERT_READ (R468): offset and length, 4 bytes each; bytes of the chain. DESIGN CHOICE, unsafe: log entry 111. -/
def State.certRead (s : State) (req : List Byte) : State × Byte × List Byte :=
  let off := leAt req 0 4
  let n := leAt req 4 4
  if req.length ≠ 8 || 4096 < n || certChain.length < off + n then answer s 0x01
  else (s, 0x00, sliceBytes certChain off n)

/-- CERT_READ. -/
def execCertRead (smb : Bool) (len : BitVec 13) (s : State) : Out := mboxStart smb 0x20 len s fun r t => t.certRead r

/-- An enrolled tenant. -/
def State.tenant (s : State) (t : Nat) : Option TenantKeys := s.security.tenants.find? fun x => decide (x.tenant.toNat = t)

/-- Bytes 0 to 511 of a quote (Table 17.5). -/
def State.quoteBody (s : State) (nonce : List Byte) (tenant : Nat) (qseq : Nat) : List Byte :=
  let x := s.security
  let t := s.tenant tenant
  let fl := natOfBool x.debug + 2 * natOfBool (decide (s.dep.calState ≠ 0)) + 4 * natOfBool s.imageApplied
    + 8 * natOfBool s.phasing + 16 * natOfBool (s.dep.lifeStat.getLsbD 1) + 32 * natOfBool t.isSome
  let ident := fun (bs : List Byte) => sliceBytes bs 0 64
  let kver := match t.bind fun k => k.bundles.head? with
    | some b => b.version.toNat
    | none => 0
  let tpk := match t with
    | some k => Config.sha512 k.pub
    | none => zeroBytes 64
  asciiBytes "UXQT" ++ leBytes 2 1 ++ leBytes 2 fl ++ serialBytes ++ leBytes 4 Config.romVersion.toNat ++ leBytes 2 x.svn.toNat
  ++ leBytes 2 x.minSvn.toNat ++ zeroBytes 4 ++ ident (x.fw x.image).digest ++ ident s.image.identity
  ++ ident s.image.retainedId ++ leBytes 8 (s.reg64 Reg.imgCstepLo) ++ leBytes 8 s.rt ++ leBytes 8 s.calNow.toNat
  ++ leBytes 2 tenant ++ zeroBytes 2 ++ leBytes 4 kver
  ++ ident (Config.sha512 (leBytes 4 x.opSeq.toNat ++ x.operators.flatMap fun k => k.pub)) ++ ident tpk ++ ident nonce
  ++ leBytes 8 qseq ++ zeroBytes 48

/-- QUOTE (R480): a nonce of 64 bytes and a tenant number. -/
def State.quote (s : State) (req : List Byte) : State × Byte × List Byte :=
  let t := leAt req 64 2
  if req.length ≠ 66 || 0xFFF < t then answer s 0x01
  else if s.security.idFail then answer s 0x06
  else
    let q := s.security.quoteSeq + 1
    let body := s.quoteBody (req.take 64) t q.toNat
    let s1 := { s.setSec { s.security with quoteSeq := q } with fresh := s.fresh + 1 }
    (s1, 0x00, body ++ sliceBytes (Config.rsaSign body s.fresh) 0 512)

/-- QUOTE. -/
def execQuote (smb : Bool) (len : BitVec 13) (s : State) : Out := mboxStart smb 0x21 len s fun r t => t.quote r

/-! ### Operator keys (R470) -/

/-- The operator table to be changed when the command completes; `erase`: the tenant keys go with it. -/
def State.setOperators (s : State) (ks : List OperatorKey) (erase : Bool) : State :=
  s.setSec { s.security with job := .operators ks erase }

/-- An operator key from its bytes. -/
def operatorKey (pub : List Byte) : OperatorKey := { id := BitVec.ofNat 32 (leNat (keyIdent pub)), pub }

/-- Adding a key. DESIGN CHOICE, unsafe: log entry 112. -/
def State.addOperator (s : State) (pub : List Byte) : State × Byte × List Byte :=
  let ks := s.security.operators
  if ks.any fun k => k.pub = pub then answer s 0x00
  else if 8 ≤ ks.length then answer s 0x04
  else answer (s.setOperators (ks ++ [operatorKey pub]) false) 0x00

/-- Removing a key: the last one only while no image is applied; the tenant keys go with it. -/
def State.removeOperator (s : State) (pub : List Byte) : State × Byte × List Byte :=
  let ks := s.security.operators
  if !ks.any fun k => k.pub = pub then answer s 0x03
  else if ks.length = 1 && s.imageApplied then answer s 0x06
  else answer (s.setOperators (ks.filter fun k => k.pub ≠ pub) true) 0x00

/-- OP_ENROLL (R470): one byte, 0 to add and 1 to remove, the 516 bytes of a key, and, unless the table is empty, a
signature block over the request before it and the table's sequence. DESIGN CHOICE, unsafe: log entry 114. -/
def State.opEnroll (s : State) (req : List Byte) : State × Byte × List Byte :=
  let op := leAt req 0 1
  let pub := sliceBytes req 1 516
  let do_ := fun (t : State) => if op = 0 then t.addOperator pub else t.removeOperator pub
  if req.length < 517 || 1 < op then answer s 0x01
  else if s.security.operators.isEmpty then (if op = 0 then do_ s else answer s 0x03)
  else if req.length ≠ 1541 then answer s 0x01
  else match s.operatorSigned (req.take 517 ++ leBytes 4 s.security.opSeq.toNat) (req.drop 517) with
    | some st => signFail s st
    | none => do_ s

/-- OP_ENROLL. -/
def execOpEnroll (smb : Bool) (len : BitVec 13) (s : State) : Out := mboxStart smb 0x22 len s fun r t => t.opEnroll r

/-! ### Tenant keys (R472 to R477) -/

/-- Enrolling a tenant's public key: an entry keeps its bundle keys only if the key is the same. -/
def State.putTenant (s : State) (t : BitVec 12) (pub : List Byte) : State × Byte × List Byte :=
  let ts := s.security.tenants
  match ts.find? fun x => x.tenant = t with
  | some old =>
    let new : TenantKeys := { tenant := t, pub, bundles := if old.pub = pub then old.bundles else [] }
    answer (s.setSec { s.security with tenants := ts.map fun x => if x.tenant = t then new else x }) 0x00
  | none =>
    if 512 ≤ ts.length then answer s 0x04
    else answer (s.setSec { s.security with tenants := ts ++ [{ tenant := t, pub, bundles := [] }] }) 0x00

/-- TEN_ENROLL (R472): tenant number, 516 bytes of key, and an operator's signature block over both. -/
def State.tenEnroll (s : State) (req : List Byte) : State × Byte × List Byte :=
  let t := leAt req 0 2
  if req.length ≠ 1542 || 0xFFE < t then answer s 0x01
  else if s.security.debug then answer s 0x06
  else match s.operatorSigned (req.take 518) (req.drop 518) with
    | some st => signFail s st
    | none => s.putTenant (BitVec.ofNat 12 t) (sliceBytes req 2 516)

/-- TEN_ENROLL. -/
def execTenEnroll (smb : Bool) (len : BitVec 13) (s : State) : Out := mboxStart smb 0x23 len s fun r t => t.tenEnroll r

/-- The tenant of a ledger entry. -/
def State.tenantOf (s : State) (i : Nat) : BitVec 12 := (mget LedgerEntry.init s.serving.ledger i).tenant

/-- Whether a version is in use (R475): an entry sealed or restored under it is SEALING or RESTORING. -/
def State.versionInUse (s : State) (t : BitVec 12) (v : BitVec 32) : Bool :=
  s.serving.sealRuns.any (fun r => decide (s.tenantOf r.index = t) && decide (r.version = some v) && !r.done)
  || s.serving.restores.any (fun r => decide (s.tenantOf r.index = t) && decide (r.version = some v) && r.ended.isNone)

/-- Installing a version (R473, R474, R477): it becomes current, the former current one previous. -/
def State.putBundleKey (s : State) (t : BitVec 12) (v : BitVec 32) (key : List Byte) : State × Byte × List Byte :=
  let ks := s.bundleKeys t
  match ks with
  | _ :: prev :: _ =>
    if s.versionInUse t prev.version then answer s 0x05 else answer (install s ks) 0x00
  | _ => answer (install s ks) 0x00
where
  /-- The key list with the new version in front, its IV bytes drawn. -/
  install (s : State) (ks : List BundleKey) : State :=
    let r := s.drawRandom 6
    let new : BundleKey := { version := v, key, iv := r.1, count := 0 }
    let keep := (ks.take 1).filter fun k => k.version ≠ v
    let put := fun (x : TenantKeys) => if x.tenant = t then { x with bundles := new :: keep } else x
    r.2.setSec { r.2.security with tenants := r.2.security.tenants.map put }

/-- TEN_KEY (R473): tenant, version, 512 bytes of ciphertext, and the tenant's signature over all of them. -/
def State.tenKey (s : State) (req : List Byte) : State × Byte × List Byte :=
  let t := leAt req 0 2
  let v := leAt req 2 4
  if req.length ≠ 1030 || 0xFFE < t || v = 0 then answer s 0x01
  else if s.security.debug || s.security.idFail then answer s 0x06
  else match s.tenant t with
    | none => answer s 0x03
    | some k =>
      if !Config.rsaVerify k.pub (req.take 518) (req.drop 518) then signFail s 0x02
      else match Config.oaepOpen (sliceBytes req 6 512) with
        | none => answer s 0x01
        | some p =>
          if p.length ≠ 38 || leAt p 32 2 ≠ t || leAt p 34 4 ≠ v then answer s 0x01
          else s.putBundleKey (BitVec.ofNat 12 t) (BitVec.ofNat 32 v) (p.take 32)

/-- TEN_KEY. -/
def execTenKey (smb : Bool) (len : BitVec 13) (s : State) : Out := mboxStart smb 0x24 len s fun r t => t.tenKey r

/-- TEN_DROP (R474): tenant and version. -/
def State.tenDrop (s : State) (req : List Byte) : State × Byte × List Byte :=
  let t := BitVec.ofNat 12 (leAt req 0 2)
  let v := BitVec.ofNat 32 (leAt req 2 4)
  if req.length ≠ 6 || 0xFFE < leAt req 0 2 || (s.bundleKey t v).isNone then answer s 0x01
  else if s.versionInUse t v then answer s 0x05
  else
    let cut := fun (x : TenantKeys) => if x.tenant = t then { x with bundles := x.bundles.filter fun k => k.version ≠ v } else x
    answer (s.setSec { s.security with tenants := s.security.tenants.map cut }) 0x00

/-- TEN_DROP. -/
def execTenDrop (smb : Bool) (len : BitVec 13) (s : State) : Out := mboxStart smb 0x25 len s fun r t => t.tenDrop r

/-! ### Debug (R479) -/

/-- DBG_CHAL (R479): the serial number, 32 drawn bytes and zeros. -/
def State.dbgChal (s : State) (req : List Byte) : State × Byte × List Byte :=
  if req.length ≠ 0 then answer s 0x01
  else
    let r := s.drawRandom 32
    let c := serialBytes ++ r.1 ++ zeroBytes 20
    (r.2.setSec { r.2.security with challenge := some (c, s.ringCount) }, 0x00, c)

/-- DBG_CHAL. -/
def execDbgChal (smb : Bool) (len : BitVec 13) (s : State) : Out := mboxStart smb 0x26 len s fun r t => t.dbgChal r

/-- DBG_AUTH (R479): a scope mask of 4 bytes, and an operator's signature block over the challenge, which one attempt and
2³² rt use up. -/
def State.dbgAuth (s : State) (req : List Byte) : State × Byte × List Byte :=
  let s1 := s.setSec { s.security with challenge := none }
  if req.length ≠ 1028 then answer s1 0x01
  else match s.security.challenge with
    | none => answer s1 0x06
    | some c =>
      if s.rt ≥ c.2.toNat + 2 ^ 32 || s.imageApplied || s.imageBusy then answer s1 0x06
      else match s.operatorSigned c.1 (req.drop 4) with
        | some st => signFail s1 st
        | none => answer (s1.setSec { s1.security with tenants := [], debug := true, debugMask := BitVec.ofNat 32 (leAt req 0 4) }) 0x00

/-- DBG_AUTH. -/
def execDbgAuth (smb : Bool) (len : BitVec 13) (s : State) : Out := mboxStart smb 0x27 len s fun r t => t.dbgAuth r

/-! ### Firmware (R465 to R467) -/

/-- The status of an image's verification under R465 steps 1 to 4: none if it passes. -/
def fwStatus (minSvn : Nat) (img : List Byte) : Option Byte :=
  let n := leAt img 8 4
  let pub := sliceBytes img 64 516
  let slot := leAt img 14 1
  if sliceBytes img 0 8 ≠ asciiBytes "UXT9FWIM" || n ≠ img.length || 8 * 2 ^ 20 < n || n < 2048 || 2 < slot then some 0x01
  else if Config.rootRevoked slot || Config.sha512 pub ≠ Config.rootSlot slot then some 0x02
  else if !Config.rsaVerify pub (img.take (n - 1024)) (sliceBytes img (n - 1024) 512) then some 0x02
  else if leAt img 12 2 < minSvn then some 0x06
  else none

/-- FW_STORE (R466): the length of the image in the staging region. It is verified; at the command's end it is
written over the image that is not running, and preferred from then. -/
def State.fwStore (s : State) (req : List Byte) : State × Byte × List Byte :=
  let n := leAt req 0 4
  if req.length ≠ 4 || 8 * 2 ^ 20 < n then answer s 0x01
  else if s.image.run.isSome then answer s 0x07
  else
    let img := s.dev stagingRegion.base.toNat n
    match fwStatus s.security.minSvn.toNat img with
    | some st => if st = 0x02 then signFail s st else answer s st
    | none =>
      answer (s.setSec { s.security with job := .firmware (!s.security.image) img }) 0x00

/-- FW_STORE. -/
def execFwStore (smb : Bool) (len : BitVec 13) (s : State) : Out := mboxStart smb 0x28 len s fun r t => t.fwStore r

/-- SVN_COMMIT (R467): the minimum, a fuse value, rises to the running image's version if both images verify at that version
or above; it never falls. DEDUCED, unsafe: log entry 130. -/
def State.svnCommit (s : State) (req : List Byte) : State × Byte × List Byte :=
  let x := s.security
  let good := fun (b : Bool) => x.fwOk b && decide (x.svn.toNat ≤ (x.fw b).svn.toNat)
  if req.length ≠ 0 then answer s 0x01
  else if good false && good true then answer (s.setSec { x with minSvn := if x.minSvn.toNat ≤ x.svn.toNat then x.svn else x.minSvn }) 0x00
  else answer s 0x06

/-- SVN_COMMIT. -/
def execSvnCommit (smb : Bool) (len : BitVec 13) (s : State) : Out := mboxStart smb 0x29 len s fun r t => t.svnCommit r

end Sys2Proof.Machine
end

