-- ==== Sys2Proof/Machine/Registers.lean ====
section
/-!
DEFINITION. Reads and writes of registers as the host makes them (R5 to R9, R363, R364, R485 to R495): the live values of
read-only fields, the latch of R6, reads that clear, the effect of each write, and the fault window.
-/

namespace Sys2Proof.Machine

/-! ### Which registers answer -/

/-- The low words of the 64-bit registers (R5, R487). -/
def lowWords : List Nat :=
  [Reg.ringLo, Reg.stepBaseLo, Reg.stepNumLo, Reg.numLrecBaseLo, Reg.spuLaneLo, Reg.spuIdleLo, Reg.cnpPagesLo]
  ++ servingBases ++ routingBases
  ++ [Reg.memTgBaseLo, Reg.memTgFaddrLo, Reg.memDigBaseLo, Reg.ringLoadLo, Reg.freqApplyLo, Reg.imgApplyLo, Reg.imgReloadLo,
      Reg.imgCstepLo, Reg.pwrSuspLo, Reg.pwrResLo, Reg.lifePonLo, Reg.lifeEnergyLo, Reg.calSetLo, Reg.calAtLo, Reg.calNowLo]

/-! ### Live values -/

/-- A register word from a number. -/
def reg32 (n : Nat) : Word := BitVec.ofNat 32 n

/-- One word of a 64-bit quantity: the low one if `a` is the low word's address. -/
def half (a lo : Nat) (x : DWord) : Word := if a = lo then x.setWidth 32 else (x >>> 32).setWidth 32

/-- Word `k` of a byte string. -/
def wordAt (bs : List Byte) (k : Nat) : Word := reg32 (leAt bs (4 * k) 4)

/-- The 64 bytes of a fault record (Table 16.1). -/
def FaultRec.bytes (r : FaultRec) : List Byte :=
  [r.cls, r.cause, r.flags, BitVec.ofNat 8 r.attempt.toNat] ++ leBytes 2 r.owner.toNat ++ [r.plot, 0]
  ++ leBytes 8 r.ring.toNat ++ leBytes 8 r.step.toNat ++ leBytes 2 r.glade.toNat ++ leBytes 2 r.rep.toNat
  ++ leBytes 4 r.seq.toNat ++ leBytes 2 r.index.toNat ++ leBytes 2 r.epoch.toNat ++ leBytes 4 r.pc.toNat
  ++ sliceBytes r.detail 0 24

/-- What the fault window shows (R493): the latched record, the head record live, or zeros. -/
def State.windowBytes (s : State) : List Byte :=
  match s.dep.queue with
  | [] => zeroBytes 64
  | r :: _ => if s.dep.latched then s.dep.window else r.bytes

/-- GBL_STAT (Table 18.4): its W1C causes are stored, the others follow their conditions. -/
def State.gblStatus (s : State) : Word :=
  (s.reg Reg.gblStat &&& 0x77C)
  ||| reg32 (natOfBool (!s.dep.queue.isEmpty) + 2 * natOfBool (s.board.status != 0) + 128 * natOfBool (s.dep.calState == 0))

/-- The alert (R490). -/
def State.alert (s : State) : Bool := (s.gblStatus &&& ~~~s.reg Reg.gblAlmask) != 0

/-- The global page and the mailbox. -/
def State.peekGlobal (s : State) (a : Nat) : Word :=
  let x := s.security
  if Reg.gblSerial ≤ a ∧ a < Reg.gblSerial + 12 then wordAt serialBytes ((a - Reg.gblSerial) / 4)
  else if a = Reg.ringLo ∨ a = Reg.ringHi then half a Reg.ringLo s.ringCount
  else if a = Reg.gblStat then s.gblStatus
  else if a = Reg.fltStat then
    reg32 (s.dep.queue.length + 2048 * natOfBool (decide (s.dep.queue.length = 1024)) + 4096 * natOfBool s.dep.latched
      + 8192 * natOfBool s.dep.popmiss)
  else if Reg.fltWin ≤ a ∧ a < Reg.fltWin + 64 then wordAt s.windowBytes ((a - Reg.fltWin) / 4)
  else if a = Reg.mbxStat then
    reg32 (natOfBool x.run.isSome + 2 * natOfBool x.done + 4 * natOfBool x.refused + 8 * natOfBool x.lastSrc
      + 2 ^ 8 * x.status.toNat + 2 ^ 16 * x.rlen)
  else s.reg a

/-- The serving, ledger, routing and scout pages. -/
def State.peekServing (s : State) (a : Nat) : Word :=
  if a = Reg.srvFree then reg32 s.freePages
  else if a = Reg.ledgerStat then
    let paused := (s.serving.ledger.filter fun e => e.2.state == .paused || e.2.state == .sealing).length
    let snap := match s.serving.batch with
      | some b => !b.released
      | none => false
    reg32 (s.ledgerUsed + 2 ^ 15 * paused + 2 ^ 30 * natOfBool snap + 2 ^ 31 * natOfBool s.step.clearing)
  else if a = Reg.ledgerEpoch then s.serving.epoch
  else if Reg.srvLwin ≤ a ∧ a < Reg.srvLwin + 64 then
    wordAt (s.entry (s.field Reg.srvLidx 13 0)).encode ((a - Reg.srvLwin) / 4)
  else if Reg.srvGwin ≤ a ∧ a < Reg.srvGwin + 32 then
    wordAt (s.graft (s.field Reg.srvGidx 7 0)).encode ((a - Reg.srvGwin) / 4)
  else if a = Reg.sctStat then
    reg32 (s.routing.steps.toNat + 2 ^ 16 * natOfBool (decide (s.field Reg.sctCtl 0 0 = 1) && s.scoutWarm))
  else s.reg a

/-- The MEM_TG_ registers of a generator (Table 11.12); a channel above 143 has none, and reads zero. -/
def State.peekTg (s : State) (a : Nat) : Word :=
  let u := s.tgUnit s.tgChan
  if a = Reg.memTgSel then s.reg a
  else if s.tgChan ≥ 144 then 0
  else if a = Reg.memTgCtl then
    reg32 (u.mode.toNat + 8 * u.pattern.toNat + 64 * u.order.toNat + 1024 * natOfBool u.loop)
  else if a = Reg.memTgBaseLo ∨ a = Reg.memTgBaseHi then half a Reg.memTgBaseLo (u.base.setWidth 64)
  else if a = Reg.memTgLen then u.len.setWidth 32
  else if a = Reg.memTgSeed then u.seed
  else if a = Reg.memTgStat then
    reg32 (natOfBool u.busy + 2 * natOfBool u.done + 4 * natOfBool u.refused + 8 * natOfBool u.err + 2 ^ 16 * u.passes.toNat)
  else if a = Reg.memTgErr then u.errCount
  else if a = Reg.memTgFaddrLo ∨ a = Reg.memTgFaddrHi then half a Reg.memTgFaddrLo (u.faddr.setWidth 64)
  else u.fbits

/-- The reads of the memory tiers that are held now (R322, R323). -/
def State.heldReads (s : State) : Nat :=
  (s.glades.map fun e => (e.2.transfers.filter fun t => !t.write && !t.waiting.isEmpty).length).sum + s.mem.stillHeld.length

/-- The memory page. -/
def State.peekMemory (s : State) (a : Nat) : Word :=
  let m := s.mem
  if a < Reg.memStk + 32 then
    let k := m.stks.getD ((a - Reg.memStk) / 4) .init
    reg32 (k.state.toNat + 4 * natOfBool k.slow + 2 ^ 4 * k.repairs.toNat + 2 ^ 16 * k.temp.toNat)
  else if a = Reg.memUch then reg32 (m.uch.zipIdx.map fun e => e.1.toNat * 4 ^ e.2).sum
  else if a = Reg.memUchr then m.uslow.setWidth 32
  else if isTgReg a then s.peekTg a
  else if Reg.memRwin ≤ a ∧ a < Reg.memRwin + 64 then
    match m.regions.find? fun e => e.1 = s.field Reg.memRidx 5 0 with
    | some e => wordAt e.2.bytes64 ((a - Reg.memRwin) / 4)
    | none => 0
  else if a = Reg.memWeak then reg32 (min m.weak.length 65535 + 2 ^ 16 * min s.heldReads 65535)
  else s.reg a

/-- SKp_STAT (Table 12.10); `broken`: the port runs as a firebreak port. -/
def Port.statWord (x : Port) (broken : Bool) : Word :=
  reg32 (natOfBool x.live + 2 * natOfBool broken + 4 * x.ver.toNat + 16 * natOfBool (x.txLane || x.rxLane)
    + 32 * natOfBool x.spareBad + 64 * natOfBool x.cabling + 128 * natOfBool x.vfault + 256 * natOfBool x.fbmis
    + 512 * natOfBool x.nalgn)

/-- The fabric, ring and frequency pages. -/
def State.peekFabric (s : State) (a : Nat) : Word :=
  let r := s.ring
  if Reg.skStat ≤ a ∧ a < Reg.skStat + 24 then (s.port ((a - Reg.skStat) / 4)).statWord (s.fireBroken ((a - Reg.skStat) / 4))
  else if Reg.skNbr ≤ a ∧ a < Reg.skNbr + 24 then
    let x := s.port ((a - Reg.skNbr) / 4)
    reg32 (x.nbrAddr.toNat + 2 ^ 24 * x.nbrSlice.toNat)
  else if a = Reg.ringStat then
    reg32 (r.mode.code + 8 * natOfBool r.loaded + 16 * natOfBool r.rejoin + 32 * r.port.toNat)
  else if a = Reg.ringPhase then r.phi.setWidth 32
  else if a = Reg.ringOfs then r.ofs
  else if a = Reg.ringDly then r.dly
  else if a = Reg.freqStat then
    reg32 (r.cur.toNat + 2 ^ 16 * (match r.nextPend with
      | some p => p.1
      | none => 0))
  else if a = Reg.freqApplyLo ∨ a = Reg.freqApplyHi then
    half a Reg.freqApplyLo (match r.nextPend with
      | some p => BitVec.ofNat 64 p.2
      | none => 0)
  else s.reg a

/-- The host link page. -/
def State.peekLinks (s : State) (a : Nat) : Word :=
  let o := s.ohmip
  if a = Reg.alpStat then reg32 (natOfBool s.alapor.up + 2 * s.alapor.ver + 16 * natOfBool s.alapor.vfault)
  else if a = Reg.ohmStat then
    reg32 (natOfBool o.up + 2 * o.ver + 8 * natOfBool o.vfault + 16 * natOfBool o.idle)
  else if a = Reg.ohmInbox then reg32 (64 * o.inUse 0)
  else if a = Reg.ohmOutq then reg32 (min s.outBytes (2 ^ 22))
  else s.reg a

/-- The stand image page. -/
def State.peekImage (s : State) (a : Nat) : Word :=
  let i := s.image
  if a = Reg.imgStat then
    reg32 (i.state.toNat + 8 * natOfBool s.imageBusy + 16 * natOfBool i.stagedOk + 2 ^ 8 * i.cause.toNat
      + 2 ^ 16 * i.phase + 2 ^ 24 * i.phases.length)
  else if a = Reg.imgSlot ∨ a = Reg.imgSlot + 4 then
    let k := (a - Reg.imgSlot) / 4
    reg32 (natOfBool (i.valid.getD k false) + 2 * natOfBool (s.slotBoot k) + 2 ^ 8 * (s.slotSeq k % 2 ^ 24))
  else if Reg.imgId ≤ a ∧ a < Reg.imgId + 64 then wordAt i.identity ((a - Reg.imgId) / 4)
  else if Reg.imgRid ≤ a ∧ a < Reg.imgRid + 64 then wordAt i.retainedId ((a - Reg.imgRid) / 4)
  else s.reg a

/-- GLD_FMAX of the physical glade that GLD_FIDX names (R426, R427). -/
def State.fmaxWord (s : State) : Word :=
  let ph := s.field Reg.gldFidx 10 0
  let x := s.physGlade ph
  reg32 ((Config.fuseFmax ph).toNat + 2 ^ 16 * s.curFmax ph + 2 ^ 27 * natOfBool x.cur.isSome + 2 ^ 28 * natOfBool x.marginal
    + 2 ^ 29 * natOfBool (s.servicePhys.contains ph))

/-- The power page. -/
def State.peekPower (s : State) (a : Nat) : Word :=
  let p := s.power
  if a = Reg.wardenPin then reg32 (p.pin.toNat + 2 ^ 16 * p.png.toNat)
  else if a = Reg.wardenPool then p.pool.setWidth 32
  else if Reg.wardenFrac ≤ a ∧ a < Reg.wardenFrac + 64 then
    (s.reg a &&& 0x1FFFF) ||| reg32 (2 ^ 17 * natOfBool (s.groveBatch ((a - Reg.wardenFrac) / 4)))
  else if Reg.wardenOp ≤ a ∧ a < Reg.wardenOp + 64 then
    let gv := (a - Reg.wardenOp) / 4
    let g := mget GrovePower.init p.groves gv
    reg32 (g.op.toNat + 8 * g.floor.toNat + 2 ^ 6 * (p.therm.getD (gv / 4) 0).toNat + 2 ^ 9 * g.pref.toNat
      + 2 ^ 12 * g.seen.toNat + 2 ^ 16 * g.share.toNat)
  else if Reg.wardenPwr ≤ a ∧ a < Reg.wardenPwr + 64 then
    (mget GrovePower.init p.groves ((a - Reg.wardenPwr) / 4)).report.setWidth 32
  else if a = Reg.pwrDom then s.board.on.setWidth 32
  else if a = Reg.pwrState then reg32 (p.state.toNat + 8 * s.idleTarget + 2 ^ 8 * natOfBool p.suspended)
  else if a = Reg.gldFmax then s.fmaxWord
  else if a = Reg.pwrFmod then reg32 (s.fmaxGlade.1 + 2 ^ 16 * s.fmaxGlade.2)
  else s.reg a

/-- The pages of recovery, lifetime, calendar and security. -/
def State.peekLife (s : State) (a : Nat) : Word :=
  let d := s.dep
  let x := s.security
  if a = Reg.lifeStat then d.lifeStat.setWidth 32
  else if a = Reg.lifeSeq then d.snapSeq
  else if a = Reg.lifePonLo ∨ a = Reg.lifePonHi then half a Reg.lifePonLo d.life.pon
  else if a = Reg.lifeEnergyLo ∨ a = Reg.lifeEnergyHi then half a Reg.lifeEnergyLo d.life.energy
  else if a = Reg.lifeTcyc then d.life.tcyc
  else if a = Reg.lifeWin then wordAt d.newest (s.field Reg.lifeIdx 9 0)
  else if a = Reg.lifeWear then d.wear
  else if a = Reg.lifeNor then d.nor
  else if a = Reg.calNowLo ∨ a = Reg.calNowHi then half a Reg.calNowLo s.calNow
  else if a = Reg.calStat then d.calState.setWidth 32
  else if a = Reg.secStat then
    reg32 (natOfBool x.image + 2 * natOfBool x.otherOk + 4 * natOfBool (!x.operators.isEmpty) + 8 * natOfBool x.debug
      + 16 * natOfBool x.idFail)
  else if a = Reg.secSvn then reg32 (x.svn.toNat + 2 ^ 16 * x.minSvn.toNat)
  else if a = Reg.secTen then reg32 x.tenants.length
  else if a = Reg.secQseq then x.quoteSeq
  else s.reg a

/-- The word that a register holds, write-only bits not masked. -/
def State.peekRaw (s : State) (a : Nat) : Word :=
  if a < 0x10000 then s.peekGlobal a
  else if a = Reg.stepNumLo ∨ a = Reg.stepNumHi then half a Reg.stepNumLo s.step.num
  else if a < 0x12000 then s.reg a
  else if a = Reg.grfGen then reg32 (s.plot (s.field Reg.grfPidx 5 0)).generation
  else if a = Reg.leaseAct then reg32 s.lease.held.length
  else if a < 0x15000 then s.reg a
  else if a < 0x17000 then s.peekServing a
  else if a < 0x18000 then s.peekMemory a
  else if a < 0x19000 then s.peekFabric a
  else if a < 0x1A000 then s.peekLinks a
  else if a < 0x1B000 then s.peekImage a
  else if a < 0x1C000 then s.peekPower a
  else s.peekLife a

/-- The word that a read of a register finds (Table 0.4): write-only bits read zero. -/
def State.peek (s : State) (a : Nat) : Word :=
  match regSpec? a with
  | some r => s.peekRaw a &&& ~~~r.wo
  | none => 0

/-! ### Reads -/

/-- A read of FLT_WIN0 latches the head record, if there is one (R493). -/
def State.latchFault (s : State) : State :=
  match s.dep.queue with
  | [] => s
  | r :: _ => { s with dep := { s.dep with window := r.bytes, latched := true } }

/-- The RC counts that a read takes (R9): those the register held when the frame began and no read has taken yet. -/
def State.rcTaken (s base : State) (a : Nat) (rc : Word) : Word :=
  let now := s.peek a &&& rc
  let old := base.peek a &&& rc
  if a = Reg.memTgErr || decide (now.toNat < old.toNat) then now else old

/-- Taking counts from the RC bits of a register that has been read (Table 0.4, R9). -/
def State.clearRead (s : State) (a : Nat) (rc taken : Word) : State :=
  if rc = 0 then s
  else if a = Reg.memTgErr then
    if s.tgChan < 144 then s.setTg s.tgChan { s.tgUnit s.tgChan with errCount := 0 } else s
  else s.setReg a (s.reg a - taken)

/-- What a read answers (R364): the word, the status of Table 13.3, the latches of R6 after it, the state after it, and
the state that later reads of the frame count from (R9). -/
structure ReadAnswer where
  word : Word
  status : Nat
  latches : SMap Word
  after : State
  base : State
  deriving DecidableEq, Repr

/-- A read of a register (R6, R8, R9, R364, R486, R493), in a frame that began at `base`: a latched high word is returned once; a low word latches its high
word. DEDUCED, unsafe: log entry 26. -/
def State.readReg (s base : State) (latches : SMap Word) (a : Nat) : ReadAnswer :=
  match regSpec? a with
  | none => { word := 0, status := 1, latches, after := s, base }
  | some r =>
    if !s.regUp a then { word := 0, status := 2, latches, after := s, base }
    else
      let s1 := if a = Reg.fltWin then s.latchFault else s
      match latches.find? fun e => e.1 = a with
      | some e => { word := e.2, status := 0, latches := mdel latches a, after := s1, base }
      | none =>
        let taken := s1.rcTaken base a r.rc
        { word := (s1.peek a &&& ~~~r.rc) ||| taken, status := 0,
          latches := if lowWords.contains a then mput latches (a + 4) (s1.peek (a + 4)) else latches,
          after := s1.clearRead a r.rc taken, base := base.clearRead a r.rc taken }

/-! ### Writes -/

/-- The next state that a row gives. -/
def nextOf (s : State) : Out → State
  | .next t => t
  | .fault _ => s
  | .refused _ => s

/-- A write of FLT_POP (R493). -/
def State.popFault (s : State) (w : Word) : State :=
  match s.dep.queue with
  | r :: rs =>
    if r.seq = w then { s with dep := { s.dep with queue := rs, latched := false, popmiss := false } }
    else { s with dep := { s.dep with popmiss := true } }
  | [] => { s with dep := { s.dep with popmiss := true } }

/-- A write of MBX_CMD (R494): the command of the code, by Table 17.6. -/
def State.writeMbx (s : State) (smb : Bool) (w : Word) : State :=
  let len := BitVec.ofNat 13 (bitsOf w.toNat 28 16)
  nextOf s (match bitsOf w.toNat 7 0 with
    | 0x20 => execCertRead smb len s
    | 0x21 => execQuote smb len s
    | 0x22 => execOpEnroll smb len s
    | 0x23 => execTenEnroll smb len s
    | 0x24 => execTenKey smb len s
    | 0x25 => execTenDrop smb len s
    | 0x26 => execDbgChal smb len s
    | 0x27 => execDbgAuth smb len s
    | 0x28 => execFwStore smb len s
    | 0x29 => execSvnCommit smb len s
    | c => execMailboxUnknownCode smb (BitVec.ofNat 8 c) len s)

/-- A write of IMG_CMD (R397): the operation by Table 14.6; the drain of an update may find its image bad, which the
model leaves free. DESIGN CHOICE, safe: log entry 96. -/
def State.writeImg (s : State) (w : Word) : State :=
  let slot := w.getLsbD 4
  nextOf s (match bitsOf w.toNat 3 0 with
    | 1 => execVerifyImage s
    | 2 => execStoreImage slot s
    | 3 => execStageImage slot s
    | 4 => execApplyImage s.drawBool.1 s.drawBool.2
    | 5 => execRollback s
    | 6 => execReload s
    | 7 => execImageCancel s
    | 8 => execBootSlot slot s
    | _ => .next s)

/-- A write of a register of the selected generator (Table 11.12). -/
def State.writeTg (s : State) (a : Nat) (w : Word) : State :=
  let c := s.tgChan
  let u := s.tgUnit c
  if a = Reg.memTgSel then s.storeReg a w
  else if c ≥ 144 then s
  else if a = Reg.memTgCtl then s.tgWrite w
  else if a = Reg.memTgBaseLo then
    s.setTg c { u with base := BitVec.ofNat 37 (u.base.toNat / 2 ^ 32 * 2 ^ 32 + (w &&& 0xFFFFF000).toNat) }
  else if a = Reg.memTgBaseHi then
    s.setTg c { u with base := BitVec.ofNat 37 (u.base.toNat % 2 ^ 32 + bitsOf w.toNat 4 0 * 2 ^ 32) }
  else if a = Reg.memTgLen then s.setTg c { u with len := w.setWidth 26 }
  else if a = Reg.memTgSeed then s.setTg c { u with seed := w }
  else s

/-- A write of MBX_DATA (R494): ignored while a command runs. -/
def State.writeMbxData (s : State) (a : Nat) (w : Word) : State :=
  if s.security.run.isSome then s.setSec { s.security with refused := true } else s.setReg a w

/-- A write of GBL_STAT (Table 0.4): a 1 clears a W1C cause that was not set in the same frame (R9). -/
def State.clearCauses (s : State) (w : Word) : State :=
  s.setReg Reg.gblStat (s.reg Reg.gblStat &&& ~~~(w &&& 0x77C &&& ~~~s.alapor.causes))

/-- A write of LIFE_CTL (R456); how its NOR writes end is left free. -/
def State.writeLife (s : State) (w : Word) : State :=
  let r1 := s.drawBool
  let r2 := r1.2.drawBool
  r2.2.flushLife w r1.1 r2.1

/-- The configuration faults that a write of an LK register brings, as an image's would (R160, R211, R217, R260, R304):
those that were not there before it. DEDUCED, unsafe: log entry 115. -/
def State.checkWrite (s : State) (a : Nat) (w : Word) (before : List Nat) : State :=
  let badMaster := decide (Reg.boleMaster ≤ a) && decide (a < Reg.boleMaster + 64)
    && bitsOf w.toNat 9 0 != 0x3FF && groveOf (bitsOf w.toNat 9 0) != (a - Reg.boleMaster) / 4
  let new := (s.configFaults .none).filter fun x => !before.contains x && x != Reg.wardenFrac
  raiseConfig (new ++ if badMaster then [a] else []) s

/-- What follows from a register's new value at once: waiting commands of the serving block (R376), the stand frequency
offered (R355). -/
def State.afterWrite (s : State) (a : Nat) : State := if a = Reg.freqCfg then s.checkOffer else s.drainInbox

/-- A write of a register whose write has no effect of its own (Table 0.4, R491): `true` if LK bits were dropped. -/
def State.writePlain (s : State) (r : RegSpec) (a : Nat) (w : Word) : Bool × State :=
  if r.lk ≠ 0 && s.applying then
    (true, (s.setReg a (keptValue a (maskWord (s.reg a) w r.rw))).setCause 8)
  else if r.lk ≠ 0 then
    (false, ((s.storeReg a w).checkWrite a w (s.configFaults .none)).afterWrite a)
  else if r.rw ≠ 0 then (false, s.storeReg a w)
  else (false, s)

/-- Whether a write of an address has a row of its own in the command table. -/
def hasOwnRow (a : Nat) : Bool :=
  [Reg.stepBaseLo, Reg.stepBaseHi, Reg.stepPeriod, Reg.numLrecBaseLo, Reg.memTrn, Reg.memTgCtl, Reg.ringLoadHi, Reg.gblLtr,
   Reg.pwrSuspHi, Reg.pwrResHi, Reg.leaseRev, Reg.leaseRevp, Reg.lifeCtl, Reg.calAtHi, Reg.fltPop, Reg.mbxCmd,
   Reg.imgCmd].contains a

/-- A write that an LK register's own rule governs: `true` if it was dropped (R46, R80, R491). -/
def State.writeStep (s : State) (a : Nat) (w : Word) : Bool × State :=
  (s.applying, nextOf s (
    if a = Reg.stepPeriod then execStepPeriodWrite w s
    else if a = Reg.numLrecBaseLo then execNumLrecBaseWrite w s
    else execStepBaseWrite (a == Reg.stepBaseHi) w s))

/-- A write whose address has a row of its own. -/
def State.writeOwn (s : State) (smb : Bool) (a : Nat) (w : Word) : Bool × State :=
  if a = Reg.stepBaseLo ∨ a = Reg.stepBaseHi ∨ a = Reg.stepPeriod ∨ a = Reg.numLrecBaseLo then s.writeStep a w
  else (false,
    if a = Reg.memTrn then nextOf s (execMemRetrain w s)
    else if a = Reg.memTgCtl then s.writeTg a w
    else if a = Reg.ringLoadHi then nextOf s (execRingLoadArm w s)
    else if a = Reg.gblLtr then s.writeLtr w
    else if a = Reg.pwrSuspHi then s.writeSusp w
    else if a = Reg.pwrResHi then s.writeRes w
    else if a = Reg.leaseRev then nextOf s (execLeaseRevoke w s)
    else if a = Reg.leaseRevp then nextOf s (execLeaseRevokePlot w s)
    else if a = Reg.lifeCtl then s.writeLife w
    else if a = Reg.calAtHi then nextOf s (execCalendarCommit w s)
    else if a = Reg.fltPop then s.popFault w
    else if a = Reg.mbxCmd then s.writeMbx smb w
    else s.writeImg w)

/-- A write of a register that answers. -/
def State.writeUp (s : State) (smb : Bool) (r : RegSpec) (a : Nat) (w : Word) : Bool × State :=
  if hasOwnRow a then s.writeOwn smb a w
  else if isTgReg a then (false, s.writeTg a w)
  else if a = Reg.gblStat then (false, s.clearCauses w)
  else if Reg.mbxData ≤ a ∧ a < Reg.mbxData + 4096 then (false, s.writeMbxData a w)
  else s.writePlain r a w

/-- A write of a register (R8, R364, R486): the status of Table 13.3 and the state after it. `smb`: through SMBus. -/
def State.writeReg (s : State) (smb : Bool) (a : Nat) (w : Word) : Nat × State :=
  match regSpec? a with
  | none => (1, s)
  | some r =>
    if !s.regUp a then (2, s)
    else
      let x := s.writeUp smb r a w
      (if x.1 then 3 else 0, x.2)

/-! ### The rows -/

/-- What a read or write row shows its issuer. -/
def State.show (s : State) (word : Word) (status : Nat) : State :=
  { s with regs := { s.regs with readout := word, status := BitVec.ofNat 4 status } }

/-- The start of a frame, or of an access outside one (R9): no cause has been set in it yet.
DEDUCED, unsafe: log entry 116. -/
def State.newFrame (s : State) : State := { s with alapor := { s.alapor with causes := 0 } }

/-- The counts of gc lost to bank conflicts as a read finds them (R115, R178): what accesses have waited for one another since
the last read is timing, a free amount. DESIGN CHOICE, safe: log entry 97. -/
def State.bankLosses (s : State) : State :=
  let a := s.draw 32
  let b := a.2.draw 32
  (b.2.bump Reg.gldBank a.1.toNat).bump Reg.expStall b.1.toNat

/-- A read over Alapor, with its latches. -/
def State.readShown (s : State) (a : Nat) : State :=
  let s := if a = Reg.gldBank ∨ a = Reg.expStall then s.bankLosses else s
  let r := s.readReg s s.alapor.hiLatch a
  State.show { r.after with alapor := { r.after.alapor with hiLatch := r.latches } } r.word r.status

/-- LOW_WORD_READ_LATCH (R6): a read of the low word of a 64-bit register. -/
def execLowWordReadLatch (addr : BitVec 32) (s : State) : Out :=
  if s.rangerRuns && lowWords.contains addr.toNat then .next (s.readShown addr.toNat) else .next s

/-- READ_CLEAR_READ (R8): a read of a register with RC bits. -/
def execReadClearRead (addr : BitVec 32) (s : State) : Out :=
  match regSpec? addr.toNat with
  | some r => if s.rangerRuns && r.rc != 0 then .next (s.readShown addr.toNat) else .next s
  | none => .next s

/-- REGISTER_WRITE (R8): a write of a register that has no row of its own. DESIGN CHOICE, safe: log entry 27. -/
def execRegisterWrite (addr data : BitVec 32) (s : State) : Out :=
  if !s.rangerRuns || hasOwnRow addr.toNat then .next s
  else
    let x := s.newFrame.writeReg false addr.toNat data
    .next (x.2.show 0 x.1)

/-- FAULT_WINDOW_LATCH (R493): a read of FLT_WIN0. -/
def execFaultWindowLatch (s : State) : Out := if s.rangerRuns then .next (s.readShown Reg.fltWin) else .next s

/-- FAULT_POP (R493): a write of FLT_POP. -/
def execFaultPop (data : BitVec 32) (s : State) : Out := if s.rangerRuns then .next (s.popFault data) else .next s

/-! ### The SMBus window (R495) -/

/-- Whether an address lies in the window. -/
def inWindow (a : Nat) : Bool := decide (a < 0x2000)

/-- Words written through the window from an address. -/
def windowPut : Nat → List Byte → Nat → State → State
  | 0, _, _, s => s
  | n + 1, bs, a, s =>
    windowPut n (bs.drop 4) (a + 4) (if inWindow a then (s.newFrame.writeReg true a (reg32 (leAt bs 0 4))).2 else s)

/-- Words read through the window from an address: the bytes and the state after them. -/
def windowGet : Nat → Nat → State → List Byte × State
  | 0, _, s => ([], s)
  | n + 1, a, s =>
    if inWindow a then
      let r := s.readReg s s.board.winLatch a
      let rest := windowGet n (a + 4) (r.after.setBoard { r.after.board with winLatch := r.latches })
      (leBytes 4 r.word.toNat ++ rest.1, rest.2)
    else
      let rest := windowGet n (a + 4) s
      (zeroBytes 4 ++ rest.1, rest.2)

/-- Whether the window answers: as the other SMBus commands (R31). -/
def State.windowUp (s : State) : Bool := s.smbusUp

/-- SMBUS_WINDOW_WRITE (R495): the pointer, and then words; a length of another kind is not acknowledged.
DESIGN CHOICE, safe: log entry 25. -/
def execSmbusWindowWrite (bytes : List Byte) (s : State) : Out :=
  let n := bytes.length
  if !s.windowUp then .next s
  else if n % 4 ≠ 0 ∨ n < 4 ∨ 32 < n then .next (s.setBoard { s.board with smbAnswer := [], smbNack := true })
  else
    let p := leAt bytes 0 4 / 4 * 4
    let s1 := windowPut ((n - 4) / 4) (bytes.drop 4) p s
    .next (s1.setBoard { s1.board with winPtr := p + (n - 4), smbAnswer := [], smbNack := false })

/-- SMBUS_WINDOW_READ (R495): `n` bytes from the pointer onward. -/
def execSmbusWindowRead (n : Nat) (s : State) : Out :=
  if !s.windowUp || n % 4 != 0 || decide (32 < n) then .next s
  else
    let r := windowGet (n / 4) s.board.winPtr s
    .next (r.2.setBoard { r.2.board with winPtr := s.board.winPtr + n, smbAnswer := r.1, smbNack := false })

/-! ### Alapor frames (R361 to R367) -/

/-- The operations that a frame of a version carries (Table 13.5). -/
def opsOf (ver : Nat) : Nat := if ver = 3 then 4 else 2

/-- A 12-byte answer (R363). -/
def answerBytes (op status : Nat) (tag : Byte) (addr data : Nat) : List Byte :=
  let head := [BitVec.ofNat 8 (op + 16 * status), tag]
  let tail := leBytes 4 addr ++ leBytes 4 data
  head ++ leBytes 2 (crc16 (head ++ tail)) ++ tail

/-- One operation executed (R363, R364) in a frame that began at `base`: its answer, the state after it, and the state
that later reads of the frame count from. -/
def State.alaporOp (s base : State) (b : List Byte) : List Byte × State × State :=
  let op := leAt b 0 1 % 4
  let tag := b.getD 1 0
  let a := leAt b 4 4
  if crc16 (sliceBytes b 0 2 ++ sliceBytes b 4 8) ≠ leAt b 2 2 then
    (answerBytes op 4 tag a 0, s.bumpField Reg.alpCrce 31 16 1, base)
  else if op = 1 then
    let r := s.readReg base s.alapor.hiLatch a
    (answerBytes 1 r.status tag a r.word.toNat, { r.after with alapor := { r.after.alapor with hiLatch := r.latches } }, r.base)
  else if op = 2 then
    let x := s.writeReg false a (reg32 (leAt b 8 4))
    (answerBytes 2 x.1 tag a 0, x.2, base)
  else if op = 3 then (answerBytes 3 5 tag a 0, s, base)
  else (answerBytes 0 0 tag a 0, s, base)

/-- The operations of a frame from slot `j`, in order; a slot that the version does not carry is answered with op echo 0 and
status 0. -/
def alaporOps (f : List Byte) (carried : Nat) : List Nat → State → State → List Byte × State
  | [], _, s => ([], s)
  | j :: js, base, s =>
    let r := if j < carried then s.alaporOp base (sliceBytes f (4 + 12 * j) 12) else (answerBytes 0 0 0 0 0, s, base)
    let rest := alaporOps f carried js r.2.2 r.2.1
    (r.1 ++ rest.1, rest.2)

/-- The CRC-32C of a host frame holds (Table 13.2). -/
def frameCrc (f : List Byte) : Bool := crc32c (sliceBytes f 2 2 ++ sliceBytes f 52 24) == leAt f 76 4

/-- A host frame with the right marker and a good CRC-32C (R361, Table 13.2). -/
def goodFrame (f : List Byte) : Bool := leAt f 0 2 == 0x5AC3 && frameCrc f

/-- The version of a frame, and whether it is a training frame (R362). -/
def frameVer (f : List Byte) : Nat := leAt f 2 1 % 16
/-- Frame type 1 (R362). -/
def isTraining (f : List Byte) : Bool := bitsOf (leAt f 2 1) 5 4 == 1

/-- A module frame around what its bytes 2 to 7, and 28 to 75, hold (Table 13.2). -/
def State.frameAround (s : State) (head answers : List Byte) : List Byte :=
  let body := head ++ leBytes 8 s.rt ++ zeroBytes 12 ++ answers
  leBytes 2 0x3CA5 ++ body ++ leBytes 4 (crc32c body)

/-- A normal module frame (Table 13.2): the status as the block stood before the operations of the period.
DESIGN CHOICE, unsafe: log entry 117. -/
def State.moduleFrame (s : State) (seq : Byte) (answers : List Byte) : List Byte :=
  let v := s.alapor.ver
  let sum := if v = 3 then s.gblStatus.toNat % 256 else 0
  s.frameAround ([BitVec.ofNat 8 v, seq]
    ++ leBytes 4 (natOfBool s.alert + 2 * s.power.state.toNat + 16 * natOfBool s.imageApplied + 32 * s.ring.mode.code + 2 ^ 8 * sum)) answers

/-- A training frame of the module (R362, R368): the version it has found, 0 for none, and its version mask.
DESIGN CHOICE, unsafe: log entry 117. -/
def State.trainingFrame (s : State) (seq : Byte) : List Byte :=
  s.frameAround ([BitVec.ofNat 8 (s.alapor.trainVer + 16), seq] ++ leBytes 2 s.alapor.mask.toNat ++ [0, 0]) (zeroBytes 48)

/-- Whether the module is locked (R368 step 2). -/
def Alapor.locked (x : Alapor) : Bool := decide (32 ≤ x.goodRun)

/-- The sideband byte of a good frame (R366): a wake, and a reset code that two frames in a row confirm. -/
def Alapor.sideband (x : Alapor) (b : Nat) : Alapor :=
  let code := bitsOf b 2 1
  { x with
    badRun := 0
    wakeAsked := x.wakeAsked || (bitOf b 0 && x.ver != 1)
    lastCode := BitVec.ofNat 2 code
    restart := if (code = 1 ∨ code = 2) ∧ x.lastCode.toNat = code then BitVec.ofNat 2 code else x.restart }

/-- A good frame heard in training (R368): it counts toward lock, and a locked module takes the host's version mask of a
training frame. -/
def Alapor.trains (x : Alapor) (f : List Byte) : Alapor :=
  let y := { x with badRun := 0, goodRun := min 32 (x.goodRun + 1) }
  if y.locked && isTraining f then
    let v := highestCommon x.mask.toNat (leAt f 4 2) 3
    { y with trainVer := v, vfault := decide (v = 0) }
  else y

/-- A bad frame on the link (R366, R368): no reset code, and no lock. -/
def Alapor.spoilt (x : Alapor) : Alapor :=
  { x with badRun := x.badRun + 1, lastCode := 0, goodRun := if x.locked then x.goodRun else 0 }

/-- A bad frame (R368): the sixteenth in a row takes the link down, or training back to its start. -/
def State.badFrame (s : State) : State :=
  if 15 ≤ s.alapor.badRun then s.alaporDown else { s with alapor := s.alapor.spoilt }

/-- What the marker and the CRC of a frame decide (R366, R368). -/
def State.frameEnd (s : State) (f : List Byte) : State :=
  if goodFrame f then { s with alapor := if s.alapor.up then s.alapor.sideband (leAt f 52 1) else s.alapor.trains f }
  else if frameCrc f then s.badFrame
  else s.badFrame.bumpField Reg.alpCrce 15 0 1

/-- Whether a frame is the host's first normal frame of the version that training found (R368 step 4). -/
def Alapor.opens (x : Alapor) (f : List Byte) : Bool :=
  !x.up && x.locked && x.trainVer != 0 && goodFrame f && !isTraining f && frameVer f == x.trainVer

/-- A host frame of one period, and the module frame that answers it (R361 to R368). -/
def State.hostFrame (s : State) (f : List Byte) : State :=
  let seq := f.getD 3 0
  if !s.hostIo then s
  else if s.alapor.up || s.alapor.opens f then
    let s0 := if s.alapor.up then s else s.alaporUp
    let s1 := s0.newFrame.bankLosses
    let r := alaporOps f (if isTraining f then 0 else opsOf s0.alapor.ver) [0, 1, 2, 3] s1 s1
    let t := r.2.frameEnd f
    { t with alapor := { t.alapor with frame := if t.alapor.up then s0.moduleFrame seq r.1 else t.trainingFrame seq } }
  else
    let t := s.frameEnd f
    { t with alapor := { t.alapor with frame := t.trainingFrame seq } }

/-- The host frames of several periods, in order. -/
def State.hostFrames : List (List Byte) → State → State
  | [], s => s
  | f :: fs, s => hostFrames fs (s.hostFrame f)

/-- ALAPOR_FRAME (R362 to R367): a host frame, its 80 bytes as they are before scrambling.
DESIGN CHOICE, safe: log entry 28. -/
def execAlaporFrame (frame : List Byte) (s : State) : Out := .next (s.hostFrame frame)

/-- ALAPOR_TRAINING (R368): the host's frames of a training, its first normal frame the last of them.
DESIGN CHOICE, safe: log entry 28. -/
def execAlaporTraining (frames : List (List Byte)) (s : State) : Out := if s.alapor.up then .next s else .next (s.hostFrames frames)

/-- ALAPOR_LINK_DOWN (R368): frames heard on a link that is up, bad ones in a row, until the link goes down.
DESIGN CHOICE, safe: log entry 28. -/
def execAlaporLinkDown (frames : List (List Byte)) (s : State) : Out := if s.alapor.up then .next (s.hostFrames frames) else .next s

end Sys2Proof.Machine
end

