-- ==== Sys2Proof/Machine/Dispatch.lean ====
section
/-!
DEFINITION. The dispatch: every command of the table to its meaning.
-/

namespace Sys2Proof.Machine

/-- The effect of a command on everything but the queue. -/
def exec (i : Instr) (s : State) : Host.Outcome State Fault Refusal :=
  match i with
  | .lowWordReadLatch addr => Sys2Proof.Machine.execLowWordReadLatch addr s
  | .readClearRead addr => Sys2Proof.Machine.execReadClearRead addr s
  | .registerWrite addr data => Sys2Proof.Machine.execRegisterWrite addr data s
  | .powerFailWarning v => Sys2Proof.Machine.execPowerFailWarning v s
  | .inputRecovery v => Sys2Proof.Machine.execInputRecovery v s
  | .groveClockResume => Sys2Proof.Machine.execGroveClockResume s
  | .underVoltageOff v => Sys2Proof.Machine.execUnderVoltageOff v s
  | .rangerDomainCutoff v => Sys2Proof.Machine.execRangerDomainCutoff v s
  | .inputReturn v => Sys2Proof.Machine.execInputReturn v s
  | .overVoltageShutdown v => Sys2Proof.Machine.execOverVoltageShutdown v s
  | .overVoltageRecovery v => Sys2Proof.Machine.execOverVoltageRecovery v s
  | .powerOnSequence => Sys2Proof.Machine.execPowerOnSequence s
  | .sequenceStepPowerGood => Sys2Proof.Machine.execSequenceStepPowerGood s
  | .railPowerGoodMiss rail => Sys2Proof.Machine.execRailPowerGoodMiss rail s
  | .powerDownSequence => Sys2Proof.Machine.execPowerDownSequence s
  | .perstNFall => Sys2Proof.Machine.execPerstNFall s
  | .perstNRise ga => Sys2Proof.Machine.execPerstNRise ga s
  | .rackReferenceLoss => Sys2Proof.Machine.execRackReferenceLoss s
  | .orefLoss => Sys2Proof.Machine.execOrefLoss s
  | .orefReturn => Sys2Proof.Machine.execOrefReturn s
  | .svcHoldAssert => Sys2Proof.Machine.execSvcHoldAssert s
  | .svcHoldRelease => Sys2Proof.Machine.execSvcHoldRelease s
  | .smbusPartNumber => Sys2Proof.Machine.execSmbusPartNumber s
  | .smbusSerialNumber => Sys2Proof.Machine.execSmbusSerialNumber s
  | .smbusInputVoltage => Sys2Proof.Machine.execSmbusInputVoltage s
  | .smbusInputPower => Sys2Proof.Machine.execSmbusInputPower s
  | .smbusJunctionTemp => Sys2Proof.Machine.execSmbusJunctionTemp s
  | .smbusBoardStatus clear => Sys2Proof.Machine.execSmbusBoardStatus clear s
  | .smbusRestart => Sys2Proof.Machine.execSmbusRestart s
  | .smbusFullRestart => Sys2Proof.Machine.execSmbusFullRestart s
  | .smbusAlertResponse => Sys2Proof.Machine.execSmbusAlertResponse s
  | .smbusWindowWrite bytes => Sys2Proof.Machine.execSmbusWindowWrite bytes s
  | .smbusWindowRead n => Sys2Proof.Machine.execSmbusWindowRead n s
  | .thermalTrip stack unit temp => Sys2Proof.Machine.execThermalTrip stack unit temp s
  | .leakDetect wet => Sys2Proof.Machine.execLeakDetect wet s
  | .stepBoundary => Sys2Proof.Machine.execStepBoundary s
  | .stepPeriodWrite data => Sys2Proof.Machine.execStepPeriodWrite data s
  | .stepBaseWrite hi data => Sys2Proof.Machine.execStepBaseWrite hi data s
  | .stepStop => Sys2Proof.Machine.execStepStop s
  | .batchRelease => Sys2Proof.Machine.execBatchRelease s
  | .broadcastArrival => Sys2Proof.Machine.execBroadcastArrival s
  | .numLrecBaseWrite data => Sys2Proof.Machine.execNumLrecBaseWrite data s
  | .thkLdw g => Sys2Proof.Machine.execThkLdw g s
  | .thkMm g => Sys2Proof.Machine.execThkMm g s
  | .accOpen g => Sys2Proof.Machine.execAccOpen g s
  | .accLoad g => Sys2Proof.Machine.execAccLoad g s
  | .accSave g => Sys2Proof.Machine.execAccSave g s
  | .chainAdd g => Sys2Proof.Machine.execChainAdd g s
  | .chainSend g => Sys2Proof.Machine.execChainSend g s
  | .atomAdd g => Sys2Proof.Machine.execAtomAdd g s
  | .atomicContributionArrival src dst => Sys2Proof.Machine.execAtomicContributionArrival src dst s
  | .accHcfg g => Sys2Proof.Machine.execAccHcfg g s
  | .accHdrn g => Sys2Proof.Machine.execAccHdrn g s
  | .outTile g => Sys2Proof.Machine.execOutTile g s
  | .grfUpd g => Sys2Proof.Machine.execGrfUpd g s
  | .grfUpdHold g => Sys2Proof.Machine.execGrfUpdHold g s
  | .spuEw g => Sys2Proof.Machine.execSpuEw g s
  | .spuOp g => Sys2Proof.Machine.execSpuOp g s
  | .spuGm g => Sys2Proof.Machine.execSpuGm g s
  | .boleLdw g => Sys2Proof.Machine.execBoleLdw g s
  | .boleMm g => Sys2Proof.Machine.execBoleMm g s
  | .boleEw g => Sys2Proof.Machine.execBoleEw g s
  | .boleOut g => Sys2Proof.Machine.execBoleOut g s
  | .boleSelw g => Sys2Proof.Machine.execBoleSelw g s
  | .nop g => Sys2Proof.Machine.execNop g s
  | .addOp g => Sys2Proof.Machine.execAddOp g s
  | .subOp g => Sys2Proof.Machine.execSubOp g s
  | .andOp g => Sys2Proof.Machine.execAndOp g s
  | .orOp g => Sys2Proof.Machine.execOrOp g s
  | .xorOp g => Sys2Proof.Machine.execXorOp g s
  | .shl g => Sys2Proof.Machine.execShl g s
  | .shr g => Sys2Proof.Machine.execShr g s
  | .sha g => Sys2Proof.Machine.execSha g s
  | .slt g => Sys2Proof.Machine.execSlt g s
  | .sltu g => Sys2Proof.Machine.execSltu g s
  | .addi g => Sys2Proof.Machine.execAddi g s
  | .ld g => Sys2Proof.Machine.execLd g s
  | .st g => Sys2Proof.Machine.execSt g s
  | .ld4 g => Sys2Proof.Machine.execLd4 g s
  | .st4 g => Sys2Proof.Machine.execSt4 g s
  | .beq g => Sys2Proof.Machine.execBeq g s
  | .bne g => Sys2Proof.Machine.execBne g s
  | .blt g => Sys2Proof.Machine.execBlt g s
  | .bge g => Sys2Proof.Machine.execBge g s
  | .jal g => Sys2Proof.Machine.execJal g s
  | .jr g => Sys2Proof.Machine.execJr g s
  | .srRd g => Sys2Proof.Machine.execSrRd g s
  | .srWr g => Sys2Proof.Machine.execSrWr g s
  | .acWait g => Sys2Proof.Machine.execAcWait g s
  | .acWaitSatisfied g => Sys2Proof.Machine.execAcWaitSatisfied g s
  | .acPoll g => Sys2Proof.Machine.execAcPoll g s
  | .acAdd g => Sys2Proof.Machine.execAcAdd g s
  | .xcWait g => Sys2Proof.Machine.execXcWait g s
  | .xcWaitTimeReached g => Sys2Proof.Machine.execXcWaitTimeReached g s
  | .waitExpiry g => Sys2Proof.Machine.execWaitExpiry g s
  | .engFence g => Sys2Proof.Machine.execEngFence g s
  | .lsAcq g => Sys2Proof.Machine.execLsAcq g s
  | .lsRen g => Sys2Proof.Machine.execLsRen g s
  | .lsRel g => Sys2Proof.Machine.execLsRel g s
  | .leaseGrant res => Sys2Proof.Machine.execLeaseGrant res s
  | .leaseRequestTimeout g => Sys2Proof.Machine.execLeaseRequestTimeout g s
  | .leaseExpiry res => Sys2Proof.Machine.execLeaseExpiry res s
  | .stepEnd g => Sys2Proof.Machine.execStepEnd g s
  | .li g => Sys2Proof.Machine.execLi g s
  | .msgSend g => Sys2Proof.Machine.execMsgSend g s
  | .memRd g => Sys2Proof.Machine.execMemRd g s
  | .memRdComplete g k bad again => Sys2Proof.Machine.execMemRdComplete g k bad again s
  | .memWr g => Sys2Proof.Machine.execMemWr g s
  | .memWrComplete g k => Sys2Proof.Machine.execMemWrComplete g k s
  | .messageArrival src dst => Sys2Proof.Machine.execMessageArrival src dst s
  | .refusalArrival src dst => Sys2Proof.Machine.execRefusalArrival src dst s
  | .gladeFailure phys cause => Sys2Proof.Machine.execGladeFailure phys cause s
  | .gladeRemapRefillDone g => Sys2Proof.Machine.execGladeRemapRefillDone g s
  | .cnpApp stage u => Sys2Proof.Machine.execCnpApp stage u s
  | .cnpAtt stage u => Sys2Proof.Machine.execCnpAtt stage u s
  | .canopyInstructionAccept g => Sys2Proof.Machine.execCanopyInstructionAccept g s
  | .sliceReadComplete grove k bad1 bad2 => Sys2Proof.Machine.execSliceReadComplete grove k bad1 bad2 s
  | .latePage grove badDigest => Sys2Proof.Machine.execLatePage grove badDigest s
  | .clearing => Sys2Proof.Machine.execClearing s
  | .clearingComplete => Sys2Proof.Machine.execClearingComplete s
  | .admitReq rec => Sys2Proof.Machine.execAdmitReq rec s
  | .appendReq rec => Sys2Proof.Machine.execAppendReq rec s
  | .cancelReq rec => Sys2Proof.Machine.execCancelReq rec s
  | .pauseReq rec => Sys2Proof.Machine.execPauseReq rec s
  | .resumeReq rec => Sys2Proof.Machine.execResumeReq rec s
  | .loadGraft rec => Sys2Proof.Machine.execLoadGraft rec s
  | .loadGraftAbort rec => Sys2Proof.Machine.execLoadGraftAbort rec s
  | .graftData rec => Sys2Proof.Machine.execGraftData rec s
  | .graftVerifyComplete slot => Sys2Proof.Machine.execGraftVerifyComplete slot s
  | .graftLoadTimeout slot => Sys2Proof.Machine.execGraftLoadTimeout slot s
  | .phaseHint rec => Sys2Proof.Machine.execPhaseHint rec s
  | .opPoint rec => Sys2Proof.Machine.execOpPoint rec s
  | .hostAck rec => Sys2Proof.Machine.execHostAck rec s
  | .ohmipAckSend => Sys2Proof.Machine.execOhmipAckSend s
  | .loadRec rec => Sys2Proof.Machine.execLoadRec rec s
  | .bundleIn rec => Sys2Proof.Machine.execBundleIn rec s
  | .repairRec rec => Sys2Proof.Machine.execRepairRec rec s
  | .sealBundle index => Sys2Proof.Machine.execSealBundle index s
  | .rteRoute stage g => Sys2Proof.Machine.execRteRoute stage g s
  | .routingInstructionAccept g => Sys2Proof.Machine.execRoutingInstructionAccept g s
  | .rteSend stage g => Sys2Proof.Machine.execRteSend stage g s
  | .rteRet stage g => Sys2Proof.Machine.execRteRet stage g s
  | .routeCopyArrival p item => Sys2Proof.Machine.execRouteCopyArrival p item s
  | .endMarkArrival p item => Sys2Proof.Machine.execEndMarkArrival p item s
  | .routeAnswerArrival p item => Sys2Proof.Machine.execRouteAnswerArrival p item s
  | .layerFinalise plot layer => Sys2Proof.Machine.execLayerFinalise plot layer s
  | .shpLd g poison => Sys2Proof.Machine.execShpLd g poison s
  | .engN g => Sys2Proof.Machine.execEngN g s
  | .shpSt g => Sys2Proof.Machine.execShpSt g s
  | .sctMask stage g => Sys2Proof.Machine.execSctMask stage g s
  | .sctAud stage g => Sys2Proof.Machine.execSctAud stage g s
  | .memoryTraining sts chans => Sys2Proof.Machine.execMemoryTraining sts chans s
  | .memRetrain data => Sys2Proof.Machine.execMemRetrain data s
  | .memHint g => Sys2Proof.Machine.execMemHint g s
  | .migrationVisit => Sys2Proof.Machine.execMigrationVisit s
  | .migrationCopyComplete k => Sys2Proof.Machine.execMigrationCopyComplete k s
  | .countHalvingTick => Sys2Proof.Machine.execCountHalvingTick s
  | .hintLapse granule => Sys2Proof.Machine.execHintLapse granule s
  | .repairRetryComplete k bad => Sys2Proof.Machine.execRepairRetryComplete k bad s
  | .repairMirrorComplete k bad => Sys2Proof.Machine.execRepairMirrorComplete k bad s
  | .writebackVerifyComplete k bad => Sys2Proof.Machine.execWritebackVerifyComplete k bad s
  | .repairHostTimeout k => Sys2Proof.Machine.execRepairHostTimeout k s
  | .patrolRead bad => Sys2Proof.Machine.execPatrolRead bad s
  | .memTgStart data => Sys2Proof.Machine.execMemTgStart data s
  | .memTgStop data => Sys2Proof.Machine.execMemTgStop data s
  | .memTgRunComplete chan flips poisoned => Sys2Proof.Machine.execMemTgRunComplete chan flips poisoned s
  | .understoryRetiming => Sys2Proof.Machine.execUnderstoryRetiming s
  | .fabSend g => Sys2Proof.Machine.execFabSend g s
  | .fabricMessageArrival p item => Sys2Proof.Machine.execFabricMessageArrival p item s
  | .resendRequest p w0 w1 => Sys2Proof.Machine.execResendRequest p w0 w1 s
  | .skajorLinkStatus p w0 got => Sys2Proof.Machine.execSkajorLinkStatus p w0 got s
  | .skajorReplayRequest p w0 => Sys2Proof.Machine.execSkajorReplayRequest p w0 s
  | .skajorUncorrectableBlock p block => Sys2Proof.Machine.execSkajorUncorrectableBlock p block s
  | .switchBlock p => Sys2Proof.Machine.execSwitchBlock p s
  | .laneLockLoss p spare => Sys2Proof.Machine.execLaneLockLoss p spare s
  | .skajorPortTraining p nbr => Sys2Proof.Machine.execSkajorPortTraining p nbr s
  | .downItem p w0 => Sys2Proof.Machine.execDownItem p w0 s
  | .frameMarkerPulse => Sys2Proof.Machine.execFrameMarkerPulse s
  | .phaseMeasurementTimer p => Sys2Proof.Machine.execPhaseMeasurementTimer p s
  | .phaseRequest p w0 t1 => Sys2Proof.Machine.execPhaseRequest p w0 t1 s
  | .phaseResponse p w0 t2 t3 t4 => Sys2Proof.Machine.execPhaseResponse p w0 t2 t3 t4 s
  | .rootRingLoad => Sys2Proof.Machine.execRootRingLoad s
  | .ringLoadArm data => Sys2Proof.Machine.execRingLoadArm data s
  | .rackReferenceReturn off => Sys2Proof.Machine.execRackReferenceReturn off s
  | .holdoverExpiry => Sys2Proof.Machine.execHoldoverExpiry s
  | .freqRoundSend => Sys2Proof.Machine.execFreqRoundSend s
  | .freqFinalSend => Sys2Proof.Machine.execFreqFinalSend s
  | .freqRoundItem p w0 w1 => Sys2Proof.Machine.execFreqRoundItem p w0 w1 s
  | .freqFinalItem p w0 w1 => Sys2Proof.Machine.execFreqFinalItem p w0 w1 s
  | .freqLowerItem p w0 w1 => Sys2Proof.Machine.execFreqLowerItem p w0 w1 s
  | .freqRailPreraise => Sys2Proof.Machine.execFreqRailPreraise s
  | .freqApply => Sys2Proof.Machine.execFreqApply s
  | .alaporFrame frame => Sys2Proof.Machine.execAlaporFrame frame s
  | .wake => Sys2Proof.Machine.execWake s
  | .alaporRestart => Sys2Proof.Machine.execAlaporRestart s
  | .alaporFullRestart => Sys2Proof.Machine.execAlaporFullRestart s
  | .alaporTraining frames => Sys2Proof.Machine.execAlaporTraining frames s
  | .alaporLinkDown frames => Sys2Proof.Machine.execAlaporLinkDown frames s
  | .ohmipTraining ok => Sys2Proof.Machine.execOhmipTraining ok s
  | .hello w0 w1 w2 => Sys2Proof.Machine.execHello w0 w1 w2 s
  | .ohmipLinkStatus w0 w1 => Sys2Proof.Machine.execOhmipLinkStatus w0 w1 s
  | .ohmipReplayRequest w0 => Sys2Proof.Machine.execOhmipReplayRequest w0 s
  | .ohmipUncorrectableBlock block => Sys2Proof.Machine.execOhmipUncorrectableBlock block s
  | .ohmipLaneLoss lane => Sys2Proof.Machine.execOhmipLaneLoss lane s
  | .verifyImage => Sys2Proof.Machine.execVerifyImage s
  | .storeImage slot => Sys2Proof.Machine.execStoreImage slot s
  | .stageImage slot => Sys2Proof.Machine.execStageImage slot s
  | .applyImage bad => Sys2Proof.Machine.execApplyImage bad s
  | .rollback => Sys2Proof.Machine.execRollback s
  | .reload => Sys2Proof.Machine.execReload s
  | .imageCancel => Sys2Proof.Machine.execImageCancel s
  | .bootSlot slot => Sys2Proof.Machine.execBootSlot slot s
  | .bootImageApply bad bad2 => Sys2Proof.Machine.execBootImageApply bad bad2 s
  | .drainLimitExpiry => Sys2Proof.Machine.execDrainLimitExpiry s
  | .wardenPeriod report => Sys2Proof.Machine.execWardenPeriod report s
  | .railSettled grove => Sys2Proof.Machine.execRailSettled grove s
  | .droopDetect grove => Sys2Proof.Machine.execDroopDetect grove s
  | .droopRecovery grove cycles => Sys2Proof.Machine.execDroopRecovery grove cycles s
  | .ageingReport phys mhz => Sys2Proof.Machine.execAgeingReport phys mhz s
  | .marginalGraceExpiry phys => Sys2Proof.Machine.execMarginalGraceExpiry phys s
  | .latencyToleranceWrite data => Sys2Proof.Machine.execLatencyToleranceWrite data s
  | .suspendArm data => Sys2Proof.Machine.execSuspendArm data s
  | .resumeArm data => Sys2Proof.Machine.execResumeArm data s
  | .idleEntry => Sys2Proof.Machine.execIdleEntry s
  | .s1Exit => Sys2Proof.Machine.execS1Exit s
  | .idleExit => Sys2Proof.Machine.execIdleExit s
  | .replayStart plot => Sys2Proof.Machine.execReplayStart plot s
  | .leaseRevoke data => Sys2Proof.Machine.execLeaseRevoke data s
  | .leaseRevokePlot data => Sys2Proof.Machine.execLeaseRevokePlot data s
  | .lifetimeSnapshot writeOk retryOk => Sys2Proof.Machine.execLifetimeSnapshot writeOk retryOk s
  | .lifeFlush data writeOk retryOk => Sys2Proof.Machine.execLifeFlush data writeOk retryOk s
  | .historyEntryWrite => Sys2Proof.Machine.execHistoryEntryWrite s
  | .calendarCommit data => Sys2Proof.Machine.execCalendarCommit data s
  | .certRead smb len => Sys2Proof.Machine.execCertRead smb len s
  | .quote smb len => Sys2Proof.Machine.execQuote smb len s
  | .opEnroll smb len => Sys2Proof.Machine.execOpEnroll smb len s
  | .tenEnroll smb len => Sys2Proof.Machine.execTenEnroll smb len s
  | .tenKey smb len => Sys2Proof.Machine.execTenKey smb len s
  | .tenDrop smb len => Sys2Proof.Machine.execTenDrop smb len s
  | .dbgChal smb len => Sys2Proof.Machine.execDbgChal smb len s
  | .dbgAuth smb len => Sys2Proof.Machine.execDbgAuth smb len s
  | .fwStore smb len => Sys2Proof.Machine.execFwStore smb len s
  | .svnCommit smb len => Sys2Proof.Machine.execSvnCommit smb len s
  | .mailboxUnknownCode smb code len => Sys2Proof.Machine.execMailboxUnknownCode smb code len s
  | .faultWindowLatch => Sys2Proof.Machine.execFaultWindowLatch s
  | .faultPop data => Sys2Proof.Machine.execFaultPop data s
  | .jtagInstruction die0 die1 die2 die3 ranger => Sys2Proof.Machine.execJtagInstruction die0 die1 die2 die3 ranger s
  | .frameMarkerAbsent => Sys2Proof.Machine.execFrameMarkerAbsent s
  | .mailboxCommandComplete => Sys2Proof.Machine.execMailboxCommandComplete s
  | .imageCommandComplete => Sys2Proof.Machine.execImageCommandComplete s
  | .laneRetrainComplete p pass => Sys2Proof.Machine.execLaneRetrainComplete p pass s

end Sys2Proof.Machine
end

