-- ==== Sys2Proof/Safety.lean ====
section
/-!
DEFINITION. The terms in which claims about the block are stated: the bound of the fault queue, the canonical form of the
memory tiers, and what a command leaves as it was.
-/

namespace Sys2Proof.Machine

/-- The fault queue holds at most 1,024 records (R439), and a record is latched only while the queue has a head (R493). -/
abbrev State.faultQueueOk (s : State) : Prop :=
  s.dep.queue.length ≤ 1024 ∧ (s.dep.latched = true → s.dep.queue ≠ [])

/-- The memory tiers list their bytes in the canonical form: addresses strictly rising, no byte that an unlisted address
reads as. -/
abbrev Memory.wf (m : Memory) : Prop := mwf 0 m.phys = true

/-- The tables of plots, glades and groves are in canonical form: numbers strictly rising, no unit listed that is as it
was at reset. -/
abbrev State.tablesOk (s : State) : Prop :=
  mwf Plot.init s.plots = true ∧ mwf Glade.init s.glades = true ∧ mwf Grove.init s.groves = true

/-- What the move from one state to another keeps, whatever the command: the queue of waiting commands, the bound of the fault
queue, the canonical form of the memory tiers and of the unit tables, and the one-way rise of the minimum firmware version (R467). -/
structure Keeps (s t : State) : Prop where
  pending : t.pending = s.pending
  queue : s.faultQueueOk → t.faultQueueOk
  memory : s.mem.wf → t.mem.wf
  tables : s.tablesOk → t.tablesOk
  minSvn : s.security.minSvn.toNat ≤ t.security.minSvn.toNat

/-- A state, where there is one, that keeps what `Keeps` says. -/
structure KeepsOpt (s : State) (o : Option State) : Prop where
  keeps : ∀ t, o = some t → Keeps s t

/-- An outcome that, where it is a next state, keeps what `Keeps` says. -/
structure KeepsOut (s : State) (o : Host.Outcome State Fault Refusal) : Prop where
  keeps : ∀ t, o = .next t → Keeps s t

/-- Glade `g` issues an instruction of opcode `op` (R166, R167, R171): it is in service and runs, its plot is in a step, its
grove is powered and clocked, its program counter is a good fetch target, and the word there has the opcode. -/
abbrev State.issues (s : State) (g : BitVec 10) (op : Nat) : Prop :=
  s.gladeRuns g.toNat = true ∧ (s.glade g.toNat).badTarget (s.glade g.toNat).pc = false ∧ (s.issueOf g.toNat).op = op

/-- The instruction that a glade stands at as the engines take it: with the count N that ENG.N gave, if one is pending,
else the count of its n field (R282). -/
def State.engineIssue (s : State) (g : BitVec 10) : Issue × Nat :=
  let i := s.issueOf g.toNat
  match i.gl.engN with
  | none => (i, i.f 23 16 + 1)
  | some c => ({ i with gl := { i.gl with engN := none } }, c.toNat)

/-- A glade issues an engine instruction of opcode `op` while nothing waits in its engine queues (R90, R172). -/
abbrev State.issuesEngine (s : State) (g : BitVec 10) (op : Nat) : Prop := s.issues g op ∧ (s.glade g.toNat).engine = []

/-- Instruction `i` with count `n` as the one that waits in its glade's engine queues, its glade having gone on (R172). -/
abbrev State.queued (s : State) (i : Issue) (n : Nat) : State :=
  s.put i { i.gl with engine :=
    [{ pc := i.pc, op := BitVec.ofNat 8 i.op, words := BitVec.ofNat 128 i.w, args := [BitVec.ofNat 64 n] }] }

/-- What the three scalar-product instructions check first (R140, R154): reserved bits, the descriptor, the blocks and rows inside
the operands and the operands inside the scratchpad. -/
abbrev spuReady (i : Issue) (d : LayerDesc) (rows xEnd yEnd : Nat) : Prop :=
  i.zeros [(31, 27), (24, 24), (127, 125)] = true ∧ 8 * i.f 47 32 + 32 ≤ 524288 ∧ (∀ c ∈ d.faults, c.1 = false)
  ∧ 32 * i.f 95 86 + xEnd < 32 * d.xNblk ∧ 32 * i.f 105 96 + yEnd < 32 * d.yNblk
  ∧ i.f 66 48 + (rows - 1) * d.xStride + rowBytes d.xform d.xNblk ≤ 524288
  ∧ i.f 85 67 + (rows - 1) * d.yStride + rowBytes d.yform d.yNblk ≤ 524288

end Sys2Proof.Machine
end

