-- ==== Sys2Proof/WellFormed.lean ====
section
/-!
DEFINITION. Which commands name something the module has: ports, dies, grove numbers, physical glades, channels and TAPs
in range, and transfers of the lengths their rules give. The meanings are total: they also say what a command that is not
well formed does.
-/

namespace Sys2Proof

/-- A Skajor port number (R327): 0 to 5. -/
def portOk (p : BitVec 3) : Bool := decide (p.toNat < 6)

/-- A physical glade number (R195): 66 per grove. -/
def physOk (ph : BitVec 11) : Bool := decide (ph.toNat < 1056)

/-- The unit of a canopy row: a glade at issue, a grove when the pipeline runs it. -/
def canopyUnitOk : Stage → BitVec 10 → Bool
  | .issue, _ => true
  | .run _, u => decide (u.toNat < 16)

/-- Whether a command names units that exist and has a length that its rule allows. -/
def Instr.wf : Instr → Bool
  | .smbusWindowWrite bytes => decide (1 ≤ bytes.length)
  | .smbusWindowRead n => decide (n % 4 = 0 ∧ 4 ≤ n ∧ n ≤ 32)
  | .thermalTrip stack unit _ => stack || decide (unit.toNat < 4)
  | .gladeFailure phys _ => physOk phys
  | .cnpApp stage u => canopyUnitOk stage u
  | .cnpAtt stage u => canopyUnitOk stage u
  | .memoryTraining sts chans => decide (sts.length = 8 ∧ chans.length = 16)
  | .memTgRunComplete chan _ _ => decide (chan.toNat < 144)
  | .routeCopyArrival p _ => portOk p
  | .endMarkArrival p _ => portOk p
  | .routeAnswerArrival p _ => portOk p
  | .fabricMessageArrival p _ => portOk p
  | .resendRequest p _ _ => portOk p
  | .skajorLinkStatus p _ _ => portOk p
  | .skajorReplayRequest p _ => portOk p
  | .skajorUncorrectableBlock p _ => portOk p
  | .switchBlock p => portOk p
  | .laneLockLoss p _ => portOk p
  | .laneRetrainComplete p _ => portOk p
  | .skajorPortTraining p _ => portOk p
  | .downItem p _ => portOk p
  | .phaseMeasurementTimer p => portOk p
  | .phaseRequest p _ _ => portOk p
  | .phaseResponse p _ _ _ _ => portOk p
  | .freqRoundItem p _ _ => portOk p
  | .freqFinalItem p _ _ => portOk p
  | .freqLowerItem p _ _ => portOk p
  | .alaporFrame frame => decide (frame.length = 80)
  | .wardenPeriod r => decide (r.rails.length = 30 ∧ r.pmbus.length = 30 ∧ r.dieTemp.length = 4 ∧ r.stackTemp.length = 8)
  | .ageingReport phys _ => physOk phys
  | .marginalGraceExpiry phys => physOk phys
  | .jtagInstruction _ _ _ _ _ => true
  | .lowWordReadLatch _ => true
  | .readClearRead _ => true
  | .registerWrite _ _ => true
  | .powerFailWarning _ => true
  | .inputRecovery _ => true
  | .groveClockResume => true
  | .underVoltageOff _ => true
  | .rangerDomainCutoff _ => true
  | .inputReturn _ => true
  | .overVoltageShutdown _ => true
  | .overVoltageRecovery _ => true
  | .powerOnSequence => true
  | .sequenceStepPowerGood => true
  | .railPowerGoodMiss _ => true
  | .powerDownSequence => true
  | .perstNFall => true
  | .perstNRise _ => true
  | .rackReferenceLoss => true
  | .orefLoss => true
  | .orefReturn => true
  | .svcHoldAssert => true
  | .svcHoldRelease => true
  | .smbusPartNumber => true
  | .smbusSerialNumber => true
  | .smbusInputVoltage => true
  | .smbusInputPower => true
  | .smbusJunctionTemp => true
  | .smbusBoardStatus _ => true
  | .smbusRestart => true
  | .smbusFullRestart => true
  | .smbusAlertResponse => true
  | .leakDetect _ => true
  | .stepBoundary => true
  | .stepPeriodWrite _ => true
  | .stepBaseWrite _ _ => true
  | .stepStop => true
  | .batchRelease => true
  | .broadcastArrival => true
  | .numLrecBaseWrite _ => true
  | .thkLdw _ => true
  | .thkMm _ => true
  | .accOpen _ => true
  | .accLoad _ => true
  | .accSave _ => true
  | .chainAdd _ => true
  | .chainSend _ => true
  | .atomAdd _ => true
  | .atomicContributionArrival _ _ => true
  | .accHcfg _ => true
  | .accHdrn _ => true
  | .outTile _ => true
  | .grfUpd _ => true
  | .grfUpdHold _ => true
  | .spuEw _ => true
  | .spuOp _ => true
  | .spuGm _ => true
  | .boleLdw _ => true
  | .boleMm _ => true
  | .boleEw _ => true
  | .boleOut _ => true
  | .boleSelw _ => true
  | .nop _ => true
  | .addOp _ => true
  | .subOp _ => true
  | .andOp _ => true
  | .orOp _ => true
  | .xorOp _ => true
  | .shl _ => true
  | .shr _ => true
  | .sha _ => true
  | .slt _ => true
  | .sltu _ => true
  | .addi _ => true
  | .ld _ => true
  | .st _ => true
  | .ld4 _ => true
  | .st4 _ => true
  | .beq _ => true
  | .bne _ => true
  | .blt _ => true
  | .bge _ => true
  | .jal _ => true
  | .jr _ => true
  | .srRd _ => true
  | .srWr _ => true
  | .acWait _ => true
  | .acWaitSatisfied _ => true
  | .acPoll _ => true
  | .acAdd _ => true
  | .xcWait _ => true
  | .xcWaitTimeReached _ => true
  | .waitExpiry _ => true
  | .engFence _ => true
  | .lsAcq _ => true
  | .lsRen _ => true
  | .lsRel _ => true
  | .leaseGrant _ => true
  | .leaseRequestTimeout _ => true
  | .leaseExpiry _ => true
  | .stepEnd _ => true
  | .li _ => true
  | .msgSend _ => true
  | .memRd _ => true
  | .memRdComplete _ _ _ _ => true
  | .memWr _ => true
  | .memWrComplete _ _ => true
  | .messageArrival _ _ => true
  | .refusalArrival _ _ => true
  | .gladeRemapRefillDone _ => true
  | .canopyInstructionAccept _ => true
  | .sliceReadComplete _ _ _ _ => true
  | .latePage _ _ => true
  | .clearing => true
  | .clearingComplete => true
  | .admitReq _ => true
  | .appendReq _ => true
  | .cancelReq _ => true
  | .pauseReq _ => true
  | .resumeReq _ => true
  | .loadGraft _ => true
  | .loadGraftAbort _ => true
  | .graftData _ => true
  | .graftVerifyComplete _ => true
  | .graftLoadTimeout _ => true
  | .phaseHint _ => true
  | .opPoint _ => true
  | .hostAck _ => true
  | .ohmipAckSend => true
  | .loadRec _ => true
  | .bundleIn _ => true
  | .repairRec _ => true
  | .sealBundle _ => true
  | .rteRoute _ _ => true
  | .routingInstructionAccept _ => true
  | .rteSend _ _ => true
  | .rteRet _ _ => true
  | .layerFinalise _ _ => true
  | .shpLd _ _ => true
  | .engN _ => true
  | .shpSt _ => true
  | .sctMask _ _ => true
  | .sctAud _ _ => true
  | .memRetrain _ => true
  | .memHint _ => true
  | .migrationVisit => true
  | .migrationCopyComplete _ => true
  | .countHalvingTick => true
  | .hintLapse _ => true
  | .repairRetryComplete _ _ => true
  | .repairMirrorComplete _ _ => true
  | .writebackVerifyComplete _ _ => true
  | .repairHostTimeout _ => true
  | .patrolRead _ => true
  | .memTgStart _ => true
  | .memTgStop _ => true
  | .understoryRetiming => true
  | .fabSend _ => true
  | .frameMarkerPulse => true
  | .rootRingLoad => true
  | .ringLoadArm _ => true
  | .rackReferenceReturn _ => true
  | .holdoverExpiry => true
  | .freqRoundSend => true
  | .freqFinalSend => true
  | .freqRailPreraise => true
  | .freqApply => true
  | .wake => true
  | .alaporRestart => true
  | .alaporFullRestart => true
  | .alaporTraining frames => frames.all fun f => f.length = 80
  | .alaporLinkDown frames => frames.all fun f => f.length = 80
  | .ohmipTraining _ => true
  | .hello _ _ _ => true
  | .ohmipLinkStatus _ _ => true
  | .ohmipReplayRequest _ => true
  | .ohmipUncorrectableBlock _ => true
  | .ohmipLaneLoss _ => true
  | .verifyImage => true
  | .storeImage _ => true
  | .stageImage _ => true
  | .applyImage _ => true
  | .rollback => true
  | .reload => true
  | .imageCancel => true
  | .bootSlot _ => true
  | .bootImageApply _ _ => true
  | .drainLimitExpiry => true
  | .railSettled _ => true
  | .droopDetect _ => true
  | .droopRecovery _ _ => true
  | .latencyToleranceWrite _ => true
  | .suspendArm _ => true
  | .resumeArm _ => true
  | .idleEntry => true
  | .s1Exit => true
  | .idleExit => true
  | .replayStart _ => true
  | .leaseRevoke _ => true
  | .leaseRevokePlot _ => true
  | .lifetimeSnapshot _ _ => true
  | .lifeFlush _ _ _ => true
  | .historyEntryWrite => true
  | .calendarCommit _ => true
  | .certRead _ _ => true
  | .quote _ _ => true
  | .opEnroll _ _ => true
  | .tenEnroll _ _ => true
  | .tenKey _ _ => true
  | .tenDrop _ _ => true
  | .dbgChal _ _ => true
  | .dbgAuth _ _ => true
  | .fwStore _ _ => true
  | .svnCommit _ _ => true
  | .mailboxUnknownCode _ _ _ => true
  | .faultWindowLatch => true
  | .faultPop _ => true
  | .frameMarkerAbsent => true
  | .mailboxCommandComplete => true
  | .imageCommandComplete => true

end Sys2Proof
end

