-- ==== Sys2Proof/Certificates/Slice0/Obligations.lean ====
section
/-!
DEFINITION. The statements about the block that are put to the provers. Each says what one family of commands does, in the
terms of Safety.lean and of the meanings' own operations, or what every command keeps.

A statement of the form `exec c s = .next t` with `t` written as an update of `s` states a command's frame as well: every part
of the state that the update does not name is as it was.
-/

open Sys2Proof Sys2Proof.Machine

/-! ### The block as a whole -/

/-- A step runs the command at the front of the queue on the state with the queue's rest; on an empty queue it is one edge of
the reference clock (log entry 1). -/
def Obligations.StepRunsFrontCommand : Prop :=
  (∀ (c : Instr) (s : State), step { s with pending := c :: s.pending } = exec c s)
  ∧ ∀ s : State, s.pending = [] → step s = .next s.tick

/-- At reset the fault queue is within its bound, and the memory tiers and unit tables are in canonical form. -/
def Obligations.ResetMeetsInvariants : Prop :=
  State.reset.faultQueueOk ∧ State.reset.mem.wf ∧ State.reset.tablesOk ∧ State.reset.pending = []

/-- No command touches the queue of waiting commands. -/
def Obligations.CommandsLeaveQueue : Prop :=
  ∀ (c : Instr) (s t : State), exec c s = .next t → t.pending = s.pending

/-- Every step keeps the bound of 1,024 records of the fault queue (R439), and a latch only on a queued head (R493). -/
def Obligations.StepKeepsFaultQueueBound : Prop :=
  ∀ s t : State, step s = .next t → s.faultQueueOk → t.faultQueueOk

/-- Every step keeps the canonical form of the memory tiers, and of the tables of plots, glades and groves: equal memories and equal
tables stay equal data. -/
def Obligations.StepKeepsCanonicalForms : Prop :=
  ∀ s t : State, step s = .next t → (s.mem.wf → t.mem.wf) ∧ (s.tablesOk → t.tablesOk)

/-- The minimum firmware version is a fuse value: no step lowers it (R467). -/
def Obligations.MinimumVersionNeverFalls : Prop :=
  ∀ s t : State, step s = .next t → s.security.minSvn.toNat ≤ t.security.minSvn.toNat

/-- No command stops the block: whatever the state, a command that names units that exist answers a next state, but for a JTAG
instruction beyond the four of R27; that state holds the same waiting commands, a fault queue within its bound (R439), memory and
tables in canonical form and a minimum firmware version no lower (R467), where the state before it did. Log entries 3, 16 and 17 are the model's choices here. -/
def Obligations.NoCommandStopsTheBlock : Prop :=
  ∀ (c : Instr) (s : State), c.wf = true → (∀ d0 d1 d2 d3 r, c = .jtagInstruction d0 d1 d2 d3 r → ∀ x ∈ [d0, d1, d2, d3, r], otherCode x = none) →
    ∃ t, exec c s = .next t ∧ t.pending = s.pending ∧ (s.faultQueueOk → t.faultQueueOk) ∧ (s.mem.wf → t.mem.wf)
      ∧ (s.tablesOk → t.tablesOk) ∧ s.security.minSvn.toNat ≤ t.security.minSvn.toNat

/-! ### The glade's control instructions -/

/-- The scalar instructions write gp[d] with their result and advance by their length (Table 7.4, R171); nothing else of the
machine changes. gp0 reads zero and ignores writes (Table 7.1); any other register reads as it was last written, and no write of one
changes another. -/
def Obligations.ScalarInstructionsCompute : Prop :=
  ∀ (s : State) (g : BitVec 10),
    let i := s.issueOf g.toNat
    (s.issues g 0x00 → i.f 31 8 = 0 → exec (.nop g) s = .next (s.put i i.gl))
    ∧ (∀ c op v, (c, op, v) ∈ [(Instr.addOp g, 0x01, i.ra + i.rb), (.subOp g, 0x02, i.ra - i.rb),
          (.andOp g, 0x03, i.ra &&& i.rb), (.orOp g, 0x04, i.ra ||| i.rb), (.xorOp g, 0x05, i.ra ^^^ i.rb),
          (.shl g, 0x06, i.ra <<< (i.rb.toNat % 64)), (.shr g, 0x07, i.ra >>> (i.rb.toNat % 64)),
          (.sha g, 0x08, i.ra.sshiftRight (i.rb.toNat % 64)),
          (.slt g, 0x09, if i.ra.toInt < i.rb.toInt then 1 else 0),
          (.sltu g, 0x0A, if i.ra.toNat < i.rb.toNat then 1 else 0)] →
        s.issues g op → i.f 31 23 = 0 → exec c s = .next (s.put i (i.gl.setGpr i.d v)))
    ∧ (s.issues g 0x0B → exec (.addi g) s = .next (s.put i (i.gl.setGpr i.d (i.ra + BitVec.ofInt 64 i.imm))))
    ∧ (s.issues g 0x80 → i.f 15 13 = 0 →
        exec (.li g) s = .next (s.put i (i.gl.setGpr i.d (BitVec.ofInt 64 (signedOf 48 (i.f 63 16))))))
    ∧ ∀ (gl : Glade) (r : Nat) (v : DWord),
      gl.gpr 0 = 0 ∧ gl.setGpr 0 v = gl
      ∧ (r ≠ 0 → mwf 0 gl.gp = true → (gl.setGpr r v).gpr r = v)
      ∧ ∀ k, k ≠ r → (gl.setGpr r v).gpr k = gl.gpr k

/-- LD and LD4 read eight or four aligned bytes of the scratchpad, zero-extended; bytes that something else has written and that
no fence or wait has made visible read as a free value (log entry 6). ST and ST4 write the low bytes of gp[d] and no other
byte; a misaligned or outlying address raises cause 0x06 (R168, R175). -/
def Obligations.ScratchpadLoadsAndStores : Prop :=
  ∀ (s : State) (g : BitVec 10),
    let i := s.issueOf g.toNat
    (∀ c op n, (c, op, n) ∈ [(Instr.ld g, 0x10, 8), (.ld4 g, 0x12, 4)] → s.issues g op →
      (i.ea % n = 0 → i.ea + n ≤ 524288 →
        (i.gl.hides i.ea n = false →
          exec c s = .next (s.put i (i.gl.setGpr i.d (BitVec.ofNat 64 (i.gl.readNat i.ea n)))))
        ∧ (i.gl.hides i.ea n = true → ∃ v : DWord, v.toNat < 2 ^ (8 * n)
          ∧ exec c s = .next (State.put { s with fresh := s.fresh + 1 } i (i.gl.setGpr i.d v))))
      ∧ ((i.ea % n ≠ 0 ∨ i.ea + n > 524288) → exec c s = .next (s.instrFault i 0x06)))
    ∧ (∀ c op n, (c, op, n) ∈ [(Instr.st g, 0x11, 8), (.st4 g, 0x13, 4)] → s.issues g op →
      (i.ea % n = 0 → i.ea + n ≤ 524288 → s.tablesOk →
        ∃ t, exec c s = .next t ∧ (∀ k, k ≠ g.toNat → t.glade k = s.glade k)
          ∧ (t.glade g.toNat).pc = i.pc + 4 ∧ (t.glade g.toNat).gp = i.gl.gp
          ∧ (t.glade g.toNat).spad = mwrite 0 i.gl.spad i.ea (leBytes n i.rd.toNat)
          ∧ (∀ a, a < i.ea ∨ i.ea + n ≤ a → mget 0 (t.glade g.toNat).spad a = mget 0 i.gl.spad a))
      ∧ ((i.ea % n ≠ 0 ∨ i.ea + n > 524288) → exec c s = .next (s.instrFault i 0x06)))

/-- A taken branch goes to its own address plus the immediate in words, a branch not taken to the next word; JAL also leaves the
next word's address in gp[d]; JR goes to gp[a] (Table 7.3, Table 7.4). A bad target raises cause 0x06 (R171). -/
def Obligations.BranchesAndJumps : Prop :=
  ∀ (s : State) (g : BitVec 10),
    let i := s.issueOf g.toNat
    let at_ : Int := (i.pc : Int) + 4 * i.imm
    (∀ c op taken, (c, op, taken) ∈ [(Instr.beq g, 0x18, decide (i.rd = i.ra)), (.bne g, 0x19, decide (i.rd ≠ i.ra)),
          (.blt g, 0x1A, decide (i.rd.toInt < i.ra.toInt)), (.bge g, 0x1B, decide (i.ra.toInt ≤ i.rd.toInt))] →
        s.issues g op →
        (taken = false → exec c s = .next (s.put i i.gl))
        ∧ (taken = true → i.gl.badTarget at_ = false → exec c s = .next (s.setGlade g.toNat { i.gl with pc := at_.toNat }))
        ∧ (taken = true → i.gl.badTarget at_ = true → exec c s = .next (s.instrFault i 0x06)))
    ∧ (s.issues g 0x1C → i.gl.badTarget at_ = false →
        exec (.jal g) s = .next (s.setGlade g.toNat { i.gl.setGpr i.d (BitVec.ofNat 64 (i.pc + 4)) with pc := at_.toNat }))
    ∧ (s.issues g 0x1D → i.f 31 23 = 0 → i.gl.badTarget (i.ra.toNat : Int) = false →
        exec (.jr g) s = .next (s.setGlade g.toNat { i.gl with pc := i.ra.toNat }))

/-- SR.RD returns each register of Table 7.2; a read of SR_NACK or SR_NACKC also clears it. SR.WR writes SR_WDL alone; a write of
another register of the table raises cause 0x0B, and any other code cause 0x04 in both (R169). -/
def Obligations.SpecialRegisterAccess : Prop :=
  ∀ (s : State) (g : BitVec 10),
    let i := s.issueOf g.toNat
    let pl := s.plot i.p
    (s.issues g 0x20 → i.f 31 21 = 0 →
      (∀ sr v, (sr, v) ∈ [(0x00, BitVec.ofNat 64 (i.g % 32 + 32 * (i.g / 32) + 1024 * i.g)),
            (0x01, BitVec.ofNat 64 i.p), (0x02, s.ringCount), (0x03, i.gl.stepNum), (0x04, i.gl.sBase),
            (0x05, if i.gl.genBit then 1 else 0), (0x06, BitVec.ofNat 64 pl.isa.toNat), (0x07, if pl.exact then 1 else 0),
            (0x08, i.gl.wdl)] →
          i.f 20 13 = sr → exec (.srRd g) s = .next (s.put i (i.gl.setGpr i.d v)))
      ∧ (i.f 20 13 = 0x09 → exec (.srRd g) s = .next (s.put i ({ i.gl with nack := 0 }.setGpr i.d i.gl.nack)))
      ∧ (i.f 20 13 = 0x0A →
          exec (.srRd g) s = .next (s.put i ({ i.gl with nackc := 0 }.setGpr i.d (BitVec.ofNat 64 i.gl.nackc.toNat))))
      ∧ (0x0A < i.f 20 13 → exec (.srRd g) s = .next (s.instrFault i 0x04)))
    ∧ (s.issues g 0x21 → i.f 31 21 = 0 →
      (i.f 20 13 = 0x08 → exec (.srWr g) s = .next (s.put i { i.gl with wdl := i.rd }))
      ∧ (i.f 20 13 ≤ 0x0A → i.f 20 13 ≠ 0x08 → exec (.srWr g) s = .next (s.instrFault i 0x0B))
      ∧ (0x0A < i.f 20 13 → exec (.srWr g) s = .next (s.instrFault i 0x04)))

/-- AC.POLL reads a counter; AC.ADD adds to one of counters 0 to 61; AC.WAIT goes on once the counter has reached its target and
subtracts the target, and makes visible what the counter counts (R168); else it waits, until AC_WAIT_SATISFIED. XC.WAIT waits
for its ring count first, and a wait that is then short is late (R180, R181, R183).

An arrival counter counts up to 65,535; above that it stays there, GLD_CTRO counts and the plot's step ends with a counter
fault (R180).

A wait that is unsatisfied at its deadline stops the glade, counts GLD_WEXP and raises class 0x06, whose recovery abandons
the step (R182); a plot with a read held for repair does not expire (R324). That a waiting ENG.FENCE expires so too, and its
record names no counter, is log entry 144's reading. -/
def Obligations.ArrivalCountersAndWaits : Prop :=
  ((∀ (s : State) (g : BitVec 10),
      let i := s.issueOf g.toNat
      let have_ := fun (c : Nat) => (i.gl.ctr c).toNat
      let gone := fun (c t : Nat) =>
        (({ i.gl.setCtr c (i.gl.ctr c - BitVec.ofNat 16 t) with mode := .running }).seenCtr c).step i
      let met := fun (c t : Nat) => s.setGlade g.toNat (gone c t)
      (s.issues g 0x25 → i.f 31 19 = 0 →
        exec (.acPoll g) s = .next (s.put i (i.gl.setGpr i.d (BitVec.ofNat 64 (have_ (i.f 18 13))))))
      ∧ (s.issues g 0x26 → i.f 31 30 = 0 → i.f 13 8 < 62 →
        exec (.acAdd g) s = .next ((s.put i i.gl).countUp g.toNat (i.f 13 8) (i.f 29 14)))
      ∧ (s.issues g 0x24 → i.f 31 30 = 0 →
        (i.f 29 14 ≤ have_ (i.f 13 8) → exec (.acWait g) s = .next (met (i.f 13 8) (i.f 29 14)))
        ∧ (have_ (i.f 13 8) < i.f 29 14 → exec (.acWait g) s = .next (s.setGlade g.toNat
            { i.gl with mode := .waitCtr (BitVec.ofNat 6 (i.f 13 8)) (BitVec.ofNat 16 (i.f 29 14)) false })))
      ∧ (∀ c t late, i.gl.mode = .waitCtr c t late → t.toNat ≤ have_ c.toNat →
        exec (.acWaitSatisfied g) s =
          .next ((if late then s.bumpField Reg.stepStat 31 16 1 else s).setGlade g.toNat (gone c.toNat t.toNat)))
      ∧ (s.issues g 0x27 →
        let till := i.gl.gpr (i.f 31 27)
        (s.rt < till.toNat → exec (.xcWait g) s = .next (s.setGlade g.toNat
          { i.gl with mode := .waitTime till (BitVec.ofNat 6 (i.f 13 8)) (BitVec.ofNat 16 (i.f 26 14)) }))
        ∧ (till.toNat ≤ s.rt → i.f 26 14 ≤ have_ (i.f 13 8) → exec (.xcWait g) s = .next (met (i.f 13 8) (i.f 26 14)))
        ∧ (till.toNat ≤ s.rt → have_ (i.f 13 8) < i.f 26 14 → exec (.xcWait g) s = .next (s.setGlade g.toNat
          { i.gl with mode := .waitCtr (BitVec.ofNat 6 (i.f 13 8)) (BitVec.ofNat 16 (i.f 26 14)) true })))
      ∧ (∀ till c t, i.gl.mode = .waitTime till c t → till.toNat ≤ s.rt →
        (t.toNat ≤ have_ c.toNat → exec (.xcWaitTimeReached g) s = .next (met c.toNat t.toNat))
        ∧ (have_ c.toNat < t.toNat → exec (.xcWaitTimeReached g) s = .next (s.setGlade g.toNat
          { i.gl with mode := .waitCtr (BitVec.ofNat 6 c.toNat) (BitVec.ofNat 16 t.toNat) true }))))
   ∧ (∀ (s : State) (g c n : Nat),
        let gl := s.glade g
        ((gl.ctr c).toNat + n ≤ 65535 →
          s.countUp g c n = s.setGlade g (gl.setCtr c (BitVec.ofNat 16 ((gl.ctr c).toNat + n))))
        ∧ (65535 < (gl.ctr c).toNat + n →
          s.countUp g c n = ((s.setGlade g (gl.setCtr c 65535)).bump Reg.gldCtro 1).abandonFault gl.plot.toNat
            { cls := 0x07, cause := 0, glade := some g, detail := [BitVec.ofNat 8 c] } false)))
  ∧ (∀ (s : State) (g : BitVec 10),
       let i := s.issueOf g.toNat
       let out := fun (c t : Nat) => ((s.setGlade g.toNat { i.gl with mode := .stopped }).bump Reg.gldWexp 1).abandonFault i.p
         { cls := 0x06, cause := 0, glade := some g.toNat, pc := i.pc,
           detail := leBytes 2 c ++ leBytes 2 t ++ leBytes 4 (i.gl.ctr c).toNat } false
       s.deadline i.gl ≤ s.rt → s.readHeld i.p = false →
         (∀ c t late, i.gl.mode = .waitCtr c t late → (i.gl.ctr c.toNat).toNat < t.toNat →
           exec (.waitExpiry g) s = .next (out c.toNat t.toNat))
         ∧ (∀ till c t, i.gl.mode = .waitTime till c t → s.rt < till.toNat →
           exec (.waitExpiry g) s = .next (out c.toNat t.toNat))
         ∧ (s.issues g 0x28 → i.f 31 12 = 0 → i.gl.fenceWaits (i.f 11 8) = true → exec (.waitExpiry g) s =
           .next (((s.setGlade g.toNat { i.gl with mode := .stopped }).bump Reg.gldWexp 1).abandonFault i.p
             { cls := 0x06, cause := 0, glade := some g.toNat, pc := i.pc, detail := zeroBytes 8 } false)))

/-- ENG.FENCE waits while a queue that it names holds an instruction or, for the transfer queue, a transfer that has not
completed, and then passes, with what those queues wrote visible (R168, R174); ENG.N keeps a count of at most 256 for the next
engine instruction; STEP.END ends the glade's program of the step (R282, R167). -/
def Obligations.FenceCountAndStepEnd : Prop :=
  ∀ (s : State) (g : BitVec 10),
    let i := s.issueOf g.toNat
    (s.issues g 0x28 → i.f 31 12 = 0 →
      ((∀ q, q < 4 → bitOf (i.f 11 8) q = true → i.gl.queueBusy q = false) →
        exec (.engFence g) s = .next (s.put i (i.gl.fenced (i.f 11 8))))
      ∧ (∀ q, q < 4 → bitOf (i.f 11 8) q = true → i.gl.queueBusy q = true → exec (.engFence g) s = .next s))
    ∧ (s.issues g 0x32 → i.f 31 23 = 0 → i.ra.toNat % 65536 ≤ 256 →
      exec (.engN g) s = .next (s.put i { i.gl with engN := some (BitVec.ofNat 16 (i.ra.toNat % 65536)) }))
    ∧ (s.issues g 0x32 → i.f 31 23 = 0 → 256 < i.ra.toNat % 65536 → exec (.engN g) s = .next (s.instrFault i 0x04))
    ∧ (s.issues g 0x30 → i.f 31 8 = 0 →
      exec (.stepEnd g) s = .next (s.setGlade g.toNat { i.gl with pc := i.pc + 4, mode := .ended }))

/-- An instruction fault (R175, R176): the glade stops with the instruction without effect, its queues and transfers going on,
GLD_IFAULT counts, and a class 0x01 record with the glade, its address and its words is raised on a plot that halts. A bad fetch target gives cause 0x06 and an
undefined opcode cause 0x01, whichever command asks (R171). -/
def Obligations.InstructionFaultsStopTheGlade : Prop :=
  (∀ (s : State) (i : Issue) (cause : Nat), (s.plot i.p).run ≠ .abandoned →
    let t := (((s.setGlade i.g { i.gl with mode := .stopped }).bump Reg.gldIfault 1).raise
      { cls := 0x01, cause := cause, plot := some i.p, glade := some i.g, pc := i.pc, detail := leBytes 16 i.w,
        halted := true }).halt i.p
    s.instrFault i cause = t.setGlade i.g { t.glade i.g with
      engine := i.gl.engine, queue := i.gl.queue, transfers := i.gl.transfers })
  ∧ ∀ (s : State) (g : BitVec 10) (c : Instr), c ∈ [Instr.nop g, .addOp g, .ld g, .jal g, .srRd g, .acWait g, .lsAcq g, .thkMm g] →
      s.gladeRuns g.toNat = true →
      let i := s.issueOf g.toNat
      (i.gl.badTarget i.pc = true → exec c s = .next (s.instrFault i 0x06))
      ∧ (i.gl.badTarget i.pc = false → opDefined i.op = false → exec c s = .next (s.instrFault i 0x01))

/-! ### The thicket engine and accumulation

In these statements `i` and `n` are the instruction and its count N as the engines take them (Table 4.9, R282), and nothing
waits in the glade's engine queues; what happens when something does is stated with the queues' order (R90, R172). -/

/-- THK.LDW loads the shadow buffer with a weight tile read from the scratchpad in one of its three forms, TP5, TS or TVQ, when
the buffer is empty, and counts the bank conflicts of its own read; while the buffer is loaded it waits in its queue (R85, R90,
R115, R116, R178). The effect at issue is log entry 6's choice. -/
def Obligations.WeightLoadFillsShadow : Prop :=
  ∀ (s : State) (g : BitVec 10), s.issuesEngine g 0x40 → (s.glade g.toNat).engN = none →
    let i := s.issueOf g.toNat
    let digit := i.f 37 35
    let src := i.f 58 40
    let aux := i.f 82 64
    let filled := fun (gl : Glade) (w : WeightTile) (len : Nat) =>
      ((s.put i { gl with shadow := w, shadowLoaded := true }).pendCount Reg.expStall i.p (readConflicts src len)).bump
        Reg.gldBank (readConflicts src len)
    i.zeros [(31, 27), (39, 38), (63, 59), (127, 83), (15, 8), (23, 16), (24, 24)] = true →
    (i.f 33 32 = 0 → aux = 0 → digit ≤ 4 → src + (digit + 16388) / 5 ≤ 524288 →
      (i.gl.shadowLoaded = true → exec (.thkLdw g) s = .next (s.queued i 1))
      ∧ ∀ ds, i.gl.shadowLoaded = false → tp5Tile (i.gl.read src ((digit + 16388) / 5)) digit = .inr ds →
        exec (.thkLdw g) s = .next (State.engineOn (filled i.gl (.dense (bitOf i.w 34) ds) ((digit + 16388) / 5)) g.toNat))
    ∧ (i.f 33 32 = 1 → s.isaOne i.p = false → digit = 0 → aux = 0 → src + 12288 ≤ 524288 →
      ∀ gs, i.gl.shadowLoaded = false → tsTile (i.gl.read src 12288) = .inr gs →
        exec (.thkLdw g) s = .next (State.engineOn (filled i.gl (.sparse (bitOf i.w 34) gs) 12288) g.toNat))
    ∧ (i.f 33 32 = 2 → s.isaOne i.p = false → digit = 0 → src % 8 = 0 → src + 8 ≤ 524288 → aux + 8 ≤ 524288 →
      i.gl.shadowLoaded = false →
      ∀ book tp raws e, tvqCodebook (i.gl.read aux (tvqCodebookLen (i.gl.read aux 8))) = .inr book →
        tvqTile i.gl.read book 7 src none = .inr (tp, raws, e) → e ≤ 524295 →
        let ds := ((tp.flatMap fun b => (tp5Digits b).getD [0, 0, 0, 0, 0]).take 16384).map (BitVec.ofNat 2)
        let held : HeldCodebook := { addr := aux, width := book.1, entries := book.2, number := 0 }
        exec (.thkLdw g) s = .next (State.engineOn ((filled { i.gl with codebook := some held } (.dense (bitOf i.w 34) ds) (e - src)).pendCount
          Reg.expRaw i.p raws) g.toNat))

/-- THK.MM accumulates the products of N activation rows with the weight tile into N open tiles (R86, R88), or, with bit 33 set,
into the hash-indexed accumulator under its keys (R104); with bit 32 set the shadow buffer becomes the active one first, and
while it is not loaded the instruction waits in its queue (R85). Blocks under a tile's anchor count to the layer of that tile
(R79; log entry 146), those of a discarded vector do not count (log entry 147). The effect at issue is log entry 6's choice. -/
def Obligations.MatrixMultiplyAccumulates : Prop :=
  ∀ (s : State) (g : BitVec 10), s.issuesEngine g 0x41 → (s.engineIssue g).2 ≠ 0 →
    let i := (s.engineIssue g).1
    let n := (s.engineIssue g).2
    let swap := bitOf i.w 32
    let dest := bitOf i.w 33
    let sparse := bitOf i.w 34
    let a : MmArgs := { form := i.aform, base := i.f 58 40, stride := i.f 79 64, nblk := i.f 89 80, j0 := i.f 99 90,
                        keys := i.f 115 100 }
    let w := if swap then i.gl.shadow else i.gl.active
    let vecs := if w.outs = 2 && !dest then n / 2 else n
    let gl := if swap then { i.gl with active := i.gl.shadow, shadow := .zero, shadowLoaded := false } else i.gl
    (s.isaOne i.p = false ∨ (sparse = false ∧ dest = false)) →
    i.zeros [(31, 27), (24, 24), (39, 35), (63, 59), (127, 116)] = true → (dest = true ∨ a.keys = 0) →
    i.t + n ≤ 256 → w.isSparse = sparse → a.j0 + w.blocks ≤ a.nblk →
    a.base + (vecs - 1) * a.stride + rowBytes a.form a.nblk ≤ 524288 → (dest = false ∨ 8 * a.keys + 4 * vecs ≤ 524288) →
    (w.outs ≠ 2 ∨ n % 2 = 0) →
    (swap = true → i.gl.shadowLoaded = false → exec (.thkMm g) s = .next (s.queued i n))
    ∧ ((swap = false ∨ i.gl.shadowLoaded = true) → dest = false →
        i.gl.firstFault i.t n (fun t => t.accFault a.form) = none → i.gl.anyWaits i.t n = false →
        let r := mmTiles a w i.t (List.range vecs) gl []
        exec (.thkMm g) s = .next (State.engineOn (pendUnder i.p r.2 (s.put i r.1)) g.toNat))
    ∧ ((swap = false ∨ i.gl.shadowLoaded = true) → dest = true → ∀ h, gl.hia = some h → h.tags.form.toNat = a.form →
        let r := mmHia a w (List.range vecs) gl 0 0
        r.2.2.2 = false →
        exec (.thkMm g) s =
          .next (State.engineOn (((s.put i r.1).pendLayer i.p h.tags.layer.toNat 0 0 r.2.1).pendCount Reg.accSpill i.p r.2.2.1) g.toNat))

/-- ACC.OPEN gives N free tiles the instruction's tags, ACC.LOAD fills them with lanes from the scratchpad, ACC.SAVE writes the
lanes of N tiles to the scratchpad and closes them on the close bit, ACC.HCFG opens the hash-indexed accumulator over free
tiles and ACC.HDRN drains it, up to the record that would pass its limit, where it faults (R89, R91 to R94, R103 to R105). The
effect at issue is log entry 6's choice, and how long a tile drains log entry 7's. -/
def Obligations.TilesOpenLoadSaveAndDrain : Prop :=
  ∀ (s : State) (g : BitVec 10),
    let i := (s.engineIssue g).1
    let n := (s.engineIssue g).2
    (s.issuesEngine g 0x44 → n ≠ 0 →
      let ordered := bitOf i.w 63
      let stage := i.f 79 64
      let e := i.f 87 80
      (s.isaOne i.p = false ∨ ordered = false) → i.zeros [(31, 27), (24, 24), (127, 88)] = true →
      (ordered = true ∨ (stage = 0 ∧ e = 0)) → i.t + n ≤ 256 → (ordered = false ∨ e ≠ 0) →
      (ordered = false ∨ 8 * stage + n * e * 832 ≤ 524288) → (ordered = false ∨ s.holdsLease i.p 5 i.g = true) →
      i.gl.firstFault i.t n Tile.openFault = none →
      let gl := i.gl.mapTiles i.t (fun j _ => openTile i.gl i.tags ordered i.t j e stage) (List.range n)
      exec (.accOpen g) s = .next (State.engineOn (applyBatches i.g i.t (List.range n) ((s.fence i n i.tags).put i
        { gl with kept := gl.kept.filter fun k => !decide (i.t ≤ k.tile ∧ k.tile < i.t + n) })) g.toNat))
    ∧ (s.issuesEngine g 0x45 → n ≠ 0 → i.zeros [(31, 27), (24, 24), (63, 63), (127, 80)] = true → i.t + n ≤ 256 →
      8 * i.f 79 64 + 768 * n ≤ 524288 → i.gl.firstFault i.t n Tile.openFault = none →
      ∃ load : Nat → Tile → Tile,
        (∀ j x, (load j x).mode = .opened ∧ (load j x).tags = i.tags
          ∧ (load j x).lanes = lanesOf (i.gl.read (8 * i.f 79 64 + 768 * j) 768))
        ∧ exec (.accLoad g) s = .next (State.engineOn ((s.fence i n i.tags).put i (i.gl.mapTiles i.t load (List.range n))) g.toNat))
    ∧ (s.issuesEngine g 0x4E → n ≠ 0 → i.zeros [(31, 27), (127, 48)] = true → i.t + n ≤ 256 →
      8 * i.f 47 32 + 768 * n ≤ 524288 → i.gl.firstFault i.t n Tile.readFault = none → (i.close = false ∨ i.gl.anyWaits i.t n = false) →
      exec (.accSave g) s = .next (State.engineOn (s.put i ((i.gl.writeFor (some 0) none (8 * i.f 47 32)
        ((List.range n).flatMap fun j => (i.gl.tile (i.t + j)).bytes)).mapTiles i.t (fun _ t => t.closed i.close) (List.range n))) g.toNat))
    ∧ (s.issuesEngine g 0x4C → (s.glade g.toNat).engN = none →
      let i := s.issueOf g.toNat
      let k := 4 * 2 ^ i.f 23 16
      s.isaOne i.p = false → i.zeros [(31, 27), (24, 24), (63, 63), (127, 96)] = true → i.f 23 16 ≤ 4 → i.t + k ≤ 256 →
      i.t % k = 0 → i.gl.hia = none → i.gl.firstFault i.t k Tile.openFault = none →
      let h : Hia := { first := i.t, count := k, tags := i.tags, entries := [], spPtr := 8 * i.f 79 64, spLim := 8 * i.f 95 80 }
      exec (.accHcfg g) s = .next (State.engineOn ((s.fence i k i.tags).put i
        { i.gl.mapTiles i.t (fun _ _ => h.fresh) (List.range k) with hia := some h }) g.toNat))
    ∧ (s.issuesEngine g 0x4D → (s.glade g.toNat).engN = none →
      let i := s.issueOf g.toNat
      s.isaOne i.p = false → i.zeros [(31, 27), (24, 24), (127, 32), (15, 8), (23, 16)] = true →
      ∀ h, i.gl.hia = some h →
        let r := drainHia h.spLim ((List.range h.count).filterMap fun k => h.entries.find? fun e => e.tile = h.first + k) i.gl h.spPtr
        (r.2.2 = false → exec (.accHdrn g) s = .next (State.engineOn (s.put i
          { r.1.mapTiles h.first (fun _ _ => Tile.init) (List.range h.count) with hia := none }) g.toNat))
        ∧ (r.2.2 = true → exec (.accHdrn g) s = .next (State.engineOn
          ((s.setGlade i.g { r.1 with hia := some { h with spPtr := r.2.1 } }).abandonFault i.p
            { cls := 0x03, cause := 0, glade := some i.g, pc := i.pc, detail := leBytes 4 r.2.1 } false) g.toNat)))

/-- CHAIN.ADD adds lanes from the scratchpad to N tiles; CHAIN.SEND sends the lanes of N tiles, and ATOM.ADD their ordered
contributions, to another glade, and both close the tiles on the close bit; an arriving contribution of the current attempt is
added, or refused with a cause, and what waited for its tile goes on (R95 to R97, R184). The effect at issue is log entry 6's choice. -/
def Obligations.ChainsAndContributions : Prop :=
  ∀ (s : State) (g : BitVec 10),
    let i := (s.engineIssue g).1
    let n := (s.engineIssue g).2
    (s.issuesEngine g 0x48 → n ≠ 0 → i.zeros [(31, 27), (24, 24), (127, 48)] = true → i.t + n ≤ 256 →
      8 * i.f 47 32 + 768 * n ≤ 524288 → i.gl.firstFault i.t n (fun t => t.accFault i.aform) = none →
      i.gl.anyWaits i.t n = false →
      exec (.chainAdd g) s = .next (State.engineOn (s.put i (i.gl.mapTiles i.t
        (fun j t => t.update ((lanesOf (i.gl.read (8 * i.f 47 32 + 768 * j) 768)).map laneUpdate)) (List.range n))) g.toNat))
    ∧ (s.issuesEngine g 0x49 → n ≠ 0 → i.zeros [(31, 27), (127, 64)] = true → i.t + n ≤ 256 → i.f 63 58 < 62 →
      8 * i.f 57 42 + 768 * n ≤ 524288 → i.gl.firstFault i.t n Tile.readFault = none → (i.close = false ∨ i.gl.anyWaits i.t n = false) →
      exec (.chainSend g) s = .next (State.engineOn (sendTiles
        (fun j => (s.routeFrom i i.dest (i.f 57 42 + 96 * j) (i.f 63 58) 768 0, (i.gl.tile (i.t + j)).bytes)) (List.range n)
        (s.put i (i.gl.mapTiles i.t (fun _ t => t.closed i.close) (List.range n)))) g.toNat))
    ∧ (s.issuesEngine g 0x4A → n ≠ 0 → i.zeros [(31, 27), (57, 42), (127, 72)] = true → i.t + n ≤ 256 → i.f 71 64 + n ≤ 256 →
      i.f 63 58 < 62 → i.gl.firstFault i.t n Tile.readFault = none → (i.close = false ∨ i.gl.anyWaits i.t n = false) →
      exec (.atomAdd g) s = .next (State.engineOn (sendTiles
        (fun j => (s.routeFrom i i.dest (i.f 71 64 + j) (i.f 63 58) 832 1, contribution i.g (i.gl.seq.toNat + j) (i.gl.tile (i.t + j))))
        (List.range n) (s.put i { i.gl.mapTiles i.t (fun _ t => t.closed i.close) (List.range n) with
          seq := i.gl.seq + BitVec.ofNat 32 n })) g.toNat))
    ∧ ∀ (src : BitVec 10) m s1, s.takeMsg src.toNat g.toNat = some (m, s1) →
      let r := routeOf m.route
      r.kind = 1 → (s1.plot r.plot).tag.toNat = r.attempt →
      (s1.refusalCause r.dst ((s1.glade r.dst).permits r.plot) r.ctr = none →
        exec (.atomicContributionArrival src g) s =
          .next ((s1.contribute r.dst (r.addr % 256) m.bytes r.ctr r.plot m.rank).engineOn r.dst))
      ∧ ∀ c, s1.refusalCause r.dst ((s1.glade r.dst).permits r.plot) r.ctr = some c →
        exec (.atomicContributionArrival src g) s = .next (s1.refuse r m.route c)

/-- OUT converts the lanes of N tiles to rows of the output form by its descriptor, and writes or sends them (R107, R108). The
effect at issue is log entry 6's choice. -/
def Obligations.OutWritesRows : Prop :=
  ∀ (s : State) (g : BitVec 10), s.issuesEngine g 0x50 → (s.engineIssue g).2 ≠ 0 →
    let i := (s.engineIssue g).1
    let n := (s.engineIssue g).2
    let row0 := i.f 55 48
    let o := outDesc (i.gl.read (8 * i.f 47 32) 32)
    i.zeros [(31, 27), (127, 56)] = true → i.t + n ≤ 256 → 8 * i.f 47 32 + 32 ≤ 524288 → o.reserved = false → o.fuse ≠ 3 →
    (o.remote = false ∨ o.ctr < 62) → o.j0 + 4 ≤ o.nblk →
    8 * (o.dstBase + (row0 + n - 1) * o.dstStride) + rowBytes o.oform o.nblk ≤ 524288 → 8 * o.rAddr + 256 ≤ 524288 →
    (o.fuse = 0 ∨ 8 * (o.opBase + (row0 + n - 1) * o.opStride) + rowBytes o.opForm o.nblk ≤ 524288) →
    i.gl.firstFault i.t n Tile.readFault = none → (i.close = false ∨ i.gl.anyWaits i.t n = false) →
    exec (.outTile g) s = .next (State.engineOn (outRows i o row0 (List.range n) (s.put i i.gl)) g.toNat)

/-- GRF.UPD trains the graft of its plot with N units of the ternary pair that the current copy does not name, from the lanes of N
tiles, which it closes on the close bit; with the hold bit, GRF_UPD_HOLD, it copies the units instead and reads no tile (R130
to R137). Each of the two commands leaves the other's instruction alone. The effect at issue is log entry 6's choice; the
generation read is log entry 35's. -/
def Obligations.GraftUpdateTrainsOrHolds : Prop :=
  ∀ (s : State) (g : BitVec 10), s.issuesEngine g 0x52 → (s.engineIssue g).2 ≠ 0 →
    let i := (s.engineIssue g).1
    let n := (s.engineIssue g).2
    let q0 := i.f 63 48
    let d := grfDesc (i.gl.read (8 * i.f 47 32) 32)
    let e := d.ends (q0 + n)
    let lane := fun (j l : Nat) => (i.gl.tile (i.t + j)).lane l
    s.isaOne i.p = false → i.zeros [(31, 25), (127, 65)] = true → 8 * i.f 47 32 + 32 ≤ 524288 → d.reserved = false →
    d.gform ≤ 1 → d.kLr ≤ 47 → d.theta ≠ 0 → q0 + n ≤ d.units →
    (∀ k, k < 2 → d.shadow k + e.1 ≤ 524288 ∧ d.tern k + e.2 ≤ 524288) →
    (bitOf i.w 64 = false → exec (.grfUpdHold g) s = .next s ∧
      (i.t + n ≤ 256 → i.gl.firstFault i.t n Tile.readFault = none → (i.close = false ∨ i.gl.anyWaits i.t n = false) →
        ∀ r, grfUnits d (s.currentCopy i.p) q0 lane false (List.range n) i.gl = .inr r →
        exec (.grfUpd g) s = .next (State.engineOn (((((s.put i (r.1.mapTiles i.t (fun _ t => t.closed i.close) (List.range n))).pendCount
          Reg.grfUpd i.p n).pendCount Reg.grfFlip i.p r.2.1).pendCount Reg.grfSkip i.p r.2.2.1).pendCount Reg.grfClamp i.p
          r.2.2.2) g.toNat)))
    ∧ (bitOf i.w 64 = true → exec (.grfUpd g) s = .next s ∧
      (i.t = 0 → i.close = false → ∀ r, grfUnits d (s.currentCopy i.p) q0 lane true (List.range n) i.gl = .inr r →
        exec (.grfUpdHold g) s = .next (State.engineOn (s.put i r.1) g.toNat)))

/-! ### Products and the bole -/

/-- SPU.EW accumulates element-wise products of rows into tiles, SPU.OP outer products into eight tiles, and SPU.GM outer products
under the two-bit masks of a ternary matrix (R140 to R154). The effect at issue is log entry 6's choice. -/
def Obligations.ScalarProductsAccumulate : Prop :=
  ∀ (s : State) (g : BitVec 10), (s.engineIssue g).2 ≠ 0 →
    let i := (s.engineIssue g).1
    let n := (s.engineIssue g).2
    let d := i.spuDesc
    let pset := s.psetOf i.p d
    (s.issuesEngine g 0x58 →
      let w := i.f 108 106 + 1
      spuReady i d (n / w) (128 * w - 1) (128 * w - 1) → i.f 124 109 = 0 → n % w = 0 → i.t + n ≤ 256 →
      i.gl.firstFault i.t n (fun t => t.accFault i.aform) = none → i.gl.anyWaits i.t n = false →
      let r := ewRows d pset w i.t (i.f 66 48) (i.f 85 67) (i.f 95 86) (i.f 105 96) (List.range (n / w)) i.gl (i.spuStart d)
      exec (.spuEw g) s = .next (State.engineOn ((s.put i (r.1.setGens pset d r.2)).spuCounts i d (n / w) r.2) g.toNat))
    ∧ (i.t ≤ 248 → i.gl.firstFault i.t 8 (fun t => t.accFault i.aform) = none → i.gl.anyWaits i.t 8 = false →
      let out := fun (k : SpuKind) =>
        let st := opRows i.gl.read d pset k (i.f 66 48) (i.f 85 67) (i.f 95 86) (i.f 105 96) (List.range n) (i.spuStart d)
        (s.put i ((i.gl.mapTiles i.t (fun j x => x.addRegs st.regs j) (List.range 8)).setGens pset d st)).spuCounts i d n st
      (s.issuesEngine g 0x59 → spuReady i d n (8 * i.f 108 106 + 7) 127 → i.f 124 109 = 0 →
        exec (.spuOp g) s = .next (State.engineOn (out (.op (i.f 108 106))) g.toNat))
      ∧ (s.issuesEngine g 0x5A → s.isaOne i.p = false → spuReady i d n 255 (8 * i.f 108 106 + 7) →
        8 * i.f 124 109 + 3072 ≤ 524288 → ∀ ms, gmMasks i.gl.read (8 * i.f 124 109) = .inr ms →
        exec (.spuGm g) s = .next (State.engineOn (out (.gm (i.f 108 106) ms)) g.toNat)))

/-- BOLE.LDW fills the bole's shadow weight buffer, and waits in its queue while it is loaded; BOLE.MM and BOLE.EW accumulate into bole rows,
BOLE.OUT writes rows out, and BOLE.SELW writes the selection lists of rows and ends them; each counts one bole operation, and
runs on its grove's bole master alone: any other glade's raises cause 0x08 (R157 to R164). The effect at issue is log entry
6's choice, and the place of a row's bytes log entry 36's reading. -/
def Obligations.BoleInstructionsRun : Prop :=
  ∀ (s : State) (g : BitVec 10),
    let i := (s.engineIssue g).1
    let n := (s.engineIssue g).2
    let gv := groveOf g.toNat
    let b := (s.grove gv).bole
    n ≠ 0 →
    (s.boleMaster gv ≠ some g.toNat → ∀ c op rsv, (c, op, rsv) ∈ [(Instr.boleMm g, 0x61, [(127, 96)]),
        (.boleEw g, 0x62, [(127, 119)]), (.boleOut g, 0x63, [(26, 25), (127, 65)]), (.boleSelw g, 0x64, [(26, 25), (127, 60)])] →
      s.issues g op → i.zeros ([(15, 8), (24, 24), (31, 27)] ++ rsv) = true → exec c s = .next (State.engineOn (s.instrFault i 0x08) g.toNat))
    ∧ (s.boleMaster gv = some g.toNat →
    (s.issuesEngine g 0x60 → (s.glade g.toNat).engN = none →
      i.zeros [(15, 8), (24, 24), (31, 27), (23, 16), (26, 25), (127, 95)] = true →
      i.f 56 38 + 255 * i.f 72 57 + 256 ≤ 524288 →
      (b.shadowLoaded = true → exec (.boleLdw g) s = .next (s.queued i 1))
      ∧ (b.shadowLoaded = false → exec (.boleLdw g) s = .next (State.engineOn (s.boleDone i gv { b with
          shadow := { weights := (List.range 256).flatMap fun o =>
                        (s.glade (gladeAt gv (i.f 37 32))).read (i.f 56 38 + o * i.f 72 57) 256, ch0 := i.f 94 73 },
          shadowLoaded := true }) g.toNat)))
    ∧ (s.issuesEngine g 0x61 →
      let d := layerDesc (i.gl.read (8 * i.f 95 80) 32)
      let row0 := i.f 79 71
      let b0 := if bitOf i.w 32 then { b with active := b.shadow, shadow := .zero, shadowLoaded := false } else b
      i.zeros [(15, 8), (24, 24), (31, 27), (127, 96)] = true → 8 * i.f 95 80 + 32 ≤ 524288 →
      (∀ c ∈ d.faults, c.1 = false) → i.aform = d.xform → (bitOf i.w 35 = false ∨ bitOf i.w 34 = true) → row0 + n ≤ 512 →
      i.f 70 61 + 8 ≤ d.xNblk → i.f 60 42 + (n - 1) * d.xStride + rowBytes d.xform d.xNblk ≤ 524288 →
      (bitOf i.w 35 = false ∨ b.selBad d.selK row0 n = false) → (bitOf i.w 32 = false ∨ b.shadowLoaded = true) →
      b0.firstFault d.boleTags (bitOf i.w 33) row0 n = none →
      let r := boleMmRows (s.glade (gladeAt gv (i.f 41 36))).read d (bitOf i.w 33) (i.f 60 42) (i.f 70 61) row0 (List.range n) b0 0
      let b1 := if bitOf i.w 35 then boleSelect d.selK row0 (List.range n) r.1 else r.1
      exec (.boleMm g) s = .next (State.engineOn ((s.boleDone i gv b1).pendLayer i.p d.layer 0 0 r.2) g.toNat))
    ∧ (s.issuesEngine g 0x62 →
      let d := layerDesc (i.gl.read (8 * i.f 117 102) 32)
      let row0 := i.f 100 92
      i.zeros [(15, 8), (24, 24), (31, 27), (127, 119)] = true → 8 * i.f 117 102 + 32 ≤ 524288 →
      (∀ c ∈ d.faults, c.1 = false) → i.aform = d.xform → row0 + n ≤ 512 → i.f 91 82 + 8 ≤ d.xNblk → i.f 91 82 + 8 ≤ d.yNblk →
      i.f 56 38 + (n - 1) * d.xStride + (if bitOf i.w 118 then 32 * d.xNblk else rowBytes d.xform d.xNblk) ≤ 524288 →
      i.f 81 63 + (n - 1) * d.yStride + rowBytes d.yform d.yNblk ≤ 524288 →
      b.firstFault d.boleTags (bitOf i.w 101) row0 n = none →
      let r := boleEwRows (s.glade (gladeAt gv (i.f 37 32))).read (s.glade (gladeAt gv (i.f 62 57))).read d (bitOf i.w 101)
        (bitOf i.w 118) (i.f 56 38) (i.f 81 63) (i.f 91 82) row0 (List.range n) b 0
      exec (.boleEw g) s = .next (State.engineOn ((s.boleDone i gv r.1).pendLayer i.p d.layer 0 0 r.2) g.toNat))
    ∧ (s.issuesEngine g 0x63 →
      let o := outDesc (i.gl.read (8 * i.f 56 41) 32)
      let row0 := i.f 40 32
      let row := i.f 64 57 + n - 1
      i.zeros [(15, 8), (24, 24), (31, 27), (26, 25), (127, 65)] = true → row0 + n ≤ 512 → 8 * i.f 56 41 + 32 ≤ 524288 →
      o.reserved = false → o.fuse ≠ 3 → (o.remote = false ∨ o.ctr < 62) → o.j0 + 8 ≤ o.nblk →
      8 * (o.dstBase + row * o.dstStride) + rowBytes o.oform o.nblk ≤ 524288 → 8 * o.rAddr + 512 ≤ 524288 →
      (o.fuse = 0 ∨ 8 * (o.opBase + row * o.opStride) + rowBytes o.opForm o.nblk ≤ 524288) →
      (∀ j, j < n → (b.row (row0 + j)).isSome = true) →
      exec (.boleOut g) s = .next (State.engineOn (boleOutRows i o gv row0 (i.f 64 57) (List.range n) (s.boleDone i gv b)) g.toNat))
    ∧ (s.issuesEngine g 0x64 →
      let row0 := i.f 40 32
      let bytes := (List.range n).flatMap fun j => ((mget none b.sels (row0 + j)).map SelList.records).getD []
      i.zeros [(15, 8), (24, 24), (31, 27), (26, 25), (127, 60)] = true → row0 + n ≤ 512 → i.f 59 41 + bytes.length ≤ 524288 →
      let s1 := s.boleDone i gv { b with sels := b.sels.filter fun e => !decide (row0 ≤ e.1 ∧ e.1 < row0 + n) }
      exec (.boleSelw g) s = .next (State.engineOn (s1.setGlade g.toNat ((s1.glade g.toNat).writeFor (some 3) none (i.f 59 41) bytes)) g.toNat)))

/-! ### Leases -/

/-- LS.ACQ, LS.REN and LS.REL answer their code in gp[d] (R192, R193), after the expiry of the resource's own lease if its time has
come (R451): 0 grants, renews or releases; 2 says that 256 leases are held, 3 that the plot may not have the resource, 4 that its hold of a
lease that nobody holds since ended by expiry or revocation, 5 that it does not hold it otherwise; a request for a lease of another plot waits, and LEASE_BUSY counts.

The lease unit grants a free lease to the first request that waits for it (R194), withdraws a request at its deadline with
code 1 (R192), ends a lease at its expiry with LEASE_EXP counted (R194), and revokes a lease, or every lease of a plot, for
the Ranger, with LEASE_RVK counted and a class 0x05 record of cause 3 (R450, R451). The answered glade goes on. Which request
a grant answers is log entry 37's reading, what a revocation's record holds log entry 39's. -/
def Obligations.LeasesAreAskedGrantedAndEnded : Prop :=
  (∀ (s : State) (g : BitVec 10),
     let i := s.issueOf g.toNat
     let u := s.expireFirst i.res
     let j := u.issueOf g.toNat
     let answer := fun (t : State) (code : DWord) => t.put j ({ j.gl with mode := .running }.setGpr j.d code)
     let may := u.classPermitted i.p i.res && u.slotPermitted i.p i.res
     let ask : LeaseWait := { glade := g, plot := i.gl.plot, res := i.res, dur := i.rb,
                              deadline := BitVec.ofNat 64 (u.deadline i.gl) }
     let wait := { u.setGlade g.toNat { j.gl with mode := .waitLease (BitVec.ofNat 5 i.d) } with
                   lease := { u.lease with waiting := u.lease.waiting ++ [ask] } }
     u.gladeRuns g.toNat = true → i.f 31 23 = 0 →
     (s.issues g 0x2C →
       (may = false → exec (.lsAcq g) s = .next (answer u 3))
       ∧ (may = true → u.lease.find i.res = none →
         (256 ≤ u.lease.held.length → exec (.lsAcq g) s = .next (answer u 2))
         ∧ (u.lease.held.length < 256 → (∃ w ∈ u.lease.waiting, w.res = i.res) → exec (.lsAcq g) s = .next wait)
         ∧ (u.lease.held.length < 256 → (∀ w ∈ u.lease.waiting, w.res ≠ i.res) →
           exec (.lsAcq g) s =
             .next (answer { u with lease := u.lease.grant i.res i.gl.plot (u.ringCount + i.rb) } 0)))
       ∧ ∀ l, may = true → u.lease.find i.res = some l →
         (l.plot.toNat = i.p → exec (.lsAcq g) s = .next (answer u 0))
         ∧ (l.plot.toNat ≠ i.p → exec (.lsAcq g) s = .next (wait.bump Reg.leaseBusy 1)))
     ∧ (∀ l, u.lease.find i.res = some l →
       (s.issues g 0x2D → l.plot.toNat = i.p → exec (.lsRen g) s = .next (answer { u with lease := { u.lease with
           held := u.lease.held.map fun l => if l.res = i.res then { l with expiry := u.ringCount + i.rb } else l } } 0))
       ∧ (s.issues g 0x2D → l.plot.toNat ≠ i.p → exec (.lsRen g) s = .next (answer u 5))
       ∧ (s.issues g 0x2E → l.plot.toNat = i.p →
         exec (.lsRel g) s = .next (answer { u with lease := { u.lease with
           held := u.lease.held.filter fun l => l.res ≠ i.res
           last := { res := i.res, plot := l.plot, lapsed := false, revoked := false }
                     :: u.lease.last.filter fun l => l.res ≠ i.res } } 0))
       ∧ (s.issues g 0x2E → l.plot.toNat ≠ i.p → exec (.lsRel g) s = .next (answer u 5)))
     ∧ (u.lease.find i.res = none →
       (s.issues g 0x2E → exec (.lsRel g) s = .next (answer u 5))
       ∧ (s.issues g 0x2D → exec (.lsRen g) s = .next (answer u
           (if ∃ l, u.lease.last.find? (fun l => l.res = i.res) = some l ∧ l.plot.toNat = i.p ∧ (l.lapsed ∨ l.revoked) then 4 else 5)))))
  ∧ (∀ (s : State),
       let go := fun (t : State) (w : LeaseWait) (code : DWord) =>
         t.put (t.issueOf w.glade.toNat) ({ (t.issueOf w.glade.toNat).gl with mode := .running }.setGpr (t.issueOf w.glade.toNat).d code)
       let ended := fun (l : Lease) (lapsed revoked : Bool) =>
         { s with lease := { s.lease with
             held := s.lease.held.filter fun e => e.res ≠ l.res
             last := { res := l.res, plot := l.plot, lapsed, revoked } :: s.lease.last.filter fun e => e.res ≠ l.res } }
       let revoked := fun (l : Lease) =>
         (((ended l false true).bump Reg.leaseRvk 1).raise
           { cls := 0x05, cause := 3, plot := some l.plot.toNat, detail := leBytes 4 l.res.toNat }).leaseEnds l 3
       (∀ res w d, s.lease.find res = none → s.lease.held.length < 256 →
         s.lease.waiting.find? (fun w => w.res = res) = some w → (s.glade w.glade.toNat).mode = .waitLease d →
         let t := { s with lease := { s.lease with
           held := s.lease.held ++ [{ res, plot := w.plot, expiry := s.ringCount + w.dur }]
           waiting := s.lease.waiting.erase w
           last := s.lease.last.filter fun e => e.res ≠ res } }
         exec (.leaseGrant res) s = .next (go t w 0))
       ∧ (∀ g w d, s.lease.waiting.find? (fun w => w.glade = g) = some w → w.deadline.toNat ≤ s.rt →
         (s.glade g.toNat).mode = .waitLease d →
         exec (.leaseRequestTimeout g) s = .next (go { s with lease := { s.lease with waiting := s.lease.waiting.erase w } } w 1))
       ∧ (∀ res l, s.lease.find res = some l →
         (l.expiry.toNat ≤ s.rt →
           exec (.leaseExpiry res) s = .next (((ended l true false).bump Reg.leaseExp 1).leaseEnds l 2))
         ∧ exec (.leaseRevoke res) s = .next (revoked l))
       ∧ ∀ data : BitVec 32,
         (s.lease.held.filter (fun l => l.plot.toNat = data.toNat % 64) = [] → exec (.leaseRevokePlot data) s = .next s)
         ∧ ∀ l ls, s.lease.held.filter (fun l => l.plot.toNat = data.toNat % 64) = l :: ls →
           ∃ t, exec (.leaseRevokePlot data) s = .next t ∧ t = revokeEach ls (revoked l))

/-! ### The transfer queue and the mesh -/

/-- MSG.SEND, MEM.RD, MEM.WR and FAB.SEND start at once when the transfer queue is empty (R172, R174): a message enters the mesh
(R186), a transfer opens with its data for a write and its accesses counted for a read (R173), and a fabric message is built,
kept and launched, and its counter counts one, but a source in the device range is read by a transfer first (R64, R333, R336). The
starting at once is log entry 31's reading. What a fabric send tests and in which order is log entry 47's. -/
def Obligations.TransferInstructionsStart : Prop :=
  ∀ (s : State) (g : BitVec 10),
    let i := s.issueOf g.toNat
    let t := s.setGlade g.toNat (i.gl.step i)
    let plot := s.plot i.p
    s.tablesOk → i.gl.queue = [] →
    (s.issues g 0x84 → i.f 39 34 < 62 → 8 * i.f 63 48 + 64 * (i.f 47 40 + 1) ≤ 524288 →
      let r : Route := { dst := i.f 12 8 + 32 * i.f 17 13, addr := i.f 33 18, ctr := i.f 39 34, nflit := i.f 47 40, kind := 0,
                         src := g.toNat, plot := i.p, attempt := plot.tag.toNat }
      exec (.msgSend g) s = .next { t with mesh := s.mesh ++
        [{ route := r.word, bytes := i.gl.read (8 * i.f 63 48) (64 * (i.f 47 40 + 1)), rank := none, extra := [] }] })
    ∧ (let spa := 8 * i.f 23 8
      let len := 64 * (i.f 36 24 + 1)
      let addr := (i.gl.gpr (i.f 49 45)).toNat
      let table := (i.gl.gpr (i.f 54 50)).toNat
      let chk := i.f 44 43
      let opened := fun (write : Bool) => s.setGlade g.toNat { i.gl.step i with transfers := i.gl.transfers ++
        [{ write, spa, len, ctr := BitVec.ofNat 6 (i.f 42 37), chk := BitVec.ofNat 2 chk, addr, table,
           data := if write then i.gl.read spa len else [], pc := i.pc, good := [], waiting := [],
           send := none, slots := [] }] }
      let tb := if chk = 1 then 4 * ceilDiv len 16384 else if chk = 2 then 4 * ceilDiv len 12288 else 0
      i.f 63 55 = 0 → i.f 42 37 < 62 → spa % 64 = 0 → spa + len ≤ 524288 → addr % 64 = 0 →
      (chk = 1 ∨ chk = 2 ∨ i.f 54 50 = 0) →
      (s.issues g 0x88 → (chk < 2 ∨ s.isaOne i.p = false) → s.mayRead i.p addr len = true →
        (tb = 0 ∨ s.mayRead i.p table tb = true) →
        exec (.memRd g) s = .next (if tb = 0 then (opened false).touchReadOn (dieOf g.toNat) addr len
          else ((opened false).touchReadOn (dieOf g.toNat) addr len).touchReadOn (dieOf g.toNat) table tb))
      ∧ (s.issues g 0x89 → chk ≠ 3 → s.mayWrite i.p addr len = true → (tb = 0 ∨ s.mayWrite i.p table tb = true) →
        s.leaseMissing i.p addr len = none → (tb = 0 ∨ s.leaseMissing i.p table tb = none) →
        exec (.memWr g) s = .next (opened true)))
    ∧ (s.issues g 0x8C → i.f 63 30 = 0 →
      let bs := i.gl.read (8 * i.f 23 8) 32
      let d := fabDesc bs
      let sh := if d.elided then t.pickForm d.plen else (none, t)
      let src := i.gl.read d.saddr d.plen
      let tstep := (s.step.num.toNat + natOfBool d.next) % 65536
      8 * i.f 23 8 + 32 ≤ 524288 → d.reserved = false → d.cls ≠ 2 → d.plen ≠ 0 → d.plen ≤ 65536 → i.f 29 24 < 62 →
      d.dctr < 62 → s.holdsLease i.p 4 d.xslot = true →
      (d.dsrc = true → s.mayRead i.p d.saddr d.plen = true) → (d.dsrc = false → d.saddr + d.plen ≤ 524288) →
      (d.elided = true → ∃ x, sh.1 = some x ∧ x.2 ≤ 1023) →
      (d.dsrc = false → (d.chk = 1 ∨ d.chk = 2) → payloadGood d.chk src = true) →
      ∀ port, s.routeTo d.dst = .inr port →
      (∀ p, port = some p → (s.port p).ver = 1 → d.chk < 2 ∧ d.elided = false) →
      let body := match sh.1 with
        | some x => elide src x.1 x.2 d.eFill
        | none => fabPayload d g.toNat i.gl.seq.toNat src
      let u := if d.cls = 3 then sh.2.setGlade g.toNat { sh.2.glade g.toNat with seq := i.gl.seq + 1 } else sh.2
      let kept : KeptSend := { dst := d.dst, desc := bs, xslot := BitVec.ofNat 8 d.xslot, mslot := BitVec.ofNat 12 d.mslot,
                               tstep := BitVec.ofNat 16 tstep, glade := g, plot := BitVec.ofNat 6 i.p, resent := false,
                               seq := i.gl.seq, shape := sh.1 }
      exec (.fabSend g) s = .next (drainQueue g.toNat 15
        (if d.dsrc then
          (u.addTransfer g.toNat
            { write := false, spa := 8 * i.f 23 8, len := d.plen, ctr := BitVec.ofNat 6 (i.f 29 24), chk := BitVec.ofNat 2 d.chk,
              addr := d.saddr, table := 0, data := [], pc := i.pc, good := [], waiting := [], send := some kept,
              slots := [] }).touchReadOn (dieOf g.toNat) d.saddr d.plen
        else ((u.keepSend kept).launch port (u.fabBuild d g.toNat i.p tstep body)).countUp g.toNat (i.f 29 24) 1)))

/-- Behind an instruction that a unit outside has yet to accept, a transfer instruction enters the queue of up to 16 and waits; a
canopy, routing or scout instruction enters it in every case, with its count of rows for the canopy (R172, R174, R224, R261).
A full queue stalls the instruction. Log entry 31's reading.

An engine instruction issues at once unless one that waits holds its unit or names a tile of its own, or its own effect has to
wait; then it takes an entry of its queue and the glade goes on, and stalls only while that queue is full (R90, R138, R172). With
nothing waiting, nothing follows a change; a waiting instruction issues as soon as it can. Log entry 6's reading. -/
def Obligations.TransferQueueKeepsOrder : Prop :=
  (∀ (s : State) (g : BitVec 10),
    let i := (s.engineIssue g).1
    let n := (s.engineIssue g).2
    let entry : QueuedInstr :=
      { pc := i.pc, op := BitVec.ofNat 8 i.op, words := BitVec.ofNat 128 i.w, args := [BitVec.ofNat 64 n] }
    n ≠ 0 → ∀ c op ok, (c, op, ok) ∈ [(Instr.thkLdw g, 0x40, true), (.thkMm g, 0x41, true), (.accOpen g, 0x44, true),
        (.accLoad g, 0x45, true), (.chainAdd g, 0x48, true), (.chainSend g, 0x49, true), (.atomAdd g, 0x4A, true),
        (.accHcfg g, 0x4C, true), (.accHdrn g, 0x4D, true), (.accSave g, 0x4E, true), (.outTile g, 0x50, true),
        (.grfUpd g, 0x52, !bitOf i.w 64), (.grfUpdHold g, 0x52, bitOf i.w 64), (.spuEw g, 0x58, true), (.spuOp g, 0x59, true),
        (.spuGm g, 0x5A, true), (.boleLdw g, 0x60, true), (.boleMm g, 0x61, true), (.boleEw g, 0x62, true),
        (.boleOut g, 0x63, true), (.boleSelw g, 0x64, true)] →
      ok = true → s.issues g op → (countOp op = true ∨ (s.glade g.toNat).engN = none) →
      ((i.gl.engine.any (s.waitsFor i n) = true ∨ engineOp op i n s = none) →
        (queueFull i.gl op = false → exec c s = .next (s.put i { i.gl with engine := i.gl.engine ++ [entry] }))
        ∧ (queueFull i.gl op = true → exec c s = .next s))
      ∧ ∀ t, i.gl.engine.any (s.waitsFor i n) = false → engineOp op i n s = some t → exec c s = .next (t.engineOn g.toNat))
  ∧ (∀ (s : State) (g : Nat),
      ((s.glade g).engine = [] → s.engineOn g = s)
      ∧ ∀ q, (s.glade g).engine = [q] →
        let t := s.setGlade g { s.glade g with engine := [] }
        let i := t.requeue g q
        (engineOp i.op i (q.arg 0) t = none → s.engineOn g = s)
        ∧ ∀ u, engineOp i.op i (q.arg 0) t = some u → (u.glade g).mode ≠ .stopped → s.engineOn g = u)
  ∧ ∀ (s : State) (g : BitVec 10), s.tablesOk →
    let enters := fun (i : Issue) (op : Nat) (args : List DWord) =>
      s.setGlade g.toNat { i.gl.step i with queue := i.gl.queue ++
        [{ pc := i.pc, op := BitVec.ofNat 8 op, words := BitVec.ofNat 128 i.w, args }] }
    (∀ q qs, (s.glade g.toNat).queue = q :: qs → outsideOp q.op = true →
      let i := s.issueOf g.toNat
      (s.issues g 0x84 → i.f 39 34 < 62 → 8 * i.f 63 48 + 64 * (i.f 47 40 + 1) ≤ 524288 →
        (i.gl.queue.length < 16 → exec (.msgSend g) s = .next (enters i 0x84 []))
        ∧ (16 ≤ i.gl.queue.length → exec (.msgSend g) s = .next s))
      ∧ (s.issues g 0x8C → i.f 63 30 = 0 →
        (i.gl.queue.length < 16 → exec (.fabSend g) s = .next (enters i 0x8C []))
        ∧ (16 ≤ i.gl.queue.length → exec (.fabSend g) s = .next s)))
    ∧ ((∀ q qs, (s.glade g.toNat).queue = q :: qs → outsideOp q.op = true) →
      (let i := (s.engineIssue g).1
      let n := (s.engineIssue g).2
      n ≠ 0 → i.gl.queue.length < 16 → i.zeros [(31, 27), (15, 8), (24, 24)] = true → 8 * i.f 47 32 + 32 ≤ 524288 →
      (s.issues g 0x68 → i.f 26 25 = 0 → i.f 127 122 < 62 → s.bcast + 32 + 24 * (i.f 121 108 + n) ≤ 524288 →
        exec (.cnpApp .issue g) s = .next (enters i 0x68 [BitVec.ofNat 64 n]))
      ∧ (s.issues g 0x69 → i.f 127 94 = 0 → 8 * i.f 63 48 + 32 ≤ 524288 → 8 * i.f 79 64 + 32 ≤ 524288 →
        s.bcast + 32 + 24 * (i.f 93 80 + n) ≤ 524288 →
        exec (.cnpAtt .issue g) s = .next (enters i 0x69 [BitVec.ofNat 64 n])))
      ∧ (let i := s.issueOf g.toNat
      i.gl.engN = none → i.gl.queue.length < 16 → i.zeros [(15, 8), (23, 16), (24, 24), (31, 27)] = true →
      (i.f 127 76 = 0 → i.f 75 70 < 62 → 8 * i.f 47 32 + 64 ≤ 524288 →
        (s.issues g 0x6C → exec (.rteRoute .issue g) s = .next (enters i 0x6C []))
        ∧ (i.f 26 25 = 0 → i.f 69 48 = 0 →
          (s.issues g 0x6D → exec (.rteSend .issue g) s = .next (enters i 0x6D []))
          ∧ (s.issues g 0x6E → exec (.rteRet .issue g) s = .next (enters i 0x6E []))))
      ∧ (i.f 127 62 = 0 → i.f 61 56 < 62 → 8 * i.f 47 32 + 48 ≤ 524288 →
        (s.issues g 0x70 → exec (.sctMask .issue g) s = .next (enters i 0x70 []))
        ∧ (i.f 26 25 = 0 → s.issues g 0x71 → exec (.sctAud .issue g) s = .next (enters i 0x71 [])))))

/-- The reads and writes of a glade complete: a read's bytes, from where its granules stood when it was translated (R314), reach the
scratchpad, a write's bytes, with the check values that its gen field asks for, reach the memory, and the counter counts one
(R173, R305, R306); a FAB.SEND that read its payload sends it (R333). A read of a unit that came poisoned twice is a memory data
fault (R308), one of a granule that no slot holds too (R315), and a write to a block under repair waits (R322). What counts in
MEM_UE is log entry 105's reading, the look-aside misses log entry 106's free values. -/
def Obligations.TransfersComplete : Prop :=
  ∀ (s : State) (g : BitVec 10) (k : Nat) (t : Transfer) (bad again : List Nat),
    let gl := s.glade g.toNat
    let rest := { gl with transfers := gl.transfers.eraseIdx k }
    let bs := (s.memOf t).read t.addr t.len
    let got := rest.writeFor (some 2) (some t.ctr) t.spa bs
    s.tablesOk → gl.transfers[k]? = some t →
    (t.write = false → t.waiting = [] → s.joinsFor t = [] →
      (∀ a, s.unmappedUnit t.addr t.len = some a → t.send = none →
        exec (.memRdComplete g k bad again) s = .next (s.memoryFault g.toNat t.pc a))
      ∧ (s.unmappedUnit t.addr t.len = none →
        (t.chk = 0 → (∀ j ∈ bad ++ again, t.len ≤ 64 * j) →
          (t.send = none →
            exec (.memRdComplete g k bad again) s = .next ((s.setGlade g.toNat got).countUp g.toNat t.ctr.toNat 1))
          ∧ ∀ x, t.send = some x →
            exec (.memRdComplete g k bad again) s = .next ((s.setGlade g.toNat rest).finishSend x t.ctr.toNat bs))
        ∧ (t.chk = 0 → t.send = none → ∀ j js, bad.filter (fun j => again.contains j && decide (64 * j < t.len)) = j :: js →
          exec (.memRdComplete g k bad again) s = .next (((countPoisons (((bad ++ again).filter fun j => decide (64 * j < t.len)).map
            fun j => t.addr + 64 * j) s)).memoryFault g.toNat t.pc (t.addr + 64 * j)))
        ∧ (t.chk ≠ 0 → bad = [] → ∀ r, s.mem.regionOf t.addr t.len = some r → (∀ b ∈ s.blocksFor t, s.failsFor t b = false) →
          ((r.2.kind = 1 ∨ r.2.kind = 3) → ∀ b ∈ s.blocksFor t, s.weakFor t b = false) →
          (t.send = none →
            exec (.memRdComplete g k bad again) s = .next ((s.setGlade g.toNat { got with
              sources := { lo := t.spa, hi := t.spa + t.len, spa := t.spa, len := t.len, addr := t.addr, chk := t.chk,
                           table := t.table } :: gl.sources }).countUp g.toNat t.ctr.toNat 1))
          ∧ ∀ x, t.send = some x →
            exec (.memRdComplete g k bad again) s = .next ((s.setGlade g.toNat rest).finishSend x t.ctr.toNat bs))))
    ∧ (t.write = true →
      let tb := if t.chk = 1 then 4 * ceilDiv t.len 16384 else if t.chk = 2 then 4 * ceilDiv t.len 12288 else 0
      let put := (s.setGlade g.toNat rest).devWriteOn (dieOf g.toNat) t.addr t.data
      (s.mem.repairsOn t.addr t.len = [] → (tb = 0 ∨ s.mem.repairsOn t.table tb = []) →
        exec (.memWrComplete g k) s = .next ((if t.chk = 0 then put
          else put.devWriteOn (dieOf g.toNat) t.table (genTable t.data t.chk.toNat)).countUp g.toNat t.ctr.toNat 1))
      ∧ (∀ e ∈ s.mem.repairsOn t.addr t.len, s.replaces t e = false → exec (.memWrComplete g k) s = .next s))

/-- The oldest message between two glades arrives: one of an older attempt is discarded (R188), one that a receive window admits
is written and its counter counts one (R180, R187), and any other is refused with the first cause that fits (R189). A refusal
leaves its route word and cause in SR_NACK and SR_NACKC, unless an unread one is there (Table 7.2: 0 if none), counts counter
63 and GLD_NACK and raises a class 0x08 record (R188, R190). -/
def Obligations.MessagesArrive : Prop :=
  ∀ (s : State) (src dst : BitVec 10) (m : MeshMsg) (s1 : State), s.takeMsg src.toNat dst.toNat = some (m, s1) →
    let r := routeOf m.route
    let gl := s1.glade dst.toNat
    (r.kind = 0 →
      ((s.plot r.plot).tag.toNat ≠ r.attempt → exec (.messageArrival src dst) s = .next s1)
      ∧ ((s.plot r.plot).tag.toNat = r.attempt →
        (s1.refusalCause dst.toNat (gl.admits r.plot (m.addrs r)) r.ctr = none →
          exec (.messageArrival src dst) s = .next ((s1.setGlade dst.toNat
            { (gl.writeFor none (some (BitVec.ofNat 6 r.ctr)) (8 * r.addr) m.bytes).maskFor none (some (BitVec.ofNat 6 r.ctr)) m.extra with
              accepted := (BitVec.ofNat 6 r.ctr, BitVec.ofNat 6 r.plot, BitVec.ofNat 2 r.attempt) :: gl.accepted }).countUp
            dst.toNat r.ctr 1))
        ∧ ∀ c, s1.refusalCause dst.toNat (gl.admits r.plot (m.addrs r)) r.ctr = some c →
          exec (.messageArrival src dst) s = .next { s1 with mesh := s1.mesh ++
            [{ route := ({ dst := r.src, addr := 0, ctr := 63, nflit := 0, kind := 2, src := r.dst, plot := gl.plot.toNat,
                           attempt := r.attempt } : Route).word,
               bytes := leBytes 8 m.route.toNat ++ [BitVec.ofNat 8 c] ++ zeroBytes 55, rank := none, extra := [] }] }))
    ∧ (r.kind = 2 → (s.plot gl.plot.toNat).tag.toNat = r.attempt →
      let w := BitVec.ofNat 64 (leAt m.bytes 0 8)
      let c := leAt m.bytes 8 1
      let told := if gl.nack = 0 then { gl with nack := w, nackc := BitVec.ofNat 4 c } else gl
      exec (.refusalArrival src dst) s = .next
        ((((s1.setGlade dst.toNat told).countUp dst.toNat 63 1).bump Reg.gldNack 1).plotFault gl.plot.toNat
          { cls := 0x08, cause := c, glade := some dst.toNat, detail := leBytes 8 w.toNat }))

/-! ### Attention -/

/-- A canopy pipeline accepts the head of a glade's transfer queue into its queue of 16 (R225), for a plot that holds the grove's
lease, and drops it with a lease fault for another (R223); the instructions behind it may start. In its turn (R225) CNP.APP
appends the tokens of its rows, poisoning each faulty row (R212, R213, R222), and counts one on its counter; CNP.ATT builds
its rounds, issues its first slice reads and runs as far as its slices allow (R202, R215). The counter counts only for the plot's
current attempt (R442). Either waits while what it reads lies in a block under repair (R322), and CNP.APP runs beside the rounds of
a CNP.ATT. The acceptance is stated of a pipeline that runs unpaired. When the descriptors are tested is log entry 68's
reading. -/
def Obligations.CanopyAcceptsAndRuns : Prop :=
  ∀ (s : State) (g : BitVec 10),
    (∀ q qs, (s.glade g.toNat).queue = q :: qs → (q.op = 0x68 ∨ q.op = 0x69) → s.groveRuns (groveOf g.toNat) = true →
      let gl := s.glade g.toNat
      let gv := groveOf g.toNat
      let i := s.requeue g.toNat q
      let c := s.canopy gv
      let dropped := s.setGlade g.toNat { gl with queue := qs }
      (s.holdsLease i.p 1 gv = false →
        exec (.canopyInstructionAccept g) s = .next (dropped.leaseFault i.p 1 gv g.toNat i.pc))
      ∧ (s.holdsLease i.p 1 gv = true → s.canopyReady = true → c.queue.length < 16 → s.twin gv = none →
        (q.op = 0x68 → (attDesc (gl.attBytes i.w)).outOfRange s = false) →
        (q.op = 0x69 → ∀ f ∈ attFaults s i, f.1 = false) →
        exec (.canopyInstructionAccept g) s = .next (drainQueue g.toNat 16
          (dropped.setCanopy gv { c with queue := c.queue ++ [{ glade := g, plot := gl.plot, attempt := (s.plot gl.plot.toNat).tag, q }] }))))
    ∧ ∀ i rest po, g.toNat < 16 → s.groveRuns g.toNat = true → (s.canopy g.toNat).queue = i :: rest →
      s.mem.blocked (s.canopyReads i) = false →
      let t := s.setCanopy g.toNat { s.canopy g.toNat with queue := rest }
      let w := i.q.words.toNat
      let gl := t.glade i.glade.toNat
      let rows := (List.range i.rows).map (i.row0 + ·)
      (i.q.op = 0x68 →
        let kg := t.glade (gladeAt (groveOf i.glade.toNat) (bitsOf w 53 48))
        let last := (t.newTokens gl i - 1) * bitsOf w 107 92 + kvRow t.kvForm
        bitsOf w 72 54 + last ≤ 524288 → bitsOf w 91 73 + last ≤ 524288 →
        exec (.cnpApp (.run po) g) s =
          .next ((appendRows i (attDesc (gl.attBytes w)) gl kg (bitsOf w 72 54) (bitsOf w 91 73) (bitsOf w 107 92) rows 0
            (touchAll (some (dieOf i.glade.toNat)) (t.listReads gl rows) t)).countFor i (bitsOf w 127 122)))
      ∧ (i.q.op = 0x69 → (s.canopy g.toNat).run = none →
        let desc := gl.attBytes w
        let a := attDesc desc
        let d := layerDesc (desc.drop 32)
        let o := outDesc (desc.drop 64)
        let n := t.newTokens gl i
        (n = 0 ∨ (a.qBase + (n - 1) * a.qStride + rowBytes d.xform a.qNblk ≤ 524288 ∧ 8 * a.st + n ≤ 524288
          ∧ 8 * (o.dstBase + (n - 1) * o.dstStride) + rowBytes o.oform o.nblk ≤ 524288)) →
        let x := buildRounds i a gl rows 0 (touchAll (some (g.toNat / 4)) (t.listReads gl rows) t)
        let u := x.2.pendFor i Reg.spuXovr (natOfBool ((t.plot i.plot.toNat).exact && d.pset == 3))
        exec (.cnpAtt (.run po) g) s = .next
          (((u.setRun g.toNat (some { instr := i, desc, rounds := x.1, cur := none })).readAhead g.toNat).advanceBoth g.toNat))

/-- The slice that a round waits for arrives, is checked, read once more after a failure, and given to the round, failed after two
(R215, R220, R307); the pipeline runs on. A page that is due beyond its deadline follows the first row of Table 8.5 that
applies (R218, R219): the digest row stands for the slice, and CNP_APX counts, only where the plot is not exact, late pages
are allowed, the digest is valid and its row passes; an exact plot counts in CNP_XOVR what the rule would have replaced, and
waits. While what is read lies in a block under repair, nothing happens but that the read is held (R322). How often an event counts is
log entry 72's reading. -/
def Obligations.SlicesArriveOrAreReplaced : Prop :=
  ∀ (s : State) (grove : BitVec 4) (run : AttRun),
    let gv := grove.toNat
    let f := s.kvForm
    (s.canopy gv).run = some run →
    (∀ k r page num t late bad1 bad2, run.rounds[k]? = some r → r.kind = .visit page num (some t) none late →
      let at_ := s.sliceAddr (attDesc run.desc) page
      let bs := (s.mem.withSlots r.slots).read at_ (sliceSize f)
      let good := ((List.range 16).filter fun x => decide (16 * num + x < r.len)).all (slotGood f bs)
      let given := fun (u : State) (x : SliceItem) => u.setRun gv
        (some { run with rounds := setAt run.rounds k { r with kind := .visit page num (some t) (some x) late } })
      (s.mem.blocked [(at_, sliceSize f)] = true → exec (.sliceReadComplete grove k bad1 bad2) s =
        .next (holdEach (some run.instr.plot) [(at_, sliceSize f)] { s with mem := { s.mem with held := s.mem.stillHeld } }))
      ∧ (s.mem.blocked [(at_, sliceSize f)] = false →
      (good = true → bad1 = false →
        exec (.sliceReadComplete grove k bad1 bad2) s = .next ((given s (.slice bs)).advanceBoth gv))
      ∧ (good = true → bad1 = true → bad2 = false → exec (.sliceReadComplete grove k bad1 bad2) s =
          .next ((given ((s.countPoison at_).touchReadOn (gv / 4) at_ (sliceSize f)) (.slice bs)).advanceBoth gv))
      ∧ ((good = false ∨ bad1 = true ∧ bad2 = true) →
        let s0 := if bad1 then s.countPoison at_ else s
        let u := (if bad2 then s0.countPoison at_ else s0).touchReadOn (gv / 4) at_ (sliceSize f)
        exec (.sliceReadComplete grove k bad1 bad2) s = .next ((given u .bad).advanceBoth gv))))
    ∧ ∀ r rest page num t badDigest, run.rounds = r :: rest → r.kind = .visit page num (some t) none false →
      t.toNat + s.field Reg.cnpLate 15 0 < s.rt →
      s.mem.blocked [(s.pteAddr page, 16), (s.digestAddr page + s.sliceNo (attDesc run.desc) * digestSize f, digestSize f)] = false →
      let a := attDesc run.desc
      let p := run.instr.plot.toNat
      let kept : Round := { r with kind := .visit page num (some t) none true }
      let u := (s.setRun gv (some { run with rounds := kept :: rest })).lateHint (s.sliceAddr a page)
      let may := s.field Reg.cnpLate 16 16 = 1 ∧ s.image.standSize ≤ 1024
      let dvalid := bitOf (s.pte page) 3
      let dAt := s.digestAddr page + s.sliceNo a * digestSize f
      let row := s.dev dAt (digestSize f)
      ((s.plot p).exact = true → may → dvalid = true →
        exec (.latePage grove badDigest) s = .next (u.pendFor run.instr Reg.cnpXovr 1))
      ∧ (¬may → exec (.latePage grove badDigest) s = .next (u.bumpField Reg.cnpStall 15 0 1))
      ∧ ((s.plot p).exact = false → may →
        (dvalid = false → exec (.latePage grove badDigest) s = .next (u.bumpField Reg.cnpStall 31 16 1))
        ∧ (dvalid = true → badDigest = false → digestGood f row = true →
          exec (.latePage grove badDigest) s = .next (((((u.touchReadOn (gv / 4) dAt (digestSize f)).pendFor run.instr Reg.cnpApx 1).setRun gv
            (some { run with rounds := { r with kind := .visit page num (some t) (some (.digest row)) true } :: rest }))).advanceBoth
              gv)))

/-! ### Routing, shapes and the scout -/

/-- The routing engine accepts the head of a glade's transfer queue whose descriptor, shape words and leases pass (R261, R267,
R280, R288), and runs its own queue in order: RTE.ROUTE selects the experts of its rows, keeps the layer and treats the items
held for it (R262 to R266, R272); RTE.SEND sends the copies and end marks of the layer, RTE.RET the answers (R267, R273);
SCT.MASK writes the group lists and SCT.AUD keeps its marks for the clearing (R283, R286). Log entries 63, 65 and 66 are
readings that it rests on. What an instruction reads of the device range counts (R310), and where it came poisoned twice the
instruction raises a memory data fault instead (R308). -/
def Obligations.RoutingEngineAcceptsAndRuns : Prop :=
  ∀ (s : State) (g : BitVec 10),
    (∀ q qs, (s.glade g.toNat).queue = q :: qs →
      (q.op = 0x6C ∨ q.op = 0x6D ∨ q.op = 0x6E ∨ q.op = 0x70 ∨ q.op = 0x71) →
      let gl := s.glade g.toNat
      let ri : RouteInstr := { glade := g, plot := gl.plot, pc := q.pc, op := q.op, words := q.words }
      s.routing.ok = true → s.routing.queue.length < 16 → s.routeRefusal gl ri = none →
      exec (.routingInstructionAccept g) s = .next (drainQueue g.toNat 16 { s.setGlade g.toNat { gl with queue := qs } with
        routing := { s.routing with queue := s.routing.queue ++ [ri] } }))
    ∧ ∀ i rest, s.routing.queue = i :: rest → i.glade = g →
      let reads := if i.op = 0x6C then State.routeReads i s else if i.op = 0x6D then State.sendReads i s
        else if i.op = 0x6E then State.retReads i s else if i.op = 0x70 then State.maskReads i s else State.audReads i s
      let t0 := { s with routing := { s.routing with queue := rest } }
      let t := touchAll none reads t0
      s.mem.blocked reads = false → (∀ e ∈ reads, s.unmappedUnit e.1 e.2 = none) →
      (∀ a c op, (c, op) ∈ [(Instr.rteRoute (.run (some (a, true))) g, 0x6C), (.rteSend (.run (some (a, true))) g, 0x6D),
          (.rteRet (.run (some (a, true))) g, 0x6E), (.sctMask (.run (some (a, true))) g, 0x70),
          (.sctAud (.run (some (a, true))) g, 0x71)] →
        i.op = op → (∃ e ∈ reads, e.1 ≤ a ∧ a < e.1 + e.2) →
        exec c s = .next (((t0.countPoison a).countPoison a).memoryFault g.toNat i.pc a)) ∧
      let gl := s.glade g.toNat
      let w := i.words.toNat
      let d := routeDesc (gl.read (8 * bitsOf w 47 32) 64)
      let ptab := gl.read (8 * d.ptab) (16 * d.npeer)
      let peers := (List.range d.npeer).map (· + 1)
      (i.op = 0x6C → t.routeLayer d.layer = none →
        let n := bitsOf w 69 59 + 1
        let m := gl.read (8 * d.map) (2 * d.ne)
        let toks := (List.range n).map fun k => t.routeToken d m (bitsOf w 26 25) (bitsOf w 58 48 + k)
        let l : RouteLayer :=
          { layer := BitVec.ofNat 10 d.layer, plot := i.plot, step := t.step16, routed := true, glade := g,
            ctr := BitVec.ofNat 6 (bitsOf w 75 70), desc := gl.read (8 * bitsOf w 47 32) 64, ptab
            own := toks.flatMap (·.own), copies := toks.flatMap (·.copies), gotten := [], ends := [], finalised := false,
            sendGlade := 0, sendCtr := 0, sending := false, sent := [], answered := [], picks := toks.flatMap (·.picks) }
        let u := ((({ t with fresh := s.fresh + 4096 }.setLayer l).bump Reg.rteTok n).pendCount Reg.rteTie i.plot.toNat
          (toks.filter TokenRoute.tie).length).pendCount Reg.rteSclamp i.plot.toNat (toks.map TokenRoute.clamped).sum
        exec (.rteRoute (.run none) g) s = .next (takeHeld d.layer u.routing.hold u))
      ∧ (i.op = 0x6C → ∀ l, t.routeLayer d.layer = some l → l.routed = true →
        exec (.rteRoute (.run none) g) s = .next (t.instrFault (t.routeIssue i) 0x07))
      ∧ (i.op = 0x6D → t.routeLayer d.layer = none →
        exec (.rteSend (.run none) g) s = .next ((sendPeers i d ptab [] peers t).countUp g.toNat (bitsOf w 75 70) 1))
      ∧ (i.op = 0x6D → ∀ l, t.routeLayer d.layer = some l →
        let u := sendPeers i d ptab l.copies peers
          (t.setLayer { l with sendGlade := g, sendCtr := BitVec.ofNat 6 (bitsOf w 75 70), sending := true })
        ∀ l2, u.routeLayer d.layer = some l2 → exec (.rteSend (.run none) g) s = .next (u.sendDone l2))
      ∧ (i.op = 0x6E → ∀ l, t.routeLayer d.layer = some l →
        exec (.rteRet (.run none) g) s = .next ((answerPeers i d ptab l peers t).countUp g.toNat (bitsOf w 75 70) 1))
      ∧ (i.op = 0x70 → exec (.sctMask (.run none) g) s = .next (t.runSctMask i))
      ∧ (i.op = 0x71 → exec (.sctAud (.run none) g) s = .next (t.runSctAud i))

/-- A ROUTE message at a live port of the own slice and module is taken by its kind: a copy and an end mark of the current step's
routed layer at once, others held or stale (R271, R272); an answer that passes fills its slot (R273). Where all end marks and
the copies they count are there, the layer is finalised: its lists, shape words and the counter of its RTE.ROUTE (R266, R272).
What is stale or waits is log entry 64's reading. -/
def Obligations.RoutedItemsArriveAndFinalise : Prop :=
  (∀ (s : State) (p : BitVec 3) (item : List Byte) (kind : Nat) (c : Instr),
    (kind, c) ∈ [(0, Instr.routeCopyArrival p item), (3, .endMarkArrival p item), (1, .routeAnswerArrival p item),
      (2, .routeAnswerArrival p item)] →
    let x := s.port p.toNat
    let m := fabMsg item
    let h := itemHdr item
    let t := s.setPort p.toNat (x.heardItem item)
    p.toNat < 6 → x.live = true → s.fireBroken p.toNat = false → wf (BitVec.ofNat 64 (leAt item 0 8)) 3 0 = 1 → m.cls = 2 → h.kind = kind → m.slice = s.slice → m.dst = s.torus →
    s.field Reg.fabCtl 0 0 = 1 →
    (kind = 1 ∨ kind = 2 → exec c s = .next (t.takeAnswer p.toNat item))
    ∧ (kind = 0 ∨ kind = 3 →
      (h.step ≠ s.step16.toNat → h.step ≠ (s.step16.toNat + 1) % 65536 → exec c s = .next (t.bump Reg.rteStale 1))
      ∧ (h.step = (s.step16.toNat + 1) % 65536 → heldBytes (s.routing.hold ++ [{ port := p.toNat, item }]) ≤ 8388608 →
        exec c s = .next { t with routing := { t.routing with hold := t.routing.hold ++ [{ port := p.toNat, item }] } })
      ∧ ∀ l, h.step = s.step16.toNat → t.routeLayer h.layer = some l → l.routed = true →
        exec c s = .next (if kind = 3 then
            t.setLayer { l with ends := (l.ends.filter fun e => e.1 ≠ h.sender) ++ [(h.sender, h.row)] }
          else t.takeCopy p.toNat l item)))
  ∧ ∀ (s : State) (plot : BitVec 6) (layer : BitVec 10) (l : RouteLayer), s.routeLayer layer.toNat = some l → l.plot = plot →
    l.routed = true → l.finalised = false →
    s.mem.blocked l.headers = false → (∀ peer, 1 ≤ peer → peer ≤ (routeDesc l.desc).npeer → ∃ e, l.ends.find? (fun e => e.1 = peer) = some e ∧
      (l.gotten.filter fun c => c.peer = peer).length = e.2) →
    exec (.layerFinalise plot layer) s =
      .next (((writeLists l (List.range 256) 0 (s.setLayer { l with finalised := true })).setShape
        ((routeDesc l.desc).shp0 + 256) (l.gotten.filter fun c => !c.void).length).countUp l.glade.toNat l.ctr.toNat 1)

/-- SHP.LD reads a shape word into gp[d] and SHP.ST writes one, with the step's number, under its lease (R280, R281); both wait
while the word lies in a block under repair (R322). MEM.HINT hints up to `count` granules of a region that the plot may access
under its lease, and leaves their number in gp[d], 0 at an address of no region that migrates (R311). Words beyond the table raise
cause 0x0C; a word that no slot holds, or that came poisoned twice, is a memory data fault (R308, R315). That SHP.ST writes at once,
and what MEM.HINT does outside the regions, is log entry 121's reading. -/
def Obligations.ShapeWordsAndHints : Prop :=
  ∀ (s : State) (g : BitVec 10),
    let i := s.issueOf g.toNat
    let at_ := fun (w : Nat) => s.base48 Reg.rteShpBaseLo + 8 * w
    let count := s.field Reg.rteShp 16 0
    (s.issues g 0x31 →
      (i.ea < count → s.mem.underRepair (at_ i.ea) 8 = false →
        (s.unmappedUnit (at_ i.ea) 8 = none →
          (let t := s.touchReadOn (dieOf g.toNat) (at_ i.ea) 8
          exec (.shpLd g none) s = .next (t.put i (i.gl.setGpr i.d (BitVec.ofNat 64 (t.devNat (at_ i.ea) 8)))))
          ∧ (let t := (s.countPoison (at_ i.ea)).touchReadOn (dieOf g.toNat) (at_ i.ea) 8
          exec (.shpLd g (some false)) s = .next (t.put i (i.gl.setGpr i.d (BitVec.ofNat 64 (t.devNat (at_ i.ea) 8)))))
          ∧ exec (.shpLd g (some true)) s =
              .next (((s.countPoison (at_ i.ea)).countPoison (at_ i.ea)).memoryFault g.toNat i.pc (at_ i.ea)))
        ∧ ∀ a po, s.unmappedUnit (at_ i.ea) 8 = some a → exec (.shpLd g po) s = .next (s.memoryFault g.toNat i.pc a))
      ∧ (i.ea < count → s.mem.underRepair (at_ i.ea) 8 = true → ∀ po, exec (.shpLd g po) s =
          .next (holdEach (some i.gl.plot) [(at_ i.ea, 8)] { s with mem := { s.mem with held := s.mem.stillHeld } }))
      ∧ (count ≤ i.ea → ∀ po, exec (.shpLd g po) s = .next (s.instrFault i 0x0C)))
    ∧ (s.issues g 0x33 → i.f 31 23 = 0 →
      let w := i.ra.toNat
      (w < count → s.holdsLease i.p 3 (w / 512) = true → s.mem.underRepair (at_ w) 8 = false →
        exec (.shpSt g) s = .next ((s.put i i.gl).devWriteOn (dieOf g.toNat) (at_ w)
          (leBytes 8 (i.rb.toNat % 281474976710656 + s.step.num.toNat % 65536 * 281474976710656))))
      ∧ (w < count → s.holdsLease i.p 3 (w / 512) = true → s.mem.underRepair (at_ w) 8 = true →
        exec (.shpSt g) s = .next s)
      ∧ (w < count → s.holdsLease i.p 3 (w / 512) = false →
        exec (.shpSt g) s = .next (s.leaseFault i.p 3 (w / 512) g.toNat i.pc))
      ∧ (count ≤ w → exec (.shpSt g) s = .next (s.instrFault i 0x0C)))
    ∧ (s.issues g 0x34 → i.f 31 23 = 0 →
      let kind := bitsOf i.rb.toNat 1 0
      let life := bitsOf i.rb.toNat 63 32
      let a := i.ra.toNat
      (kind = 3 → exec (.memHint g) s = .next (s.instrFault i 0x04))
      ∧ (kind ≠ 3 → s.mem.regionOf a 1 = none → exec (.memHint g) s = .next (s.put i (i.gl.setGpr i.d 0)))
      ∧ (∀ k r, kind ≠ 3 → s.mem.regionOf a 1 = some (k, r) → s.holdsLease i.p 2 k = false →
        exec (.memHint g) s = .next (s.leaseFault i.p 2 k g.toNat i.pc))
      ∧ ∀ k r, kind ≠ 3 → s.mem.regionOf a 1 = some (k, r) → s.holdsLease i.p 2 k = true →
        (r.place ≠ 2 → exec (.memHint g) s = .next (s.put i (i.gl.setGpr i.d 0)))
        ∧ (r.place = 2 →
          let i0 := (a - r.base.toNat) / r.granBytes
          let n := min (bitsOf i.rb.toNat 21 2) (r.granCount - i0)
          exec (.memHint g) s = .next (hintGranules r kind (if life = 0 then 0 else s.ringCount + BitVec.ofNat 64 life)
            ((List.range n).map (i0 + ·)) (s.put i (i.gl.setGpr i.d (BitVec.ofNat 64 n))))))

/-! ### Glade failure and steps -/

/-- A failed physical glade is marked, counted in the lifetime counters and entered in the history; a spare that serves nobody
leaves the map with a class 0x13 record; the logical glade it served is moved to a healthy spare, and its plot's step is
abandoned, or the grove is degraded and the plot halts (R195, R198, R443). Where the map may not change, between a step's beginning
and its end with the plot not abandoned, the glade is moved at the clearing's end (R195, R447). A refilled glade holds its
resident regions (R196). What a slow spare and a glade out of service bring is log entry 61's reading, the wait for the clearing's
end log entry 149's. -/
def Obligations.GladesFailAndRefill : Prop :=
  ∀ (s : State),
    (∀ (phys : BitVec 11) (cause : BitVec 8), phys.toNat < 1056 → (s.physGlade phys.toNat).failed = false →
      s.board.on.getLsbD (phys.toNat / 66) = true →
      let ph := phys.toNat
      let gv := ph / 66
      let t := (s.setPhys ph { s.physGlade ph with failed := true }).history 0x06 ph (BitVec.ofNat 64 cause.toNat)
      let u := { t with dep := { t.dep with life := { s.dep.life with gfail := addCnt32 s.dep.life.gfail 1 } } }
      let record : FaultArgs := { cls := 0x13, cause := cause.toNat, detail := leBytes 2 ph }
      (s.servedBy ph = none → exec (.gladeFailure phys cause) s = .next ((u.raise record).loseSpare ph))
      ∧ ∀ g, s.servedBy ph = some g →
        let w := ((u.loseSpare ph).failSlow gv 0).failSlow gv 1
        let lost := !(List.range 2).any fun k => w.spareFit gv k
        let v := ((if (s.glade g).inService then
            u.abandonFault (s.glade g).plot.toNat { record with glade := some g, halted := lost } true
          else u.raise record).loseSpare ph)
        (((v.plot (s.glade g).plot.toNat).run = .abandoned ∨ v.step.active = false) →
          exec (.gladeFailure phys cause) s = .next (v.replaceGlade gv g))
        ∧ (((v.plot (s.glade g).plot.toNat).run ≠ .abandoned ∧ v.step.active = true) → exec (.gladeFailure phys cause) s =
          .next { v with dep := { v.dep with remaps := v.dep.remaps ++ [BitVec.ofNat 10 g] } }))
    ∧ (∀ (t : State) gv g,
      let u := (t.failSlow gv 0).failSlow gv 1
      (∀ k, (List.range 2).find? (fun k => u.spareFit gv k) = some k → t.replaceGlade gv g =
        ((u.unserve gv g 0).unserve gv g 1).remapTo gv k g)
      ∧ ((List.range 2).find? (fun k => u.spareFit gv k) = none → (t.glade g).inService = true →
        t.replaceGlade gv g = (u.setField (Reg.gldMap + 4 * gv) 18 18 1).halt (t.plotOf g)))
    ∧ ∀ g : BitVec 10,
      (g ∈ s.dep.refills → exec (.gladeRemapRefillDone g) s =
        .next { s.setGlade g.toNat (Glade.refill s.mem (s.glade g.toNat).resident (s.glade g.toNat)) with
          dep := { s.dep with refills := s.dep.refills.filter fun x => x ≠ g } })
      ∧ (g ∉ s.dep.refills → g ∈ s.image.refills → exec (.gladeRemapRefillDone g) s =
        .next (s.setImage { s.image with refills := s.image.refills.filter fun x => x ≠ g }))

/-- At the boundary of step n the step begins if the ring takes boundaries, the step before is cleared, no remap is in progress,
the serving block waits for no repair and the module is awake; boundaries since the last are counted missed (R45, R48, R322, R348,
R447); it is missed itself otherwise. A stop that was asked for makes STEP_PERIOD zero once no step runs, suspended or not (R47).
While suspended, a boundary passes (R431). What counts as missed is log entry 58's reading, and log entry 141's after the stop. -/
def Obligations.StepsBeginAtBoundaries : Prop :=
  ∀ (s : State) (n : Nat), s.boundary? = some n →
    s.power.suspArmed = none → (s.power.suspended = false ∨ s.power.resArmed = none) →
    (s.step.stopAsked = true → s.step.active = false → exec .stepBoundary s =
        .next { s.setReg Reg.stepPeriod 0 with step := { s.step with stopAsked := false } })
    ∧ ((s.step.stopAsked = false ∨ s.step.active = true) →
      (s.power.suspended = true → exec .stepBoundary s = .next { s with step := { s.step with next := n + 1 } })
      ∧ (s.power.suspended = false →
        ((s.ring.mode = .aligned ∨ s.ring.mode = .holdover) → s.step.active = false → s.dep.refills = [] →
          s.power.state.toNat ≤ 1 → s.servingHeld = false →
          exec .stepBoundary s = .next (((s.noteMissed (n - s.step.next)).leaveS1.imageAtBoundary n s.rt true).startStep n))
        ∧ ((s.ring.mode ≠ .aligned ∧ s.ring.mode ≠ .holdover ∨ s.step.active = true ∨ s.dep.refills ≠ []
            ∨ 1 < s.power.state.toNat ∨ s.servingHeld = true) →
          exec .stepBoundary s = .next ((((s.noteMissed (n - s.step.next + 1)).setStep
            { (s.noteMissed (n - s.step.next + 1)).step with next := n + 1 })).imageAtBoundary n s.rt false))))

/-- Writes of STEP_PERIOD, STEP_BASE and NUM_LREC_BASE_LO, while the registers answer (R486): while a stand image is being applied
they are ignored, with cause 8 recorded (R403). A period of 1,000 or more starts stepping with the first
boundary after the ring count, a smaller one is a configuration fault, zero asks for the stop, and
a change in between is ignored (R46, R47); STEP_BASE is taken only while STEP_PERIOD reads zero (R46); NUM_LREC_BASE_LO zeroes the
layers' totals (R80). -/
def Obligations.StepRegistersAreWritten : Prop :=
  ∀ (s : State) (data : BitVec 32) (hi : Bool),
    s.regUp Reg.stepPeriod = true → s.regUp Reg.stepBaseLo = true → s.regUp Reg.numLrecBaseLo = true →
    (s.applying = true → ∀ c ∈ [Instr.stepPeriodWrite data, .stepBaseWrite hi data, .stepStop, .numLrecBaseWrite data],
      exec c s = .next (s.setCause 8))
    ∧ (s.applying = false →
      (s.period = 0 →
        (1000 ≤ data.toNat → exec (.stepPeriodWrite data) s = .next (s.setReg Reg.stepPeriod data).startStepping
          ∧ ∀ m, s.rt < s.s0 + m * data.toNat ↔ (s.setReg Reg.stepPeriod data).startStepping.step.next ≤ m)
        ∧ (data ≠ 0 → data.toNat < 1000 → exec (.stepPeriodWrite data) s = .next (s.configFault Reg.stepPeriod))
        ∧ exec (.stepBaseWrite hi data) s = .next (s.setReg (if hi then Reg.stepBaseHi else Reg.stepBaseLo) data))
      ∧ (s.period ≠ 0 →
        (data ≠ 0 → exec (.stepPeriodWrite data) s = .next s)
        ∧ exec (.stepPeriodWrite 0) s = .next { s with step := { s.step with stopAsked := true } }
        ∧ exec .stepStop s = .next { s with step := { s.step with stopAsked := true } }
        ∧ exec (.stepBaseWrite hi data) s = .next s)
      ∧ exec (.numLrecBaseWrite data) s = .next { s.storeReg Reg.numLrecBaseLo data with
          layers := zeroTotals (s.storeReg Reg.numLrecBaseLo data).layers })

/-- The batch of a step is released once, with its input block where SRV_CTL asks for one and one broadcast for each 16 KiB of the
descriptor (R236); a broadcast lands in the glades in service, or in those of one plot for a replay, and counts on counter 62
(R191). What the input block holds of decode rows is log entry 84's reading. -/
def Obligations.BatchIsReleasedAndLands : Prop :=
  ∀ (s : State) (b : Batch), s.serving.batch = some b →
    (b.released = false → s.step.active = true → s.step.clearing = false → s.servingHeld = false →
      let t := if s.field Reg.srvCtl 3 3 = 1 then writeInputs 0 (List.zip b.rows b.tokens) s else s
      exec .batchRelease s = .next { t with
        serving := { t.serving with batch := some { b with released := true } }
        step := { t.step with bcasts := t.step.bcasts ++
          (List.range (ceilDiv (32 + 24 * b.rows.length) 16384)).map fun k => (k, none) } })
    ∧ ∀ k dest rest, s.step.bcasts = (k, dest) :: rest →
      exec .broadcastArrival s = .next (landPiece (s.bcast / 8 + 2048 * k) ((b.bytes.drop (16384 * k)).take 16384)
        (match dest with
          | some p => s.gladesOf p
          | none => (s.glades.filter fun e => e.2.inService).map (·.1)) { s with step := { s.step with bcasts := rest } })

/-- The clearing begins when every plot of the step has completed it (R167), applies the commands that were due by then, and takes
its actions on entries, tokens, pages and output in order; it ends after its least time, once the output buffer is down to
4 MiB, and with it the step and its batch, and glades that failed meanwhile are remapped (R195, R248, R250, R385, R447, R51).

An abandoned plot replays from its retained inputs once its time has come, no message of the old attempt is in the mesh, the
ring is not faulted and no glade of it is being refilled (R444, R448): its glades that are not drained start the same step
again, and a released descriptor is broadcast to them once more (R442). The actions' one moment is log entry 87's reading, the
wait of a replay log entry 60's. -/
def Obligations.ClearingEndsOrReplaysTheStep : Prop :=
  (∀ (s : State),
     (s.step.active = true → s.step.clearing = false → s.stepDone = true → s.servingHeld = false →
       let u := ({ s with step := { s.step with clearing := true, clearAt := s.ringCount } }.drainInbox).applyDue false
         s.step.num.toNat s.rt State.applyAtClearing
       let rows := u.batchRowsNow
       let cancelled := (rows.filter fun r => (u.entry r.index).cancelP).map (·.index)
       let v := u.clearEntries s.rt rows
       let out := selectTokens (rows.filter fun r => !cancelled.contains r.index) v
       let capped := (rows.filter fun r => (v.entry r.index).limit ≠ 0 && (v.entry r.index).len ≥ (v.entry r.index).limit).map
         (·.index)
       exec .clearing s = .next (out.2.clearPages.clearOutput out.1 capped))
     ∧ (s.step.clearing = true → s.step.clearAt.toNat + s.field Reg.srvClr 15 0 ≤ s.rt → s.outBytes ≤ 4194304 →
       exec .clearingComplete s = .next (remapWaiting s.dep.remaps { s with
         step := { s.step with active := false, clearing := false, bcasts := [] }
         serving := { s.serving with batch := none }
         dep := { s.dep with remaps := [] } })))
  ∧ (∀ (s : State) (plot : BitVec 6),
       let p := plot.toNat
       let x := s.plot p
       x.run = .abandoned → x.replayFrom.toNat ≤ s.rt → s.inMesh p = false → s.ring.faulted = false →
       (∀ g ∈ s.dep.refills, s.plotOf g.toNat ≠ p) →
       let t := mapGlades (fun g => if g.drained then g else { g with
           gp := [], pc := 4 * g.entry.toNat, mode := .running, wdl := 0, engN := none,
           unseen := g.unseen.filter fun u => u.queue.isNone, tiles := g.drainOver.tiles }) (s.gladesOf p)
         (s.setPlot p { x with run := .running, replaying := true, replayFrom := s.ringCount })
       exec (.replayStart plot) s = .next { t with step := { t.step with bcasts := t.step.bcasts ++ s.rebroadcast p } })

/-! ### Host records -/

/-- A command record that arrives intact and in its turn enters the inbox with its ring count, and OHM_CMD counts (R373, R376);
while the serving block works it is processed at once and its credit returns. One that fails its checks makes the channel wait
for its sequence, with a link data fault (R374); one that came before counts as a duplicate, and one of another sequence than a
waiting channel wants only returns its credit. An item of a reserved kind retrains the link (R369). LOAD_GRAFT is one row with
abort = 0 and another with abort = 1. What a gap in the sequence brings is log entry 76's reading, the inbox of a block that is
off log entry 74's. -/
def Obligations.HostCommandsAreTaken : Prop :=
  ∀ (s : State) (rec : List Byte) (kind : Nat) (c : Instr),
    (kind, c) ∈ [(1, Instr.admitReq rec), (2, .appendReq rec), (3, .cancelReq rec), (4, .pauseReq rec), (5, .resumeReq rec),
      (6, if bitOf (leAt rec 17 1) 7 then .loadGraftAbort rec else .loadGraft rec), (7, .phaseHint rec), (8, .opPoint rec)] →
    s.ohmip.up = true →
    let x := s.inChan 0
    let seq := BitVec.ofNat 32 (leAt rec 8 4)
    (s.ohmip.reserved (leAt rec 0 1 % 16) = true → recIntact 0 rec = false → exec c s = .next s.ohmipRetrain)
    ∧ (s.ohmip.reserved (leAt rec 0 1 % 16) = false →
    (recIntact 0 rec = false → exec c s = .next (((s.setInChan 0
        { x with failed := some (x.failed.getD x.expects), nak := true, dirty := true }).returnCredit 0 rec).hostLinkFault
        (x.failed.getD x.expects).toNat))
    ∧ (recIntact 0 rec = true → recKind rec = kind →
      (∀ q, x.accepted = some q → seq.toNat ≤ q.toNat →
        exec c s = .next ((s.returnCredit 0 rec).bump Reg.ohmDup 1))
      ∧ ((∀ q, x.accepted = some q → q.toNat < seq.toNat) →
        (∀ q, x.failed = some q → q ≠ seq → exec c s = .next (s.returnCredit 0 rec))
        ∧ ((x.failed = none ∨ x.failed = some seq) →
          let a := s.setInChan 0 { x with accepted := some seq, failed := none, dirty := true }
          let t := fun (inbox : List InboxCmd) => { a with ohmip := { a.ohmip with discarding := false, inbox } }
          let old := s.ohmip.ver == 1
          let act := if old then 0 else leAt rec 24 8
          let cmd : InboxCmd := { entered := s.ringCount, ver1 := old, act, late := !old && s.actPassed rec act, bytes := rec }
          (((t (s.ohmip.inbox ++ [cmd])).bump Reg.ohmCmd 1).servingOn = false →
            exec c s = .next ((t (s.ohmip.inbox ++ [cmd])).bump Reg.ohmCmd 1))
          ∧ (s.ohmip.inbox = [] → ((t [cmd]).bump Reg.ohmCmd 1).servingOn = true →
            exec c s = .next (((t []).bump Reg.ohmCmd 1).processCmd cmd))))))

/-- What the serving block makes of a command record (R230, R231, R255, R258, R377 to R380, R423, R425): an ADMIT of a free entry
keeps its tokens in the ring and waits for its snapshot; a CANCEL or a PAUSE waits for its clearing; a RESUME with a bundle
starts a restore; LOAD_GRAFT opens its slot, and an abort marks it; a hint still to come enters the table. Each is refused
with its cause otherwise. Free causes, the place of tokens and rivals are log entries 75, 80 and 81. -/
def Obligations.CommandsAreAcceptedOrRefused : Prop :=
  ∀ (s : State) (x : InboxCmd),
    let bs := x.bytes
    let t := s.returnCredit 0 bs
    let i := leAt bs 16 2
    let e := s.entry i
    let k := leAt bs 16 1
    let refused := fun (index epoch slot cause : Nat) => (t.bump Reg.srvRefuse 1).event 0x02 slot index epoch cause
    (recKind bs = 1 →
      (∀ cause, t.admitCause bs = some cause → i < 16384 → s.processCmd x = refused i e.epoch.toNat 0 cause)
      ∧ (i < 16384 → e.state = .free → s.waits i 1 = false → leAt bs 44 2 % 4096 ≠ 0 →
        (bitOf (leAt bs 32 1) 7 = false ∨ leAt bs 72 4 = 0) → leAt bs 72 4 ≤ s.ringCap →
        ceilDiv (leAt bs 72 4) 16 ≤ leAt bs 64 4 % 16777216 →
        s.processCmd x = (putTokens i 0 (cmdTokens bs 80 (leAt bs 72 4)) t).keepCmd x))
    ∧ (recKind bs = 3 → i < 16384 → e.epoch.toNat = leAt bs 18 2 → e.state ≠ .free → e.state ≠ .releasing →
      s.processCmd x = t.keepCmd x)
    ∧ (recKind bs = 4 → i < 16384 → e.epoch.toNat = leAt bs 18 2 → (e.state = .live ∨ e.state = .held) →
      s.processCmd x = (t.dropRivals i 5 x.act).keepCmd x)
    ∧ (recKind bs = 5 → bitOf (leAt bs 32 1) 0 = true → i < 16384 → x.ver1 = false → e.state = .free → s.waits i 1 = false →
      s.processCmd x = t.startRestore x)
    ∧ ((recKind bs = 2 ∨ recKind bs = 3 ∨ recKind bs = 4) → i < 16384 → e.epoch.toNat ≠ leAt bs 18 2 →
      s.processCmd x = refused i e.epoch.toNat 0 0x02)
    ∧ (recKind bs = 6 → bitOf (leAt bs 17 1) 7 = false →
      ((k = 0 ∨ (s.graft k).state ≠ 0) → s.processCmd x = refused 0xFFFF 0 k 0x09)
      ∧ (k ≠ 0 → (s.graft k).state = 0 → s.processCmd x = t.setGraft k { GraftSlot.init with
          state := 1, rank := BitVec.ofNat 4 (leAt bs 17 1), tenant := BitVec.ofNat 12 (leAt bs 18 2)
          gid := BitVec.ofNat 32 (leAt bs 20 4), ver := BitVec.ofNat 16 (leAt bs 24 2)
          addr := BitVec.ofNat 48 (leAt bs 32 6), size := BitVec.ofNat 32 (leAt bs 40 4), lastData := s.ringCount }))
    ∧ (recKind bs = 6 → bitOf (leAt bs 17 1) 7 = true → k ≠ 0 → (s.graft k).state = 1 →
      s.processCmd x = t.setGraft k { s.graft k with aborted := true })
    ∧ (recKind bs = 7 → (∀ g ∈ grovesIn (leAt bs 44 2), s.groveBatch g = false) →
      s.rt < leAt bs 32 8 + leAt bs 40 4 → s.power.hints.length < 64 →
      s.processCmd x = { t with power := { s.power with hints := s.power.hints ++
        [{ start := BitVec.ofNat 64 (leAt bs 32 8), dur := BitVec.ofNat 32 (leAt bs 40 4)
           mask := BitVec.ofNat 16 (leAt bs 44 2), preset := BitVec.ofNat 3 (presetOf (leAt bs 46 1))
           id := BitVec.ofNat 8 (leAt bs 47 1) }] } })

/-- A data record of channel 1 that arrives intact and in its turn is applied while the device range is up (R373, R374, R434):
LOAD writes its bytes into a region that is not of parameters' kind 2, off the guarded tables (R381); GRAFT_DATA writes an
open graft slot's bytes (R379); BUNDLE_IN feeds its restore (R389); REPAIR delivers a block (R382). In S3 and S4 it waits. A
refused LOAD is log entry 77's reading, its free guard log entry 78's. -/
def Obligations.HostDataIsApplied : Prop :=
  ∀ (s : State) (rec : List Byte) (kind : Nat) (c : Instr),
    (kind, c) ∈ [(0x20, Instr.loadRec rec), (0x21, .graftData rec), (0x22, .bundleIn rec), (0x23, .repairRec rec)] →
    s.ohmip.up = true → s.ohmip.reserved (leAt rec 0 1 % 16) = false → recIntact 1 rec = true → recKind rec = kind →
    s.ohmip.dataIn = [] →
    let x := s.inChan 1
    let seq := BitVec.ofNat 32 (leAt rec 8 4)
    (x.failed = none ∨ x.failed = some seq) → (∀ q, x.accepted = some q → q.toNat < seq.toNat) →
    let a := s.setInChan 1 { x with accepted := some seq, failed := none, dirty := true }
    let t := { a with ohmip := { a.ohmip with discarding := false } }
    let u := t.returnCredit 1 rec
    (3 ≤ s.power.state.toNat → exec c s = .next { t with ohmip := { t.ohmip with dataIn := [rec] } })
    ∧ (s.power.state.toNat < 3 →
      (kind = 0x20 →
        let g := u.guarded (leAt rec 16 6) (rec.drop 32).length
        leAt rec 16 6 % 8 = 0 → g.1 = false →
        (∃ e, s.mem.regionOf (leAt rec 16 6) (rec.drop 32).length = some e ∧ e.2.kind ≠ 2) →
        exec c s = .next (g.2.devWriteQuiet (leAt rec 16 6) (rec.drop 32)))
      ∧ (kind = 0x21 →
        let k := leAt rec 16 1
        let g := s.graft k
        let off := leAt rec 24 8
        let data := rec.drop 32
        k ≠ 0 → g.state = 1 → g.closed = false → g.aborted = false → g.timedOut = false →
        off + data.length ≤ 4096 * g.size.toNat →
        exec c s = .next ((u.devWriteQuiet (g.addr.toNat + off) data).setGraft k
          { g with lastData := s.ringCount, received := off + data.length, closed := bitOf (leAt rec 17 1) 0 }))
      ∧ (kind = 0x22 → exec c s = .next (t.applyBundle rec))
      ∧ (kind = 0x23 → leAt rec 17 1 = 0 →
        exec c s = .next (u.hostCopy (leAt rec 16 1) (leAt rec 20 8) (sliceBytes rec 32 (leAt rec 28 4)))))

/-- Acknowledgements (R374, R375): the host's drops what it accepted and queues again what it discarded, ahead of anything new of
the channel and against the channel's credit (R370; log entry 128); the block's states the last accepted sequences and at most one discard, and stops being due. A graft that is closed is verified, or refused for its
signature or a free outcome of its check (R258, R259, log entry 45), and one without data for SRV_GTMO times out (R259); both sealing and verifying wait for blocks under repair (R322). The
sealing engine sends a bundle's header and its segments in turn while there is a key and the stream carries bundles (R254,
R378). A bundle's free identity is log entry 86's. -/
def Obligations.HostEnginesWork : Prop :=
  ∀ (s : State),
    (∀ rec : List Byte, s.ohmip.up = true → s.ohmip.reserved (leAt rec 0 1 % 16) = false → recIntact 0 rec = true → recKind rec = 0xF →
      let x := s.inChan 0
      let seq := BitVec.ofNat 32 (leAt rec 8 4)
      (x.failed = none ∨ x.failed = some seq) → (∀ q, x.accepted = some q → q.toNat < seq.toNat) →
      let a := s.setInChan 0 { x with accepted := some seq, failed := none, dirty := true }
      let kept := ackList 1 (leAt rec 20 4) (ackList 0 (leAt rec 16 4) s.ohmip.sent)
      let t := { a with ohmip := { a.ohmip with discarding := false, sent := kept } }
      let due := fun (r : OutRecord) => decide (r.chan = leAt rec 28 1) && decide (leAt rec 24 4 ≤ r.seq.toNat)
      ((leAt rec 24 4 = 0xFFFFFFFF ∨ kept.find? due = none) → exec (.hostAck rec) s = .next (t.returnCredit 0 rec))
      ∧ ∀ r, leAt rec 24 4 ≠ 0xFFFFFFFF → kept.find? due = some r →
        exec (.hostAck rec) s = .next ((State.pump { t with ohmip := { t.ohmip with
          sent := kept.filter fun e => !due e
          nextOut := setAt s.ohmip.nextOut (leAt rec 28 1) r.seq
          outq := ((kept.filter due).map fun e => { e with cls := 0 }) ++ s.ohmip.outq } }).returnCredit 0 rec))
    ∧ (let c0 := s.inChan 0
      let c1 := s.inChan 1
      s.ohmip.up = true → (c0.dirty = true ∨ c1.dirty = true) → c0.nak = false → c1.nak = false →
      exec .ohmipAckSend s = .next (((s.setInChan 0 { c0 with nak := false, dirty := false }).setInChan 1
        { c1 with nak := false, dirty := false }).hostSend 0 0 0x00F (leBytes 4 (seqOrNone (s.lastAccepted 0))
          ++ leBytes 4 (seqOrNone (s.lastAccepted 1)) ++ leBytes 4 0xFFFFFFFF ++ leBytes 1 0 ++ [0, 0, 0])))
    ∧ (∀ slot : BitVec 8,
      let k := slot.toNat
      let g := s.graft k
      k ≠ 0 → g.state = 1 → g.aborted = false → g.timedOut = false →
      (g.closed = true → g.verified = false → s.mem.blocked [(g.addr.toNat, g.received)] = false →
        let t := { s with fresh := s.fresh + 1 }
        exec (.graftVerifyComplete slot) s = .next (if s.graftSigned g = false
          then ((t.bump Reg.secVfail 1).setGraft k GraftSlot.init).refuseSlot k 0x0A
          else if Config.freeBool s.fresh then t.setGraft k { g with verified := true }
          else (t.setGraft k GraftSlot.init).refuseSlot k 0x0A))
      ∧ (g.lastData.toNat + s.regN Reg.srvGtmo ≤ s.rt →
        exec (.graftLoadTimeout slot) s = .next (s.setGraft k { g with timedOut := true })))
    ∧ ∀ (index : BitVec 14) r k,
      let e := s.entry index.toNat
      s.sealRun index.toNat = some r → e.state = .sealing → r.done = false → s.deviceUp = true → s.ohmip.up = true →
      s.ohmip.ver ≠ 1 →
      s.mem.blocked ((s.listAddr e 0, 4 * e.npages.toNat) :: (s.listPages e).map fun p => (s.pageAddr p, s.pageBytes)) = false →
      (r.version = none → (s.bundleKeys e.tenant).head? = some k → r.start = none →
        exec (.sealBundle index) s = .next (s.startSeal r k))
      ∧ (∀ v st, r.version = some v → s.bundleKey e.tenant v = some k → r.start = some st →
        exec (.sealBundle index) s = .next (s.nextSegment r st k))

/-! ### Memory -/

/-- MEM_TRN, while its domain is up, keeps its fields and, with retrain set and no stand image applied, puts every stack and channel in training (R297).
Training tries each stack at 8.0 and then 6.4 Gbit/s and each channel likewise, a unit that fails both, and a stack of 256
weak blocks, being degraded with a class 0x12 record (R294, R295, R321); what they held is not kept (R296). Retiming the
understory changes nothing (R292). Log entries 101 and 102 are readings that it rests on. -/
def Obligations.MemoryTrains : Prop :=
  ∀ (s : State),
    (∀ data : BitVec 32, s.regUp Reg.memTrn = true →
      let t := s.setReg Reg.memTrn (data &&& 0x00FFFF03)
      (data.getLsbD 31 = false → exec (.memRetrain data) s = .next t)
      ∧ (data.getLsbD 31 = true → s.imageApplied = false → exec (.memRetrain data) s = .next { t with mem := { t.mem with
          retrain := true, stks := t.mem.stks.map fun x => { x with state := 1 }, uch := List.replicate 16 1 } })
      ∧ (data.getLsbD 31 = true → s.imageApplied = true → exec (.memRetrain data) s = .next s))
    ∧ (∀ sts chans, s.mem.retrain = true → exec (.memoryTraining sts chans) s =
        .next (trainChans chans.zipIdx (trainStacks sts.zipIdx { s with mem := { s.mem with retrain := false, phys := [] } })))
    ∧ (∀ st (t : StackTrain),
      (256 ≤ (s.dep.life.stkWeak.getD st 0).toNat → s.trainStack st t = s.setStack st 3 false t.temp)
      ∧ ((s.dep.life.stkWeak.getD st 0).toNat < 256 →
        (s.stackPasses st t.eyes80 t.sweepErr80 = true →
          s.trainStack st t = (addRepairs st t.eyes80 s).setStack st 2 false t.temp)
        ∧ (s.stackPasses st t.eyes80 t.sweepErr80 = false →
          let u := addRepairs st t.eyes80 s
          s.trainStack st t = (addRepairs st t.eyes64 u).setStack st
            (if u.stackPasses st t.eyes64 t.sweepErr64 then 2 else 3) true t.temp)))
    ∧ (∀ c (t : ChanTrain),
      let fast := s.chanPasses t.eyes8533 t.sweepErr8533
      let slow := !fast && s.chanPasses t.eyes6400 t.sweepErr6400
      let u := { s with mem := { s.mem with
        uch := setAt s.mem.uch c (if fast ∨ slow then 2 else 3)
        uslow := BitVec.ofNat 16 (s.mem.uslow.toNat - natOfBool (bitOf s.mem.uslow.toNat c) * 2 ^ c + natOfBool slow * 2 ^ c) } }
      ((fast = true ∨ slow = true) → s.trainChan c t = u)
      ∧ (fast = false → slow = false →
        s.trainChan c t = u.raise { cls := 0x12, cause := 2, detail := [BitVec.ofNat 8 c] }))
    ∧ exec .understoryRetiming s = .next s

/-- MEM_TG_CTL, while its domain is up, sets up the selected traffic generator; with start set a legal mode starts it, cleared, if it
is idle and may run, and is refused otherwise; with stop set a busy one stops (R318). Which of its two rows a write belongs to makes no difference.
A pass writes its pattern in modes 1 and 3 over as many 4 KiB units as it ran, counts the accesses that read back differently
in modes 2 and 3, or came poisoned in a mode that reads, those also in MEM_UE, and ends unless the generator loops and is not stopping. Patterns, places and the
alternation of pseudo-channels, and what a degraded unit may run, are log entry 103's. -/
def Obligations.TrafficGeneratorsRun : Prop :=
  ∀ (s : State),
    (∀ (data : BitVec 32) (c : Instr), (c = .memTgStart data ∨ c = .memTgStop data) → s.regUp Reg.memTgCtl = true →
      let k := s.field Reg.memTgSel 7 0
      let u := s.tgUnit k
      let mode := bitsOf data.toNat 2 0
      let set := { u with mode := BitVec.ofNat 3 mode, pattern := BitVec.ofNat 3 (bitsOf data.toNat 5 3)
                          order := BitVec.ofNat 2 (bitsOf data.toNat 7 6), loop := bitOf data.toNat 10 }
      (144 ≤ k → exec c s = .next s)
      ∧ (k < 144 →
        (bitOf data.toNat 8 = true → u.busy = false → 1 ≤ mode → mode ≤ 4 →
          (mode = 4 ∨ s.tgDegraded k = false ∧ (mode = 2 ∨ s.imageApplied = false)
            ∨ s.tgDegraded k = true ∧ Config.degradedModes = true) →
          exec c s = .next (s.setTg k { set with
            busy := true, stopping := bitOf data.toNat 9, done := false, refused := false, err := false, passes := 0
            errCount := 0, faddr := 0, fbits := 0 }))
        ∧ (bitOf data.toNat 8 = true → (u.busy = true ∨ mode = 0 ∨ 4 < mode
            ∨ (mode = 1 ∨ mode = 3) ∧ s.imageApplied = true ∧ s.tgDegraded k = false
            ∨ mode ≠ 4 ∧ s.tgDegraded k = true ∧ Config.degradedModes = false) →
          exec c s = .next (s.setTg k { u with refused := true }))
        ∧ (bitOf data.toNat 8 = false →
          exec c s = .next (s.setTg k { set with stopping := u.stopping || (u.busy && bitOf data.toNat 9) }))))
    ∧ ∀ (chan : BitVec 8) (flips : List (Nat × Byte)) (poisoned : List Nat),
      let c := chan.toNat
      let u := s.tgUnit c
      c < 144 → u.busy = true → ∃ units fresh v,
        let as := (List.range (units * 4096)).map (u.base.toNat + ·)
        let ph := if u.mode = 1 ∨ u.mode = 3 then tgFill c u s.mem.phys as else s.mem.phys
        let wrong := if u.mode = 2 ∨ u.mode = 3 then as.filter fun a =>
          (s.stored ph (tgPhys c a) ^^^ ((flips.find? fun f => f.1 = a).map (·.2)).getD 0) ^^^ u.byte a ≠ 0 else []
        let hurt := if u.mode = 1 then []
          else poisoned.filter fun a => decide (u.base.toNat ≤ a ∧ a < u.base.toNat + units * 4096)
        let bad := as.filter fun a => wrong.contains a || hurt.contains a
        let accesses := (bad.map (· / (if c < 128 then 32 else 64))).dedup.length
        let t := poisonPlaces (hurt.map (tgPhys c)) s
        exec (.memTgRunComplete chan flips poisoned) s =
          .next (State.setTg { t with fresh, mem := { t.mem with phys := ph } } c v)
        ∧ (u.stopping = false → units = u.len.toNat) ∧ units ≤ u.len.toNat
        ∧ v.busy = (u.loop && !u.stopping) ∧ v.done = (u.stopping || !u.loop)
        ∧ v.err = (u.err || decide (accesses > 0)) ∧ v.errCount = addCnt32 u.errCount accesses
        ∧ (u.stopping = false → u.passes ≠ 0xFFFF → v.passes = u.passes + 1)
        ∧ v.mode = u.mode ∧ v.pattern = u.pattern ∧ v.base = u.base ∧ v.len = u.len

/-- The migration engine visits the granules of its round in turn, and starts a move up for a hot granule or down for a cold one
(R313), but not in S3 and S4 (R434); a finished copy takes effect, counted as a promotion or a demotion, unless the granule was written meanwhile (R314): then
outstanding reads keep the old slot, and the look-aside entries of the granule go. While the granule holds a block under repair
the move does not end (R322). Counts halve at each multiple of their period (R310), and a hint lapses at its end (R312). The one command of a copy is log
entry 106's choice. -/
def Obligations.MigrationMovesGranules : Prop :=
  ∀ (s : State),
    ((s.field Reg.memMigCtl 0 0 = 0 ∨ 3 ≤ s.power.state.toNat) → exec .migrationVisit s = .next s)
    ∧ (s.field Reg.memMigCtl 0 0 = 1 → s.power.state.toNat < 3 → ∀ k i rest r, (if s.mem.visits = [] then s.mem.round else s.mem.visits) = (k, i) :: rest →
      s.mem.region k = some r →
      let t := { s with mem := { s.mem with visits := rest } }
      let g := s.mem.gran r i
      let thr := fun (hi lo : Nat) => s.field Reg.memMigThr hi lo
      let h := if g.hexp ≠ 0 ∧ g.hexp.toNat ≤ s.rt then 0 else g.hint.toNat
      (g.moving = true ∨ g.valid = false → exec .migrationVisit s = .next t)
      ∧ (g.moving = false → g.valid = true → s.mem.underRepair (r.base.toNat + i * r.granBytes) r.granBytes = false →
        (g.under = true → (h = 1 ∨ h ≠ 2 ∧ thr 15 0 ≤ g.count.toNat) →
          (t.openSlots k r false ≠ [] → exec .migrationVisit s = .next (t.startMove k r i false))
          ∧ (t.openSlots k r false = [] → exec .migrationVisit s = .next (t.bump Reg.memNoslot 1)))
        ∧ (g.under = true → h ≠ 1 → (h = 2 ∨ g.count.toNat < thr 15 0) → exec .migrationVisit s = .next t)
        ∧ (g.under = false → h = 2 → exec .migrationVisit s = .next (t.startMove k r i true))))
    ∧ (∀ k v r, s.mem.moves[k]? = some v → s.mem.region v.region = some r →
      (s.mem.underRepair (r.base.toNat + v.gran * r.granBytes) r.granBytes = true → exec (.migrationCopyComplete k) s = .next s)
      ∧ (s.mem.underRepair (r.base.toNat + v.gran * r.granBytes) r.granBytes = false →
      let g := s.mem.gran r v.gran
      let m : Memory := { s.mem with
        moves := s.mem.moves.eraseIdx k
        copies := (s.mem.copies.filter fun c => decide (s.rt < c.1.toNat + 1000)) ++ [(s.ringCount, r.granBytes)] }
      ((g.dirty = true ∨ s.writesTo r v.gran = true) → exec (.migrationCopyComplete k) s =
        .next ({ s with mem := m.setGran r v.gran { g with moving := false, dirty := false } }.bump Reg.memMabrt 1))
      ∧ (g.dirty = false → s.writesTo r v.gran = false →
        let ph := copySlot r g.under g.slot.toNat v.toUnder v.slot.toNat s.mem.phys
        let moved := { g with slot := v.slot, under := v.toUnder, moving := false, dirty := false }
        let t := s.keepSlots r { region := v.region, gran := v.gran, under := g.under, slot := g.slot }
        let m1 := ({ m with phys := ph }.setGran r v.gran moved).dropGlb (r.gt0.toNat + v.gran)
        exec (.migrationCopyComplete k) s =
          .next ({ t with mem := m1 }.bump (if v.toUnder then Reg.memDemo else Reg.memPromo) 1))))
    ∧ (let d := s.field Reg.memMigCtl 7 2
      (s.mem.halved / 2 ^ d < s.rt / 2 ^ d → exec .countHalvingTick s = .next { s with mem := { s.mem with
        granules := halveCounts (s.rt / 2 ^ d - s.mem.halved / 2 ^ d) s.mem.granules, halved := s.rt } })
      ∧ (s.rt / 2 ^ d ≤ s.mem.halved / 2 ^ d → exec .countHalvingTick s = .next s)
      ∧ ∀ k n (gs : SMap Granule), mwf Granule.init gs = true →
        (mget Granule.init (halveCounts n gs) k).count = (mget Granule.init gs k).count >>> min 16 n)
    ∧ ∀ granule : BitVec 28,
      let g := mget Granule.init s.mem.granules granule.toNat
      (g.hint ≠ 0 → g.hexp ≠ 0 → g.hexp.toNat ≤ s.rt → exec (.hintLapse granule) s = .next { s with mem := { s.mem with
        granules := mset Granule.init s.mem.granules granule.toNat { g with hint := 0, hexp := 0 }
        hinted := s.mem.hinted.filter fun h => h ≠ granule.toNat } })
      ∧ ((g.hint = 0 ∨ g.hexp = 0 ∨ s.rt < g.hexp.toNat) → exec (.hintLapse granule) s = .next s)

/-- A block under repair goes through its steps (R320 to R323): a good retry delivers it; after a bad one comes the mirror where
the region has one, else the host; a good mirror copy is written back, a bad one sends the host a request; the verification
read closes the entry, and marks the block weak if it failed; a host that is silent for MEM_REP_TMO fails the block. Patrol
reads one block or mirror copy each interval and opens a repair of that copy for a bad one, once the table has room (R322, R325). What a patrol finds is log entry 104's operand, what a
repair holds log entry 134's reading. -/
def Obligations.BlocksAreRepaired : Prop :=
  ∀ (s : State),
    (∀ k e (bad : Bool), s.mem.repairs[k]? = some e →
      let at_ := s.mem.repairAddr e
      let t := fun (other : Bool) => if bad then s.repairPoison e other else s
      (e.step = .retry →
        (bad = false → s.repairGood e = true → exec (.repairRetryComplete k bad) s =
          .next (((s.deliver at_).dropRepair k).bump Reg.memRetry 1))
        ∧ ((bad = true ∨ s.repairGood e = false) → ∀ r, s.mem.region e.region = some r →
          (r.mirror = true → exec (.repairRetryComplete k bad) s = .next ((t false).setRepair k { e with step := .mirror }))
          ∧ (r.mirror = false → exec (.repairRetryComplete k bad) s = .next ((t false).askHost k e))))
      ∧ (e.step = .mirror → ∀ r, s.mem.region e.region = some r →
        let bs := s.repairBytes e true
        (bad = false → e.chk.good bs = true → exec (.repairMirrorComplete k bad) s = .next (s.writeBack k e r bs false))
        ∧ ((bad = true ∨ e.chk.good bs = false) →
          exec (.repairMirrorComplete k bad) s = .next ((t true).askHost k { e with mirrorBad := true })))
      ∧ (∀ h, e.step = .verify h →
        let u := ((t false).dropRepair k).bump (if h then Reg.memReph else Reg.memRepm) 1
        (bad = false → s.repairGood e = true → exec (.writebackVerifyComplete k bad) s = .next u)
        ∧ ((bad = true ∨ s.repairGood e = false) → exec (.writebackVerifyComplete k bad) s = .next (u.markWeak e)))
      ∧ (e.step = .host → e.asked.toNat + s.regN Reg.memRepTmo ≤ s.rt → exec (.repairHostTimeout k) s =
        .next ((s.failBlock k { e with asked := s.ringCount } 2).fetchBlock e.region e.off e.len)))
    ∧ ∀ bad : Bool,
      (s.field Reg.memPatrol 16 16 = 0 ∨ s.rt < s.mem.patrolDue.toNat ∨ 3 ≤ s.power.state.toNat →
        exec (.patrolRead bad) s = .next s)
      ∧ ∀ k r off mir after, s.field Reg.memPatrol 16 16 = 1 → s.mem.patrolDue.toNat ≤ s.rt → s.power.state.toNat < 3 →
        s.patrolNext = some (k, r, off, mir, after) →
        let t := { s with mem := { s.mem with
          patrolAt := after, patrolDue := s.ringCount + BitVec.ofNat 64 (s.field Reg.memPatrol 15 0) } }
        (bad = false → exec (.patrolRead bad) s = .next t)
        ∧ (bad = true → s.mem.repairs.length < 64 →
          exec (.patrolRead bad) s = .next (t.openRepairOf mir k off (min 16384 (r.bytes - off)) .patrol))
        ∧ (bad = true → 64 ≤ s.mem.repairs.length → exec (.patrolRead bad) s = .next s)

/-! ### Fabric and ports -/

/-- A live Skajor port acknowledges blocks and takes returned credits from a link status, which may ask for a lane switch (R330,
R331), and items that waited for room enter the stream; the blocks it has received advance the number expected next, and a link
status is due after 64. It sends again from the block that a replay request names; an item of a reserved kind makes it retrain
(R328); it discards from an uncorrectable block on, counts it, unless the neighbour's optics are idle (R433), and asks for
the replay, and for a switch at the fourth among 65,536 (R330, R331); follows a switch block to the other lane; and goes down
when both lanes have failed. A port is live after training when versions agree and the far end is the neighbour of its
direction, while the router and the optics are powered (R22, R340, R343, R358), and runs as a firebreak port by its register or
since its neighbour announced another slice (R342). Which end counts is log entry 50's reading, the credits that are not spent log entry 51's. -/
def Obligations.SkajorPortsWork : Prop :=
  ∀ (s : State) (p : BitVec 3), p.toNat < 6 →
    let x := s.port p.toNat
    let y := { x with discarding := false }
    let put := fun (v : Port) => s.setPort p.toNat v
    let sw := Reg.skSw + 4 * p.toNat
    (x.live = true →
      (∀ w0 got, wf w0 3 0 = 2 →
        let z := ({ y with credits := wf w0 55 32, resendFrom := none }.acked (BitVec.ofNat 16 (wf w0 31 16))).pump
        let t := (put z).receiveBlocks p.toNat got
        exec (.skajorLinkStatus p w0 got) s = .next (if wf w0 4 4 = 1 then
            (t.setPort p.toNat { t.port p.toNat with txLane := !x.txLane }).bumpField sw 15 0 1
          else t))
      ∧ (∀ w0, wf w0 3 0 = 3 → exec (.skajorReplayRequest p w0) s =
          .next ((put { y with resendFrom := some (BitVec.ofNat 16 (wf w0 31 16)) }).bump (Reg.skRply + 4 * p.toNat) 1))
      ∧ (∀ w0, 9 ≤ wf w0 3 0 → ∀ c ∈ [Instr.skajorLinkStatus p w0 [], .skajorReplayRequest p w0, .downItem p w0],
          exec c s = .next ((put { x with live := false, ver := 0 }).bump (Reg.skFecu + 4 * p.toNat) 1))
      ∧ (∀ block, (keepRecent block x.badBlocks).length < 3 →
        let bad := keepRecent block x.badBlocks ++ [block]
        let counted := fun (v : Port) => if x.idleFar = true then put v else
          ((put v).bump (Reg.skFecu + 4 * p.toNat) 1).countFec (2 * p.toNat + natOfBool x.rxLane) 15
        (x.discarding = false → exec (.skajorUncorrectableBlock p block) s =
          .next ((counted { x with badBlocks := bad, discarding := true, rxNext := block }).sendItem p.toNat
            (itemOf [3 + 65536 * block.toNat])))
        ∧ (x.discarding = true → exec (.skajorUncorrectableBlock p block) s = .next (counted { x with badBlocks := bad })))
      ∧ (∀ block, 3 ≤ (keepRecent block x.badBlocks).length → x.discarding = false →
        let z := { x with badBlocks := [], discarding := true, rxNext := block }
        exec (.skajorUncorrectableBlock p block) s =
          .next (((if x.idleFar = true then put z else
            ((put z).bump (Reg.skFecu + 4 * p.toNat) 1).countFec (2 * p.toNat + natOfBool x.rxLane) 15).sendItem p.toNat
            (itemOf [3 + 65536 * block.toNat])).sendItem p.toNat z.switchAsk))
      ∧ exec (.switchBlock p) s = .next ((put { y with rxLane := !x.rxLane, retraining := some x.rxLane }).bumpField sw 15 0 1)
      ∧ (∀ w0, wf w0 3 0 = 8 → exec (.downItem p w0) s = .next (put { y with
          nalgn := false, downSeen := true, idleFar := x.idleFar || decide (wf w0 15 8 = 2) }))
      ∧ (∀ spare, let lane := if spare then !x.rxLane else x.rxLane
        let z := { x with laneDown := setAt x.laneDown (natOfBool lane) true }
        ((z.laneDown.all id = true ∨ spare = false ∧ x.spareBad = true) →
          exec (.laneLockLoss p spare) s = .next (put { z with live := false, ver := 0 }))
        ∧ (z.laneDown.all id = false → spare = true →
          exec (.laneLockLoss p spare) s = .next (put { z with retraining := some lane }))
        ∧ (z.laneDown.all id = false → spare = false → x.spareBad = false →
          exec (.laneLockLoss p spare) s = .next ((put z).sendItem p.toNat z.switchAsk))))
    ∧ (∀ lane pass, x.retraining = some lane → exec (.laneRetrainComplete p pass) s =
        .next (put { x with retraining := none, spareBad := !pass, laneDown := setAt x.laneDown (natOfBool lane) (!pass) }))
    ∧ ((s.board.on.getLsbD 27 = false ∨ s.board.on.getLsbD 25 = false) → ∀ nbr, exec (.skajorPortTraining p nbr) s = .next s)
    ∧ (s.board.on.getLsbD 27 = true → s.board.on.getLsbD 25 = true → ∀ nbr, ∃ t, exec (.skajorPortTraining p nbr) s = .next (put t) ∧
      t.out = x.out ∧ t.waiting = x.waiting ∧ t.lastAsk = x.lastAsk ∧ t.seqOut = x.seqOut ∧ t.credits = Port.init.credits ∧
      (nbr = none → t.live = false ∧ t.ver = 0)
      ∧ ∀ h : PortHello, nbr = some h →
        let common := s.field Reg.fabCtl 2 1 &&& h.vmask.toNat
        let dir := s.portDir p.toNat
        let fits := dir < 6 ∧ 1 < s.dim (dir / 2) ∧ h.addr = s.nextTo dir ∧ h.dir.toNat = dir ^^^ 1
        (t.live = true ↔ fits ∧ (bitOf common 0 = true ∨ bitOf common 1 = true))
        ∧ (fits → t.ver = if bitOf common 1 then 2 else if bitOf common 0 then 1 else 0)
        ∧ (t.fbrk = true ↔ h.slice.toNat ≠ s.slice)
        ∧ t.nbrAddr = h.addr ∧ t.nbrSlice = h.slice)
    ∧ (s.fireBroken p.toNat = true ↔ x.fbrk = true ∨ s.field (Reg.skCfg + 4 * p.toNat) 3 3 = 1)
    ∧ ∀ got, p.toNat < s.fabric.ports.length → let t := s.receiveBlocks p.toNat got
      (t.port p.toNat).rxNext = x.rxNext + BitVec.ofNat 16 got.length
        ∧ (x.rxSince + got.length < 64 → (t.port p.toNat).rxSince = x.rxSince + got.length)

/-- A fabric message at a live port meets the checks of Table 12.8 (R335): one on a firebreak port or of another slice is
discarded; one for another module is forwarded; at its destination a stale, a duplicate and a refused one are counted, and one
that passes is delivered once. A resend request finds the kept message and sends it once more from its source, which a transfer
reads where it lies in the device range (R64, R336); where no message is kept it is passed on toward the source, if that is another
module. Log entries 48, 49 and 157 are readings that it rests on. -/
def Obligations.FabricMessagesArrive : Prop :=
  ∀ (s : State) (p : BitVec 3), p.toNat < 6 → (s.port p.toNat).live = true →
    let x := s.port p.toNat
    let fbrk := s.fireBroken p.toNat
    (∀ item, (fabMsg item).cls ≠ 2 → wf (BitVec.ofNat 64 (leAt item 0 8)) 3 0 = 1 →
      let t := s.setPort p.toNat { x with
        discarding := false, returned := x.returned + BitVec.ofNat 24 (ceilDiv item.length 64) }
      let m := fabMsg item
      let d : Delivered := { xslot := BitVec.ofNat 8 m.xslot, tstep := BitVec.ofNat 16 m.tstep, mslot := BitVec.ofNat 12 m.mslot }
      let cur := s.step.num.toNat % 65536
      ((fbrk = true ∨ m.slice ≠ s.slice) → exec (.fabricMessageArrival p item) s = .next
        { t.bump Reg.fabFbrk 1 with fabric := { t.fabric with rangerLog := t.fabric.rangerLog ++ [m.src] } })
      ∧ (fbrk = false → m.slice = s.slice →
        (m.dst ≠ s.torus → exec (.fabricMessageArrival p item) s = .next (t.forward m item))
        ∧ (m.dst = s.torus → s.field Reg.fabCtl 0 0 = 1 → m.cls ≤ 3 → (m.cls = 3 → m.plen = 832) →
          (m.tstep ≠ cur → m.tstep ≠ (cur + 1) % 65536 → exec (.fabricMessageArrival p item) s = .next (t.bump Reg.fabStale 1))
          ∧ ((m.tstep = cur ∨ m.tstep = (cur + 1) % 65536) →
            (d ∈ s.fabric.delivered → exec (.fabricMessageArrival p item) s = .next (t.bump Reg.fabDup 1))
            ∧ (d ∉ s.fabric.delivered → t.fabRefused m = true → exec (.fabricMessageArrival p item) s =
              .next ((t.bump Reg.fabNref 1).plotFault (t.plotOf m.glade)
                { cls := 0x08, cause := 5, glade := some m.glade,
                  detail := leBytes 3 m.src.toNat ++ [BitVec.ofNat 8 m.xslot] ++ leBytes 2 m.mslot }))
            ∧ (d ∉ s.fabric.delivered → t.fabRefused m = false →
              ∀ bs, (if m.elided then unelide m.payload else if payloadGood m.chk m.payload then some m.payload else none) = some bs →
                exec (.fabricMessageArrival p item) s = .next (t.fabWrite m bs))
            ∧ (d ∉ s.fabric.delivered → t.fabRefused m = false →
              (if m.elided then unelide m.payload else if payloadGood m.chk m.payload then some m.payload else none) = none →
                exec (.fabricMessageArrival p item) s = .next ((t.linkFault p.toNat m.src).askResend p.toNat m))))))
    ∧ ∀ w0 w1, fbrk = false → wf w0 3 0 = 7 →
      let t := s.setPort p.toNat { x with discarding := false }
      let dst := BitVec.ofNat 24 (wf w0 63 40)
      let want := fun (k : KeptSend) => decide (k.xslot.toNat = wf w0 15 8 ∧ k.mslot.toNat = wf w0 27 16
        ∧ k.tstep.toNat = wf w1 15 0 ∧ k.dst = dst)
      (s.fabric.kept.find? want = none →
        (dst = s.torus → exec (.resendRequest p w0 w1) s = .next t)
        ∧ (dst ≠ s.torus → exec (.resendRequest p w0 w1) s = .next (t.passRequest p.toNat w0 w1)))
      ∧ ∀ k, s.fabric.kept.find? want = some k →
        (k.resent = true → exec (.resendRequest p w0 w1) s = .next t)
        ∧ (k.resent = false →
          let u := { t with fabric := { t.fabric with kept := t.fabric.kept.map fun e => if want e then { e with resent := true } else e } }
          let d := fabDesc k.desc
          let src := (u.glade k.glade.toNat).read d.saddr d.plen
          let body := match k.shape with
            | some y => elide src y.1 y.2 d.eFill
            | none => fabPayload d k.glade.toNat k.seq.toNat src
          (d.dsrc = true → exec (.resendRequest p w0 w1) s =
            .next (u.addTransfer k.glade.toNat (KeptSend.transfer { k with resent := true } 0 0 0)))
          ∧ (d.dsrc = false → ∀ port, u.routeTo k.dst = .inr port →
            exec (.resendRequest p w0 w1) s = .next
              ((u.launch port (u.fabBuild d k.glade.toNat k.plot.toNat k.tstep.toNat body)).bump Reg.fabRsnd 1)))

/-! ### Time -/

/-- The ring count's states (R347 to R354, Table 12.9). The first marker pulse zeroes the low 16 bits and gives marker lock; a pulse
off the marker or an absent one counts in RING_MISS. A reference loss raises a class 0x0E record of cause 1 and takes ALIGNED to
HOLDOVER, or LOCAL to FREE (log entry 30); a reference that returns in time and near the held ticks takes it back, and one that does not, or an expired holdover,
is FAULT with cause 4. RING_LOAD_HI arms the root's load, which makes a root in LOCAL with no aligned neighbour ALIGNED (R349, R360).

The commands: FRAME_MARKER_PULSE and _ABSENT, RACK_REFERENCE_LOSS and _RETURN, HOLDOVER_EXPIRY, RING_LOAD_ARM, ROOT_RING_LOAD, and
PHASE_MEASUREMENT_TIMER, PHASE_REQUEST and PHASE_RESPONSE; those of the count act while the Ranger's domain is on.

A phase measurement (R350): the port asks when one is due, answers a request with its two stamps, and a response to the
question asked gives, from the counts in full, offset and delay from the four stamps, half the difference and half the sum of the two ways. In LOCAL an
offset from the source port corrects the count, and the fourth good one in a row aligns the module (R349, R351); in ALIGNED it
moves φ by one unit toward zero, and a slip of half a tick is FAULT with cause 3 (R352, R354). The stamps' fractions are free
(log entry 29). The rounding of stamps is log entry 52's reading. -/
def Obligations.RingCountAndPhase : Prop :=
  (∀ (s : State),
     let r := s.ring
     let run := s.board.on.getLsbD 29
     (run = true → r.marker = false → exec .frameMarkerPulse s =
       .next (s.setRing { r with lc := BitVec.ofNat 64 (r.lc.toNat / 65536 * 65536), marker := true }.settle))
     ∧ (run = true → r.marker = true → r.lc.toNat % 65536 ≠ 0 → exec .frameMarkerPulse s = .next (s.bump Reg.ringMiss 1))
     ∧ ((run = false ∨ r.marker = true ∧ r.lc.toNat % 65536 = 0) → exec .frameMarkerPulse s = .next s)
     ∧ (r.marker = true → r.rref = true → r.lc.toNat % 65536 = 0 → exec .frameMarkerAbsent s = .next (s.bump Reg.ringMiss 1))
     ∧ (r.rref = true → run = false → exec .rackReferenceLoss s = .next (s.setRing { r with rref := false }))
     ∧ (r.rref = true → run = true →
       let t := (s.setRing { r with rref := false }).clockFault 1
       (r.mode = .aligned → exec .rackReferenceLoss s =
         .next (((t.setRing { t.ring with mode := .holdover, lossAt := r.lc }).bumpField Reg.ringHold 15 0 1).setCause 2))
       ∧ (r.mode = .locl → exec .rackReferenceLoss s = .next (t.setRing { t.ring with mode := .free, okRun := 0 }))
       ∧ (r.mode ≠ .aligned → r.mode ≠ .locl → exec .rackReferenceLoss s = .next t))
     ∧ (∀ off : Int, r.rref = false → run = false → exec (.rackReferenceReturn off) s = .next (s.setRing { r with rref := true }))
     ∧ (∀ off : Int, r.rref = false → run = true →
       let held := r.lc.toNat - r.lossAt.toNat ≤ 2 ^ s.field Reg.ringCfg 20 16 ∧ off.natAbs ≤ 64
       (r.mode = .holdover → held → exec (.rackReferenceReturn off) s = .next (s.setRing { r with rref := true, mode := .aligned }))
       ∧ (r.mode = .holdover → ¬held → exec (.rackReferenceReturn off) s = .next ((s.setRing { r with rref := true }).ringFault 4))
       ∧ (r.mode ≠ .holdover → exec (.rackReferenceReturn off) s = .next (s.setRing { r with rref := true }.settle)))
     ∧ (r.mode = .holdover → 2 ^ s.field Reg.ringCfg 20 16 < r.lc.toNat - r.lossAt.toNat →
       exec .holdoverExpiry s = .next (s.ringFault 4))
     ∧ (∀ data : BitVec 32, s.regUp Reg.ringLoadHi = true →
       exec (.ringLoadArm data) s = .next { s.setReg Reg.ringLoadHi data with ring := { r with armed := true } })
     ∧ (r.mode = .locl → s.field Reg.ringCfg 2 0 = 7 → r.armed = true →
       (∀ p, p < 6 → (s.port p).live = false ∨ (s.port p).nalgn = false) → r.localAt.toNat + 16777216 ≤ r.lc.toNat →
       r.lc.toNat % 65536 = 0 →
       let a := { r with delta := BitVec.ofNat 64 (s.reg64 Reg.ringLoadLo) - r.lc, phi := 0, mode := .aligned, okRun := 0
                         loaded := true, rejoin := false, port := 7, armed := false, faulted := false }
       (s.livePorts ≠ [] → exec .rootRingLoad s = .next (s.setRing a).setRails)
       ∧ (s.livePorts = [] → exec .rootRingLoad s =
         .next (s.setRing { a with cur := BitVec.ofNat 11 s.offer, held := true }).setRails)))
  ∧ (∀ (s : State) (p : BitVec 3), p.toNat < 6 → (s.port p.toNat).live = true →
       let x := s.port p.toNat
       let heard := { x with discarding := false }
       let word := fun (kind seq freq : Nat) => kind + seq % 256 * 256 + natOfBool (decide (s.ring.mode = .aligned)) * 65536
         + freq * 1048576 + s.rt / 2 ^ 56 * 2 ^ 56
       (s.measureDue p.toNat x = true → ∃ frac : BitVec 8,
         let t1 := (s.rt % 2 ^ 56 * 256 + frac.toNat) % 2 ^ 64
         exec (.phaseMeasurementTimer p) s =
           .next (({ s with fresh := s.fresh + 1 }.setPort p.toNat { x with
             ask := some { seq := x.seqOut, t1 := BitVec.ofNat 64 t1, hi := BitVec.ofNat 8 (s.rt / 2 ^ 56) }, seqOut := x.seqOut + 1, lastAsk := s.ring.lc }).sendItem p.toNat
               (itemOf [word 4 x.seqOut.toNat 0, t1])))
       ∧ (∀ w0 t1 : BitVec 64, wf w0 3 0 = 4 → ∃ f g : BitVec 8,
         let t2 := (s.rt % 2 ^ 56 * 256 + f.toNat) % 2 ^ 64
         let algn := !x.downSeen && decide (wf w0 16 16 = 1)
         let at_ := if s.ring.mode = .locl ∧ algn = true then s.ring.lc else s.ring.localAt
         exec (.phaseRequest p w0 t1) s =
           .next (({ s with fresh := s.fresh + 2, ring := { s.ring with localAt := at_ } }.setPort p.toNat { heard with
             nalgn := algn }).sendItem p.toNat
               (itemOf [word 5 (wf w0 15 8) s.ring.cur.toNat, t2, (t2 + g.toNat) % 2 ^ 64])))
       ∧ ∀ (w0 t2 t3 t4 : BitVec 64) (a : PhaseAsk), wf w0 3 0 = 5 → x.ask = some a → a.seq.toNat = wf w0 15 8 →
         let nbr := wf w0 63 56
         let nbr2 := if t3.toNat < t2.toNat then (nbr + 255) % 256 else nbr
         let back := stampDiff (fullStamp (s.rt / 2 ^ 56) t4) (fullStamp nbr t3)
         let out := stampDiff (fullStamp nbr2 t2) (fullStamp a.hi.toNat a.t1)
         let o := (back - out) / 2
         let algn := decide (wf w0 16 16 = 1)
         let t := (s.setPort p.toNat { heard with ask := none, nalgn := algn, downSeen := false, idleFar := false, nbrFreq := BitVec.ofNat 12 (wf w0 31 20) }).setRing
           { s.ring with ofs := sat32 o, dly := BitVec.ofInt 32 ((back + out) / 2)
                         localAt := if s.ring.mode = .locl ∧ algn then s.ring.lc else s.ring.localAt }
         (s.ring.mode = .locl →
           (t.source = some p.toNat → exec (.phaseResponse p w0 t2 t3 t4) s = .next (t.applyLocal p.toNat o (wf w0 31 20)))
           ∧ (t.source ≠ some p.toNat → exec (.phaseResponse p w0 t2 t3 t4) s = .next t))
         ∧ (s.ring.mode = .aligned → s.ring.port = p →
           (o.natAbs ≤ s.field Reg.ringCfg 15 8 → o.natAbs < 128 → exec (.phaseResponse p w0 t2 t3 t4) s =
             .next (t.setRing { t.ring with
               phi := BitVec.ofInt 8 ((t.ring.phi.toNat : Int) + (if 0 < o then 1 else if o < 0 then -1 else 0))
               delta := t.ring.delta - BitVec.ofInt 64 (((t.ring.phi.toNat : Int) + (if 0 < o then 1 else if o < 0 then -1 else 0)) / 256) }))
           ∧ (128 ≤ o.natAbs → o.natAbs ≤ s.field Reg.ringCfg 15 8 →
             exec (.phaseResponse p w0 t2 t3 t4) s = .next (t.ringFault 3)))
         ∧ (s.ring.mode ≠ .locl → s.ring.mode ≠ .aligned → exec (.phaseResponse p w0 t2 t3 t4) s = .next t))

/-- The stand frequency (R355, R356, R429). At A + 1,000·i an ALIGNED module sends round i, starting with its own offer, and after
the last round its final item, whose value is pending until A + 2²⁰; round items lower the value, a final item that differs is
merged and counted in FREQ_SPLIT; a lower item below the pending value is forwarded, counted and scheduled. Within 5,000 rt of
a rise the rails are raised, and at the first pending count the lowest value due applies and is held, and the rails follow it
(R419, R429). The pending value is the lowest pending frequency, else the current one (log entry 156), and the module's own lower
offer is sent anew after the final item. The value within a round is log entry 53's reading. The commands: FREQ_ROUND_SEND,
FREQ_FINAL_SEND, FREQ_ROUND_ITEM, FREQ_FINAL_ITEM, FREQ_LOWER_ITEM, FREQ_RAIL_PRERAISE and FREQ_APPLY. -/
def Obligations.StandFrequencyIsAgreed : Prop :=
  ∀ (s : State),
    let r := s.ring
    let per := 2 ^ s.field Reg.freqCfg 28 24
    let a := s.rt / per * per
    let since := s.rt % per
    let rounds := s.field Reg.freqCfg 23 16
    (r.mode = .aligned → 0 < rounds → since = 0 →
      let v := s.offer % 4096
      exec .freqRoundSend s = .next ((s.setRing { r with
        roundV := BitVec.ofNat 12 v, roundA := BitVec.ofNat 64 a, roundI := 0, roundOn := true }).broadcastItem (freqItem 0 0 v a)))
    ∧ (∀ i, r.mode = .aligned → 0 < i → i < rounds → since = 1000 * i → r.roundOn = true → r.roundA.toNat = a →
      exec .freqRoundSend s = .next ((s.setRing { r with roundI := i }).broadcastItem (freqItem 0 i r.roundV.toNat a)))
    ∧ (r.mode = .aligned → since = 1000 * rounds → r.roundOn = true → r.roundA.toNat = a →
      exec .freqFinalSend s = .next ((s.setRing { r with
        roundOn := false, pend := BitVec.ofNat 11 r.roundV.toNat
        pendAt := BitVec.ofNat 64 (a + 1048576), pendFromRounds := true }).broadcastItem
        (freqItem 1 rounds r.roundV.toNat a)).checkOffer)
    ∧ (∀ (p : BitVec 3) (w0 w1 : BitVec 64), p.toNat < 6 → (s.port p.toNat).live = true →
      let t := s.setPort p.toNat { s.port p.toNat with discarding := false }
      let v := wf w0 27 16
      wf w0 3 0 = 6 →
      (wf w0 5 4 = 0 → r.roundOn = true → r.roundA = w1 →
        exec (.freqRoundItem p w0 w1) s = .next (t.setRing { r with roundV := BitVec.ofNat 12 (min r.roundV.toNat v) }))
      ∧ (wf w0 5 4 = 1 → r.roundA = w1 → v ≠ r.roundV.toNat →
        exec (.freqFinalItem p w0 w1) s = .next ((t.setRing { r with
          roundV := BitVec.ofNat 12 (min v r.roundV.toNat)
          pend := if r.pendFromRounds then BitVec.ofNat 11 (min v r.roundV.toNat) else r.pend }).bumpField Reg.freqSplit 15 0 1))
      ∧ (wf w0 5 4 = 2 → v < r.pendingValue →
        let u := (t.broadcastItem (freqItem 2 (wf w0 15 8) v w1.toNat)).bumpField Reg.freqSplit 31 16 1
        exec (.freqLowerItem p w0 w1) s =
          .next (u.setRing { u.ring with lowers := u.ring.lowers ++ [{ value := BitVec.ofNat 12 v, at_ := w1 }] }))
      ∧ (wf w0 5 4 = 2 → r.pendingValue ≤ v → exec (.freqLowerItem p w0 w1) s = .next t))
    ∧ ∀ v c, r.nextPend = some (v, c) →
      (r.cur.toNat < v → c ≤ s.rt + 5000 → exec .freqRailPreraise s =
        .next (s.setRing { r with preRaised := true }).setRails)
      ∧ ((v ≤ r.cur.toNat ∨ s.rt + 5000 < c) → exec .freqRailPreraise s = .next s)
      ∧ (s.rt < c → exec .freqApply s = .next s)
      ∧ (c ≤ s.rt →
        let due := (r.lowers.filter fun w => decide (w.at_.toNat ≤ c)).map fun w => w.value.toNat
        let later := r.lowers.filter fun w => decide (c < w.at_.toNat)
        ((r.pendFromRounds = false ∨ c < r.pendAt.toNat) → exec .freqApply s = .next (s.setRing { r with
          cur := BitVec.ofNat 11 (due.foldl min r.cur.toNat), held := true, lowers := later, preRaised := false }).setRails)
        ∧ (r.pendFromRounds = true → r.pendAt.toNat ≤ c → exec .freqApply s = .next (s.setRing { r with
          cur := BitVec.ofNat 11 (due.foldl min r.pend.toNat), held := true, pend := 0, pendAt := 0, pendFromRounds := false
          lowers := later, preRaised := false }).setRails))

/-! ### Host links -/

/-- Commands: alaporFrame, wake, alaporRestart, alaporFullRestart, alaporLinkDown, alaporTraining, ohmipTraining, hello, ohmipLinkStatus,
ohmipReplayRequest, ohmipUncorrectableBlock, ohmipLaneLoss; each clause ends in the command's next state.

An Alapor frame (R361 to R366): its operations are answered in slot order with the state that they leave, the module's frame carries
the status, the ring count and the answers, and the frame's CRC decides what its sideband does. A confirmed reset code restarts the
module, a wake asked for is taken (R366, R435). The link comes up with the host's first normal frame in the version that training has
found, the highest that both masks set, and goes down with the sixteenth bad frame in a row (R368).

The Ohmip stream (R369 to R373): after training the module sends its hello; the host's hello brings the stream up at the
highest common version with the credits it grants, what the host has not accepted going first, or not at all; a link status
acknowledges blocks and grants credit; a replay request names the block to go on from, and an uncorrectable block the one to
ask for; a reserved item retrains the link; a lost lane takes the stream down. Log entries 28, 97, 117 and 118 are choices and
readings that it rests on. -/
def Obligations.HostLinksWork : Prop :=
  (∀ (s : State) (frame : List Byte), s.hostIo = true →
     s.alapor.up = true ∨ (32 ≤ s.alapor.goodRun ∧ s.alapor.trainVer ≠ 0 ∧ goodFrame frame = true ∧ bitsOf (leAt frame 2 1) 5 4 ≠ 1
       ∧ leAt frame 2 1 % 16 = s.alapor.trainVer) →
     let u := if s.alapor.up then s else State.attach { s with alapor := { s.alapor with
       up := true, ver := s.alapor.trainVer, badRun := 0, lastCode := 0, restart := 0, hiLatch := [] } }
     let b := State.bankLosses { u with alapor := { u.alapor with causes := 0 } }
     let carried := if bitsOf (leAt frame 2 1) 5 4 = 1 then 0 else if u.alapor.ver = 3 then 4 else 2
     let r := alaporOps frame carried [0, 1, 2, 3] b b
     let head := [BitVec.ofNat 8 u.alapor.ver, frame.getD 3 0]
       ++ leBytes 4 (natOfBool u.alert + 2 * u.power.state.toNat + 16 * natOfBool u.imageApplied + 32 * u.ring.mode.code
         + 256 * (if u.alapor.ver = 3 then u.gblStatus.toNat % 256 else 0))
       ++ leBytes 8 u.rt ++ zeroBytes 12
     ∃ t, exec (.alaporFrame frame) s = .next t
       ∧ (t.alapor.up = true → t.alapor.frame = leBytes 2 0x3CA5 ++ (head ++ r.1) ++ leBytes 4 (crc32c (head ++ r.1)))
       ∧ (r.2.alapor.up = true →
         (goodFrame frame = true → t = { r.2 with alapor := { r.2.alapor.sideband (leAt frame 52 1) with frame := t.alapor.frame } })
         ∧ (goodFrame frame = false → r.2.alapor.badRun < 15 →
           t.alapor.up = true ∧ t.alapor.badRun = r.2.alapor.badRun + 1 ∧ t.alapor.lastCode = 0)
         ∧ (goodFrame frame = false → 15 ≤ r.2.alapor.badRun →
           t.alapor.up = false ∧ t.alapor.ver = 0 ∧ t.alapor.badRun = 0 ∧ t.alapor.wakeAsked = r.2.alapor.wakeAsked)))
  ∧ (∀ (s : State) (frame : List Byte), s.hostIo = true → s.alapor.up = false → s.alapor.goodRun < 32 →
     ∃ t, exec (.alaporFrame frame) s = .next t ∧ t.alapor.up = false
       ∧ (goodFrame frame = true → t.alapor.badRun = 0 ∧ t.alapor.goodRun = s.alapor.goodRun + 1
         ∧ (s.alapor.goodRun = 31 → bitsOf (leAt frame 2 1) 5 4 = 1 →
           let v := highestCommon s.alapor.mask.toNat (leAt frame 4 2) 3
           t.alapor.trainVer = v ∧ t.alapor.vfault = decide (v = 0)))
       ∧ (goodFrame frame = false → s.alapor.badRun < 15 → t.alapor.badRun = s.alapor.badRun + 1 ∧ t.alapor.goodRun = 0))
  ∧ (∀ (s : State) (frames : List (List Byte)),
     (s.alapor.up = false → exec (.alaporTraining frames) s = .next (frames.foldl State.hostFrame s))
     ∧ (s.alapor.up = true → exec (.alaporLinkDown frames) s = .next (frames.foldl State.hostFrame s)))
  ∧ (∀ s : State, s.alapor.wakeAsked = true → exec .wake s = .next { s with
       alapor := { s.alapor with wakeAsked := false }
       power := { s.power with wakeHeld := decide (s.power.state ≠ 0), wakeRing := some s.ringCount } })
  ∧ (∀ s : State, s.alapor.up = true → s.alapor.restart = 1 → exec .alaporRestart s = .next s.restart3)
  ∧ (∀ s : State, s.alapor.up = true → s.alapor.restart = 2 → exec .alaporFullRestart s = .next s.restart1)
  ∧ (∀ s : State, s.ohmip.up = false → s.hostIo = true → s.ohmip.idle = false →
       let t := { s with ohmip := { s.ohmip with
         hello := true, blockOut := 0, blockIn := 0, blockAcked := 0, vmask := BitVec.ofNat 2 (s.field Reg.ohmCtl 1 0) } }
       exec (.ohmipTraining true) s = .next { t with ohmip := { t.ohmip with wire := s.ohmip.wire ++ [t.helloItem] } })
  ∧ (∀ (s : State) (w0 w1 w2 : BitVec 64), s.ohmip.hello = true → wf w0 3 0 = 4 →
       let v := highestCommon s.ohmip.vmask.toNat (wf w0 15 8) 2
       (v = 0 → exec (.hello w0 w1 w2) s = .next { s with ohmip := { s.ohmip with hello := false, vfault := true } })
       ∧ (v ≠ 0 → s.ohmip.sent = [] →
         exec (.hello w0 w1 w2) s = .next (State.pump { s with ohmip := { s.ohmip with
           up := true, ver := v, vfault := false, hello := false, discarding := false
           nextOut := [s.ohmip.nextOut.getD 0 0, s.ohmip.nextOut.getD 1 0], initial := [wf w0 47 24, wf w1 23 0]
           credit := [wf w0 47 24, wf w1 23 0], used := [0, 0], returned := [0, 0], maxRecord := 8 * wf w1 39 24 } }))
       ∧ (v ≠ 0 → exec (.hello w0 w1 w2) s = .next (s.streamUp v w0 w1 w2)))
  ∧ (∀ (s : State) (w0 w1 : BitVec 64), s.ohmip.up = true → wf w0 3 0 = 2 →
       exec (.ohmipLinkStatus w0 w1) s = .next (State.pump { s with ohmip := { s.ohmip with
         blockAcked := BitVec.ofNat 16 (wf w0 31 16), discarding := false
         credit := [s.ohmip.granted 0 (wf w1 23 0), s.ohmip.granted 1 (wf w1 47 24)] } }))
  ∧ (∀ (s : State) (w0 : BitVec 64), s.ohmip.up = true → wf w0 3 0 = 3 →
       exec (.ohmipReplayRequest w0) s = .next ({ s with ohmip := { s.ohmip with
         blockOut := BitVec.ofNat 16 (wf w0 31 16), discarding := false } }.bump Reg.ohmRply 1))
  ∧ (∀ (s : State) (w0 w1 w2 : BitVec 64), s.ohmip.up = true ∨ s.ohmip.hello = true → 5 ≤ wf w0 3 0 →
       ∀ c ∈ [Instr.hello w0 w1 w2, .ohmipLinkStatus w0 w1, .ohmipReplayRequest w0], exec c s = .next (s.bump Reg.ohmLdf 1).ohmipDown)
  ∧ (∀ (s : State) (block : BitVec 16), s.ohmip.up = true →
       let t := fecLanes [12, 13, 14, 15, 16, 17, 18, 19] s
       (s.ohmip.discarding = true → exec (.ohmipUncorrectableBlock block) s = .next t)
       ∧ (s.ohmip.discarding = false → exec (.ohmipUncorrectableBlock block) s = .next { t with ohmip := { s.ohmip with
           discarding := true, blockIn := block, wire := s.ohmip.wire ++ [leBytes 8 (3 + 65536 * block.toNat)] } }))
  ∧ (∀ (s : State) (lane : BitVec 3), s.ohmip.up = true →
       exec (.ohmipLaneLoss lane) s = .next (State.setCause { s with ohmip := { s.ohmip with
         up := false, ver := 0, hello := false, discarding := false } } 9))

/-! ### Registers and faults -/

/-- Commands: lowWordReadLatch, readClearRead, registerWrite, faultPop, faultWindowLatch; each clause ends in the command's next state.
Register accesses (Table 0.4, R6, R8, R9, R364, R486, R491, R493). A read of the low word of a 64-bit register latches its
high word; a read of a register with RC bits shows the counts and takes them; a write changes the RW bits, and the LK bits
while no image is being applied, which is dropped with status 3 and cause 8 otherwise; an address without register answers
status 1, a register of a domain that is off status 2. A read of FLT_WIN0 latches the head of the fault queue, and a write of
FLT_POP of the head's sequence drops it, any other being a miss. Latches and results are log entries 26 and 27; the counts of
bank conflicts are log entry 97. -/
def Obligations.RegistersAndFaultWindow : Prop :=
  ∀ (s : State), s.rangerRuns = true →
    (∀ (addr : BitVec 32) r, regSpec? addr.toNat = some r → s.regUp addr.toNat = true →
      (s.alapor.hiLatch.find? fun e => e.1 = addr.toNat) = none →
      (addr.toNat ∈ lowWords → r.rc = 0 → exec (.lowWordReadLatch addr) s = .next { s with
        alapor := { s.alapor with hiLatch := mput s.alapor.hiLatch (addr.toNat + 4) (s.peek (addr.toNat + 4)) }
        regs := { s.regs with readout := s.peek addr.toNat, status := 0 } })
      ∧ (addr.toNat ∉ lowWords → r.rc ≠ 0 → addr.toNat ≠ Reg.fltWin → addr.toNat ≠ Reg.memTgErr →
        let t := if addr.toNat = Reg.gldBank ∨ addr.toNat = Reg.expStall then s.bankLosses else s
        exec (.readClearRead addr) s =
          .next ((t.setReg addr.toNat (t.reg addr.toNat - (t.peek addr.toNat &&& r.rc))).show (t.peek addr.toNat) 0))
      ∧ (addr.toNat = Reg.memTgErr → s.tgChan < 144 →
        exec (.readClearRead addr) s =
          .next ((s.setTg s.tgChan { s.tgUnit s.tgChan with errCount := 0 }).show (s.peek Reg.memTgErr) 0)))
    ∧ (∀ addr data : BitVec 32, hasOwnRow addr.toNat = false →
      let t := { s with alapor := { s.alapor with causes := 0 } }
      let a := addr.toNat
      (regSpec? a = none → exec (.registerWrite addr data) s = .next (t.show 0 1))
      ∧ ∀ r, regSpec? a = some r →
        (s.regUp a = false → exec (.registerWrite addr data) s = .next (t.show 0 2))
        ∧ (s.regUp a = true → isTgReg a = false → a ≠ Reg.gblStat → ¬(Reg.mbxData ≤ a ∧ a < Reg.mbxData + 4096) →
          (r.lk = 0 → r.rw = 0 → exec (.registerWrite addr data) s = .next (t.show 0 0))
          ∧ (r.lk = 0 → r.rw ≠ 0 → exec (.registerWrite addr data) s = .next ((t.storeReg a data).show 0 0))
          ∧ (r.lk ≠ 0 → s.applying = true → exec (.registerWrite addr data) s =
            .next (((t.setReg a (keptValue a (maskWord (s.reg a) data r.rw))).setCause 8).show 0 3))
          ∧ (r.lk ≠ 0 → s.applying = false → exec (.registerWrite addr data) s =
            .next ((((t.storeReg a data).checkWrite a data (t.configFaults .none)).afterWrite a).show 0 0)))
        ∧ (s.regUp a = true → isTgReg a = true → exec (.registerWrite addr data) s = .next ((t.writeTg a data).show 0 0))
        ∧ (s.regUp a = true → a = Reg.gblStat → exec (.registerWrite addr data) s = .next ((t.clearCauses data).show 0 0))
        ∧ (s.regUp a = true → Reg.mbxData ≤ a → a < Reg.mbxData + 4096 →
          exec (.registerWrite addr data) s = .next ((t.writeMbxData a data).show 0 0)))
    ∧ (∀ r rs, s.dep.queue = r :: rs →
      ((s.alapor.hiLatch.find? fun e => e.1 = Reg.fltWin) = none → s.regUp Reg.fltWin = true →
        exec .faultWindowLatch s = .next { s with
          dep := { s.dep with window := r.bytes, latched := true }
          regs := { s.regs with readout := BitVec.ofNat 32 (leAt r.bytes 0 4), status := 0 } })
      ∧ exec (.faultPop r.seq) s = .next { s with dep := { s.dep with queue := rs, latched := false, popmiss := false } }
      ∧ ∀ data, data ≠ r.seq → exec (.faultPop data) s = .next { s with dep := { s.dep with popmiss := true } })
    ∧ (s.dep.queue = [] → ∀ data, exec (.faultPop data) s = .next { s with dep := { s.dep with popmiss := true } })

/-! ### The stand image -/

/-- Commands: verifyImage, storeImage, stageImage, applyImage, rollback, reload, imageCancel, bootSlot, imageCommandComplete,
bootImageApply, drainLimitExpiry; each clause ends in the command's next state.

Image commands (R397, R399, R401, R408, R409): VERIFY, STORE, STAGE and BOOT start a command that ends at IMAGE_COMMAND_COMPLETE,
a verified container being staged, a failed one reported; APPLY applies the staged container at once where no image is applied
and schedules an update at IMG_APPLY otherwise; ROLLBACK and RELOAD are scheduled, and IMAGE_CANCEL withdraws an operation whose
first phase has not begun. A command while one runs, or one with nothing to do, is refused with cause 0x0D.

Once after a power-on sequence, when training has ended, the boot slot's image is staged and applied, and the other slot's if
that fails (R398). At the drain limit of a phase, once, what the phase must end and has not ended is aborted, each with a
class 0x10 record and IMG_DABRT counted, and held plots still in their step halt (R406). Log entries 89, 90, 95 and 119 are
readings that it rests on. -/
def Obligations.ImageCommandsAndPhasesRun : Prop :=
  let start := fun (s : State) (op : Nat) (slot : Bool) (cause : Nat) (body : List Byte) =>
    s.setImage { s.image with run := some { op, slot, cause := BitVec.ofNat 8 cause, body } }
  let scheduled := fun (s : State) (op : ImageOp) (phases : List PhaseInfo) => s.setImage { s.image with
    state := 2, prior := s.image.state, op, applyStep := s.reg64 Reg.imgApplyLo, phases, phase := 0, rolling := false
    undo := s.image.setup }
  (∀ (s : State) (slot bad : Bool), s.rangerRuns = true → s.imageBusy = true →
    ∀ c ∈ [Instr.verifyImage, .storeImage slot, .stageImage slot, .applyImage bad, .rollback, .reload, .imageCancel, .bootSlot slot],
      exec c s = .next (s.imageFault 0x0D 0 s.phasing))
  ∧ (∀ s : State, s.rangerRuns = true → s.imageBusy = false →
      exec .verifyImage s = .next (start s 1 false (s.containerCause s.stagedContainer) s.stagedContainer))
  ∧ (∀ (s : State) (slot : Bool), s.rangerRuns = true → s.imageBusy = false →
      (s.image.stagedOk = true → s.slotBoot (natOfBool slot) = false →
        exec (.storeImage slot) s = .next (start s 2 slot 0 s.image.staged))
      ∧ ((s.image.stagedOk = false ∨ s.slotBoot (natOfBool slot) = true) →
        exec (.storeImage slot) s = .next (s.imageFault 0x0D 0 s.phasing))
      ∧ exec (.stageImage slot) s =
        .next (start s 3 slot (s.containerCause (s.slotContainer (natOfBool slot))) (s.slotContainer (natOfBool slot)))
      ∧ exec (.bootSlot slot) s = .next (start s 8 slot 0 []))
  ∧ (∀ (s : State) (bad : Bool), s.rangerRuns = true → s.imageBusy = false → s.image.op = .none → s.image.stagedOk = true →
      s.security.idFail = false →
      (s.image.state = 0 → exec (.applyImage bad) s = .next ((s.initialApply s.image.staged bad).1.setCause 4))
      ∧ (s.image.state ≠ 0 → s.updateCause s.image.staged = 0 →
        exec (.applyImage bad) s = .next (scheduled s .update (s.myPhases s.image.staged)))
      ∧ (s.image.state ≠ 0 → s.updateCause s.image.staged ≠ 0 →
        exec (.applyImage bad) s = .next (s.imageFault (s.updateCause s.image.staged) 0 true)))
  ∧ (∀ s : State, s.rangerRuns = true → s.imageBusy = false → s.image.op = .none → s.image.state ≠ 0 → s.image.retained ≠ [] →
      exec .rollback s = .next (scheduled s .rollback
        [{ num := 1, drain := 100000, hold := plotMask (Setup.everyPlot s.image.setup s.retainedSetup) }]))
  ∧ (∀ s : State, s.rangerRuns = true → s.imageBusy = false → s.image.op = .none → s.image.state ≠ 0 →
      let m := BitVec.ofNat 64 (s.reg64 Reg.imgReloadLo)
      exec .reload s = .next (scheduled s (.reload m) [{ num := 1, drain := 100000, hold := m }]))
  ∧ (∀ s : State, s.rangerRuns = true → s.imageBusy = false →
      (s.image.op ≠ .none → s.image.phase = 0 → exec .imageCancel s =
        .next ((s.setImage { s.image with op := .none, state := s.image.prior, phases := [] }).setCause 4))
      ∧ ((s.image.op = .none ∨ s.image.phase ≠ 0) → exec .imageCancel s = .next (s.imageFault 0x0D 0 s.phasing)))
  ∧ (∀ (s : State) r, s.rangerRuns = true → s.image.run = some r →
      let t := s.setImage { s.image with run := none }
      (r.op = 1 → exec .imageCommandComplete s = .next ((t.endVerify r).setCause 4))
      ∧ (r.op = 2 → s.board.norHold = false → exec .imageCommandComplete s = .next
        (((t.storeSlot (natOfBool r.slot) r.body).markSlot r.slot
          (decide ((t.storeSlot (natOfBool r.slot) r.body).slotContainer (natOfBool r.slot) = r.body))).setCause 4))
      ∧ (r.op = 3 → exec .imageCommandComplete s = .next
        ((((t.fillDev stagingRegion.base.toNat r.body).endVerify r).markSlot r.slot (decide (r.cause = 0))).setCause 4))
      ∧ (r.op = 8 → s.board.norHold = false → exec .imageCommandComplete s =
        .next (((t.setBoot (natOfBool r.slot) true).setBoot (1 - natOfBool r.slot) false).setCause 4)))
  ∧ (∀ (s : State) (bad bad2 : Bool), s.rangerRuns = true → s.image.bootDue = true → s.imageApplied = false →
      s.security.idFail = false → s.image.run = none → s.trained = true → s.board.seq = .idle →
      let t := s.setImage { s.image with bootDue := false }
      ((List.range 2).find? s.slotBoot = none → exec (.bootImageApply bad bad2) s = .next t)
      ∧ ∀ k, (List.range 2).find? s.slotBoot = some k →
        exec (.bootImageApply bad bad2) s =
          .next (if (t.bootSlot k bad).2 then (t.bootSlot k bad).1 else ((t.bootSlot k bad).1.bootSlot (1 - k) bad2).1))
  ∧ (∀ s : State, s.image.phase ≠ 0 →
      ((s.image.drained = true ∨ s.rt < s.image.beginRing.toNat + s.phaseInfo.drain) → exec .drainLimitExpiry s = .next s)
      ∧ (s.image.drained = false → s.image.beginRing.toNat + s.phaseInfo.drain ≤ s.rt →
        let t := drainPorts s.image.drainPorts (drainPlots (List.range 64) (drainGlades (s.glades.map (·.1)) s.drainMemory))
        exec .drainLimitExpiry s = .next (t.setImage { t.image with drained := true })))
  ∧ (∀ (t : State) (p : Nat) (ps : List Nat),
      ((t.plot p).held = true → (t.plot p).run ≠ .none → drainPlots (p :: ps) t = drainPlots ps
        (((t.raise { cls := 0x10, cause := 3, plot := some p, halted := true }).bump Reg.imgDabrt 1).halt p))
      ∧ (((t.plot p).held = false ∨ (t.plot p).run = .none) → drainPlots (p :: ps) t = drainPlots ps t))

/-! ### Power -/

/-- Commands: wardenPeriod, railSettled, droopDetect, droopRecovery, ageingReport, marginalGraceExpiry; each clause ends in the
command's next state.

The Warden's period (R415 to R417, R424): with the reports latched, the temperatures taken and what is due of points and hints in
place, the grove pool is the capped budget's share, never below zero; a grove that is on moves one point down if its power is
above its share, the input above the cap or its droops above the limit, one up at seven eighths of its share or less, and never
below its floor; a grove that is not on has no share and point 0. A period over the cap counts in WARDEN_OVER.

A grove that narrows does so at once, its rail lowered to the set point of the new operating point; one that widens has its rail
raised first. A settled rail widens issue (R420); a droop doubles the clock's period until PWR_DROOP.rec cycles have passed, which
PWR_STRETCH counts (R422). An ageing report rounds down to 5 MHz and never raises the current fmax (R426); a glade in service
that becomes marginal has its grace, its record and its cause (R427), and after the grace the glade, if it is still in
service, enters the fmax. Corrected errors count in MEM_CE and for their lane (R290, R297). Log entries 54, 55 and 104 are readings and choices
that it rests on. -/
def Obligations.PowerFollowsItsBudget : Prop :=
  ∀ (s : State),
    (∀ r : WardenReport, s.rt % 2500 = 0 → s.rangerRuns = true → s.board.bootRom = false →
      let v := s.latchReports r
      let a := countCorrected r.ce (((v.setBoard { v.board with vin := r.vin }).countEnergy r.pin).takeTemps r)
      let u := (a.setBoard a.board.countInRange).takeHints
      let cap := s.field Reg.wardenCap 13 0
      let png := ((List.range 14).map fun d => u.power.domainSum (d + 16)).sum
      let pool := min (cap * s.field Reg.wardenCap 23 16 / 256) (cap - png - 10 * s.field Reg.wardenCfg 7 0)
      let all := (List.range 16).map fun d =>
        let rs := (s.latchAll r).getD d []
        !rs.isEmpty && rs.all fun e => !e.2.2 || decide (16 ≤ e.2.1)
      ∃ t, exec (.wardenPeriod r) s = .next t
        ∧ t.power = (wardenGroves pool all (List.range 16)
          (u.setPower { u.power with png := BitVec.ofNat 16 png, pool := BitVec.ofNat 16 pool })).power
        ∧ t.power.pin = r.pin ∧ t.power.pool = BitVec.ofNat 16 pool
        ∧ (cap < r.pin.toNat → (s.reg Reg.wardenOver).toNat < 2 ^ 32 - 1 →
          (t.reg Reg.wardenOver).toNat = (s.reg Reg.wardenOver).toNat + 1))
    ∧ (∀ (gv pool : Nat) (all : Bool) (gvs : List Nat) (bs : List Bool),
      let x := s.gpower gv
      let y := s.groveNext gv pool all
      let share := pool * s.field (Reg.wardenFrac + 4 * gv) 16 0 / 65536
      let p := if 4 ≤ y.seen.toNat then s.power.domainSum gv else share
      let o := if share < p ∨ s.field Reg.wardenCap 13 0 < s.power.pin.toNat ∨ s.field Reg.wardenCfg 15 8 < x.droops
        then min 7 (x.op.toNat + 1) else if 8 * p ≤ 7 * share then x.op.toNat - 1 else x.op.toNat
      let old := (x.raising.getD x.op).toNat
      y.op.toNat = max o (s.floorOf gv) ∧ y.droops = 0 ∧ y.seen.toNat ≤ x.seen.toNat + 1 ∧ y.railAt = s.ringCount
      ∧ (y.op.toNat < old → y.raising = some (BitVec.ofNat 3 old) ∧ y.rail = BitVec.ofNat 16 (s.railNow gv x))
      ∧ (old ≤ y.op.toNat → y.raising = none ∧ y.rail = BitVec.ofNat 16 (s.setPoint gv y.op.toNat))
      ∧ (s.board.on.getLsbD gv = true →
        wardenGroves pool bs (gv :: gvs) s = wardenGroves pool bs gvs (s.setGpower gv (s.groveNext gv pool (bs.getD gv false))))
      ∧ (s.board.on.getLsbD gv = false → wardenGroves pool bs (gv :: gvs) s = wardenGroves pool bs gvs
        (s.setGpower gv { x with op := 0, share := 0, report := 0, raising := none, droops := 0 })))
    ∧ (∀ gv : BitVec 4,
      let x := s.gpower gv.toNat
      (x.raising ≠ none → exec (.railSettled gv) s = .next (s.setGpower gv.toNat { x with
        raising := none, rail := BitVec.ofNat 16 (s.setPoint gv.toNat x.op.toNat), railAt := s.ringCount }))
      ∧ (s.groveRuns gv.toNat = true → x.stretched = false →
        exec (.droopDetect gv) s = .next (s.setGpower gv.toNat { x with stretched := true, droops := x.droops + 1 }))
      ∧ ∀ cycles, x.stretched = true → s.field Reg.pwrDroop 15 8 ≤ cycles → exec (.droopRecovery gv cycles) s =
        .next ((s.setGpower gv.toNat { x with stretched := false }).bump Reg.pwrStretch cycles))
    ∧ ∀ phys mhz : BitVec 11, phys.toNat < 1056 →
      let ph := phys.toNat
      let x := s.physGlade ph
      (s.groveRuns (ph / 66) = true →
        let cur := min (s.curFmax ph) (mhz.toNat / 5 * 5)
        let y := { x with cur := some (BitVec.ofNat 11 cur) }
        let u := s.setPhys ph y
        (s.ring.pendingValue ≤ cur → exec (.ageingReport phys mhz) s = .next u.checkOffer)
        ∧ (s.inServicePhys ph = true → cur < s.ring.pendingValue →
          (s.ring.pendingValue ≤ cur + s.field Reg.pwrFcfg 7 0 → x.marginal = false → exec (.ageingReport phys mhz) s =
            .next ((((u.setPhys ph { y with
                marginal := true, graceEnd := some (s.ringCount + BitVec.ofNat 64 (2 ^ s.field Reg.pwrFcfg 13 8)), inFmax := false }).raise
              { cls := 0x11, cause := 0, detail := leBytes 2 ph ++ leBytes 2 cur }).setCause 3)).checkOffer)
          ∧ (cur + s.field Reg.pwrFcfg 7 0 < s.ring.pendingValue → exec (.ageingReport phys mhz) s =
            .next (u.setPhys ph { y with inFmax := true }).checkOffer)))
      ∧ ∀ e, x.graceEnd = some e →
        (e.toNat ≤ s.rt → exec (.marginalGraceExpiry phys) s =
          .next (s.setPhys ph { x with graceEnd := none, inFmax := s.inServicePhys ph }).checkOffer)
        ∧ (s.rt < e.toNat → exec (.marginalGraceExpiry phys) s = .next s)

/-- Commands: idleEntry, idleExit, s1Exit, latencyToleranceWrite, suspendArm, resumeArm; each clause ends in the command's next state.

Idle states (R430 to R436, R492). IDLE_ENTRY enters the deepest state that is allowed and meets R430, if it is deeper than the
present one and no wake holds the module in S0; entry counts in the state's PWR_IDLEC. A write of GBL_LTR holds at once and
begins an exit if the tolerance has fallen below the exit latency; IDLE_EXIT leaves a state that may not go on, to S0 on a
wake, and from S1 or S2 nothing needs to be put back (Table 15.5). S1 between steps ends 50 rt before the boundary (R432).
Writes of PWR_SUSP_HI and PWR_RES_HI arm a suspension and a resume step; a suspension that comes late starts at the next boundary,
which PWR_SUSP then reads (log entry 159). Entry and exit in one command each are log entry 56's
choice. -/
def Obligations.IdleStatesFollowTheTolerance : Prop :=
  ∀ (s : State),
    (∀ k, s.power.state.toNat < k → k ≤ 4 → s.awakeHeld = false → s.idleMeets k = true →
      (∀ j, k < j → j ≤ 4 → s.idleMeets j = false) →
      exec .idleEntry s = .next (s.enterIdle k)
      ∧ (s.enterIdle k).power.state = BitVec.ofNat 3 k ∧ (s.enterIdle k).board.on = idleOn k
      ∧ ((s.reg (Reg.pwrIdlec + 4 * (k - 1))).toNat < 2 ^ 32 - 1 →
        ((s.enterIdle k).reg (Reg.pwrIdlec + 4 * (k - 1))).toNat = (s.reg (Reg.pwrIdlec + 4 * (k - 1))).toNat + 1))
    ∧ ((s.awakeHeld = true ∨ ∀ j, s.power.state.toNat < j → j ≤ 4 → s.idleMeets j = false) → exec .idleEntry s = .next s)
    ∧ (s.power.state ≠ 0 →
      let k := s.power.state.toNat
      let up := { s with board := { s.board with on := 0x3FFFFFFF, asleep := 0 }, power := { s.power with state := 0, wakeHeld := false } }
      (s.awakeHeld = true → exec .idleExit s = .next s.exitIdle)
      ∧ (k < 3 → s.exitIdle = up)
      ∧ (s.awakeHeld = false → s.idleAllowed k = true → exitRt k ≤ s.tolRt →
        (∀ d, s.toResume = some d → exitRt k < d) → exec .idleExit s = .next s)
      ∧ (s.awakeHeld = false → s.tolRt < exitRt k → s.toResume = none →
        exec .idleExit s = .next (s.leaveFor (s.deepest (k - 1)))))
    ∧ (s.power.state = 1 → s.power.suspended = false → s.stepAt s.step.next ≤ s.rt + 50 → exec .s1Exit s = .next { s with
        power := { s.power with state := 0 }, board := { s.board with asleep := 0 } })
    ∧ (s.rt + 50 < s.stepAt s.step.next → exec .s1Exit s = .next s)
    ∧ (s.board.on.getLsbD 29 = true → ∀ data : BitVec 32,
      (s.power.state = 0 → exec (.latencyToleranceWrite data) s = .next (s.storeReg Reg.gblLtr data))
      ∧ (let u := s.storeReg Reg.gblLtr data
        s.power.state ≠ 0 → u.tolRt < exitRt s.power.state.toNat → s.awakeHeld = false → s.toResume = none →
        exec (.latencyToleranceWrite data) s = .next (u.leaveFor (u.deepest (s.power.state.toNat - 1))))
      ∧ (let t := s.setReg Reg.pwrSuspHi data
        let k := t.reg64 Reg.pwrSuspLo
        (s.period = 0 ∨ s.rt < s.stepAt k → exec (.suspendArm data) s = .next { t with power := { s.power with
          suspArmed := some (BitVec.ofNat 64 k) } })
        ∧ (s.period ≠ 0 → s.stepAt k ≤ s.rt → ∀ m,
          let toCome := fun (j : Nat) => s.rt < s.stepAt j ∨ s.rt = s.stepAt j ∧ s.step.next ≤ j
          toCome m → (∀ j, toCome j → m ≤ j) →
          exec (.suspendArm data) s = .next { t.setReg64 Reg.pwrSuspLo m with power := { s.power with
            suspArmed := some (BitVec.ofNat 64 m) } }))
      ∧ exec (.resumeArm data) s = .next { s.setReg Reg.pwrResHi data with power := { s.power with
          resArmed := some (BitVec.ofNat 64 ((s.setReg Reg.pwrResHi data).reg64 Reg.pwrResLo)) } })

/-! ### Supply, sequence and pins -/

/-- Commands: powerFailWarning, inputRecovery, groveClockResume, underVoltageOff, rangerDomainCutoff, inputReturn, overVoltageShutdown,
overVoltageRecovery; each clause ends in the command's next state.

The input supply (R14 to R16). Below 57 V the power-fail warning counts, sets its status bit and is recorded, and the groves
are gated; above 58.5 V it recovers, and four reports in range let the clocks resume; below 56 V every domain but the Ranger's
turns off, below 40 V that one too; the input's return above 58.5 V starts the power-on sequence, the Ranger keeping what it
holds where its domain stayed up. Above 82 V everything turns off with the over-voltage bit kept; below 81 V it may start again.
The zones are log entry 19's choice, what over-voltage keeps log entry 22's reading. -/
def Obligations.SupplyLimitsAct : Prop :=
  let zone := fun (s : State) (v : BitVec 16) (z : InputZone) => s.setBoard { s.board with vin := v, zone := z }
  let fresh := fun (s : State) (v : BitVec 16) (z : InputZone) => s.setBoard { s.board with vin := v, zone := z, inRange := 0 }
  let back := fun (s : State) =>
    if s.board.perstN = false then s
    else if s.board.svcHoldN then s.fromStep1 else s.setBoard { s.board with on := 0x20000000, rangerReset := true }
  (∀ (s : State) (v : BitVec 16), v.toNat < 5700 → (s.board.zone = .ok ∨ s.board.zone = .recovering) →
    (s.rangerRuns = true → exec (.powerFailWarning v) s = .next ((((fresh s v .warned).setLife
      { s.dep.life with pfail := addCnt32 s.dep.life.pfail 1 }).setStatus 1).boardFault 1 0 0 0 0))
    ∧ (s.rangerRuns = false → exec (.powerFailWarning v) s = .next (fresh s v .warned)))
  ∧ (∀ (s : State) (v : BitVec 16), 5850 < v.toNat → s.board.zone = .warned →
    (s.board.on.getLsbD 29 = true → exec (.inputRecovery v) s = .next (fresh s v .recovering))
    ∧ (s.board.on.getLsbD 29 = false → exec (.inputRecovery v) s = .next (back (fresh s v .ok))))
  ∧ (∀ s : State, s.board.zone = .recovering → 4 ≤ s.board.inRange →
    exec .groveClockResume s = .next (s.setBoard { s.board with zone := .ok, inRange := 0 }))
  ∧ (∀ s : State, s.board.zone = .recovering → s.board.inRange < 4 → exec .groveClockResume s = .next s)
  ∧ (∀ (s : State) (v : BitVec 16), v.toNat < 5600 → (s.board.zone = .ok ∨ s.board.zone = .warned ∨ s.board.zone = .recovering) →
    (s.rangerRuns = true → exec (.underVoltageOff v) s = .next ((zone s v .under).rangerOnly.boardFault 2 0 0 0 0))
    ∧ (s.rangerRuns = false → s.board.on.getLsbD 29 = true → exec (.underVoltageOff v) s = .next (zone s v .under).rangerOnly)
    ∧ (s.board.on.getLsbD 29 = false → exec (.underVoltageOff v) s = .next (zone s v .under)))
  ∧ (∀ (s : State) (v : BitVec 16), v.toNat < 4000 → s.board.zone = .under →
    exec (.rangerDomainCutoff v) s = .next (zone s v .cutoff).allOff ∧ (zone s v .cutoff).allOff.board.on = 0)
  ∧ (∀ (s : State) (v : BitVec 16), 5850 < v.toNat → (s.board.zone = .under ∨ s.board.zone = .cutoff) →
    (s.rangerRuns = true → s.board.svcHoldN = true → exec (.inputReturn v) s = .next ((zone s v .ok).restartFrom 1))
    ∧ ((s.rangerRuns = false ∨ s.board.svcHoldN = false) → exec (.inputReturn v) s = .next (back (zone s v .ok))))
  ∧ (∀ (s : State) (v : BitVec 16), 8200 < v.toNat → s.board.zone ≠ .over →
    exec (.overVoltageShutdown v) s = .next ((zone s v .over).allOff.setStatus 0x10))
  ∧ (∀ (s : State) (v : BitVec 16), s.board.zone = .over → v.toNat < 8100 →
    (5850 < v.toNat → exec (.overVoltageRecovery v) s = .next ((back (zone s v .ok)).setStatus (s.board.status &&& 0x10)))
    ∧ (v.toNat ≤ 5850 → exec (.overVoltageRecovery v) s = .next (zone s v .cutoff)))
  ∧ (∀ s : State, s.fromStep1.board.seq = .due 1 ∧ (s.restartFrom 1).board.seq = .due 1
    ∧ s.rangerOnly.board.on = 0x20000000 ∧ s.rangerOnly.ring.lc = s.ring.lc
    ∧ s.rangerOnly.dep.queue = s.dep.queue ∧ s.rangerOnly.security.tenants = s.security.tenants)

/-- Commands: powerOnSequence, sequenceStepPowerGood, railPowerGoodMiss, powerDownSequence, perstNFall, perstNRise, svcHoldAssert,
svcHoldRelease, thermalTrip, leakDetect, orefLoss, orefReturn; each clause ends in the command's next state.

The power sequence of Table 1.3 (R17 to R19, R22, R24, R29, R35, R36, R398, R465). A sequence due from step 1 waits for the input,
runs the boot ROM and, with a valid image, raises step 3; each power good raises the next step's rails, step 8 grove by grove, and
after grove 15 memory training begins; a miss turns off what was raised, and is logged and recorded. PERST_N low and SVC_HOLD_N low
turn everything off with the Ranger in reset, and their rise makes the sequence due; a trip turns every other domain off and
is recorded, and a leak makes the power-down due, also where a sequence would start. A lost OREF takes both host links down; its
return begins Alapor training. Log entries 20, 21, 22, 23 and 129 are readings that it rests on. -/
def Obligations.PowerSequenceRuns : Prop :=
  (∀ s : State, s.board.seq = .due 1 → s.inputGood = true → s.board.wet = false →
    (s.bootRom.board.bootRom = false → exec .powerOnSequence s = .next (s.bootRom.powerOn.raiseStep 3 0))
    ∧ (s.bootRom.board.bootRom = true → exec .powerOnSequence s = .next s.bootRom))
  ∧ (∀ s : State, s.board.seq = .due 3 → s.board.bootRom = false → (s.inputGood = true ∨ s.board.zone = .warned) →
    (s.board.wet = false → exec .powerOnSequence s = .next (s.powerOn.raiseStep 3 0))
    ∧ (s.board.wet = true → s.board.status.getLsbD 3 = false → exec .powerOnSequence s = .next s.leakFound)
    ∧ (s.board.wet = true → s.board.status.getLsbD 3 = true →
      exec .powerOnSequence s = .next (s.setBoard { s.board with seq := .down })))
  ∧ (∀ s : State, s.board.seq = .due 1 → s.inputGood = false → exec .powerOnSequence s = .next s)
  ∧ (∀ (s : State) (n gv : Nat), s.board.seq = .up n gv →
    (n < 7 → exec .sequenceStepPowerGood s = .next (s.raiseStep (n + 1) 0))
    ∧ (n = 7 → exec .sequenceStepPowerGood s = .next (s.raiseStep 8 0))
    ∧ (n = 8 → gv < 15 → exec .sequenceStepPowerGood s = .next ((s.groveRises gv).raiseStep 8 (gv + 1)))
    ∧ (n = 8 → 15 ≤ gv → exec .sequenceStepPowerGood s =
      .next ((s.groveRises gv).setBoard { s.board with seq := .idle }).startTraining))
  ∧ (∀ (s : State) (n gv : Nat) (rail : BitVec 8), s.board.seq = .up n gv →
    let t := s.rangerOnly
    let u := t.setBoard { t.board with rangerLog := t.board.rangerLog ++ [(n, rail.toNat)] }
    exec (.railPowerGoodMiss rail) s = .next (((u.setLife { u.dep.life with
      rfault := addCnt32 u.dep.life.rfault 1 }).setStatus 0x20).boardFault 4 n rail.toNat 0 rail.toNat))
  ∧ (∀ (s : State) (n gv : Nat),
    let t := s.setBoard { s.board with on := s.board.on ||| stepDomains n gv, seq := .up n gv }
    s.raiseStep n gv = if n = 3 then { t with alapor := { t.alapor with
      mask := BitVec.ofNat 3 (s.field Reg.alpCtl 2 0), goodRun := 0, trainVer := 0 } } else t)
  ∧ (∀ s : State, s.board.seq = .down → exec .powerDownSequence s = .next s.rangerOnly)
  ∧ (∀ s : State, s.board.perstN = true →
    let t := (s.setBoard { s.board with perstN := false, flash := .nobody }).allOff
    exec .perstNFall s = .next (t.setBoard { t.board with rangerReset := true }) ∧ t.board.on = 0)
  ∧ (∀ (s : State) (ga : BitVec 5), s.board.perstN = false →
    let t := s.setBoard { s.board with
      perstN := true, ga := ga, flash := if s.board.svcHoldN then .ranger else .header, rangerReset := !s.board.svcHoldN }
    (s.inputGood = false → exec (.perstNRise ga) s = .next t)
    ∧ (s.inputGood = true → s.board.svcHoldN = true → exec (.perstNRise ga) s = .next t.fromStep1)
    ∧ (s.inputGood = true → s.board.svcHoldN = false →
      exec (.perstNRise ga) s = .next (t.setBoard { t.board with on := 0x20000000, rangerReset := true }))
    ∧ t.fromStep1.board.seq = .due 1 ∧ t.fromStep1.board.ga = ga)
  ∧ (∀ s : State, s.board.svcHoldN = true → s.board.perstN = true →
    let t := (s.setBoard { s.board with svcHoldN := false, flash := .header }).allOff
    exec .svcHoldAssert s = .next (t.setBoard { t.board with rangerReset := true, on := s.board.on &&& 0x20000000 }))
  ∧ (∀ s : State, s.board.svcHoldN = false → s.board.perstN = true →
    let t := s.setBoard { s.board with svcHoldN := true, flash := .ranger, rangerReset := false }
    exec .svcHoldRelease s = .next (if s.inputGood || s.board.on.getLsbD 29 then t.fromStep1 else t))
  ∧ (∀ (s : State) (stack : Bool) (unit : BitVec 3) (temp : BitVec 8), s.rangerRuns = true → (stack = false → unit.toNat < 4) →
    (if stack then 105 else 110) ≤ temp.toNat → temp.toNat < 128 →
    let t := s.rangerOnly
    exec (.thermalTrip stack unit temp) s = .next (((t.setLife { t.dep.life with
      trips := addCnt32 t.dep.life.trips 1 }).setStatus 4).boardFault 5 0 0 temp.toNat unit.toNat))
  ∧ (∀ s : State, s.rangerRuns = true → (s.board.wet = false ∨ s.board.status.getLsbD 3 = false) →
    let t := ((s.setBoard { s.board with wet := true }).setLife { s.dep.life with leak := addCnt32 s.dep.life.leak 1 }).setStatus 8
    let u := t.boardFault 6 0 0 0 0
    exec (.leakDetect true) s = .next (u.setBoard { u.board with seq := .down }))
  ∧ (∀ s : State, exec (.leakDetect false) s = .next (s.setBoard { s.board with wet := false }))
  ∧ (∀ s : State, s.ring.oref = true → s.rangerRuns = true → exec .orefLoss s =
    .next ((s.setRing { s.ring with oref := false }).clockFault 2).alaporDown.ohmipDown)
  ∧ (∀ s : State, s.ring.oref = true → s.rangerRuns = false → exec .orefLoss s = .next (s.setRing { s.ring with oref := false }))
  ∧ (∀ s : State, s.ring.oref = false → exec .orefReturn s = .next (s.setRing { s.ring with oref := true }).alaporTrains)

/-! ### SMBus and JTAG -/

/-- Commands: smbusPartNumber, smbusSerialNumber, smbusInputVoltage, smbusInputPower, smbusJunctionTemp, smbusBoardStatus,
smbusAlertResponse, smbusRestart, smbusFullRestart, smbusWindowWrite, smbusWindowRead, jtagInstruction; each clause ends in the
command's next state, but the last, which says where a JTAG instruction stops.

The SMBus target answers each command with the value that Table 1.9 gives (R31 to R33, R36, R38); a write of board status
clears bits, but the leak bit is set again while liquid is there; a restart starts the power sequence again unless the trip or
the leak bit is set; an alert response gives the module's address. A window write sets the pointer and writes the words that
follow it to consecutive registers, a window read gives words from the pointer on, and both move it by the data bytes
transferred; a length of another kind is not acknowledged, a pointer outside the window reads zeros, and eight bytes at
RING_LO are one ring count (R495). With the Ranger domain off, the Ranger in reset or PERST_N low it does not answer (R31).
The instructions of the five TAPs shift out nearest TDO first; BYPASS, IDCODE, SAMPLE/PRELOAD and EXTEST always run (R27, R28);
SAMPLE takes the levels of the pins that the model holds, and free values of others. Another JTAG instruction does nothing without a
debug grant (R479). Log entries 17, 18, 24, 25, 138 and 139 are choices and readings that it rests on. -/
def Obligations.ManagementPortsAnswer : Prop :=
  let said := fun (s : State) (bs : List Byte) => s.setBoard { s.board with smbAnswer := bs, smbNack := false }
  let wrote := fun (s : State) (bytes : List Byte) => s.setBoard { s.board with
    winPtr := leAt bytes 0 4 / 4 * 4 + (bytes.length - 4), smbAnswer := [], smbNack := false }
  (∀ s : State, s.rangerRuns = true → s.board.perstN = true →
    let b := s.board
    exec .smbusPartNumber s = .next (said s [0x55, 0x58, 0x54, 0x39, 0x2D, 0x42, 0x30, 0x00])
    ∧ exec .smbusSerialNumber s = .next (said s serialBytes)
    ∧ exec .smbusInputVoltage s = .next (said s (leBytes 2 b.vin.toNat))
    ∧ exec .smbusInputPower s = .next (said s (leBytes 2 (if b.pins = [] then 0 else (b.pins.map BitVec.toNat).sum / b.pins.length)))
    ∧ exec .smbusJunctionTemp s = .next (said s [b.hottest])
    ∧ exec (.smbusBoardStatus none) s = .next (said s [b.status])
    ∧ (∀ m, exec (.smbusBoardStatus (some m)) s = .next (s.setBoard { b with
        status := (b.status &&& ~~~m) ||| (if b.wet then 8 else 0), smbAnswer := [], smbNack := false }))
    ∧ (b.status ≠ 0 → exec .smbusAlertResponse s = .next (said s [BitVec.ofNat 8 (128 + 2 * b.ga.toNat)]))
    ∧ (b.status.getLsbD 2 = false → b.status.getLsbD 3 = false →
      exec .smbusRestart s = .next s.restart3 ∧ exec .smbusFullRestart s = .next s.restart1
      ∧ s.restart3.board.seq = .due 3 ∧ s.restart1.board.seq = .due 1)
    ∧ ((b.status.getLsbD 2 = true ∨ b.status.getLsbD 3 = true) →
      exec .smbusRestart s = .next s ∧ exec .smbusFullRestart s = .next s))
  ∧ (∀ (s : State) (bytes : List Byte), s.rangerRuns = true → s.board.perstN = true →
    let p := leAt bytes 0 4 / 4 * 4
    ((bytes.length % 4 ≠ 0 ∨ bytes.length = 0 ∨ 32 < bytes.length) → exec (.smbusWindowWrite bytes) s =
      .next (s.setBoard { s.board with smbAnswer := [], smbNack := true }))
    ∧ (bytes.length % 4 = 0 → 4 ≤ bytes.length → bytes.length ≤ 32 →
      exec (.smbusWindowWrite bytes) s = .next (wrote (windowPut ((bytes.length - 4) / 4) (bytes.drop 4) p s) bytes)
      ∧ ((bytes.length = 4 ∨ 0x2000 ≤ p) → exec (.smbusWindowWrite bytes) s = .next (wrote s bytes))
      ∧ (bytes.length = 8 → p < 0x2000 → exec (.smbusWindowWrite bytes) s = .next (wrote
        (State.writeReg { s with alapor := { s.alapor with causes := 0 } } true p (BitVec.ofNat 32 (leAt bytes 4 4))).2 bytes))))
  ∧ (∀ (s : State) (n : Nat), s.rangerRuns = true → s.board.perstN = true → n % 4 = 0 → n ≤ 32 →
    let b := s.board
    let all := windowGet (n / 4) b.winPtr s
    exec (.smbusWindowRead n) s = .next (all.2.setBoard { all.2.board with winPtr := b.winPtr + n, smbAnswer := all.1, smbNack := false })
    ∧ all.1.length = n
    ∧ (0x2000 ≤ b.winPtr → exec (.smbusWindowRead n) s =
      .next (s.setBoard { b with winPtr := b.winPtr + n, smbAnswer := zeroBytes n, smbNack := false }))
    ∧ (n = 4 → b.winPtr < 0x2000 →
      let r := s.readReg s b.winLatch b.winPtr
      exec (.smbusWindowRead n) s = .next (r.after.setBoard { r.after.board with
        winLatch := r.latches, winPtr := b.winPtr + 4, smbAnswer := leBytes 4 r.word.toNat, smbNack := false }))
    ∧ (n = 8 → b.winPtr = Reg.ringLo → (b.winLatch.find? fun e => e.1 = Reg.ringLo) = none →
      ∃ t, exec (.smbusWindowRead n) s = .next t ∧ t.board.smbAnswer = leBytes 4 (s.rt % 2 ^ 32) ++ leBytes 4 (s.rt / 2 ^ 32)))
  ∧ (∀ (s : State) (bytes : List Byte) (n : Nat), (s.rangerRuns = false ∨ s.board.perstN = false) →
    ∀ c ∈ [Instr.smbusPartNumber, .smbusSerialNumber, .smbusInputVoltage, .smbusInputPower, .smbusJunctionTemp,
      .smbusAlertResponse, .smbusRestart, .smbusFullRestart, .smbusBoardStatus none, .smbusBoardStatus (some 0),
      .smbusWindowWrite bytes, .smbusWindowRead n], exec c s = .next s)
  ∧ serialBytes.length = 12 ∧ serialBytes.take 2 = [0x4D, 0x44]
  ∧ (∀ (s : State) (d0 d1 d2 d3 r : JtagIr),
    (s.security.debug = false ∨ ∀ ir ∈ [r, d3, d2, d1, d0], ∀ code, ir ≠ .other code) →
    let x := shiftChain [(4, r), (3, d3), (2, d2), (1, d1), (0, d0)] s
    exec (.jtagInstruction d0 d1 d2 d3 r) s = .next (x.2.setBoard { x.2.board with jtagOut := x.1 }))
  ∧ (∀ s : State, exec (.jtagInstruction .bypass .bypass .bypass .bypass .bypass) s =
    .next (s.setBoard { s.board with jtagOut := [false, false, false, false, false] }))
  ∧ (∀ (s : State) (tap : Nat) (rest : List (Nat × JtagIr)), tap < 5 →
    shiftChain ((tap, .bypass) :: rest) s = (false :: (shiftChain rest s).1, (shiftChain rest s).2)
    ∧ shiftChain ((tap, .idcode) :: rest) s =
      (((List.range 32).map fun i => (if tap = 4 then 0x19C0A76B else 0x19C0976B : Nat).testBit i) ++ (shiftChain rest s).1,
        (shiftChain rest s).2)
    ∧ (∀ cells : List Bool, ∃ out : List Bool, out.length = cells.length
      ∧ (∀ i level, i < cells.length → s.pinLevel (Config.boundaryPin tap i) = some level → out.getD i false = level)
      ∧ let u := { s with fresh := s.fresh + cells.length, board := { s.board with cells := mset [] s.board.cells tap cells } }
        shiftChain ((tap, .samplePreload cells) :: rest) s = (out ++ (shiftChain rest u).1, (shiftChain rest u).2))
    ∧ (let cells := mget [] s.board.cells tap
      ∃ out : List Bool, out.length = cells.length
      ∧ let u := { s with fresh := s.fresh + cells.length, board := { s.board with driven := mset [] s.board.driven tap cells } }
        shiftChain ((tap, .extest) :: rest) s = (out ++ (shiftChain rest u).1, (shiftChain rest u).2)))
  ∧ (∀ (s : State) (code : Nat), s.security.debug = true →
    exec (.jtagInstruction .bypass .bypass .bypass .bypass (.other code)) s = .refused (.debugInstruction code))

/-! ### Lifetime records and the mailbox -/

/-- Commands: lifetimeSnapshot, lifeFlush, historyEntryWrite, calendarCommit; each clause ends in the command's next state.

A lifetime snapshot (R455 to R457) is written at a ring count that is a multiple of 2³⁶, and at a flush, while the NOR may be
written (R14): into the subsector after the newest one, with the next sequence and one more erase; a failed write goes to the
next subsector, and a second failure is a class 0x16 record of cause 2 with LIFE_STAT's bit. A history entry is written at the
head of the log, oldest first; the log is consolidated when fewer than 64 subsectors ahead are empty, and a module-wide record
takes a snapshot as well (R456, R458, R459). A calendar commit takes the registers' pair, and enters the history if it moves a
known calendar by more than one second (R460 to R462). Log entries 98, 99 and 126 are readings that it rests on. -/
def Obligations.LifetimeRecordsAreKept : Prop :=
  ∀ (s : State),
    (∀ ok again, s.norWritable = true →
      (s.rt % 2 ^ 36 = 0 → exec (.lifetimeSnapshot ok again) s = .next (s.takeSnapshot ok again))
      ∧ (s.rt % 2 ^ 36 ≠ 0 → exec (.lifetimeSnapshot ok again) s = .next s)
      ∧ (s.board.on.getLsbD 29 = true → ∀ data : BitVec 32,
        (data.getLsbD 0 = true → exec (.lifeFlush data ok again) s = .next (s.takeSnapshot ok again))
        ∧ (data.getLsbD 0 = false → exec (.lifeFlush data ok again) s = .next s)))
    ∧ (let a := ageAll (s.power.phys.map (·.1)) s
      let seq := if s.dep.newest = [] then 0 else s.dep.snapSeq.toNat + 1
      let i := if s.dep.newest = [] then 0 else (s.dep.snapSub + 1) % 768
      let bs := a.snapshotBytes seq (s.snapErases i + 1)
      (∀ again, s.takeSnapshot true again = (((a.norErase (snapAt i) (snapAt i + 4096)).norWrite (snapAt i) bs).setDep
        { s.dep with newest := bs, snapSub := i, snapSeq := BitVec.ofNat 32 seq }).updateWear)
      ∧ ∃ lost : List Byte, lost.length = 4096 ∧
        let u := { (a.norErase (snapAt i) (snapAt i + 4096)).norWrite (snapAt i) lost with fresh := s.fresh + 4096 }
        let j := (i + 1) % 768
        (s.takeSnapshot false true = (u.writeSnap j seq true).updateWear
        ∧ s.takeSnapshot false false = (let v := u.writeSnap j seq false
            (v.setDep { v.dep with lifeStat := v.dep.lifeStat ||| 4 }).raise { cls := 0x16, cause := 2 })))
    ∧ (∀ e rest, s.dep.histQueue = e :: rest → s.norWritable = true →
      let bs := histBytes e.kind false e.unit e.ring e.cal e.detail
      let u := (s.norWrite (0x03C00000 + 32 * s.dep.histAt) bs).setDep
        { s.dep with histQueue := rest, histAt := (s.dep.histAt + 1) % 131072 }
      bs.length = 32
      ∧ (e.isModule = false → 64 ≤ u.emptyAhead → exec .historyEntryWrite s = .next u)
      ∧ (e.isModule = false → u.emptyAhead < 64 → exec .historyEntryWrite s = .next u.consolidate)
      ∧ (e.isModule = true → 64 ≤ u.emptyAhead → ∃ ok again,
        exec .historyEntryWrite s = .next ({ u with fresh := s.fresh + 2 }.takeSnapshot ok again)))
    ∧ (s.dep.histQueue ≠ [] → s.norWritable = false → exec .historyEntryWrite s = .next s)
    ∧ (s.board.on.getLsbD 29 = true → ∀ data : BitVec 32,
      let u := s.setReg Reg.calAtHi data
      let w := u.setDep { s.dep with
        calState := 1, calSet := BitVec.ofNat 64 (u.reg64 Reg.calSetLo), calAt := BitVec.ofNat 64 (u.reg64 Reg.calAtLo) }
      let d := w.calNow.toInt - s.calNow.toInt
      (s.dep.calState ≠ 0 → s.calNow.toInt =
        (s.dep.calSet.toInt + ((s.rt : Int) - s.dep.calAt.toNat) / 100).bmod (2 ^ 64))
      ∧ ((s.dep.calState = 0 ∨ d.natAbs ≤ 1000000) → exec (.calendarCommit data) s = .next w)
      ∧ (s.dep.calState ≠ 0 → 1000000 < d.natAbs →
        exec (.calendarCommit data) s = .next (w.history 0x09 0 (BitVec.ofInt 64 d))))

/-- Commands: certRead, quote, opEnroll, tenEnroll, tenKey, tenDrop, dbgChal, dbgAuth, fwStore, svnCommit, mailboxUnknownCode,
mailboxCommandComplete; each clause ends in the command's next state.

The mailbox (R494). A command runs on the bytes of MBX_DATA and publishes its reply and status when it completes; while one
runs another is refused; a length beyond 4,096 and a code that Table 17.6 does not have end at once with status 0x01. What a
command writes to the SPI NOR it writes when it completes, which waits while a power-fail warning holds (R14): a firmware image
over the image it names, preferred from then, or the operator key table, whose sequence rises. That a
command acts when it is given is log entry 113's choice; NOR bytes without a layout are log entry 140's. -/
def Obligations.MailboxRunsOneCommand : Prop :=
  ∀ (s : State), s.rangerRuns = true → s.board.bootRom = false → ∀ (smb : Bool) (len : BitVec 13),
    let x := s.security
    (∀ c code f, (c, code, f) ∈ [(Instr.certRead smb len, 0x20, State.certRead), (.quote smb len, 0x21, State.quote),
        (.opEnroll smb len, 0x22, State.opEnroll), (.tenEnroll smb len, 0x23, State.tenEnroll), (.tenKey smb len, 0x24, State.tenKey),
        (.tenDrop smb len, 0x25, State.tenDrop), (.dbgChal smb len, 0x26, State.dbgChal), (.dbgAuth smb len, 0x27, State.dbgAuth),
        (.fwStore smb len, 0x28, State.fwStore), (.svnCommit smb len, 0x29, State.svnCommit)] →
      let u := s.setSec { x with done := false, refused := false, lastSrc := smb }
      let r := f u (s.mboxData len.toNat)
      (x.run = none → len.toNat ≤ 4096 → exec c s =
        .next (r.1.setSec { r.1.security with run := some { smb, code := BitVec.ofNat 8 code, status := r.2.1, reply := r.2.2 } }))
      ∧ (x.run = none → 4096 < len.toNat → exec c s = .next (u.mboxEnd 0x01 []))
      ∧ (x.run ≠ none → exec c s = .next (s.setSec { x with refused := true })))
    ∧ (∀ code : BitVec 8, (code.toNat < 0x20 ∨ 0x29 < code.toNat) →
      (x.run = none → exec (.mailboxUnknownCode smb code len) s =
        .next ((s.setSec { x with done := false, refused := false, lastSrc := smb }).mboxEnd 0x01 []))
      ∧ (x.run ≠ none → exec (.mailboxUnknownCode smb code len) s = .next (s.setSec { x with refused := true })))
    ∧ (∀ r, x.run = some r →
      ((s.board.norHold = false ∨ x.job = .none) → exec .mailboxCommandComplete s = .next (s.norJob.mboxEnd r.status r.reply)
        ∧ (s.norJob.mboxEnd r.status r.reply).security =
          { s.norJob.security with run := none, done := true, status := r.status, rlen := r.reply.length })
      ∧ (s.board.norHold = true → x.job ≠ .none → exec .mailboxCommandComplete s = .next s))
    ∧ (x.job = .none → s.norJob = s)
    ∧ (∀ b img, x.job = .firmware b img → s.norJob =
      State.putDescriptor { (s.norErase (fwStart b) (fwStart b + 8388608)).norWrite (fwStart b) img with security := { x with
        job := .none, prefer := b
        images := setAt x.images (natOfBool b) { ok := true, svn := BitVec.ofNat 16 (leAt img 12 2), digest := Config.sha512 img } } })
    ∧ (∀ ks erase, x.job = .operators ks erase → s.norJob = State.putKeyTable { s with security := { x with
        job := .none, operators := ks, tenants := if erase then [] else x.tenants, opSeq := x.opSeq + 1 } })

/-- What the functions do that `MailboxRunsOneCommand` runs (R466 to R481). CERT_READ reads the certificate chain; QUOTE signs 512 bytes over the nonce with
the next quote sequence; the first operator key needs no signature, a later change one by an enrolled key over the request and
the table's sequence, and no more than eight keys fit; a tenant key needs an operator's signature, a bundle key the tenant's
own, and neither is taken under a debug grant; a version in use is not dropped; a debug grant answers the challenge at hand,
once, and erases the tenants' keys; firmware is stored over the image that does not run; the minimum version rises to the
running image's version only if both images reach it. A signature that fails counts in SEC_VFAIL. The layout of requests, the
statuses and the signed bytes are log entries 111, 112 and 114. A change of the operator table and a firmware image are
what the command still writes when it completes. -/
def Obligations.MailboxCommandsAct : Prop :=
  ∀ (s : State) (req : List Byte),
    let x := s.security
    let is := fun (r : State × Byte × List Byte) (st : Byte) => r = (s, st, [])
    (req.length = 8 → leAt req 4 4 ≤ 4096 → leAt req 0 4 + leAt req 4 4 ≤ certChain.length →
      s.certRead req = (s, 0x00, sliceBytes certChain (leAt req 0 4) (leAt req 4 4)))
    ∧ (req.length ≠ 8 → is (s.certRead req) 0x01)
    ∧ (req.length = 66 → leAt req 64 2 ≤ 0xFFF → (x.idFail = true → is (s.quote req) 0x06)
      ∧ (x.idFail = false → (s.quote req).1 =
          { s with security := { x with quoteSeq := x.quoteSeq + 1 }, fresh := s.fresh + 1 } ∧ (s.quote req).2.1 = 0x00
        ∧ sliceBytes (s.quote req).2.2 0 4 = [0x55, 0x58, 0x51, 0x54]))
    ∧ (x.operators = [] → req.length = 517 → leAt req 0 1 = 0 → s.opEnroll req = ({ s with security := { x with
        job := .operators [operatorKey (sliceBytes req 1 516)] false } }, 0x00, []))
    ∧ (x.operators ≠ [] → req.length = 1541 → leAt req 0 1 ≤ 1 → s.opEnroll req =
      match s.operatorSigned (req.take 517 ++ leBytes 4 x.opSeq.toNat) (req.drop 517) with
      | some st => (s.bump Reg.secVfail 1, st, [])
      | none => if leAt req 0 1 = 0 then s.addOperator (sliceBytes req 1 516) else s.removeOperator (sliceBytes req 1 516))
    ∧ (∀ pub, (∀ k ∈ x.operators, k.pub ≠ pub) → is (s.removeOperator pub) 0x03
      ∧ (x.operators.length < 8 → s.addOperator pub = ({ s with security := { x with
          job := .operators (x.operators ++ [operatorKey pub]) false } }, 0x00, []))
      ∧ (8 ≤ x.operators.length → is (s.addOperator pub) 0x04))
    ∧ (∀ pub, (∃ k ∈ x.operators, k.pub = pub) → is (s.addOperator pub) 0x00
      ∧ (x.operators.length = 1 → s.imageApplied = true → is (s.removeOperator pub) 0x06)
      ∧ ((x.operators.length ≠ 1 ∨ s.imageApplied = false) → s.removeOperator pub = ({ s with security := { x with
          job := .operators (x.operators.filter fun k => k.pub ≠ pub) true } }, 0x00, [])))
    ∧ (req.length = 1542 → leAt req 0 2 ≤ 0xFFE → (x.debug = true → is (s.tenEnroll req) 0x06)
      ∧ (x.debug = false → s.tenEnroll req = match s.operatorSigned (req.take 518) (req.drop 518) with
        | some st => (s.bump Reg.secVfail 1, st, [])
        | none => s.putTenant (BitVec.ofNat 12 (leAt req 0 2)) (sliceBytes req 2 516)))
    ∧ (req.length = 1030 → leAt req 0 2 ≤ 0xFFE → leAt req 2 4 ≠ 0 →
      ((x.debug = true ∨ x.idFail = true) → is (s.tenKey req) 0x06)
      ∧ (x.debug = false → x.idFail = false → (s.tenant (leAt req 0 2) = none → is (s.tenKey req) 0x03)
        ∧ ∀ k, s.tenant (leAt req 0 2) = some k → s.tenKey req =
          if Config.rsaVerify k.pub (req.take 518) (req.drop 518) then match Config.oaepOpen (sliceBytes req 6 512) with
            | none => (s, 0x01, [])
            | some p => if p.length = 38 ∧ leAt p 32 2 = leAt req 0 2 ∧ leAt p 34 4 = leAt req 2 4
              then s.putBundleKey (BitVec.ofNat 12 (leAt req 0 2)) (BitVec.ofNat 32 (leAt req 2 4)) (p.take 32) else (s, 0x01, [])
          else (s.bump Reg.secVfail 1, 0x02, [])))
    ∧ (let t := BitVec.ofNat 12 (leAt req 0 2)
      let v := BitVec.ofNat 32 (leAt req 2 4)
      req.length = 6 → leAt req 0 2 ≤ 0xFFE → (s.bundleKey t v = none → is (s.tenDrop req) 0x01)
      ∧ (s.bundleKey t v ≠ none → s.versionInUse t v = true → is (s.tenDrop req) 0x05)
      ∧ (s.bundleKey t v ≠ none → s.versionInUse t v = false → s.tenDrop req = ({ s with security := { x with
          tenants := x.tenants.map fun y => if y.tenant = t then { y with bundles := y.bundles.filter fun k => k.version ≠ v }
            else y } }, 0x00, [])))
    ∧ (∃ drawn : List Byte, drawn.length = 32 ∧ (let c := serialBytes ++ drawn ++ zeroBytes 20
      s.dbgChal [] = ({ s with fresh := s.fresh + 32, security := { x with challenge := some (c, s.ringCount) } }, 0x00, c)))
    ∧ (req.length = 1028 → let u := { s with security := { x with challenge := none } }
      (x.challenge = none → s.dbgAuth req = (u, 0x06, []))
      ∧ ∀ c at_, x.challenge = some (c, at_) →
        ((at_.toNat + 2 ^ 32 ≤ s.rt ∨ s.imageApplied = true ∨ s.imageBusy = true) → s.dbgAuth req = (u, 0x06, []))
        ∧ (s.rt < at_.toNat + 2 ^ 32 → s.imageApplied = false → s.imageBusy = false → s.dbgAuth req =
          match s.operatorSigned c (req.drop 4) with
          | some st => (u.bump Reg.secVfail 1, st, [])
          | none => ({ s with security := { x with
              challenge := none, tenants := [], debug := true, debugMask := BitVec.ofNat 32 (leAt req 0 4) } }, 0x00, [])))
    ∧ (req.length = 4 → leAt req 0 4 ≤ 8388608 → s.image.run = none →
      let img := s.dev stagingRegion.base.toNat (leAt req 0 4)
      let b := !x.image
      s.fwStore req = match fwStatus x.minSvn.toNat img with
        | some st => (if st = 0x02 then s.bump Reg.secVfail 1 else s, st, [])
        | none => ({ s with security := { x with job := .firmware b img } }, 0x00, []))
    ∧ (let both := ∀ b : Bool, x.fwOk b = true ∧ x.svn.toNat ≤ (x.fw b).svn.toNat
      (both → x.minSvn.toNat ≤ x.svn.toNat → s.svnCommit [] = ({ s with security := { x with minSvn := x.svn } }, 0x00, []))
      ∧ (¬both → is (s.svnCommit []) 0x06))
end

