-- ==== Sys2Proof/Laws/Maps.lean ====
section
/-!
SUPPORT. The laws of the sparse tables: a read after a write, what a write leaves alone, and that every write keeps the
canonical form.
-/

namespace Sys2Proof.Machine

section
variable {α : Type} [DecidableEq α] {d : α}

/-- The bound of a canonical table may be lowered. -/
theorem mwfFrom_mono {lo hi : Nat} (hle : lo ≤ hi) : ∀ {m : SMap α}, mwfFrom d hi m = true → mwfFrom d lo m = true
  | [], _ => rfl
  | (k, v) :: m, h => by
    simp only [mwfFrom, Bool.and_eq_true, decide_eq_true_eq] at h ⊢
    exact ⟨⟨le_trans hle h.1.1, h.1.2⟩, h.2⟩

/-- A write keeps the canonical form above a bound that the key meets. -/
theorem mwfFrom_mset {k : Nat} {v : α} : ∀ {lo : Nat} {m : SMap α}, lo ≤ k → mwfFrom d lo m = true →
    mwfFrom d lo (mset d m k v) = true
  | lo, [], hk, _ => by
    unfold mset
    split
    · rfl
    · simp [mwfFrom, hk, *]
  | lo, (k', v') :: m, hk, h => by
    have h' := h
    simp only [mwfFrom, Bool.and_eq_true, decide_eq_true_eq] at h
    unfold mset
    split
    · split
      · exact h'
      · rename_i hlt hv
        simp only [mwfFrom, Bool.and_eq_true, decide_eq_true_eq]
        exact ⟨⟨hk, hv⟩, ⟨by omega, h.1.2⟩, h.2⟩
    · split
      · rename_i hnl heq
        subst heq
        split
        · exact mwfFrom_mono (by omega) h.2
        · rename_i hv
          simp only [mwfFrom, Bool.and_eq_true, decide_eq_true_eq]
          exact ⟨⟨hk, hv⟩, h.2⟩
      · rename_i hnl hne
        simp only [mwfFrom, Bool.and_eq_true, decide_eq_true_eq]
        exact ⟨h.1, mwfFrom_mset (by omega) h.2⟩

/-- A write keeps the canonical form. -/
theorem mwf_mset {m : SMap α} {k : Nat} {v : α} (h : mwf d m = true) : mwf d (mset d m k v) = true :=
  mwfFrom_mset (Nat.zero_le k) h

/-- A key below a canonical table's bound is unlisted. -/
theorem mget_of_lt {k : Nat} : ∀ {lo : Nat} {m : SMap α}, k < lo → mwfFrom d lo m = true → mget d m k = d
  | _, [], _, _ => rfl
  | lo, (k', v') :: m, hk, h => by
    simp only [mwfFrom, Bool.and_eq_true, decide_eq_true_eq] at h
    simp only [mget]
    rw [if_neg (by omega)]
    exact mget_of_lt (by omega) h.2

/-- A read after a write to the same key gives the value written. -/
theorem mget_mset_same {k : Nat} {v : α} : ∀ {lo : Nat} {m : SMap α}, mwfFrom d lo m = true →
    mget d (mset d m k v) k = v
  | _, [], _ => by
    unfold mset
    split <;> simp [mget, *]
  | lo, (k', v') :: m, h => by
    simp only [mwfFrom, Bool.and_eq_true, decide_eq_true_eq] at h
    unfold mset
    split
    · split
      · rename_i hlt hv
        simp only [mget]
        rw [if_neg (by omega), mget_of_lt (lo := k' + 1) (by omega) h.2, hv]
      · simp [mget]
    · split
      · rename_i hnl heq
        split
        · rename_i hv
          rw [mget_of_lt (lo := k' + 1) (by omega) h.2, hv]
        · simp [mget]
      · rename_i hnl hne
        simp only [mget]
        rw [if_neg hne]
        exact mget_mset_same h.2

/-- A write leaves every other key as it was. -/
theorem mget_mset_other {j k : Nat} {v : α} (hjk : j ≠ k) : ∀ {m : SMap α}, mget d (mset d m k v) j = mget d m j
  | [] => by
    unfold mset
    split <;> simp [mget, hjk]
  | (k', v') :: m => by
    unfold mset
    split
    · split
      · rfl
      · simp [mget, hjk]
    · split
      · rename_i hnl heq
        subst heq
        split <;> simp [mget, hjk]
      · simp only [mget]
        split
        · rfl
        · exact mget_mset_other hjk

/-- A key below a canonical table's bound goes in front of it. -/
theorem mset_of_lt {k : Nat} {v : α} : ∀ {lo : Nat} {m : SMap α}, k < lo → mwfFrom d lo m = true →
    mset d m k v = if v = d then m else (k, v) :: m
  | _, [], _, _ => rfl
  | lo, (k', v') :: m, hk, h => by
    simp only [mwfFrom, Bool.and_eq_true, decide_eq_true_eq] at h
    simp only [mset]
    rw [if_pos (by omega)]

/-- The later of two writes to one key stands alone. -/
theorem mset_mset {k : Nat} {v w : α} : ∀ {lo : Nat} {m : SMap α}, mwfFrom d lo m = true →
    mset d (mset d m k v) k w = mset d m k w
  | _, [], _ => by
    by_cases hv : v = d <;> simp [mset, hv]
  | lo, (k', v') :: m, h => by
    simp only [mwfFrom, Bool.and_eq_true, decide_eq_true_eq] at h
    rcases Nat.lt_trichotomy k k' with hlt | heq | hgt
    · by_cases hv : v = d <;> simp [mset, hlt, hv]
    · subst heq
      by_cases hv : v = d
      · simp [mset, hv, mset_of_lt (Nat.lt_succ_self k) h.2]
      · simp [mset, hv]
    · have h1 : ¬ k < k' := by omega
      have h2 : ¬ k = k' := by omega
      simp [mset, h1, h2, mset_mset h.2]

/-- Writing what a key reads as changes nothing. -/
theorem mset_mget {k : Nat} : ∀ {lo : Nat} {m : SMap α}, mwfFrom d lo m = true → mset d m k (mget d m k) = m
  | _, [], _ => by simp [mset, mget]
  | lo, (k', v') :: m, h => by
    simp only [mwfFrom, Bool.and_eq_true, decide_eq_true_eq] at h
    rcases Nat.lt_trichotomy k k' with hlt | heq | hgt
    · have h2 : ¬ k = k' := by omega
      simp [mset, mget, hlt, h2, mget_of_lt (show k < k' + 1 by omega) h.2]
    · subst heq
      simp [mset, mget, h.1.2]
    · have h1 : ¬ k < k' := by omega
      have h2 : ¬ k = k' := by omega
      simp [mset, mget, h1, h2, mset_mget h.2]

/-- A run of writes keeps the canonical form. -/
theorem mwf_mwrite {d : Byte} : ∀ {bs : List Byte} {m : SMap Byte} {a : Nat}, mwf d m = true →
    mwf d (mwrite d m a bs) = true
  | [], _, _, h => h
  | _ :: bs, _, _, h => mwf_mwrite (bs := bs) (mwf_mset h)

/-- A fold of writes keeps the canonical form. -/
theorem mwf_foldl {β : Type} {f : SMap α → β → SMap α} (hf : ∀ m b, mwf d m = true → mwf d (f m b) = true) :
    ∀ {l : List β} {m : SMap α}, mwf d m = true → mwf d (l.foldl f m) = true
  | [], _, h => h
  | b :: l, m, h => mwf_foldl hf (l := l) (hf m b h)

/-- A run of writes leaves the bytes outside it. -/
theorem mget_mwrite_other {d : Byte} {j : Nat} : ∀ {bs : List Byte} {m : SMap Byte} {a : Nat},
    (j < a ∨ a + bs.length ≤ j) → mget d (mwrite d m a bs) j = mget d m j
  | [], _, _, _ => rfl
  | b :: bs, m, a, h => by
    simp only [List.length_cons] at h
    simp only [mwrite]
    rw [mget_mwrite_other (bs := bs) (by omega), mget_mset_other (by omega)]

/-- A run of writes is read back. -/
theorem mget_mwrite_same {d : Byte} {i : Nat} : ∀ {bs : List Byte} {m : SMap Byte} {a : Nat}, mwf d m = true →
    (hi : i < bs.length) → mget d (mwrite d m a bs) (a + i) = bs[i]
  | [], _, _, _, hi => by simp at hi
  | b :: bs, m, a, h, hi => by
    simp only [mwrite]
    cases i with
    | zero =>
      rw [Nat.add_zero, mget_mwrite_other (by omega)]
      exact mget_mset_same h
    | succ i =>
      have := mget_mwrite_same (d := d) (i := i) (bs := bs) (a := a + 1) (mwf_mset (k := a) (v := b) h) (by simpa using hi)
      rw [show a + (i + 1) = a + 1 + i by omega, this]
      rfl

/-- Changing every value of a canonical table and dropping the defaults gives a canonical table. -/
theorem mwfFrom_mapFilter {f : α → α} : ∀ {lo : Nat} {m : SMap α}, mwfFrom d lo m = true →
    mwfFrom d lo ((m.map fun e => (e.1, f e.2)).filter fun e => e.2 ≠ d) = true
  | _, [], _ => rfl
  | lo, (k, v) :: m, h => by
    simp only [mwfFrom, Bool.and_eq_true, decide_eq_true_eq] at h
    simp only [List.map_cons, List.filter_cons]
    split
    · rename_i hv
      simp only [mwfFrom, Bool.and_eq_true, decide_eq_true_eq]
      exact ⟨⟨h.1.1, of_decide_eq_true hv⟩, mwfFrom_mapFilter h.2⟩
    · exact mwfFrom_mono (by omega) (mwfFrom_mapFilter h.2)

end

end Sys2Proof.Machine
end

