-- ==== Sys2Proof/Laws/State.lean ====
section
/-!
SUPPORT. What each update of the state leaves as it was: one lemma for each field and update, true by definition, and the
reads that follow a write.
-/

namespace Sys2Proof.Machine

variable {s : State}

@[simp] theorem State.setReg_pending {a : Nat} {w : Word} : (s.setReg a w).pending = s.pending := rfl
@[simp] theorem State.setReg_fresh {a : Nat} {w : Word} : (s.setReg a w).fresh = s.fresh := rfl
@[simp] theorem State.setReg_board {a : Nat} {w : Word} : (s.setReg a w).board = s.board := rfl
@[simp] theorem State.setReg_power {a : Nat} {w : Word} : (s.setReg a w).power = s.power := rfl
@[simp] theorem State.setReg_dep {a : Nat} {w : Word} : (s.setReg a w).dep = s.dep := rfl
@[simp] theorem State.setReg_ring {a : Nat} {w : Word} : (s.setReg a w).ring = s.ring := rfl
@[simp] theorem State.setReg_step {a : Nat} {w : Word} : (s.setReg a w).step = s.step := rfl
@[simp] theorem State.setReg_plots {a : Nat} {w : Word} : (s.setReg a w).plots = s.plots := rfl
@[simp] theorem State.setReg_glades {a : Nat} {w : Word} : (s.setReg a w).glades = s.glades := rfl
@[simp] theorem State.setReg_groves {a : Nat} {w : Word} : (s.setReg a w).groves = s.groves := rfl
@[simp] theorem State.setReg_mesh {a : Nat} {w : Word} : (s.setReg a w).mesh = s.mesh := rfl
@[simp] theorem State.setReg_mem {a : Nat} {w : Word} : (s.setReg a w).mem = s.mem := rfl
@[simp] theorem State.setReg_serving {a : Nat} {w : Word} : (s.setReg a w).serving = s.serving := rfl
@[simp] theorem State.setReg_routing {a : Nat} {w : Word} : (s.setReg a w).routing = s.routing := rfl
@[simp] theorem State.setReg_lease {a : Nat} {w : Word} : (s.setReg a w).lease = s.lease := rfl
@[simp] theorem State.setReg_layers {a : Nat} {w : Word} : (s.setReg a w).layers = s.layers := rfl
@[simp] theorem State.setReg_pendCounts {a : Nat} {w : Word} : (s.setReg a w).pendCounts = s.pendCounts := rfl
@[simp] theorem State.setReg_pendLayers {a : Nat} {w : Word} : (s.setReg a w).pendLayers = s.pendLayers := rfl
@[simp] theorem State.setReg_fabric {a : Nat} {w : Word} : (s.setReg a w).fabric = s.fabric := rfl
@[simp] theorem State.setReg_alapor {a : Nat} {w : Word} : (s.setReg a w).alapor = s.alapor := rfl
@[simp] theorem State.setReg_ohmip {a : Nat} {w : Word} : (s.setReg a w).ohmip = s.ohmip := rfl
@[simp] theorem State.setReg_image {a : Nat} {w : Word} : (s.setReg a w).image = s.image := rfl
@[simp] theorem State.setReg_security {a : Nat} {w : Word} : (s.setReg a w).security = s.security := rfl
@[simp] theorem State.setReg_nor {a : Nat} {w : Word} : (s.setReg a w).nor = s.nor := rfl

@[simp] theorem State.setField_pending {a hi lo x : Nat} : (s.setField a hi lo x).pending = s.pending := rfl
@[simp] theorem State.setField_fresh {a hi lo x : Nat} : (s.setField a hi lo x).fresh = s.fresh := rfl
@[simp] theorem State.setField_board {a hi lo x : Nat} : (s.setField a hi lo x).board = s.board := rfl
@[simp] theorem State.setField_power {a hi lo x : Nat} : (s.setField a hi lo x).power = s.power := rfl
@[simp] theorem State.setField_dep {a hi lo x : Nat} : (s.setField a hi lo x).dep = s.dep := rfl
@[simp] theorem State.setField_ring {a hi lo x : Nat} : (s.setField a hi lo x).ring = s.ring := rfl
@[simp] theorem State.setField_step {a hi lo x : Nat} : (s.setField a hi lo x).step = s.step := rfl
@[simp] theorem State.setField_plots {a hi lo x : Nat} : (s.setField a hi lo x).plots = s.plots := rfl
@[simp] theorem State.setField_glades {a hi lo x : Nat} : (s.setField a hi lo x).glades = s.glades := rfl
@[simp] theorem State.setField_groves {a hi lo x : Nat} : (s.setField a hi lo x).groves = s.groves := rfl
@[simp] theorem State.setField_mesh {a hi lo x : Nat} : (s.setField a hi lo x).mesh = s.mesh := rfl
@[simp] theorem State.setField_mem {a hi lo x : Nat} : (s.setField a hi lo x).mem = s.mem := rfl
@[simp] theorem State.setField_serving {a hi lo x : Nat} : (s.setField a hi lo x).serving = s.serving := rfl
@[simp] theorem State.setField_routing {a hi lo x : Nat} : (s.setField a hi lo x).routing = s.routing := rfl
@[simp] theorem State.setField_lease {a hi lo x : Nat} : (s.setField a hi lo x).lease = s.lease := rfl
@[simp] theorem State.setField_layers {a hi lo x : Nat} : (s.setField a hi lo x).layers = s.layers := rfl
@[simp] theorem State.setField_pendCounts {a hi lo x : Nat} : (s.setField a hi lo x).pendCounts = s.pendCounts := rfl
@[simp] theorem State.setField_pendLayers {a hi lo x : Nat} : (s.setField a hi lo x).pendLayers = s.pendLayers := rfl
@[simp] theorem State.setField_fabric {a hi lo x : Nat} : (s.setField a hi lo x).fabric = s.fabric := rfl
@[simp] theorem State.setField_alapor {a hi lo x : Nat} : (s.setField a hi lo x).alapor = s.alapor := rfl
@[simp] theorem State.setField_ohmip {a hi lo x : Nat} : (s.setField a hi lo x).ohmip = s.ohmip := rfl
@[simp] theorem State.setField_image {a hi lo x : Nat} : (s.setField a hi lo x).image = s.image := rfl
@[simp] theorem State.setField_security {a hi lo x : Nat} : (s.setField a hi lo x).security = s.security := rfl
@[simp] theorem State.setField_nor {a hi lo x : Nat} : (s.setField a hi lo x).nor = s.nor := rfl

@[simp] theorem State.bumpField_pending {a hi lo n : Nat} : (s.bumpField a hi lo n).pending = s.pending := rfl
@[simp] theorem State.bumpField_fresh {a hi lo n : Nat} : (s.bumpField a hi lo n).fresh = s.fresh := rfl
@[simp] theorem State.bumpField_board {a hi lo n : Nat} : (s.bumpField a hi lo n).board = s.board := rfl
@[simp] theorem State.bumpField_power {a hi lo n : Nat} : (s.bumpField a hi lo n).power = s.power := rfl
@[simp] theorem State.bumpField_dep {a hi lo n : Nat} : (s.bumpField a hi lo n).dep = s.dep := rfl
@[simp] theorem State.bumpField_ring {a hi lo n : Nat} : (s.bumpField a hi lo n).ring = s.ring := rfl
@[simp] theorem State.bumpField_step {a hi lo n : Nat} : (s.bumpField a hi lo n).step = s.step := rfl
@[simp] theorem State.bumpField_plots {a hi lo n : Nat} : (s.bumpField a hi lo n).plots = s.plots := rfl
@[simp] theorem State.bumpField_glades {a hi lo n : Nat} : (s.bumpField a hi lo n).glades = s.glades := rfl
@[simp] theorem State.bumpField_groves {a hi lo n : Nat} : (s.bumpField a hi lo n).groves = s.groves := rfl
@[simp] theorem State.bumpField_mesh {a hi lo n : Nat} : (s.bumpField a hi lo n).mesh = s.mesh := rfl
@[simp] theorem State.bumpField_mem {a hi lo n : Nat} : (s.bumpField a hi lo n).mem = s.mem := rfl
@[simp] theorem State.bumpField_serving {a hi lo n : Nat} : (s.bumpField a hi lo n).serving = s.serving := rfl
@[simp] theorem State.bumpField_routing {a hi lo n : Nat} : (s.bumpField a hi lo n).routing = s.routing := rfl
@[simp] theorem State.bumpField_lease {a hi lo n : Nat} : (s.bumpField a hi lo n).lease = s.lease := rfl
@[simp] theorem State.bumpField_layers {a hi lo n : Nat} : (s.bumpField a hi lo n).layers = s.layers := rfl
@[simp] theorem State.bumpField_pendCounts {a hi lo n : Nat} : (s.bumpField a hi lo n).pendCounts = s.pendCounts := rfl
@[simp] theorem State.bumpField_pendLayers {a hi lo n : Nat} : (s.bumpField a hi lo n).pendLayers = s.pendLayers := rfl
@[simp] theorem State.bumpField_fabric {a hi lo n : Nat} : (s.bumpField a hi lo n).fabric = s.fabric := rfl
@[simp] theorem State.bumpField_alapor {a hi lo n : Nat} : (s.bumpField a hi lo n).alapor = s.alapor := rfl
@[simp] theorem State.bumpField_ohmip {a hi lo n : Nat} : (s.bumpField a hi lo n).ohmip = s.ohmip := rfl
@[simp] theorem State.bumpField_image {a hi lo n : Nat} : (s.bumpField a hi lo n).image = s.image := rfl
@[simp] theorem State.bumpField_security {a hi lo n : Nat} : (s.bumpField a hi lo n).security = s.security := rfl
@[simp] theorem State.bumpField_nor {a hi lo n : Nat} : (s.bumpField a hi lo n).nor = s.nor := rfl

@[simp] theorem State.bump_pending {a n : Nat} : (s.bump a n).pending = s.pending := rfl
@[simp] theorem State.bump_fresh {a n : Nat} : (s.bump a n).fresh = s.fresh := rfl
@[simp] theorem State.bump_board {a n : Nat} : (s.bump a n).board = s.board := rfl
@[simp] theorem State.bump_power {a n : Nat} : (s.bump a n).power = s.power := rfl
@[simp] theorem State.bump_dep {a n : Nat} : (s.bump a n).dep = s.dep := rfl
@[simp] theorem State.bump_ring {a n : Nat} : (s.bump a n).ring = s.ring := rfl
@[simp] theorem State.bump_step {a n : Nat} : (s.bump a n).step = s.step := rfl
@[simp] theorem State.bump_plots {a n : Nat} : (s.bump a n).plots = s.plots := rfl
@[simp] theorem State.bump_glades {a n : Nat} : (s.bump a n).glades = s.glades := rfl
@[simp] theorem State.bump_groves {a n : Nat} : (s.bump a n).groves = s.groves := rfl
@[simp] theorem State.bump_mesh {a n : Nat} : (s.bump a n).mesh = s.mesh := rfl
@[simp] theorem State.bump_mem {a n : Nat} : (s.bump a n).mem = s.mem := rfl
@[simp] theorem State.bump_serving {a n : Nat} : (s.bump a n).serving = s.serving := rfl
@[simp] theorem State.bump_routing {a n : Nat} : (s.bump a n).routing = s.routing := rfl
@[simp] theorem State.bump_lease {a n : Nat} : (s.bump a n).lease = s.lease := rfl
@[simp] theorem State.bump_layers {a n : Nat} : (s.bump a n).layers = s.layers := rfl
@[simp] theorem State.bump_pendCounts {a n : Nat} : (s.bump a n).pendCounts = s.pendCounts := rfl
@[simp] theorem State.bump_pendLayers {a n : Nat} : (s.bump a n).pendLayers = s.pendLayers := rfl
@[simp] theorem State.bump_fabric {a n : Nat} : (s.bump a n).fabric = s.fabric := rfl
@[simp] theorem State.bump_alapor {a n : Nat} : (s.bump a n).alapor = s.alapor := rfl
@[simp] theorem State.bump_ohmip {a n : Nat} : (s.bump a n).ohmip = s.ohmip := rfl
@[simp] theorem State.bump_image {a n : Nat} : (s.bump a n).image = s.image := rfl
@[simp] theorem State.bump_security {a n : Nat} : (s.bump a n).security = s.security := rfl
@[simp] theorem State.bump_nor {a n : Nat} : (s.bump a n).nor = s.nor := rfl

@[simp] theorem State.setCause_pending {bit : Nat} : (s.setCause bit).pending = s.pending := rfl
@[simp] theorem State.setCause_fresh {bit : Nat} : (s.setCause bit).fresh = s.fresh := rfl
@[simp] theorem State.setCause_board {bit : Nat} : (s.setCause bit).board = s.board := rfl
@[simp] theorem State.setCause_power {bit : Nat} : (s.setCause bit).power = s.power := rfl
@[simp] theorem State.setCause_dep {bit : Nat} : (s.setCause bit).dep = s.dep := rfl
@[simp] theorem State.setCause_ring {bit : Nat} : (s.setCause bit).ring = s.ring := rfl
@[simp] theorem State.setCause_step {bit : Nat} : (s.setCause bit).step = s.step := rfl
@[simp] theorem State.setCause_plots {bit : Nat} : (s.setCause bit).plots = s.plots := rfl
@[simp] theorem State.setCause_glades {bit : Nat} : (s.setCause bit).glades = s.glades := rfl
@[simp] theorem State.setCause_groves {bit : Nat} : (s.setCause bit).groves = s.groves := rfl
@[simp] theorem State.setCause_mesh {bit : Nat} : (s.setCause bit).mesh = s.mesh := rfl
@[simp] theorem State.setCause_mem {bit : Nat} : (s.setCause bit).mem = s.mem := rfl
@[simp] theorem State.setCause_serving {bit : Nat} : (s.setCause bit).serving = s.serving := rfl
@[simp] theorem State.setCause_routing {bit : Nat} : (s.setCause bit).routing = s.routing := rfl
@[simp] theorem State.setCause_lease {bit : Nat} : (s.setCause bit).lease = s.lease := rfl
@[simp] theorem State.setCause_layers {bit : Nat} : (s.setCause bit).layers = s.layers := rfl
@[simp] theorem State.setCause_pendCounts {bit : Nat} : (s.setCause bit).pendCounts = s.pendCounts := rfl
@[simp] theorem State.setCause_pendLayers {bit : Nat} : (s.setCause bit).pendLayers = s.pendLayers := rfl
@[simp] theorem State.setCause_fabric {bit : Nat} : (s.setCause bit).fabric = s.fabric := rfl
@[simp] theorem State.setCause_ohmip {bit : Nat} : (s.setCause bit).ohmip = s.ohmip := rfl
@[simp] theorem State.setCause_image {bit : Nat} : (s.setCause bit).image = s.image := rfl
@[simp] theorem State.setCause_security {bit : Nat} : (s.setCause bit).security = s.security := rfl
@[simp] theorem State.setCause_nor {bit : Nat} : (s.setCause bit).nor = s.nor := rfl

@[simp] theorem State.setPlot_pending {p : Nat} {x : Plot} : (s.setPlot p x).pending = s.pending := rfl
@[simp] theorem State.setPlot_fresh {p : Nat} {x : Plot} : (s.setPlot p x).fresh = s.fresh := rfl
@[simp] theorem State.setPlot_regs {p : Nat} {x : Plot} : (s.setPlot p x).regs = s.regs := rfl
@[simp] theorem State.setPlot_board {p : Nat} {x : Plot} : (s.setPlot p x).board = s.board := rfl
@[simp] theorem State.setPlot_power {p : Nat} {x : Plot} : (s.setPlot p x).power = s.power := rfl
@[simp] theorem State.setPlot_dep {p : Nat} {x : Plot} : (s.setPlot p x).dep = s.dep := rfl
@[simp] theorem State.setPlot_ring {p : Nat} {x : Plot} : (s.setPlot p x).ring = s.ring := rfl
@[simp] theorem State.setPlot_step {p : Nat} {x : Plot} : (s.setPlot p x).step = s.step := rfl
@[simp] theorem State.setPlot_glades {p : Nat} {x : Plot} : (s.setPlot p x).glades = s.glades := rfl
@[simp] theorem State.setPlot_groves {p : Nat} {x : Plot} : (s.setPlot p x).groves = s.groves := rfl
@[simp] theorem State.setPlot_mesh {p : Nat} {x : Plot} : (s.setPlot p x).mesh = s.mesh := rfl
@[simp] theorem State.setPlot_mem {p : Nat} {x : Plot} : (s.setPlot p x).mem = s.mem := rfl
@[simp] theorem State.setPlot_serving {p : Nat} {x : Plot} : (s.setPlot p x).serving = s.serving := rfl
@[simp] theorem State.setPlot_routing {p : Nat} {x : Plot} : (s.setPlot p x).routing = s.routing := rfl
@[simp] theorem State.setPlot_lease {p : Nat} {x : Plot} : (s.setPlot p x).lease = s.lease := rfl
@[simp] theorem State.setPlot_layers {p : Nat} {x : Plot} : (s.setPlot p x).layers = s.layers := rfl
@[simp] theorem State.setPlot_pendCounts {p : Nat} {x : Plot} : (s.setPlot p x).pendCounts = s.pendCounts := rfl
@[simp] theorem State.setPlot_pendLayers {p : Nat} {x : Plot} : (s.setPlot p x).pendLayers = s.pendLayers := rfl
@[simp] theorem State.setPlot_fabric {p : Nat} {x : Plot} : (s.setPlot p x).fabric = s.fabric := rfl
@[simp] theorem State.setPlot_alapor {p : Nat} {x : Plot} : (s.setPlot p x).alapor = s.alapor := rfl
@[simp] theorem State.setPlot_ohmip {p : Nat} {x : Plot} : (s.setPlot p x).ohmip = s.ohmip := rfl
@[simp] theorem State.setPlot_image {p : Nat} {x : Plot} : (s.setPlot p x).image = s.image := rfl
@[simp] theorem State.setPlot_security {p : Nat} {x : Plot} : (s.setPlot p x).security = s.security := rfl
@[simp] theorem State.setPlot_nor {p : Nat} {x : Plot} : (s.setPlot p x).nor = s.nor := rfl

@[simp] theorem State.setGlade_pending {g : Nat} {x : Glade} : (s.setGlade g x).pending = s.pending := rfl
@[simp] theorem State.setGlade_fresh {g : Nat} {x : Glade} : (s.setGlade g x).fresh = s.fresh := rfl
@[simp] theorem State.setGlade_regs {g : Nat} {x : Glade} : (s.setGlade g x).regs = s.regs := rfl
@[simp] theorem State.setGlade_board {g : Nat} {x : Glade} : (s.setGlade g x).board = s.board := rfl
@[simp] theorem State.setGlade_power {g : Nat} {x : Glade} : (s.setGlade g x).power = s.power := rfl
@[simp] theorem State.setGlade_dep {g : Nat} {x : Glade} : (s.setGlade g x).dep = s.dep := rfl
@[simp] theorem State.setGlade_ring {g : Nat} {x : Glade} : (s.setGlade g x).ring = s.ring := rfl
@[simp] theorem State.setGlade_step {g : Nat} {x : Glade} : (s.setGlade g x).step = s.step := rfl
@[simp] theorem State.setGlade_plots {g : Nat} {x : Glade} : (s.setGlade g x).plots = s.plots := rfl
@[simp] theorem State.setGlade_groves {g : Nat} {x : Glade} : (s.setGlade g x).groves = s.groves := rfl
@[simp] theorem State.setGlade_mesh {g : Nat} {x : Glade} : (s.setGlade g x).mesh = s.mesh := rfl
@[simp] theorem State.setGlade_mem {g : Nat} {x : Glade} : (s.setGlade g x).mem = s.mem := rfl
@[simp] theorem State.setGlade_serving {g : Nat} {x : Glade} : (s.setGlade g x).serving = s.serving := rfl
@[simp] theorem State.setGlade_routing {g : Nat} {x : Glade} : (s.setGlade g x).routing = s.routing := rfl
@[simp] theorem State.setGlade_lease {g : Nat} {x : Glade} : (s.setGlade g x).lease = s.lease := rfl
@[simp] theorem State.setGlade_layers {g : Nat} {x : Glade} : (s.setGlade g x).layers = s.layers := rfl
@[simp] theorem State.setGlade_pendCounts {g : Nat} {x : Glade} : (s.setGlade g x).pendCounts = s.pendCounts := rfl
@[simp] theorem State.setGlade_pendLayers {g : Nat} {x : Glade} : (s.setGlade g x).pendLayers = s.pendLayers := rfl
@[simp] theorem State.setGlade_fabric {g : Nat} {x : Glade} : (s.setGlade g x).fabric = s.fabric := rfl
@[simp] theorem State.setGlade_alapor {g : Nat} {x : Glade} : (s.setGlade g x).alapor = s.alapor := rfl
@[simp] theorem State.setGlade_ohmip {g : Nat} {x : Glade} : (s.setGlade g x).ohmip = s.ohmip := rfl
@[simp] theorem State.setGlade_image {g : Nat} {x : Glade} : (s.setGlade g x).image = s.image := rfl
@[simp] theorem State.setGlade_security {g : Nat} {x : Glade} : (s.setGlade g x).security = s.security := rfl
@[simp] theorem State.setGlade_nor {g : Nat} {x : Glade} : (s.setGlade g x).nor = s.nor := rfl

@[simp] theorem State.setGrove_pending {g : Nat} {x : Grove} : (s.setGrove g x).pending = s.pending := rfl
@[simp] theorem State.setGrove_fresh {g : Nat} {x : Grove} : (s.setGrove g x).fresh = s.fresh := rfl
@[simp] theorem State.setGrove_regs {g : Nat} {x : Grove} : (s.setGrove g x).regs = s.regs := rfl
@[simp] theorem State.setGrove_board {g : Nat} {x : Grove} : (s.setGrove g x).board = s.board := rfl
@[simp] theorem State.setGrove_power {g : Nat} {x : Grove} : (s.setGrove g x).power = s.power := rfl
@[simp] theorem State.setGrove_dep {g : Nat} {x : Grove} : (s.setGrove g x).dep = s.dep := rfl
@[simp] theorem State.setGrove_ring {g : Nat} {x : Grove} : (s.setGrove g x).ring = s.ring := rfl
@[simp] theorem State.setGrove_step {g : Nat} {x : Grove} : (s.setGrove g x).step = s.step := rfl
@[simp] theorem State.setGrove_plots {g : Nat} {x : Grove} : (s.setGrove g x).plots = s.plots := rfl
@[simp] theorem State.setGrove_glades {g : Nat} {x : Grove} : (s.setGrove g x).glades = s.glades := rfl
@[simp] theorem State.setGrove_mesh {g : Nat} {x : Grove} : (s.setGrove g x).mesh = s.mesh := rfl
@[simp] theorem State.setGrove_mem {g : Nat} {x : Grove} : (s.setGrove g x).mem = s.mem := rfl
@[simp] theorem State.setGrove_serving {g : Nat} {x : Grove} : (s.setGrove g x).serving = s.serving := rfl
@[simp] theorem State.setGrove_routing {g : Nat} {x : Grove} : (s.setGrove g x).routing = s.routing := rfl
@[simp] theorem State.setGrove_lease {g : Nat} {x : Grove} : (s.setGrove g x).lease = s.lease := rfl
@[simp] theorem State.setGrove_layers {g : Nat} {x : Grove} : (s.setGrove g x).layers = s.layers := rfl
@[simp] theorem State.setGrove_pendCounts {g : Nat} {x : Grove} : (s.setGrove g x).pendCounts = s.pendCounts := rfl
@[simp] theorem State.setGrove_pendLayers {g : Nat} {x : Grove} : (s.setGrove g x).pendLayers = s.pendLayers := rfl
@[simp] theorem State.setGrove_fabric {g : Nat} {x : Grove} : (s.setGrove g x).fabric = s.fabric := rfl
@[simp] theorem State.setGrove_alapor {g : Nat} {x : Grove} : (s.setGrove g x).alapor = s.alapor := rfl
@[simp] theorem State.setGrove_ohmip {g : Nat} {x : Grove} : (s.setGrove g x).ohmip = s.ohmip := rfl
@[simp] theorem State.setGrove_image {g : Nat} {x : Grove} : (s.setGrove g x).image = s.image := rfl
@[simp] theorem State.setGrove_security {g : Nat} {x : Grove} : (s.setGrove g x).security = s.security := rfl
@[simp] theorem State.setGrove_nor {g : Nat} {x : Grove} : (s.setGrove g x).nor = s.nor := rfl

@[simp] theorem State.setBoard_pending {b : Board} : (s.setBoard b).pending = s.pending := rfl
@[simp] theorem State.setBoard_fresh {b : Board} : (s.setBoard b).fresh = s.fresh := rfl
@[simp] theorem State.setBoard_regs {b : Board} : (s.setBoard b).regs = s.regs := rfl
@[simp] theorem State.setBoard_power {b : Board} : (s.setBoard b).power = s.power := rfl
@[simp] theorem State.setBoard_dep {b : Board} : (s.setBoard b).dep = s.dep := rfl
@[simp] theorem State.setBoard_ring {b : Board} : (s.setBoard b).ring = s.ring := rfl
@[simp] theorem State.setBoard_step {b : Board} : (s.setBoard b).step = s.step := rfl
@[simp] theorem State.setBoard_plots {b : Board} : (s.setBoard b).plots = s.plots := rfl
@[simp] theorem State.setBoard_glades {b : Board} : (s.setBoard b).glades = s.glades := rfl
@[simp] theorem State.setBoard_groves {b : Board} : (s.setBoard b).groves = s.groves := rfl
@[simp] theorem State.setBoard_mesh {b : Board} : (s.setBoard b).mesh = s.mesh := rfl
@[simp] theorem State.setBoard_mem {b : Board} : (s.setBoard b).mem = s.mem := rfl
@[simp] theorem State.setBoard_serving {b : Board} : (s.setBoard b).serving = s.serving := rfl
@[simp] theorem State.setBoard_routing {b : Board} : (s.setBoard b).routing = s.routing := rfl
@[simp] theorem State.setBoard_lease {b : Board} : (s.setBoard b).lease = s.lease := rfl
@[simp] theorem State.setBoard_layers {b : Board} : (s.setBoard b).layers = s.layers := rfl
@[simp] theorem State.setBoard_pendCounts {b : Board} : (s.setBoard b).pendCounts = s.pendCounts := rfl
@[simp] theorem State.setBoard_pendLayers {b : Board} : (s.setBoard b).pendLayers = s.pendLayers := rfl
@[simp] theorem State.setBoard_fabric {b : Board} : (s.setBoard b).fabric = s.fabric := rfl
@[simp] theorem State.setBoard_alapor {b : Board} : (s.setBoard b).alapor = s.alapor := rfl
@[simp] theorem State.setBoard_ohmip {b : Board} : (s.setBoard b).ohmip = s.ohmip := rfl
@[simp] theorem State.setBoard_image {b : Board} : (s.setBoard b).image = s.image := rfl
@[simp] theorem State.setBoard_security {b : Board} : (s.setBoard b).security = s.security := rfl
@[simp] theorem State.setBoard_nor {b : Board} : (s.setBoard b).nor = s.nor := rfl

@[simp] theorem State.setLife_pending {l : LifeCounts} : (s.setLife l).pending = s.pending := rfl
@[simp] theorem State.setLife_fresh {l : LifeCounts} : (s.setLife l).fresh = s.fresh := rfl
@[simp] theorem State.setLife_regs {l : LifeCounts} : (s.setLife l).regs = s.regs := rfl
@[simp] theorem State.setLife_board {l : LifeCounts} : (s.setLife l).board = s.board := rfl
@[simp] theorem State.setLife_power {l : LifeCounts} : (s.setLife l).power = s.power := rfl
@[simp] theorem State.setLife_ring {l : LifeCounts} : (s.setLife l).ring = s.ring := rfl
@[simp] theorem State.setLife_step {l : LifeCounts} : (s.setLife l).step = s.step := rfl
@[simp] theorem State.setLife_plots {l : LifeCounts} : (s.setLife l).plots = s.plots := rfl
@[simp] theorem State.setLife_glades {l : LifeCounts} : (s.setLife l).glades = s.glades := rfl
@[simp] theorem State.setLife_groves {l : LifeCounts} : (s.setLife l).groves = s.groves := rfl
@[simp] theorem State.setLife_mesh {l : LifeCounts} : (s.setLife l).mesh = s.mesh := rfl
@[simp] theorem State.setLife_mem {l : LifeCounts} : (s.setLife l).mem = s.mem := rfl
@[simp] theorem State.setLife_serving {l : LifeCounts} : (s.setLife l).serving = s.serving := rfl
@[simp] theorem State.setLife_routing {l : LifeCounts} : (s.setLife l).routing = s.routing := rfl
@[simp] theorem State.setLife_lease {l : LifeCounts} : (s.setLife l).lease = s.lease := rfl
@[simp] theorem State.setLife_layers {l : LifeCounts} : (s.setLife l).layers = s.layers := rfl
@[simp] theorem State.setLife_pendCounts {l : LifeCounts} : (s.setLife l).pendCounts = s.pendCounts := rfl
@[simp] theorem State.setLife_pendLayers {l : LifeCounts} : (s.setLife l).pendLayers = s.pendLayers := rfl
@[simp] theorem State.setLife_fabric {l : LifeCounts} : (s.setLife l).fabric = s.fabric := rfl
@[simp] theorem State.setLife_alapor {l : LifeCounts} : (s.setLife l).alapor = s.alapor := rfl
@[simp] theorem State.setLife_ohmip {l : LifeCounts} : (s.setLife l).ohmip = s.ohmip := rfl
@[simp] theorem State.setLife_image {l : LifeCounts} : (s.setLife l).image = s.image := rfl
@[simp] theorem State.setLife_security {l : LifeCounts} : (s.setLife l).security = s.security := rfl
@[simp] theorem State.setLife_nor {l : LifeCounts} : (s.setLife l).nor = s.nor := rfl

@[simp] theorem State.setStatus_pending {bits : Byte} : (s.setStatus bits).pending = s.pending := rfl
@[simp] theorem State.setStatus_fresh {bits : Byte} : (s.setStatus bits).fresh = s.fresh := rfl
@[simp] theorem State.setStatus_regs {bits : Byte} : (s.setStatus bits).regs = s.regs := rfl
@[simp] theorem State.setStatus_power {bits : Byte} : (s.setStatus bits).power = s.power := rfl
@[simp] theorem State.setStatus_dep {bits : Byte} : (s.setStatus bits).dep = s.dep := rfl
@[simp] theorem State.setStatus_ring {bits : Byte} : (s.setStatus bits).ring = s.ring := rfl
@[simp] theorem State.setStatus_step {bits : Byte} : (s.setStatus bits).step = s.step := rfl
@[simp] theorem State.setStatus_plots {bits : Byte} : (s.setStatus bits).plots = s.plots := rfl
@[simp] theorem State.setStatus_glades {bits : Byte} : (s.setStatus bits).glades = s.glades := rfl
@[simp] theorem State.setStatus_groves {bits : Byte} : (s.setStatus bits).groves = s.groves := rfl
@[simp] theorem State.setStatus_mesh {bits : Byte} : (s.setStatus bits).mesh = s.mesh := rfl
@[simp] theorem State.setStatus_mem {bits : Byte} : (s.setStatus bits).mem = s.mem := rfl
@[simp] theorem State.setStatus_serving {bits : Byte} : (s.setStatus bits).serving = s.serving := rfl
@[simp] theorem State.setStatus_routing {bits : Byte} : (s.setStatus bits).routing = s.routing := rfl
@[simp] theorem State.setStatus_lease {bits : Byte} : (s.setStatus bits).lease = s.lease := rfl
@[simp] theorem State.setStatus_layers {bits : Byte} : (s.setStatus bits).layers = s.layers := rfl
@[simp] theorem State.setStatus_pendCounts {bits : Byte} : (s.setStatus bits).pendCounts = s.pendCounts := rfl
@[simp] theorem State.setStatus_pendLayers {bits : Byte} : (s.setStatus bits).pendLayers = s.pendLayers := rfl
@[simp] theorem State.setStatus_fabric {bits : Byte} : (s.setStatus bits).fabric = s.fabric := rfl
@[simp] theorem State.setStatus_alapor {bits : Byte} : (s.setStatus bits).alapor = s.alapor := rfl
@[simp] theorem State.setStatus_ohmip {bits : Byte} : (s.setStatus bits).ohmip = s.ohmip := rfl
@[simp] theorem State.setStatus_image {bits : Byte} : (s.setStatus bits).image = s.image := rfl
@[simp] theorem State.setStatus_security {bits : Byte} : (s.setStatus bits).security = s.security := rfl
@[simp] theorem State.setStatus_nor {bits : Byte} : (s.setStatus bits).nor = s.nor := rfl

@[simp] theorem State.setPower_pending {x : Power} : (s.setPower x).pending = s.pending := rfl
@[simp] theorem State.setPower_fresh {x : Power} : (s.setPower x).fresh = s.fresh := rfl
@[simp] theorem State.setPower_regs {x : Power} : (s.setPower x).regs = s.regs := rfl
@[simp] theorem State.setPower_board {x : Power} : (s.setPower x).board = s.board := rfl
@[simp] theorem State.setPower_dep {x : Power} : (s.setPower x).dep = s.dep := rfl
@[simp] theorem State.setPower_ring {x : Power} : (s.setPower x).ring = s.ring := rfl
@[simp] theorem State.setPower_step {x : Power} : (s.setPower x).step = s.step := rfl
@[simp] theorem State.setPower_plots {x : Power} : (s.setPower x).plots = s.plots := rfl
@[simp] theorem State.setPower_glades {x : Power} : (s.setPower x).glades = s.glades := rfl
@[simp] theorem State.setPower_groves {x : Power} : (s.setPower x).groves = s.groves := rfl
@[simp] theorem State.setPower_mesh {x : Power} : (s.setPower x).mesh = s.mesh := rfl
@[simp] theorem State.setPower_mem {x : Power} : (s.setPower x).mem = s.mem := rfl
@[simp] theorem State.setPower_serving {x : Power} : (s.setPower x).serving = s.serving := rfl
@[simp] theorem State.setPower_routing {x : Power} : (s.setPower x).routing = s.routing := rfl
@[simp] theorem State.setPower_lease {x : Power} : (s.setPower x).lease = s.lease := rfl
@[simp] theorem State.setPower_layers {x : Power} : (s.setPower x).layers = s.layers := rfl
@[simp] theorem State.setPower_pendCounts {x : Power} : (s.setPower x).pendCounts = s.pendCounts := rfl
@[simp] theorem State.setPower_pendLayers {x : Power} : (s.setPower x).pendLayers = s.pendLayers := rfl
@[simp] theorem State.setPower_fabric {x : Power} : (s.setPower x).fabric = s.fabric := rfl
@[simp] theorem State.setPower_alapor {x : Power} : (s.setPower x).alapor = s.alapor := rfl
@[simp] theorem State.setPower_ohmip {x : Power} : (s.setPower x).ohmip = s.ohmip := rfl
@[simp] theorem State.setPower_image {x : Power} : (s.setPower x).image = s.image := rfl
@[simp] theorem State.setPower_security {x : Power} : (s.setPower x).security = s.security := rfl
@[simp] theorem State.setPower_nor {x : Power} : (s.setPower x).nor = s.nor := rfl

@[simp] theorem State.setMem_pending {m : Memory} : (s.setMem m).pending = s.pending := rfl
@[simp] theorem State.setMem_fresh {m : Memory} : (s.setMem m).fresh = s.fresh := rfl
@[simp] theorem State.setMem_regs {m : Memory} : (s.setMem m).regs = s.regs := rfl
@[simp] theorem State.setMem_board {m : Memory} : (s.setMem m).board = s.board := rfl
@[simp] theorem State.setMem_power {m : Memory} : (s.setMem m).power = s.power := rfl
@[simp] theorem State.setMem_dep {m : Memory} : (s.setMem m).dep = s.dep := rfl
@[simp] theorem State.setMem_ring {m : Memory} : (s.setMem m).ring = s.ring := rfl
@[simp] theorem State.setMem_step {m : Memory} : (s.setMem m).step = s.step := rfl
@[simp] theorem State.setMem_plots {m : Memory} : (s.setMem m).plots = s.plots := rfl
@[simp] theorem State.setMem_glades {m : Memory} : (s.setMem m).glades = s.glades := rfl
@[simp] theorem State.setMem_groves {m : Memory} : (s.setMem m).groves = s.groves := rfl
@[simp] theorem State.setMem_mesh {m : Memory} : (s.setMem m).mesh = s.mesh := rfl
@[simp] theorem State.setMem_serving {m : Memory} : (s.setMem m).serving = s.serving := rfl
@[simp] theorem State.setMem_routing {m : Memory} : (s.setMem m).routing = s.routing := rfl
@[simp] theorem State.setMem_lease {m : Memory} : (s.setMem m).lease = s.lease := rfl
@[simp] theorem State.setMem_layers {m : Memory} : (s.setMem m).layers = s.layers := rfl
@[simp] theorem State.setMem_pendCounts {m : Memory} : (s.setMem m).pendCounts = s.pendCounts := rfl
@[simp] theorem State.setMem_pendLayers {m : Memory} : (s.setMem m).pendLayers = s.pendLayers := rfl
@[simp] theorem State.setMem_fabric {m : Memory} : (s.setMem m).fabric = s.fabric := rfl
@[simp] theorem State.setMem_alapor {m : Memory} : (s.setMem m).alapor = s.alapor := rfl
@[simp] theorem State.setMem_ohmip {m : Memory} : (s.setMem m).ohmip = s.ohmip := rfl
@[simp] theorem State.setMem_image {m : Memory} : (s.setMem m).image = s.image := rfl
@[simp] theorem State.setMem_security {m : Memory} : (s.setMem m).security = s.security := rfl
@[simp] theorem State.setMem_nor {m : Memory} : (s.setMem m).nor = s.nor := rfl
@[simp] theorem State.setMem_mem {m : Memory} : (s.setMem m).mem = m := rfl

@[simp] theorem State.setGpower_pending {g : Nat} {x : GrovePower} : (s.setGpower g x).pending = s.pending := rfl
@[simp] theorem State.setGpower_fresh {g : Nat} {x : GrovePower} : (s.setGpower g x).fresh = s.fresh := rfl
@[simp] theorem State.setGpower_regs {g : Nat} {x : GrovePower} : (s.setGpower g x).regs = s.regs := rfl
@[simp] theorem State.setGpower_board {g : Nat} {x : GrovePower} : (s.setGpower g x).board = s.board := rfl
@[simp] theorem State.setGpower_dep {g : Nat} {x : GrovePower} : (s.setGpower g x).dep = s.dep := rfl
@[simp] theorem State.setGpower_ring {g : Nat} {x : GrovePower} : (s.setGpower g x).ring = s.ring := rfl
@[simp] theorem State.setGpower_step {g : Nat} {x : GrovePower} : (s.setGpower g x).step = s.step := rfl
@[simp] theorem State.setGpower_plots {g : Nat} {x : GrovePower} : (s.setGpower g x).plots = s.plots := rfl
@[simp] theorem State.setGpower_glades {g : Nat} {x : GrovePower} : (s.setGpower g x).glades = s.glades := rfl
@[simp] theorem State.setGpower_groves {g : Nat} {x : GrovePower} : (s.setGpower g x).groves = s.groves := rfl
@[simp] theorem State.setGpower_mesh {g : Nat} {x : GrovePower} : (s.setGpower g x).mesh = s.mesh := rfl
@[simp] theorem State.setGpower_mem {g : Nat} {x : GrovePower} : (s.setGpower g x).mem = s.mem := rfl
@[simp] theorem State.setGpower_serving {g : Nat} {x : GrovePower} : (s.setGpower g x).serving = s.serving := rfl
@[simp] theorem State.setGpower_routing {g : Nat} {x : GrovePower} : (s.setGpower g x).routing = s.routing := rfl
@[simp] theorem State.setGpower_lease {g : Nat} {x : GrovePower} : (s.setGpower g x).lease = s.lease := rfl
@[simp] theorem State.setGpower_layers {g : Nat} {x : GrovePower} : (s.setGpower g x).layers = s.layers := rfl
@[simp] theorem State.setGpower_pendCounts {g : Nat} {x : GrovePower} : (s.setGpower g x).pendCounts = s.pendCounts := rfl
@[simp] theorem State.setGpower_pendLayers {g : Nat} {x : GrovePower} : (s.setGpower g x).pendLayers = s.pendLayers := rfl
@[simp] theorem State.setGpower_fabric {g : Nat} {x : GrovePower} : (s.setGpower g x).fabric = s.fabric := rfl
@[simp] theorem State.setGpower_alapor {g : Nat} {x : GrovePower} : (s.setGpower g x).alapor = s.alapor := rfl
@[simp] theorem State.setGpower_ohmip {g : Nat} {x : GrovePower} : (s.setGpower g x).ohmip = s.ohmip := rfl
@[simp] theorem State.setGpower_image {g : Nat} {x : GrovePower} : (s.setGpower g x).image = s.image := rfl
@[simp] theorem State.setGpower_security {g : Nat} {x : GrovePower} : (s.setGpower g x).security = s.security := rfl
@[simp] theorem State.setGpower_nor {g : Nat} {x : GrovePower} : (s.setGpower g x).nor = s.nor := rfl

@[simp] theorem State.setSec_pending {x : Security} : (s.setSec x).pending = s.pending := rfl
@[simp] theorem State.setSec_fresh {x : Security} : (s.setSec x).fresh = s.fresh := rfl
@[simp] theorem State.setSec_regs {x : Security} : (s.setSec x).regs = s.regs := rfl
@[simp] theorem State.setSec_board {x : Security} : (s.setSec x).board = s.board := rfl
@[simp] theorem State.setSec_power {x : Security} : (s.setSec x).power = s.power := rfl
@[simp] theorem State.setSec_dep {x : Security} : (s.setSec x).dep = s.dep := rfl
@[simp] theorem State.setSec_ring {x : Security} : (s.setSec x).ring = s.ring := rfl
@[simp] theorem State.setSec_step {x : Security} : (s.setSec x).step = s.step := rfl
@[simp] theorem State.setSec_plots {x : Security} : (s.setSec x).plots = s.plots := rfl
@[simp] theorem State.setSec_glades {x : Security} : (s.setSec x).glades = s.glades := rfl
@[simp] theorem State.setSec_groves {x : Security} : (s.setSec x).groves = s.groves := rfl
@[simp] theorem State.setSec_mesh {x : Security} : (s.setSec x).mesh = s.mesh := rfl
@[simp] theorem State.setSec_mem {x : Security} : (s.setSec x).mem = s.mem := rfl
@[simp] theorem State.setSec_serving {x : Security} : (s.setSec x).serving = s.serving := rfl
@[simp] theorem State.setSec_routing {x : Security} : (s.setSec x).routing = s.routing := rfl
@[simp] theorem State.setSec_lease {x : Security} : (s.setSec x).lease = s.lease := rfl
@[simp] theorem State.setSec_layers {x : Security} : (s.setSec x).layers = s.layers := rfl
@[simp] theorem State.setSec_pendCounts {x : Security} : (s.setSec x).pendCounts = s.pendCounts := rfl
@[simp] theorem State.setSec_pendLayers {x : Security} : (s.setSec x).pendLayers = s.pendLayers := rfl
@[simp] theorem State.setSec_fabric {x : Security} : (s.setSec x).fabric = s.fabric := rfl
@[simp] theorem State.setSec_alapor {x : Security} : (s.setSec x).alapor = s.alapor := rfl
@[simp] theorem State.setSec_ohmip {x : Security} : (s.setSec x).ohmip = s.ohmip := rfl
@[simp] theorem State.setSec_image {x : Security} : (s.setSec x).image = s.image := rfl
@[simp] theorem State.setSec_nor {x : Security} : (s.setSec x).nor = s.nor := rfl

@[simp] theorem State.setDep_pending {x : Depend} : (s.setDep x).pending = s.pending := rfl
@[simp] theorem State.setDep_fresh {x : Depend} : (s.setDep x).fresh = s.fresh := rfl
@[simp] theorem State.setDep_regs {x : Depend} : (s.setDep x).regs = s.regs := rfl
@[simp] theorem State.setDep_board {x : Depend} : (s.setDep x).board = s.board := rfl
@[simp] theorem State.setDep_power {x : Depend} : (s.setDep x).power = s.power := rfl
@[simp] theorem State.setDep_ring {x : Depend} : (s.setDep x).ring = s.ring := rfl
@[simp] theorem State.setDep_step {x : Depend} : (s.setDep x).step = s.step := rfl
@[simp] theorem State.setDep_plots {x : Depend} : (s.setDep x).plots = s.plots := rfl
@[simp] theorem State.setDep_glades {x : Depend} : (s.setDep x).glades = s.glades := rfl
@[simp] theorem State.setDep_groves {x : Depend} : (s.setDep x).groves = s.groves := rfl
@[simp] theorem State.setDep_mesh {x : Depend} : (s.setDep x).mesh = s.mesh := rfl
@[simp] theorem State.setDep_mem {x : Depend} : (s.setDep x).mem = s.mem := rfl
@[simp] theorem State.setDep_serving {x : Depend} : (s.setDep x).serving = s.serving := rfl
@[simp] theorem State.setDep_routing {x : Depend} : (s.setDep x).routing = s.routing := rfl
@[simp] theorem State.setDep_lease {x : Depend} : (s.setDep x).lease = s.lease := rfl
@[simp] theorem State.setDep_layers {x : Depend} : (s.setDep x).layers = s.layers := rfl
@[simp] theorem State.setDep_pendCounts {x : Depend} : (s.setDep x).pendCounts = s.pendCounts := rfl
@[simp] theorem State.setDep_pendLayers {x : Depend} : (s.setDep x).pendLayers = s.pendLayers := rfl
@[simp] theorem State.setDep_fabric {x : Depend} : (s.setDep x).fabric = s.fabric := rfl
@[simp] theorem State.setDep_alapor {x : Depend} : (s.setDep x).alapor = s.alapor := rfl
@[simp] theorem State.setDep_ohmip {x : Depend} : (s.setDep x).ohmip = s.ohmip := rfl
@[simp] theorem State.setDep_image {x : Depend} : (s.setDep x).image = s.image := rfl
@[simp] theorem State.setDep_security {x : Depend} : (s.setDep x).security = s.security := rfl
@[simp] theorem State.setDep_nor {x : Depend} : (s.setDep x).nor = s.nor := rfl

@[simp] theorem State.setRing_pending {x : Ring} : (s.setRing x).pending = s.pending := rfl
@[simp] theorem State.setRing_fresh {x : Ring} : (s.setRing x).fresh = s.fresh := rfl
@[simp] theorem State.setRing_regs {x : Ring} : (s.setRing x).regs = s.regs := rfl
@[simp] theorem State.setRing_board {x : Ring} : (s.setRing x).board = s.board := rfl
@[simp] theorem State.setRing_power {x : Ring} : (s.setRing x).power = s.power := rfl
@[simp] theorem State.setRing_dep {x : Ring} : (s.setRing x).dep = s.dep := rfl
@[simp] theorem State.setRing_step {x : Ring} : (s.setRing x).step = s.step := rfl
@[simp] theorem State.setRing_plots {x : Ring} : (s.setRing x).plots = s.plots := rfl
@[simp] theorem State.setRing_glades {x : Ring} : (s.setRing x).glades = s.glades := rfl
@[simp] theorem State.setRing_groves {x : Ring} : (s.setRing x).groves = s.groves := rfl
@[simp] theorem State.setRing_mesh {x : Ring} : (s.setRing x).mesh = s.mesh := rfl
@[simp] theorem State.setRing_mem {x : Ring} : (s.setRing x).mem = s.mem := rfl
@[simp] theorem State.setRing_serving {x : Ring} : (s.setRing x).serving = s.serving := rfl
@[simp] theorem State.setRing_routing {x : Ring} : (s.setRing x).routing = s.routing := rfl
@[simp] theorem State.setRing_lease {x : Ring} : (s.setRing x).lease = s.lease := rfl
@[simp] theorem State.setRing_layers {x : Ring} : (s.setRing x).layers = s.layers := rfl
@[simp] theorem State.setRing_pendCounts {x : Ring} : (s.setRing x).pendCounts = s.pendCounts := rfl
@[simp] theorem State.setRing_pendLayers {x : Ring} : (s.setRing x).pendLayers = s.pendLayers := rfl
@[simp] theorem State.setRing_fabric {x : Ring} : (s.setRing x).fabric = s.fabric := rfl
@[simp] theorem State.setRing_alapor {x : Ring} : (s.setRing x).alapor = s.alapor := rfl
@[simp] theorem State.setRing_ohmip {x : Ring} : (s.setRing x).ohmip = s.ohmip := rfl
@[simp] theorem State.setRing_image {x : Ring} : (s.setRing x).image = s.image := rfl
@[simp] theorem State.setRing_security {x : Ring} : (s.setRing x).security = s.security := rfl
@[simp] theorem State.setRing_nor {x : Ring} : (s.setRing x).nor = s.nor := rfl

@[simp] theorem State.setStep_pending {x : StepState} : (s.setStep x).pending = s.pending := rfl
@[simp] theorem State.setStep_fresh {x : StepState} : (s.setStep x).fresh = s.fresh := rfl
@[simp] theorem State.setStep_regs {x : StepState} : (s.setStep x).regs = s.regs := rfl
@[simp] theorem State.setStep_board {x : StepState} : (s.setStep x).board = s.board := rfl
@[simp] theorem State.setStep_power {x : StepState} : (s.setStep x).power = s.power := rfl
@[simp] theorem State.setStep_dep {x : StepState} : (s.setStep x).dep = s.dep := rfl
@[simp] theorem State.setStep_ring {x : StepState} : (s.setStep x).ring = s.ring := rfl
@[simp] theorem State.setStep_plots {x : StepState} : (s.setStep x).plots = s.plots := rfl
@[simp] theorem State.setStep_glades {x : StepState} : (s.setStep x).glades = s.glades := rfl
@[simp] theorem State.setStep_groves {x : StepState} : (s.setStep x).groves = s.groves := rfl
@[simp] theorem State.setStep_mesh {x : StepState} : (s.setStep x).mesh = s.mesh := rfl
@[simp] theorem State.setStep_mem {x : StepState} : (s.setStep x).mem = s.mem := rfl
@[simp] theorem State.setStep_serving {x : StepState} : (s.setStep x).serving = s.serving := rfl
@[simp] theorem State.setStep_routing {x : StepState} : (s.setStep x).routing = s.routing := rfl
@[simp] theorem State.setStep_lease {x : StepState} : (s.setStep x).lease = s.lease := rfl
@[simp] theorem State.setStep_layers {x : StepState} : (s.setStep x).layers = s.layers := rfl
@[simp] theorem State.setStep_pendCounts {x : StepState} : (s.setStep x).pendCounts = s.pendCounts := rfl
@[simp] theorem State.setStep_pendLayers {x : StepState} : (s.setStep x).pendLayers = s.pendLayers := rfl
@[simp] theorem State.setStep_fabric {x : StepState} : (s.setStep x).fabric = s.fabric := rfl
@[simp] theorem State.setStep_alapor {x : StepState} : (s.setStep x).alapor = s.alapor := rfl
@[simp] theorem State.setStep_ohmip {x : StepState} : (s.setStep x).ohmip = s.ohmip := rfl
@[simp] theorem State.setStep_image {x : StepState} : (s.setStep x).image = s.image := rfl
@[simp] theorem State.setStep_security {x : StepState} : (s.setStep x).security = s.security := rfl
@[simp] theorem State.setStep_nor {x : StepState} : (s.setStep x).nor = s.nor := rfl

@[simp] theorem State.setPhys_pending {g : Nat} {x : PhysGlade} : (s.setPhys g x).pending = s.pending := rfl
@[simp] theorem State.setPhys_fresh {g : Nat} {x : PhysGlade} : (s.setPhys g x).fresh = s.fresh := rfl
@[simp] theorem State.setPhys_regs {g : Nat} {x : PhysGlade} : (s.setPhys g x).regs = s.regs := rfl
@[simp] theorem State.setPhys_board {g : Nat} {x : PhysGlade} : (s.setPhys g x).board = s.board := rfl
@[simp] theorem State.setPhys_dep {g : Nat} {x : PhysGlade} : (s.setPhys g x).dep = s.dep := rfl
@[simp] theorem State.setPhys_ring {g : Nat} {x : PhysGlade} : (s.setPhys g x).ring = s.ring := rfl
@[simp] theorem State.setPhys_step {g : Nat} {x : PhysGlade} : (s.setPhys g x).step = s.step := rfl
@[simp] theorem State.setPhys_plots {g : Nat} {x : PhysGlade} : (s.setPhys g x).plots = s.plots := rfl
@[simp] theorem State.setPhys_glades {g : Nat} {x : PhysGlade} : (s.setPhys g x).glades = s.glades := rfl
@[simp] theorem State.setPhys_groves {g : Nat} {x : PhysGlade} : (s.setPhys g x).groves = s.groves := rfl
@[simp] theorem State.setPhys_mesh {g : Nat} {x : PhysGlade} : (s.setPhys g x).mesh = s.mesh := rfl
@[simp] theorem State.setPhys_mem {g : Nat} {x : PhysGlade} : (s.setPhys g x).mem = s.mem := rfl
@[simp] theorem State.setPhys_serving {g : Nat} {x : PhysGlade} : (s.setPhys g x).serving = s.serving := rfl
@[simp] theorem State.setPhys_routing {g : Nat} {x : PhysGlade} : (s.setPhys g x).routing = s.routing := rfl
@[simp] theorem State.setPhys_lease {g : Nat} {x : PhysGlade} : (s.setPhys g x).lease = s.lease := rfl
@[simp] theorem State.setPhys_layers {g : Nat} {x : PhysGlade} : (s.setPhys g x).layers = s.layers := rfl
@[simp] theorem State.setPhys_pendCounts {g : Nat} {x : PhysGlade} : (s.setPhys g x).pendCounts = s.pendCounts := rfl
@[simp] theorem State.setPhys_pendLayers {g : Nat} {x : PhysGlade} : (s.setPhys g x).pendLayers = s.pendLayers := rfl
@[simp] theorem State.setPhys_fabric {g : Nat} {x : PhysGlade} : (s.setPhys g x).fabric = s.fabric := rfl
@[simp] theorem State.setPhys_alapor {g : Nat} {x : PhysGlade} : (s.setPhys g x).alapor = s.alapor := rfl
@[simp] theorem State.setPhys_ohmip {g : Nat} {x : PhysGlade} : (s.setPhys g x).ohmip = s.ohmip := rfl
@[simp] theorem State.setPhys_image {g : Nat} {x : PhysGlade} : (s.setPhys g x).image = s.image := rfl
@[simp] theorem State.setPhys_security {g : Nat} {x : PhysGlade} : (s.setPhys g x).security = s.security := rfl
@[simp] theorem State.setPhys_nor {g : Nat} {x : PhysGlade} : (s.setPhys g x).nor = s.nor := rfl

@[simp] theorem State.setEntry_pending {i : Nat} {e : LedgerEntry} : (s.setEntry i e).pending = s.pending := rfl
@[simp] theorem State.setEntry_fresh {i : Nat} {e : LedgerEntry} : (s.setEntry i e).fresh = s.fresh := rfl
@[simp] theorem State.setEntry_regs {i : Nat} {e : LedgerEntry} : (s.setEntry i e).regs = s.regs := rfl
@[simp] theorem State.setEntry_board {i : Nat} {e : LedgerEntry} : (s.setEntry i e).board = s.board := rfl
@[simp] theorem State.setEntry_power {i : Nat} {e : LedgerEntry} : (s.setEntry i e).power = s.power := rfl
@[simp] theorem State.setEntry_dep {i : Nat} {e : LedgerEntry} : (s.setEntry i e).dep = s.dep := rfl
@[simp] theorem State.setEntry_ring {i : Nat} {e : LedgerEntry} : (s.setEntry i e).ring = s.ring := rfl
@[simp] theorem State.setEntry_step {i : Nat} {e : LedgerEntry} : (s.setEntry i e).step = s.step := rfl
@[simp] theorem State.setEntry_plots {i : Nat} {e : LedgerEntry} : (s.setEntry i e).plots = s.plots := rfl
@[simp] theorem State.setEntry_glades {i : Nat} {e : LedgerEntry} : (s.setEntry i e).glades = s.glades := rfl
@[simp] theorem State.setEntry_groves {i : Nat} {e : LedgerEntry} : (s.setEntry i e).groves = s.groves := rfl
@[simp] theorem State.setEntry_mesh {i : Nat} {e : LedgerEntry} : (s.setEntry i e).mesh = s.mesh := rfl
@[simp] theorem State.setEntry_mem {i : Nat} {e : LedgerEntry} : (s.setEntry i e).mem = s.mem := rfl
@[simp] theorem State.setEntry_routing {i : Nat} {e : LedgerEntry} : (s.setEntry i e).routing = s.routing := rfl
@[simp] theorem State.setEntry_lease {i : Nat} {e : LedgerEntry} : (s.setEntry i e).lease = s.lease := rfl
@[simp] theorem State.setEntry_layers {i : Nat} {e : LedgerEntry} : (s.setEntry i e).layers = s.layers := rfl
@[simp] theorem State.setEntry_pendCounts {i : Nat} {e : LedgerEntry} : (s.setEntry i e).pendCounts = s.pendCounts := rfl
@[simp] theorem State.setEntry_pendLayers {i : Nat} {e : LedgerEntry} : (s.setEntry i e).pendLayers = s.pendLayers := rfl
@[simp] theorem State.setEntry_fabric {i : Nat} {e : LedgerEntry} : (s.setEntry i e).fabric = s.fabric := rfl
@[simp] theorem State.setEntry_alapor {i : Nat} {e : LedgerEntry} : (s.setEntry i e).alapor = s.alapor := rfl
@[simp] theorem State.setEntry_ohmip {i : Nat} {e : LedgerEntry} : (s.setEntry i e).ohmip = s.ohmip := rfl
@[simp] theorem State.setEntry_image {i : Nat} {e : LedgerEntry} : (s.setEntry i e).image = s.image := rfl
@[simp] theorem State.setEntry_security {i : Nat} {e : LedgerEntry} : (s.setEntry i e).security = s.security := rfl
@[simp] theorem State.setEntry_nor {i : Nat} {e : LedgerEntry} : (s.setEntry i e).nor = s.nor := rfl

@[simp] theorem State.setGraft_pending {k : Nat} {x : GraftSlot} : (s.setGraft k x).pending = s.pending := rfl
@[simp] theorem State.setGraft_fresh {k : Nat} {x : GraftSlot} : (s.setGraft k x).fresh = s.fresh := rfl
@[simp] theorem State.setGraft_regs {k : Nat} {x : GraftSlot} : (s.setGraft k x).regs = s.regs := rfl
@[simp] theorem State.setGraft_board {k : Nat} {x : GraftSlot} : (s.setGraft k x).board = s.board := rfl
@[simp] theorem State.setGraft_power {k : Nat} {x : GraftSlot} : (s.setGraft k x).power = s.power := rfl
@[simp] theorem State.setGraft_dep {k : Nat} {x : GraftSlot} : (s.setGraft k x).dep = s.dep := rfl
@[simp] theorem State.setGraft_ring {k : Nat} {x : GraftSlot} : (s.setGraft k x).ring = s.ring := rfl
@[simp] theorem State.setGraft_step {k : Nat} {x : GraftSlot} : (s.setGraft k x).step = s.step := rfl
@[simp] theorem State.setGraft_plots {k : Nat} {x : GraftSlot} : (s.setGraft k x).plots = s.plots := rfl
@[simp] theorem State.setGraft_glades {k : Nat} {x : GraftSlot} : (s.setGraft k x).glades = s.glades := rfl
@[simp] theorem State.setGraft_groves {k : Nat} {x : GraftSlot} : (s.setGraft k x).groves = s.groves := rfl
@[simp] theorem State.setGraft_mesh {k : Nat} {x : GraftSlot} : (s.setGraft k x).mesh = s.mesh := rfl
@[simp] theorem State.setGraft_mem {k : Nat} {x : GraftSlot} : (s.setGraft k x).mem = s.mem := rfl
@[simp] theorem State.setGraft_routing {k : Nat} {x : GraftSlot} : (s.setGraft k x).routing = s.routing := rfl
@[simp] theorem State.setGraft_lease {k : Nat} {x : GraftSlot} : (s.setGraft k x).lease = s.lease := rfl
@[simp] theorem State.setGraft_layers {k : Nat} {x : GraftSlot} : (s.setGraft k x).layers = s.layers := rfl
@[simp] theorem State.setGraft_pendCounts {k : Nat} {x : GraftSlot} : (s.setGraft k x).pendCounts = s.pendCounts := rfl
@[simp] theorem State.setGraft_pendLayers {k : Nat} {x : GraftSlot} : (s.setGraft k x).pendLayers = s.pendLayers := rfl
@[simp] theorem State.setGraft_fabric {k : Nat} {x : GraftSlot} : (s.setGraft k x).fabric = s.fabric := rfl
@[simp] theorem State.setGraft_alapor {k : Nat} {x : GraftSlot} : (s.setGraft k x).alapor = s.alapor := rfl
@[simp] theorem State.setGraft_ohmip {k : Nat} {x : GraftSlot} : (s.setGraft k x).ohmip = s.ohmip := rfl
@[simp] theorem State.setGraft_image {k : Nat} {x : GraftSlot} : (s.setGraft k x).image = s.image := rfl
@[simp] theorem State.setGraft_security {k : Nat} {x : GraftSlot} : (s.setGraft k x).security = s.security := rfl
@[simp] theorem State.setGraft_nor {k : Nat} {x : GraftSlot} : (s.setGraft k x).nor = s.nor := rfl

@[simp] theorem State.setPort_pending {p : Nat} {x : Port} : (s.setPort p x).pending = s.pending := rfl
@[simp] theorem State.setPort_fresh {p : Nat} {x : Port} : (s.setPort p x).fresh = s.fresh := rfl
@[simp] theorem State.setPort_regs {p : Nat} {x : Port} : (s.setPort p x).regs = s.regs := rfl
@[simp] theorem State.setPort_board {p : Nat} {x : Port} : (s.setPort p x).board = s.board := rfl
@[simp] theorem State.setPort_power {p : Nat} {x : Port} : (s.setPort p x).power = s.power := rfl
@[simp] theorem State.setPort_dep {p : Nat} {x : Port} : (s.setPort p x).dep = s.dep := rfl
@[simp] theorem State.setPort_ring {p : Nat} {x : Port} : (s.setPort p x).ring = s.ring := rfl
@[simp] theorem State.setPort_step {p : Nat} {x : Port} : (s.setPort p x).step = s.step := rfl
@[simp] theorem State.setPort_plots {p : Nat} {x : Port} : (s.setPort p x).plots = s.plots := rfl
@[simp] theorem State.setPort_glades {p : Nat} {x : Port} : (s.setPort p x).glades = s.glades := rfl
@[simp] theorem State.setPort_groves {p : Nat} {x : Port} : (s.setPort p x).groves = s.groves := rfl
@[simp] theorem State.setPort_mesh {p : Nat} {x : Port} : (s.setPort p x).mesh = s.mesh := rfl
@[simp] theorem State.setPort_mem {p : Nat} {x : Port} : (s.setPort p x).mem = s.mem := rfl
@[simp] theorem State.setPort_serving {p : Nat} {x : Port} : (s.setPort p x).serving = s.serving := rfl
@[simp] theorem State.setPort_routing {p : Nat} {x : Port} : (s.setPort p x).routing = s.routing := rfl
@[simp] theorem State.setPort_lease {p : Nat} {x : Port} : (s.setPort p x).lease = s.lease := rfl
@[simp] theorem State.setPort_layers {p : Nat} {x : Port} : (s.setPort p x).layers = s.layers := rfl
@[simp] theorem State.setPort_pendCounts {p : Nat} {x : Port} : (s.setPort p x).pendCounts = s.pendCounts := rfl
@[simp] theorem State.setPort_pendLayers {p : Nat} {x : Port} : (s.setPort p x).pendLayers = s.pendLayers := rfl
@[simp] theorem State.setPort_alapor {p : Nat} {x : Port} : (s.setPort p x).alapor = s.alapor := rfl
@[simp] theorem State.setPort_ohmip {p : Nat} {x : Port} : (s.setPort p x).ohmip = s.ohmip := rfl
@[simp] theorem State.setPort_image {p : Nat} {x : Port} : (s.setPort p x).image = s.image := rfl
@[simp] theorem State.setPort_security {p : Nat} {x : Port} : (s.setPort p x).security = s.security := rfl
@[simp] theorem State.setPort_nor {p : Nat} {x : Port} : (s.setPort p x).nor = s.nor := rfl

@[simp] theorem State.setTg_pending {c : Nat} {u : TgUnit} : (s.setTg c u).pending = s.pending := rfl
@[simp] theorem State.setTg_fresh {c : Nat} {u : TgUnit} : (s.setTg c u).fresh = s.fresh := rfl
@[simp] theorem State.setTg_regs {c : Nat} {u : TgUnit} : (s.setTg c u).regs = s.regs := rfl
@[simp] theorem State.setTg_board {c : Nat} {u : TgUnit} : (s.setTg c u).board = s.board := rfl
@[simp] theorem State.setTg_power {c : Nat} {u : TgUnit} : (s.setTg c u).power = s.power := rfl
@[simp] theorem State.setTg_dep {c : Nat} {u : TgUnit} : (s.setTg c u).dep = s.dep := rfl
@[simp] theorem State.setTg_ring {c : Nat} {u : TgUnit} : (s.setTg c u).ring = s.ring := rfl
@[simp] theorem State.setTg_step {c : Nat} {u : TgUnit} : (s.setTg c u).step = s.step := rfl
@[simp] theorem State.setTg_plots {c : Nat} {u : TgUnit} : (s.setTg c u).plots = s.plots := rfl
@[simp] theorem State.setTg_glades {c : Nat} {u : TgUnit} : (s.setTg c u).glades = s.glades := rfl
@[simp] theorem State.setTg_groves {c : Nat} {u : TgUnit} : (s.setTg c u).groves = s.groves := rfl
@[simp] theorem State.setTg_mesh {c : Nat} {u : TgUnit} : (s.setTg c u).mesh = s.mesh := rfl
@[simp] theorem State.setTg_serving {c : Nat} {u : TgUnit} : (s.setTg c u).serving = s.serving := rfl
@[simp] theorem State.setTg_routing {c : Nat} {u : TgUnit} : (s.setTg c u).routing = s.routing := rfl
@[simp] theorem State.setTg_lease {c : Nat} {u : TgUnit} : (s.setTg c u).lease = s.lease := rfl
@[simp] theorem State.setTg_layers {c : Nat} {u : TgUnit} : (s.setTg c u).layers = s.layers := rfl
@[simp] theorem State.setTg_pendCounts {c : Nat} {u : TgUnit} : (s.setTg c u).pendCounts = s.pendCounts := rfl
@[simp] theorem State.setTg_pendLayers {c : Nat} {u : TgUnit} : (s.setTg c u).pendLayers = s.pendLayers := rfl
@[simp] theorem State.setTg_fabric {c : Nat} {u : TgUnit} : (s.setTg c u).fabric = s.fabric := rfl
@[simp] theorem State.setTg_alapor {c : Nat} {u : TgUnit} : (s.setTg c u).alapor = s.alapor := rfl
@[simp] theorem State.setTg_ohmip {c : Nat} {u : TgUnit} : (s.setTg c u).ohmip = s.ohmip := rfl
@[simp] theorem State.setTg_image {c : Nat} {u : TgUnit} : (s.setTg c u).image = s.image := rfl
@[simp] theorem State.setTg_security {c : Nat} {u : TgUnit} : (s.setTg c u).security = s.security := rfl
@[simp] theorem State.setTg_nor {c : Nat} {u : TgUnit} : (s.setTg c u).nor = s.nor := rfl

@[simp] theorem State.setImage_pending {x : Image} : (s.setImage x).pending = s.pending := rfl
@[simp] theorem State.setImage_fresh {x : Image} : (s.setImage x).fresh = s.fresh := rfl
@[simp] theorem State.setImage_regs {x : Image} : (s.setImage x).regs = s.regs := rfl
@[simp] theorem State.setImage_board {x : Image} : (s.setImage x).board = s.board := rfl
@[simp] theorem State.setImage_power {x : Image} : (s.setImage x).power = s.power := rfl
@[simp] theorem State.setImage_dep {x : Image} : (s.setImage x).dep = s.dep := rfl
@[simp] theorem State.setImage_ring {x : Image} : (s.setImage x).ring = s.ring := rfl
@[simp] theorem State.setImage_step {x : Image} : (s.setImage x).step = s.step := rfl
@[simp] theorem State.setImage_plots {x : Image} : (s.setImage x).plots = s.plots := rfl
@[simp] theorem State.setImage_glades {x : Image} : (s.setImage x).glades = s.glades := rfl
@[simp] theorem State.setImage_groves {x : Image} : (s.setImage x).groves = s.groves := rfl
@[simp] theorem State.setImage_mesh {x : Image} : (s.setImage x).mesh = s.mesh := rfl
@[simp] theorem State.setImage_mem {x : Image} : (s.setImage x).mem = s.mem := rfl
@[simp] theorem State.setImage_serving {x : Image} : (s.setImage x).serving = s.serving := rfl
@[simp] theorem State.setImage_routing {x : Image} : (s.setImage x).routing = s.routing := rfl
@[simp] theorem State.setImage_lease {x : Image} : (s.setImage x).lease = s.lease := rfl
@[simp] theorem State.setImage_layers {x : Image} : (s.setImage x).layers = s.layers := rfl
@[simp] theorem State.setImage_pendCounts {x : Image} : (s.setImage x).pendCounts = s.pendCounts := rfl
@[simp] theorem State.setImage_pendLayers {x : Image} : (s.setImage x).pendLayers = s.pendLayers := rfl
@[simp] theorem State.setImage_fabric {x : Image} : (s.setImage x).fabric = s.fabric := rfl
@[simp] theorem State.setImage_alapor {x : Image} : (s.setImage x).alapor = s.alapor := rfl
@[simp] theorem State.setImage_ohmip {x : Image} : (s.setImage x).ohmip = s.ohmip := rfl
@[simp] theorem State.setImage_security {x : Image} : (s.setImage x).security = s.security := rfl
@[simp] theorem State.setImage_nor {x : Image} : (s.setImage x).nor = s.nor := rfl

@[simp] theorem State.setInChan_pending {c : Nat} {x : InChannel} : (s.setInChan c x).pending = s.pending := rfl
@[simp] theorem State.setInChan_fresh {c : Nat} {x : InChannel} : (s.setInChan c x).fresh = s.fresh := rfl
@[simp] theorem State.setInChan_regs {c : Nat} {x : InChannel} : (s.setInChan c x).regs = s.regs := rfl
@[simp] theorem State.setInChan_board {c : Nat} {x : InChannel} : (s.setInChan c x).board = s.board := rfl
@[simp] theorem State.setInChan_power {c : Nat} {x : InChannel} : (s.setInChan c x).power = s.power := rfl
@[simp] theorem State.setInChan_dep {c : Nat} {x : InChannel} : (s.setInChan c x).dep = s.dep := rfl
@[simp] theorem State.setInChan_ring {c : Nat} {x : InChannel} : (s.setInChan c x).ring = s.ring := rfl
@[simp] theorem State.setInChan_step {c : Nat} {x : InChannel} : (s.setInChan c x).step = s.step := rfl
@[simp] theorem State.setInChan_plots {c : Nat} {x : InChannel} : (s.setInChan c x).plots = s.plots := rfl
@[simp] theorem State.setInChan_glades {c : Nat} {x : InChannel} : (s.setInChan c x).glades = s.glades := rfl
@[simp] theorem State.setInChan_groves {c : Nat} {x : InChannel} : (s.setInChan c x).groves = s.groves := rfl
@[simp] theorem State.setInChan_mesh {c : Nat} {x : InChannel} : (s.setInChan c x).mesh = s.mesh := rfl
@[simp] theorem State.setInChan_mem {c : Nat} {x : InChannel} : (s.setInChan c x).mem = s.mem := rfl
@[simp] theorem State.setInChan_serving {c : Nat} {x : InChannel} : (s.setInChan c x).serving = s.serving := rfl
@[simp] theorem State.setInChan_routing {c : Nat} {x : InChannel} : (s.setInChan c x).routing = s.routing := rfl
@[simp] theorem State.setInChan_lease {c : Nat} {x : InChannel} : (s.setInChan c x).lease = s.lease := rfl
@[simp] theorem State.setInChan_layers {c : Nat} {x : InChannel} : (s.setInChan c x).layers = s.layers := rfl
@[simp] theorem State.setInChan_pendCounts {c : Nat} {x : InChannel} : (s.setInChan c x).pendCounts = s.pendCounts := rfl
@[simp] theorem State.setInChan_pendLayers {c : Nat} {x : InChannel} : (s.setInChan c x).pendLayers = s.pendLayers := rfl
@[simp] theorem State.setInChan_fabric {c : Nat} {x : InChannel} : (s.setInChan c x).fabric = s.fabric := rfl
@[simp] theorem State.setInChan_alapor {c : Nat} {x : InChannel} : (s.setInChan c x).alapor = s.alapor := rfl
@[simp] theorem State.setInChan_image {c : Nat} {x : InChannel} : (s.setInChan c x).image = s.image := rfl
@[simp] theorem State.setInChan_security {c : Nat} {x : InChannel} : (s.setInChan c x).security = s.security := rfl
@[simp] theorem State.setInChan_nor {c : Nat} {x : InChannel} : (s.setInChan c x).nor = s.nor := rfl

section
variable {f : FaultArgs} {r : FaultRec} {u : Bool} {n k d : Nat} {w : DWord}

@[simp] theorem State.enqueue_pending : (s.enqueue r).pending = s.pending := by
  unfold State.enqueue
  dsimp only
  repeat' split
  all_goals rfl
@[simp] theorem State.enqueue_board : (s.enqueue r).board = s.board := by
  unfold State.enqueue
  dsimp only
  repeat' split
  all_goals rfl
@[simp] theorem State.enqueue_power : (s.enqueue r).power = s.power := by
  unfold State.enqueue
  dsimp only
  repeat' split
  all_goals rfl
@[simp] theorem State.enqueue_ring : (s.enqueue r).ring = s.ring := by
  unfold State.enqueue
  dsimp only
  repeat' split
  all_goals rfl
@[simp] theorem State.enqueue_step : (s.enqueue r).step = s.step := by
  unfold State.enqueue
  dsimp only
  repeat' split
  all_goals rfl
@[simp] theorem State.enqueue_plots : (s.enqueue r).plots = s.plots := by
  unfold State.enqueue
  dsimp only
  repeat' split
  all_goals rfl
@[simp] theorem State.enqueue_glades : (s.enqueue r).glades = s.glades := by
  unfold State.enqueue
  dsimp only
  repeat' split
  all_goals rfl
@[simp] theorem State.enqueue_groves : (s.enqueue r).groves = s.groves := by
  unfold State.enqueue
  dsimp only
  repeat' split
  all_goals rfl
@[simp] theorem State.enqueue_mesh : (s.enqueue r).mesh = s.mesh := by
  unfold State.enqueue
  dsimp only
  repeat' split
  all_goals rfl
@[simp] theorem State.enqueue_mem : (s.enqueue r).mem = s.mem := by
  unfold State.enqueue
  dsimp only
  repeat' split
  all_goals rfl
@[simp] theorem State.enqueue_serving : (s.enqueue r).serving = s.serving := by
  unfold State.enqueue
  dsimp only
  repeat' split
  all_goals rfl
@[simp] theorem State.enqueue_routing : (s.enqueue r).routing = s.routing := by
  unfold State.enqueue
  dsimp only
  repeat' split
  all_goals rfl
@[simp] theorem State.enqueue_lease : (s.enqueue r).lease = s.lease := by
  unfold State.enqueue
  dsimp only
  repeat' split
  all_goals rfl
@[simp] theorem State.enqueue_layers : (s.enqueue r).layers = s.layers := by
  unfold State.enqueue
  dsimp only
  repeat' split
  all_goals rfl
@[simp] theorem State.enqueue_pendCounts : (s.enqueue r).pendCounts = s.pendCounts := by
  unfold State.enqueue
  dsimp only
  repeat' split
  all_goals rfl
@[simp] theorem State.enqueue_pendLayers : (s.enqueue r).pendLayers = s.pendLayers := by
  unfold State.enqueue
  dsimp only
  repeat' split
  all_goals rfl
@[simp] theorem State.enqueue_fabric : (s.enqueue r).fabric = s.fabric := by
  unfold State.enqueue
  dsimp only
  repeat' split
  all_goals rfl
@[simp] theorem State.enqueue_ohmip : (s.enqueue r).ohmip = s.ohmip := by
  unfold State.enqueue
  dsimp only
  repeat' split
  all_goals rfl
@[simp] theorem State.enqueue_image : (s.enqueue r).image = s.image := by
  unfold State.enqueue
  dsimp only
  repeat' split
  all_goals rfl
@[simp] theorem State.enqueue_security : (s.enqueue r).security = s.security := by
  unfold State.enqueue
  dsimp only
  repeat' split
  all_goals rfl
@[simp] theorem State.enqueue_nor : (s.enqueue r).nor = s.nor := by
  unfold State.enqueue
  dsimp only
  repeat' split
  all_goals rfl
@[simp] theorem State.enqueue_fresh : (s.enqueue r).fresh = s.fresh := by
  unfold State.enqueue
  dsimp only
  repeat' split
  all_goals rfl
@[simp] theorem State.enqueue_alapor : (s.enqueue r).alapor = s.alapor := by
  unfold State.enqueue
  dsimp only
  repeat' split
  all_goals rfl

@[simp] theorem State.raiseAs_pending : (s.raiseAs f u).pending = s.pending := by
  unfold State.raiseAs
  dsimp only
  repeat' split
  all_goals first
    | exact State.enqueue_pending
@[simp] theorem State.raiseAs_board : (s.raiseAs f u).board = s.board := by
  unfold State.raiseAs
  dsimp only
  repeat' split
  all_goals first
    | exact State.enqueue_board
@[simp] theorem State.raiseAs_power : (s.raiseAs f u).power = s.power := by
  unfold State.raiseAs
  dsimp only
  repeat' split
  all_goals first
    | exact State.enqueue_power
@[simp] theorem State.raiseAs_ring : (s.raiseAs f u).ring = s.ring := by
  unfold State.raiseAs
  dsimp only
  repeat' split
  all_goals first
    | exact State.enqueue_ring
@[simp] theorem State.raiseAs_step : (s.raiseAs f u).step = s.step := by
  unfold State.raiseAs
  dsimp only
  repeat' split
  all_goals first
    | exact State.enqueue_step
@[simp] theorem State.raiseAs_plots : (s.raiseAs f u).plots = s.plots := by
  unfold State.raiseAs
  dsimp only
  repeat' split
  all_goals first
    | exact State.enqueue_plots
@[simp] theorem State.raiseAs_glades : (s.raiseAs f u).glades = s.glades := by
  unfold State.raiseAs
  dsimp only
  repeat' split
  all_goals first
    | exact State.enqueue_glades
@[simp] theorem State.raiseAs_groves : (s.raiseAs f u).groves = s.groves := by
  unfold State.raiseAs
  dsimp only
  repeat' split
  all_goals first
    | exact State.enqueue_groves
@[simp] theorem State.raiseAs_mesh : (s.raiseAs f u).mesh = s.mesh := by
  unfold State.raiseAs
  dsimp only
  repeat' split
  all_goals first
    | exact State.enqueue_mesh
@[simp] theorem State.raiseAs_mem : (s.raiseAs f u).mem = s.mem := by
  unfold State.raiseAs
  dsimp only
  repeat' split
  all_goals first
    | exact State.enqueue_mem
@[simp] theorem State.raiseAs_serving : (s.raiseAs f u).serving = s.serving := by
  unfold State.raiseAs
  dsimp only
  repeat' split
  all_goals first
    | exact State.enqueue_serving
@[simp] theorem State.raiseAs_routing : (s.raiseAs f u).routing = s.routing := by
  unfold State.raiseAs
  dsimp only
  repeat' split
  all_goals first
    | exact State.enqueue_routing
@[simp] theorem State.raiseAs_lease : (s.raiseAs f u).lease = s.lease := by
  unfold State.raiseAs
  dsimp only
  repeat' split
  all_goals first
    | exact State.enqueue_lease
@[simp] theorem State.raiseAs_layers : (s.raiseAs f u).layers = s.layers := by
  unfold State.raiseAs
  dsimp only
  repeat' split
  all_goals first
    | exact State.enqueue_layers
@[simp] theorem State.raiseAs_pendCounts : (s.raiseAs f u).pendCounts = s.pendCounts := by
  unfold State.raiseAs
  dsimp only
  repeat' split
  all_goals first
    | exact State.enqueue_pendCounts
@[simp] theorem State.raiseAs_pendLayers : (s.raiseAs f u).pendLayers = s.pendLayers := by
  unfold State.raiseAs
  dsimp only
  repeat' split
  all_goals first
    | exact State.enqueue_pendLayers
@[simp] theorem State.raiseAs_fabric : (s.raiseAs f u).fabric = s.fabric := by
  unfold State.raiseAs
  dsimp only
  repeat' split
  all_goals first
    | exact State.enqueue_fabric
@[simp] theorem State.raiseAs_ohmip : (s.raiseAs f u).ohmip = s.ohmip := by
  unfold State.raiseAs
  dsimp only
  repeat' split
  all_goals first
    | exact State.enqueue_ohmip
@[simp] theorem State.raiseAs_image : (s.raiseAs f u).image = s.image := by
  unfold State.raiseAs
  dsimp only
  repeat' split
  all_goals first
    | exact State.enqueue_image
@[simp] theorem State.raiseAs_security : (s.raiseAs f u).security = s.security := by
  unfold State.raiseAs
  dsimp only
  repeat' split
  all_goals first
    | exact State.enqueue_security
@[simp] theorem State.raiseAs_nor : (s.raiseAs f u).nor = s.nor := by
  unfold State.raiseAs
  dsimp only
  repeat' split
  all_goals first
    | exact State.enqueue_nor

@[simp] theorem State.raise_pending : (s.raise f).pending = s.pending := State.raiseAs_pending
@[simp] theorem State.raise_board : (s.raise f).board = s.board := State.raiseAs_board
@[simp] theorem State.raise_power : (s.raise f).power = s.power := State.raiseAs_power
@[simp] theorem State.raise_ring : (s.raise f).ring = s.ring := State.raiseAs_ring
@[simp] theorem State.raise_step : (s.raise f).step = s.step := State.raiseAs_step
@[simp] theorem State.raise_plots : (s.raise f).plots = s.plots := State.raiseAs_plots
@[simp] theorem State.raise_glades : (s.raise f).glades = s.glades := State.raiseAs_glades
@[simp] theorem State.raise_groves : (s.raise f).groves = s.groves := State.raiseAs_groves
@[simp] theorem State.raise_mesh : (s.raise f).mesh = s.mesh := State.raiseAs_mesh
@[simp] theorem State.raise_mem : (s.raise f).mem = s.mem := State.raiseAs_mem
@[simp] theorem State.raise_serving : (s.raise f).serving = s.serving := State.raiseAs_serving
@[simp] theorem State.raise_routing : (s.raise f).routing = s.routing := State.raiseAs_routing
@[simp] theorem State.raise_lease : (s.raise f).lease = s.lease := State.raiseAs_lease
@[simp] theorem State.raise_layers : (s.raise f).layers = s.layers := State.raiseAs_layers
@[simp] theorem State.raise_pendCounts : (s.raise f).pendCounts = s.pendCounts := State.raiseAs_pendCounts
@[simp] theorem State.raise_pendLayers : (s.raise f).pendLayers = s.pendLayers := State.raiseAs_pendLayers
@[simp] theorem State.raise_fabric : (s.raise f).fabric = s.fabric := State.raiseAs_fabric
@[simp] theorem State.raise_ohmip : (s.raise f).ohmip = s.ohmip := State.raiseAs_ohmip
@[simp] theorem State.raise_image : (s.raise f).image = s.image := State.raiseAs_image
@[simp] theorem State.raise_security : (s.raise f).security = s.security := State.raiseAs_security
@[simp] theorem State.raise_nor : (s.raise f).nor = s.nor := State.raiseAs_nor

end

/-- The plot just written is read back. -/
@[simp] theorem State.plot_setPlot {p : Nat} {x : Plot} (h : mwf Plot.init s.plots = true) : (s.setPlot p x).plot p = x :=
  mget_mset_same h

/-- Every other plot is as it was. -/
theorem State.plot_setPlot_ne {p q : Nat} {x : Plot} (h : q ≠ p) : (s.setPlot p x).plot q = s.plot q := mget_mset_other h

/-- The glade just written is read back. -/
@[simp] theorem State.glade_setGlade {g : Nat} {x : Glade} (h : mwf Glade.init s.glades = true) :
    (s.setGlade g x).glade g = x := mget_mset_same h

/-- Every other glade is as it was. -/
theorem State.glade_setGlade_ne {g k : Nat} {x : Glade} (h : k ≠ g) : (s.setGlade g x).glade k = s.glade k :=
  mget_mset_other h

/-- The grove just written is read back. -/
@[simp] theorem State.grove_setGrove {g : Nat} {x : Grove} (h : mwf Grove.init s.groves = true) :
    (s.setGrove g x).grove g = x := mget_mset_same h

end Sys2Proof.Machine
end

