-- ==== Sys2Proof/Laws/Glade.lean ====
section
/-!
SUPPORT. The laws of instruction issue: what a command of a glade answers when the glade stands at its instruction, when it
stands at another, and when it cannot issue.
-/

namespace Sys2Proof.Machine

variable {s : State} {g : BitVec 10} {op : Nat} {k : Issue → State}

/-- A glade that stands at the command's instruction runs it. -/
theorem atInstr_of_issues (h : s.issues g op) (hop : opDefined op = true) :
    atInstr s g op k = .next (k (s.issueOf g.toNat)) := by
  obtain ⟨hr, ht, ho⟩ := h
  have ht' : (s.issueOf g.toNat).gl.badTarget (s.issueOf g.toNat).pc = false := ht
  unfold atInstr
  simp [hr, ht', ho, hop]

/-- A glade that cannot issue is left as it is. -/
theorem atInstr_of_not_runs (h : s.gladeRuns g.toNat = false) : atInstr s g op k = .next s := by
  unfold atInstr
  simp [h]

/-- A glade that stands at another defined instruction is left as it is. -/
theorem atInstr_of_other {op' : Nat} (h : s.issues g op') (hop : opDefined op' = true) (hne : op' ≠ op) :
    atInstr s g op k = .next s := by
  obtain ⟨hr, ht, ho⟩ := h
  have ht' : (s.issueOf g.toNat).gl.badTarget (s.issueOf g.toNat).pc = false := ht
  unfold atInstr
  simp [hr, ht', ho, hop, hne]

/-- A glade command answers a next state. -/
theorem atInstr_next : ∃ t, atInstr s g op k = .next t := by
  unfold atInstr
  dsimp only
  repeat' split
  all_goals exact ⟨_, rfl⟩

/-- An engine command runs with the count that ENG.N or its n field gives (R282). -/
theorem atEngine_of_issues {hasCount : Bool} {k : Issue → Nat → State} (h : s.issues g op) (hop : opDefined op = true)
    (hc : hasCount = true ∨ (s.glade g.toNat).engN = none) (hn : (s.engineIssue g).2 ≠ 0) :
    atEngine s g op hasCount k = .next (k (s.engineIssue g).1 (s.engineIssue g).2) := by
  unfold atEngine
  rw [atInstr_of_issues h hop]
  unfold State.engineIssue at hn ⊢
  have he : (s.issueOf g.toNat).gl = s.glade g.toNat := rfl
  dsimp only at hn ⊢
  rw [he] at hn ⊢
  cases hv : (s.glade g.toNat).engN with
  | none => rfl
  | some c =>
    rw [hv] at hc hn
    have hc' : hasCount = true := by
      rcases hc with h | h
      · exact h
      · cases h
    have hz : c ≠ 0 := fun e => hn (by subst e; rfl)
    simp only [hc', Bool.not_true, Bool.false_eq_true, if_false]
    rw [if_neg hz]

/-- Checks that all pass let the instruction go on. -/
theorem checks_pass {i : Issue} {cs : List (Bool × Nat)} {k : State} (h : ∀ c ∈ cs, c.1 = false) : s.checks i cs k = k := by
  unfold State.checks
  have : cs.find? (fun c => c.1) = none := by
    rw [List.find?_eq_none]
    intro c hc
    simp [h c hc]
  rw [this]

/-- With nothing waiting in the engine queues, nothing follows a change. -/
@[simp] theorem engineOn_of_empty {t : State} {u : Nat} (h : (t.glade u).engine = []) : t.engineOn u = t := by
  unfold State.engineOn
  rw [h]
  rfl

/-- An engine instruction that need not wait, with the engine queues empty before and after it, has its effect at once
(R90, R172). -/
theorem engine_of_some {i : Issue} {n : Nat} {t : State} (hq : i.gl.engine = []) (h : engineOp i.op i n s = some t)
    (ht : (t.glade i.g).engine = []) : s.engine i n = t := by
  unfold State.engine
  simp [hq, h, engineOn_of_empty ht]

/-- An engine instruction that has to wait takes an entry of its queue. -/
theorem engine_of_none {i : Issue} {n : Nat} (hq : i.gl.engine = []) (h : engineOp i.op i n s = none)
    (hf : queueFull i.gl i.op = false) :
    s.engine i n = s.put i { i.gl with engine := i.gl.engine ++
      [{ pc := i.pc, op := BitVec.ofNat 8 i.op, words := BitVec.ofNat 128 i.w, args := [BitVec.ofNat 64 n] }] } := by
  unfold State.engine
  simp [hq, h, hf]

end Sys2Proof.Machine
end

