-- ==== Sys2Proof/Laws/Keeps.lean ====
section
/-!
SUPPORT. The laws of `Keeps`: it is a preorder, a state that shares the kept parts keeps them, and the few operations that
touch a kept part keep it too.
-/

namespace Sys2Proof.Machine

variable {s0 s t : State}

/-- A state keeps what it has. -/
theorem Keeps.refl (s : State) : Keeps s s := ⟨rfl, id, id, id, le_rfl⟩

/-- Moves that keep compose. -/
theorem Keeps.trans {r : State} (h : Keeps r s) (k : Keeps s t) : Keeps r t :=
  ⟨k.pending.trans h.pending, fun x => k.queue (h.queue x), fun x => k.memory (h.memory x),
    fun x => k.tables (h.tables x), h.minSvn.trans k.minSvn⟩

section
variable {fresh : Nat} {regs : Regs} {board : Board} {power : Power} {dep : Depend} {ring : Ring} {step : StepState}
  {mesh : List MeshMsg} {mem : Memory}
  {serving : Serving} {routing : Routing} {lease : LeaseUnit} {layers : SMap LayerTotal}
  {pendCounts : List PendCount} {pendLayers : List PendLayer} {fabric : Fabric} {alapor : Alapor} {ohmip : Ohmip}
  {image : Image} {security : Security} {nor : SMap Byte}

/-- A state whose memory keeps its form, and that shares the other kept parts with one that keeps them, keeps them. -/
theorem Keeps.updMem (h : Keeps s0 s) (hm : s.mem.wf → mem.wf) (hq : dep.queue = s.dep.queue)
    (hl : dep.latched = s.dep.latched) (hv : security.minSvn = s.security.minSvn) :
    Keeps s0 ⟨s.pending, fresh, regs, board, power, dep, ring, step, s.plots, s.glades, s.groves, mesh, mem, serving,
      routing, lease, layers, pendCounts, pendLayers, fabric, alapor, ohmip, image, security, nor⟩ :=
  h.trans ⟨rfl, by simp only [State.faultQueueOk, hq, hl]; exact id, hm, id, by rw [hv]⟩

/-- A state that shares the kept parts with one that keeps them keeps them. -/
theorem Keeps.upd (h : Keeps s0 s) (hq : dep.queue = s.dep.queue) (hl : dep.latched = s.dep.latched)
    (hm : mem.phys = s.mem.phys) (hv : security.minSvn = s.security.minSvn) :
    Keeps s0 ⟨s.pending, fresh, regs, board, power, dep, ring, step, s.plots, s.glades, s.groves, mesh, mem, serving,
      routing, lease, layers, pendCounts, pendLayers, fabric, alapor, ohmip, image, security, nor⟩ :=
  h.updMem (by simp only [Memory.wf, hm]; exact id) hq hl hv

/-- A state that shares the kept parts but the fault queue, which stays within its bound. -/
theorem Keeps.updQueue (h : Keeps s0 s)
    (hq : s.faultQueueOk → dep.queue.length ≤ 1024 ∧ (dep.latched = true → dep.queue ≠ []))
    (hm : mem.phys = s.mem.phys) (hv : security.minSvn = s.security.minSvn) :
    Keeps s0 ⟨s.pending, fresh, regs, board, power, dep, ring, step, s.plots, s.glades, s.groves, mesh, mem, serving,
      routing, lease, layers, pendCounts, pendLayers, fabric, alapor, ohmip, image, security, nor⟩ :=
  h.trans ⟨rfl, hq, by simp only [Memory.wf, hm]; exact id, id, by rw [hv]⟩

/-- A state that differs in its unit tables only, which stay canonical. -/
theorem Keeps.updTables {plots : SMap Plot} {glades : SMap Glade} {groves : SMap Grove} (h : Keeps s0 s)
    (ht : s.tablesOk → mwf Plot.init plots = true ∧ mwf Glade.init glades = true ∧ mwf Grove.init groves = true)
    (hq : dep.queue = s.dep.queue) (hl : dep.latched = s.dep.latched) (hm : mem.phys = s.mem.phys)
    (hv : security.minSvn = s.security.minSvn) :
    Keeps s0 ⟨s.pending, fresh, regs, board, power, dep, ring, step, plots, glades, groves, mesh, mem, serving,
      routing, lease, layers, pendCounts, pendLayers, fabric, alapor, ohmip, image, security, nor⟩ :=
  h.trans ⟨rfl, by simp only [State.faultQueueOk, hq, hl]; exact id, by simp only [Memory.wf, hm]; exact id, ht,
    by rw [hv]⟩

end

/-- A fold of moves that keep. -/
theorem Keeps.foldl {β : Type} {f : State → β → State} (hf : ∀ s b, Keeps s0 s → Keeps s0 (f s b)) :
    ∀ {l : List β} {s : State}, Keeps s0 s → Keeps s0 (l.foldl f s)
  | [], _, h => h
  | b :: l, s, h => Keeps.foldl hf (l := l) (s := f s b) (hf s b h)

/-- A choice between states that keep. -/
theorem Keeps.ite {c : Prop} [Decidable c] (hs : c → Keeps s0 s) (ht : ¬c → Keeps s0 t) :
    Keeps s0 (if c then s else t) := by
  split
  · exact hs ‹c›
  · exact ht ‹¬c›

/-- A choice between answers whose states keep. -/
theorem Keeps.iteSnd {β : Type} {c : Prop} [Decidable c] {a b : β × State} (ha : c → Keeps s0 a.2)
    (hb : ¬c → Keeps s0 b.2) : Keeps s0 (if c then a else b).2 := by
  split
  · exact ha ‹c›
  · exact hb ‹¬c›

/-- A choice between outcomes that keep. -/
theorem KeepsOut.ite {c : Prop} [Decidable c] {a b : Host.Outcome State Fault Refusal} (ha : c → KeepsOut s0 a)
    (hb : ¬c → KeepsOut s0 b) : KeepsOut s0 (if c then a else b) := by
  split
  · exact ha ‹c›
  · exact hb ‹¬c›

/-- No state. -/
theorem KeepsOpt.none : KeepsOpt s0 .none := ⟨fun _ e => nomatch e⟩

/-- A state that keeps. -/
theorem KeepsOpt.some (h : Keeps s0 s) : KeepsOpt s0 (.some s) := ⟨fun t e => by cases e; exact h⟩

/-- A choice between answers that keep. -/
theorem KeepsOpt.ite {c : Prop} [Decidable c] {a b : Option State} (ha : c → KeepsOpt s0 a)
    (hb : ¬c → KeepsOpt s0 b) : KeepsOpt s0 (if c then a else b) := by
  split
  · exact ha ‹c›
  · exact hb ‹¬c›

/-- A next state that keeps. -/
theorem KeepsOut.next (h : Keeps s0 s) : KeepsOut s0 (.next s) :=
  ⟨fun t e => by cases e; exact h⟩

/-- A fault keeps nothing and changes nothing. -/
theorem KeepsOut.fault {r : Fault} : KeepsOut s0 (.fault r) :=
  ⟨fun _ e => nomatch e⟩

/-- A refusal changes nothing. -/
theorem KeepsOut.refused {r : Refusal} : KeepsOut s0 (.refused r) :=
  ⟨fun _ e => nomatch e⟩

/-- Writing one device range byte keeps the canonical form. -/
theorem Memory.writeByte_wf {m : Memory} {a : Nat} {b : Byte} (h : m.wf) : (m.writeByte a b).wf := by
  unfold Memory.writeByte
  split
  · dsimp only
    split
    · dsimp only [Memory.wf]
      split
      · exact mwf_mset (mwf_mset h)
      · exact mwf_mset h
    · exact h
  · exact h

/-- Writing device range bytes keeps the canonical form. -/
theorem Memory.write_wf {bs : List Byte} : ∀ {m : Memory} {a : Nat}, m.wf → (m.write a bs).wf := by
  induction bs with
  | nil => exact fun h => h
  | cons b bs ih => exact fun h => ih (Memory.writeByte_wf h)

/-- The dirty mark of a granule leaves what the tiers hold. -/
@[simp] theorem Memory.dirtyAt_phys (m : Memory) (a : Nat) : (m.dirtyAt a).phys = m.phys := by
  unfold Memory.dirtyAt
  split
  · dsimp only
    split <;> rfl
  · rfl

/-- Writing what no block under repair holds keeps the canonical form. -/
theorem Memory.writeOpen_wf : ∀ {bs : List Byte} {m : Memory} {a : Nat}, m.wf → (m.writeOpen a bs).wf
  | [], _, _, h => h
  | _ :: bs, m, a, h => by
    unfold Memory.writeOpen
    refine Memory.writeOpen_wf (bs := bs) ?_
    split
    · exact h
    · exact Memory.writeByte_wf h

/-- Bytes that waited, written, keep the canonical form. -/
theorem Memory.writeAll_wf : ∀ {xs : List (Nat × Byte)} {m : Memory}, m.wf → (Memory.writeAll xs m).wf
  | [], _, h => h
  | x :: xs, m, h => by
    unfold Memory.writeAll
    refine Memory.writeAll_wf (xs := xs) ?_
    rw [Memory.wf, Memory.dirtyAt_phys]
    exact Memory.writeByte_wf h

/-- The writes that waited keep the canonical form. -/
theorem Memory.flushLate_wf {m : Memory} (h : m.wf) : m.flushLate.wf := Memory.writeAll_wf h

end Sys2Proof.Machine
end

