-- ==== Sys2Proof/Laws/KeepsOps.lean ====
section
/-!
SUPPORT. What the operations of Machine/Ops.lean keep: one lemma for each that gives a state.
-/

namespace Sys2Proof.Machine

theorem State.draw_keeps {s0 : State} {s : State} {n : Nat} (hs : Keeps s0 s) :
    Keeps s0 (State.draw s n).2 := by
  unfold State.draw
  repeat' first
    | with_reducible exact hs
    | with_reducible assumption
    | (intro _)
    | split
    | fail_if_no_progress ((with_reducible refine Keeps.upd ?_ ?_ ?_ ?_ ?_) <;> [skip; rfl; rfl; rfl; rfl])

theorem State.draw_keeps_pair {s0 : State} {s : State} {n : Nat} {o0 : BitVec n} {t0 : State}
    (e : State.draw s n = (o0, t0)) (hs : Keeps s0 s) :
    Keeps s0 t0 := by
  have h := State.draw_keeps (s0 := s0) (s := s) (n := n) hs
  rw [e] at h
  exact h

theorem State.drawBool_keeps {s0 : State} {s : State} (hs : Keeps s0 s) :
    Keeps s0 (State.drawBool s).2 := by
  unfold State.drawBool
  repeat' first
    | with_reducible exact hs
    | with_reducible assumption
    | (intro _)
    | split
    | fail_if_no_progress ((with_reducible refine Keeps.upd ?_ ?_ ?_ ?_ ?_) <;> [skip; rfl; rfl; rfl; rfl])

theorem State.drawBool_keeps_pair {s0 : State} {s : State} {o0 : Bool} {t0 : State}
    (e : State.drawBool s = (o0, t0)) (hs : Keeps s0 s) :
    Keeps s0 t0 := by
  have h := State.drawBool_keeps (s0 := s0) (s := s) hs
  rw [e] at h
  exact h

theorem State.drawBytes_keeps {s0 : State} {s : State} {k : Nat} (hs : Keeps s0 s) :
    Keeps s0 (State.drawBytes s k).2 := by
  unfold State.drawBytes
  repeat' first
    | with_reducible exact hs
    | with_reducible assumption
    | (intro _)
    | split
    | fail_if_no_progress ((with_reducible refine Keeps.upd ?_ ?_ ?_ ?_ ?_) <;> [skip; rfl; rfl; rfl; rfl])

theorem State.drawBytes_keeps_pair {s0 : State} {s : State} {k : Nat} {o0 : List Byte} {t0 : State}
    (e : State.drawBytes s k = (o0, t0)) (hs : Keeps s0 s) :
    Keeps s0 t0 := by
  have h := State.drawBytes_keeps (s0 := s0) (s := s) (k := k) hs
  rw [e] at h
  exact h

theorem State.drawRandom_keeps {s0 : State} {s : State} {k : Nat} (hs : Keeps s0 s) :
    Keeps s0 (State.drawRandom s k).2 := by
  unfold State.drawRandom
  repeat' first
    | with_reducible exact hs
    | with_reducible assumption
    | (intro _)
    | split
    | fail_if_no_progress ((with_reducible refine Keeps.upd ?_ ?_ ?_ ?_ ?_) <;> [skip; rfl; rfl; rfl; rfl])

theorem State.drawRandom_keeps_pair {s0 : State} {s : State} {k : Nat} {o0 : List Byte} {t0 : State}
    (e : State.drawRandom s k = (o0, t0)) (hs : Keeps s0 s) :
    Keeps s0 t0 := by
  have h := State.drawRandom_keeps (s0 := s0) (s := s) (k := k) hs
  rw [e] at h
  exact h

theorem onReg_keeps {s0 : State} {a : Nat} {s : State} {t : State} (hs : Keeps s0 s) (ht : Keeps s0 t) :
    KeepsOut s0 (onReg a s t) := by
  unfold onReg
  repeat' first
    | with_reducible exact hs
    | with_reducible exact ht
    | with_reducible assumption
    | (intro _)
    | with_reducible apply KeepsOut.next
    | with_reducible exact KeepsOut.fault
    | with_reducible exact KeepsOut.refused
    | (with_reducible apply KeepsOut.ite) <;> intro _

theorem State.setReg_keeps {s0 : State} {s : State} {a : Nat} {w : Word} (hs : Keeps s0 s) :
    Keeps s0 (State.setReg s a w) := by
  unfold State.setReg
  repeat' first
    | with_reducible exact hs
    | with_reducible assumption
    | (intro _)
    | split
    | fail_if_no_progress ((with_reducible refine Keeps.upd ?_ ?_ ?_ ?_ ?_) <;> [skip; rfl; rfl; rfl; rfl])

theorem State.setReg64_keeps {s0 : State} {s : State} {a : Nat} {x : Nat} (hs : Keeps s0 s) :
    Keeps s0 (State.setReg64 s a x) := by
  unfold State.setReg64
  repeat' first
    | with_reducible exact hs
    | with_reducible assumption
    | (intro _)
    | with_reducible apply State.setReg_keeps

theorem State.setField_keeps {s0 : State} {s : State} {a : Nat} {hi : Nat} {lo : Nat} {x : Nat} (hs : Keeps s0 s) :
    Keeps s0 (State.setField s a hi lo x) := by
  unfold State.setField
  repeat' first
    | with_reducible exact hs
    | with_reducible assumption
    | (intro _)
    | with_reducible apply State.setReg_keeps

theorem State.bumpField_keeps {s0 : State} {s : State} {a : Nat} {hi : Nat} {lo : Nat} {n : Nat} (hs : Keeps s0 s) :
    Keeps s0 (State.bumpField s a hi lo n) := by
  unfold State.bumpField
  repeat' first
    | with_reducible exact hs
    | with_reducible assumption
    | (intro _)
    | with_reducible apply State.setField_keeps

theorem State.bump_keeps {s0 : State} {s : State} {a : Nat} {n : Nat} (hs : Keeps s0 s) :
    Keeps s0 (State.bump s a n) := by
  unfold State.bump
  repeat' first
    | with_reducible exact hs
    | with_reducible assumption
    | (intro _)
    | with_reducible apply State.bumpField_keeps

theorem State.verifyFailed_keeps {s0 : State} {s : State} (hs : Keeps s0 s) :
    Keeps s0 (State.verifyFailed s) := by
  unfold State.verifyFailed
  repeat' first
    | with_reducible exact hs
    | with_reducible assumption
    | (intro _)
    | with_reducible apply State.bump_keeps

theorem State.setCause_keeps {s0 : State} {s : State} {bit : Nat} (hs : Keeps s0 s) :
    Keeps s0 (State.setCause s bit) := by
  unfold State.setCause
  repeat' first
    | with_reducible exact hs
    | with_reducible assumption
    | (intro _)
    | with_reducible apply State.setField_keeps
    | split
    | fail_if_no_progress ((with_reducible refine Keeps.upd ?_ ?_ ?_ ?_ ?_) <;> [skip; rfl; rfl; rfl; rfl])

theorem State.setPlot_keeps {s0 s : State} {p : Nat} {x : Plot} (hs : Keeps s0 s) :
    Keeps s0 (State.setPlot s p x) := Keeps.updTables hs (fun q => ⟨mwf_mset q.1, q.2⟩) rfl rfl rfl rfl

theorem State.setGlade_keeps {s0 s : State} {g : Nat} {x : Glade} (hs : Keeps s0 s) :
    Keeps s0 (State.setGlade s g x) := Keeps.updTables hs (fun q => ⟨q.1, mwf_mset q.2.1, q.2.2⟩) rfl rfl rfl rfl

theorem State.setGrove_keeps {s0 s : State} {g : Nat} {x : Grove} (hs : Keeps s0 s) :
    Keeps s0 (State.setGrove s g x) := Keeps.updTables hs (fun q => ⟨q.1, q.2.1, mwf_mset q.2.2⟩) rfl rfl rfl rfl

theorem mapGlades_keeps {s0 : State} {f : Glade → Glade} {a2 : List Nat} {a3 : State} (ha3 : Keeps s0 a3) :
    Keeps s0 (mapGlades f a2 a3) := by
  induction a2 generalizing a3 with
  | nil =>
    unfold mapGlades
    repeat' first
      | with_reducible exact ha3
  | cons x xs ih =>
    unfold mapGlades
    repeat' first
      | with_reducible exact ha3
      | with_reducible exact ih
      | with_reducible assumption
      | (intro _)
      | with_reducible apply ih
      | with_reducible apply State.setGlade_keeps

theorem State.historyAs_keeps {s0 : State} {s : State} {isModule : Bool} {kind : Nat} {unit : Nat} {detail : DWord} (hs : Keeps s0 s) :
    Keeps s0 (State.historyAs s isModule kind unit detail) := by
  unfold State.historyAs
  repeat' first
    | with_reducible exact hs
    | with_reducible assumption
    | (intro _)
    | split
    | fail_if_no_progress ((with_reducible refine Keeps.upd ?_ ?_ ?_ ?_ ?_) <;> [skip; rfl; rfl; rfl; rfl])

theorem State.history_keeps {s0 : State} {s : State} {kind : Nat} {unit : Nat} {detail : DWord} (hs : Keeps s0 s) :
    Keeps s0 (State.history s kind unit detail) := by
  unfold State.history
  repeat' first
    | with_reducible exact hs
    | with_reducible assumption
    | (intro _)
    | with_reducible apply State.historyAs_keeps

/-- The last record of a list counted once more: the list keeps its length. -/

theorem bumpLast_length : ∀ l : List FaultRec, (bumpLast l).length = l.length
  | [] => rfl
  | [_] => rfl
  | _ :: b :: l => by
    have := bumpLast_length (b :: l)
    simp only [bumpLast, List.length_cons] at this ⊢
    omega

theorem State.enqueue_keeps {s0 s : State} {r : FaultRec} (hs : Keeps s0 s) : Keeps s0 (State.enqueue s r) := by
  have ne : ∀ l : List FaultRec, l.length ≠ 0 → l ≠ [] := fun l h e => h (by rw [e]; rfl)
  unfold State.enqueue
  dsimp only
  refine Keeps.ite (fun _ => ?_) (fun _ => Keeps.ite (fun _ => ?_) (fun _ => State.bump_keeps hs))
  · refine Keeps.updQueue hs (fun q => ⟨?_, fun l => ne _ ?_⟩) rfl rfl
    · dsimp only
      rw [bumpLast_length]
      exact q.1
    · dsimp only
      rw [bumpLast_length]
      exact fun z => q.2 l (List.length_eq_zero_iff.mp z)
  · refine Keeps.updQueue hs (fun q => ⟨?_, fun l => ne _ ?_⟩) rfl rfl
    · dsimp only
      rw [List.length_append, List.length_singleton]
      omega
    · dsimp only
      rw [List.length_append, List.length_singleton]
      omega

theorem State.raiseAs_keeps {s0 : State} {s : State} {f : FaultArgs} {update : Bool} (hs : Keeps s0 s) :
    Keeps s0 (State.raiseAs s f update) := by
  unfold State.raiseAs
  repeat' first
    | with_reducible exact hs
    | with_reducible assumption
    | (intro _)
    | with_reducible apply State.enqueue_keeps
    | with_reducible apply State.historyAs_keeps
    | with_reducible apply State.draw_keeps
    | refine State.draw_keeps_pair (by assumption) ?_
    | with_reducible apply State.setCause_keeps
    | (with_reducible apply Keeps.ite) <;> intro _
    | split

theorem State.raise_keeps {s0 : State} {s : State} {f : FaultArgs} (hs : Keeps s0 s) :
    Keeps s0 (State.raise s f) := by
  unfold State.raise
  repeat' first
    | with_reducible exact hs
    | with_reducible assumption
    | (intro _)
    | with_reducible apply State.raiseAs_keeps

theorem State.dropWaits_keeps {s0 : State} {s : State} {p : Nat} (hs : Keeps s0 s) :
    Keeps s0 (State.dropWaits s p) := by
  unfold State.dropWaits
  repeat' first
    | with_reducible exact hs
    | with_reducible assumption
    | (intro _)
    | split
    | fail_if_no_progress ((with_reducible refine Keeps.upd ?_ ?_ ?_ ?_ ?_) <;> [skip; rfl; rfl; rfl; rfl])

theorem abandonGlades_keeps {s0 : State} {p : Nat} {a2 : List Nat} {a3 : State} (ha3 : Keeps s0 a3) :
    Keeps s0 (abandonGlades p a2 a3) := by
  induction a2 generalizing a3 with
  | nil =>
    unfold abandonGlades
    repeat' first
      | with_reducible exact ha3
  | cons x xs ih =>
    unfold abandonGlades
    repeat' first
      | with_reducible exact ha3
      | with_reducible exact ih
      | with_reducible assumption
      | (intro _)
      | with_reducible apply ih
      | with_reducible apply State.setGlade_keeps

theorem State.mapRows_keeps {s0 : State} {s : State} {f : BatchRow → BatchRow} (hs : Keeps s0 s) :
    Keeps s0 (State.mapRows s f) := by
  unfold State.mapRows
  repeat' first
    | with_reducible exact hs
    | with_reducible assumption
    | (intro _)
    | split
    | fail_if_no_progress ((with_reducible refine Keeps.upd ?_ ?_ ?_ ?_ ?_) <;> [skip; rfl; rfl; rfl; rfl])

theorem State.dropCounts_keeps {s0 : State} {s : State} {p : Nat} (hs : Keeps s0 s) :
    Keeps s0 (State.dropCounts s p) := by
  unfold State.dropCounts
  repeat' first
    | with_reducible exact hs
    | with_reducible assumption
    | (intro _)
    | with_reducible apply State.mapRows_keeps
    | split
    | fail_if_no_progress ((with_reducible refine Keeps.upd ?_ ?_ ?_ ?_ ?_) <;> [skip; rfl; rfl; rfl; rfl])

theorem State.pendCount_keeps {s0 : State} {s : State} {reg : Nat} {p : Nat} {n : Nat} (hs : Keeps s0 s) :
    Keeps s0 (State.pendCount s reg p n) := by
  unfold State.pendCount
  repeat' first
    | with_reducible exact hs
    | with_reducible assumption
    | (intro _)
    | (with_reducible apply Keeps.ite) <;> intro _
    | split
    | fail_if_no_progress ((with_reducible refine Keeps.upd ?_ ?_ ?_ ?_ ?_) <;> [skip; rfl; rfl; rfl; rfl])

theorem State.pendLayer_keeps {s0 : State} {s : State} {p : Nat} {layer : Nat} {sat : Nat} {zc : Nat} {under : Nat} (hs : Keeps s0 s) :
    Keeps s0 (State.pendLayer s p layer sat zc under) := by
  unfold State.pendLayer
  repeat' first
    | with_reducible exact hs
    | with_reducible assumption
    | (intro _)
    | split
    | fail_if_no_progress ((with_reducible refine Keeps.upd ?_ ?_ ?_ ?_ ?_) <;> [skip; rfl; rfl; rfl; rfl])

theorem State.leaseGone_keeps {s0 : State} {s : State} {l : Lease} (hs : Keeps s0 s) :
    Keeps s0 (State.leaseGone s l) := by
  unfold State.leaseGone
  repeat' first
    | with_reducible exact hs
    | with_reducible assumption
    | (intro _)
    | with_reducible apply State.setGrove_keeps
    | with_reducible apply State.setGlade_keeps
    | (with_reducible apply Keeps.ite) <;> intro _

theorem raiseDiscards_keeps {s0 : State} {p : Nat} {res : Word} {a3 : List CanopyInstr} {a4 : State} (ha4 : Keeps s0 a4) :
    Keeps s0 (raiseDiscards p res a3 a4) := by
  induction a3 generalizing a4 with
  | nil =>
    unfold raiseDiscards
    repeat' first
      | with_reducible exact ha4
  | cons x xs ih =>
    unfold raiseDiscards
    repeat' first
      | with_reducible exact ha4
      | with_reducible exact ih
      | with_reducible assumption
      | (intro _)
      | with_reducible apply ih
      | with_reducible apply State.raise_keeps

theorem revokeAll_keeps {s0 : State} {p : Nat} {a2 : List Lease} {a3 : State} (ha3 : Keeps s0 a3) :
    Keeps s0 (revokeAll p a2 a3) := by
  induction a2 generalizing a3 with
  | nil =>
    unfold revokeAll
    repeat' first
      | with_reducible exact ha3
  | cons x xs ih =>
    unfold revokeAll
    repeat' first
      | with_reducible exact ha3
      | with_reducible exact ih
      | with_reducible assumption
      | (intro _)
      | with_reducible apply ih
      | with_reducible apply State.bump_keeps
      | with_reducible apply State.leaseGone_keeps
      | with_reducible apply raiseDiscards_keeps
      | with_reducible apply State.raise_keeps
      | split
      | fail_if_no_progress ((with_reducible refine Keeps.upd ?_ ?_ ?_ ?_ ?_) <;> [skip; rfl; rfl; rfl; rfl])

theorem State.halt_keeps {s0 : State} {s : State} {p : Nat} (hs : Keeps s0 s) :
    Keeps s0 (State.halt s p) := by
  unfold State.halt
  repeat' first
    | with_reducible exact hs
    | with_reducible assumption
    | (intro _)
    | with_reducible apply mapGlades_keeps
    | with_reducible apply State.setPlot_keeps
    | with_reducible apply State.dropWaits_keeps
    | with_reducible apply State.dropCounts_keeps
    | with_reducible apply revokeAll_keeps
    | with_reducible apply State.bump_keeps
    | (with_reducible apply Keeps.ite) <;> intro _
    | split
    | fail_if_no_progress ((with_reducible refine Keeps.upd ?_ ?_ ?_ ?_ ?_) <;> [skip; rfl; rfl; rfl; rfl])

theorem abandonGroves_keeps {s0 : State} {p : Nat} {a2 : List Nat} {a3 : State} (ha3 : Keeps s0 a3) :
    Keeps s0 (abandonGroves p a2 a3) := by
  induction a2 generalizing a3 with
  | nil =>
    unfold abandonGroves
    repeat' first
      | with_reducible exact ha3
  | cons x xs ih =>
    unfold abandonGroves
    repeat' first
      | with_reducible exact ha3
      | with_reducible exact ih
      | with_reducible assumption
      | (intro _)
      | with_reducible apply ih
      | with_reducible apply State.setGrove_keeps

theorem State.abandonStep_keeps {s0 : State} {s : State} {p : Nat} {sig : FaultSig} (hs : Keeps s0 s) :
    Keeps s0 (State.abandonStep s p sig) := by
  unfold State.abandonStep
  repeat' first
    | with_reducible exact hs
    | with_reducible assumption
    | (intro _)
    | with_reducible apply State.setPlot_keeps
    | with_reducible apply abandonGroves_keeps
    | with_reducible apply abandonGlades_keeps
    | with_reducible apply State.bump_keeps
    | with_reducible apply State.dropWaits_keeps
    | with_reducible apply State.dropCounts_keeps
    | split
    | fail_if_no_progress ((with_reducible refine Keeps.upd ?_ ?_ ?_ ?_ ?_) <;> [skip; rfl; rfl; rfl; rfl])

theorem State.abandonFault_keeps {s0 : State} {s : State} {p : Nat} {f : FaultArgs} {isFailure : Bool} (hs : Keeps s0 s) :
    Keeps s0 (State.abandonFault s p f isFailure) := by
  unfold State.abandonFault
  repeat' first
    | with_reducible exact hs
    | with_reducible assumption
    | (intro _)
    | with_reducible apply State.bump_keeps
    | with_reducible apply State.raise_keeps
    | with_reducible apply State.halt_keeps
    | with_reducible apply State.abandonStep_keeps
    | (with_reducible apply Keeps.ite) <;> intro _
    | split
    | fail_if_no_progress ((with_reducible refine Keeps.upd ?_ ?_ ?_ ?_ ?_) <;> [skip; rfl; rfl; rfl; rfl])
    | dsimp only

theorem State.haltFault_keeps {s0 : State} {s : State} {p : Nat} {f : FaultArgs} (hs : Keeps s0 s) :
    Keeps s0 (State.haltFault s p f) := by
  unfold State.haltFault
  repeat' first
    | with_reducible exact hs
    | with_reducible assumption
    | (intro _)
    | with_reducible apply State.bump_keeps
    | with_reducible apply State.halt_keeps
    | with_reducible apply State.raise_keeps
    | split

theorem State.plotFault_keeps {s0 : State} {s : State} {p : Nat} {f : FaultArgs} (hs : Keeps s0 s) :
    Keeps s0 (State.plotFault s p f) := by
  unfold State.plotFault
  repeat' first
    | with_reducible exact hs
    | with_reducible assumption
    | (intro _)
    | with_reducible apply State.bump_keeps
    | with_reducible apply State.raise_keeps
    | split

theorem State.countUp_keeps {s0 : State} {s : State} {g : Nat} {c : Nat} {n : Nat} (hs : Keeps s0 s) :
    Keeps s0 (State.countUp s g c n) := by
  unfold State.countUp
  repeat' first
    | with_reducible exact hs
    | with_reducible assumption
    | (intro _)
    | with_reducible apply State.setGlade_keeps
    | with_reducible apply State.bump_keeps
    | with_reducible apply State.abandonFault_keeps
    | (with_reducible apply Keeps.ite) <;> intro _

theorem State.leaseFault_keeps {s0 : State} {s : State} {p : Nat} {cls : Nat} {idx : Nat} {g : Nat} {pc : Nat} (hs : Keeps s0 s) :
    Keeps s0 (State.leaseFault s p cls idx g pc) := by
  unfold State.leaseFault
  repeat' first
    | with_reducible exact hs
    | with_reducible assumption
    | (intro _)
    | with_reducible apply State.abandonFault_keeps

end Sys2Proof.Machine
end

