-- ==== Sys2Proof/Laws/KeepsHostOut.lean ====
section
/-!
SUPPORT. What the operations of Machine/HostOut.lean keep: one lemma for each that gives a state.
-/

namespace Sys2Proof.Machine

theorem State.pump_keeps {s0 : State} {s : State} (hs : Keeps s0 s) :
    Keeps s0 (State.pump s) := by
  unfold State.pump
  repeat' first
    | with_reducible exact hs
    | with_reducible assumption
    | (intro _)
    | (with_reducible apply Keeps.ite) <;> intro _
    | split
    | fail_if_no_progress ((with_reducible refine Keeps.upd ?_ ?_ ?_ ?_ ?_) <;> [skip; rfl; rfl; rfl; rfl])

theorem State.hostSend_keeps {s0 : State} {s : State} {chan : Nat} {cls : Nat} {kind : Nat} {body : List Byte} (hs : Keeps s0 s) :
    Keeps s0 (State.hostSend s chan cls kind body) := by
  unfold State.hostSend
  repeat' first
    | with_reducible exact hs
    | with_reducible assumption
    | (intro _)
    | with_reducible apply State.pump_keeps
    | split
    | fail_if_no_progress ((with_reducible refine Keeps.upd ?_ ?_ ?_ ?_ ?_) <;> [skip; rfl; rfl; rfl; rfl])

theorem State.ohmipDown_keeps {s0 : State} {s : State} (hs : Keeps s0 s) :
    Keeps s0 (State.ohmipDown s) := by
  unfold State.ohmipDown
  repeat' first
    | with_reducible exact hs
    | with_reducible assumption
    | (intro _)
    | with_reducible apply State.setCause_keeps
    | (with_reducible apply Keeps.ite) <;> intro _
    | split
    | fail_if_no_progress ((with_reducible refine Keeps.upd ?_ ?_ ?_ ?_ ?_) <;> [skip; rfl; rfl; rfl; rfl])

theorem State.ohmipRetrain_keeps {s0 : State} {s : State} (hs : Keeps s0 s) :
    Keeps s0 (State.ohmipRetrain s) := by
  unfold State.ohmipRetrain
  repeat' first
    | with_reducible exact hs
    | with_reducible assumption
    | (intro _)
    | with_reducible apply State.ohmipDown_keeps
    | with_reducible apply State.bump_keeps

theorem State.fetchBlock_keeps {s0 : State} {s : State} {region : Nat} {off : Nat} {len : Nat} (hs : Keeps s0 s) :
    Keeps s0 (State.fetchBlock s region off len) := by
  unfold State.fetchBlock
  repeat' first
    | with_reducible exact hs
    | with_reducible assumption
    | (intro _)
    | with_reducible apply State.hostSend_keeps

end Sys2Proof.Machine
end

