-- ==== Sys2Proof/Laws/KeepsMemory.lean ====
section
/-!
SUPPORT. What the operations of Machine/Memory.lean keep: one lemma for each that gives a state.
-/

namespace Sys2Proof.Machine

/-- Replacing the memory tiers by others of the canonical form. -/
theorem State.setMem_keeps {s0 s : State} {m : Memory} (hs : Keeps s0 s) (hm : s.mem.wf → m.wf) :
    Keeps s0 (State.setMem s m) := Keeps.updMem hs hm rfl rfl rfl

theorem State.glbLookup_keeps {s0 : State} {s : State} {die : Nat} {idx : Nat} (hs : Keeps s0 s) :
    Keeps s0 (State.glbLookup s die idx) := by
  unfold State.glbLookup
  repeat' first
    | with_reducible exact hs
    | with_reducible assumption
    | (intro _)
    | with_reducible apply State.draw_keeps
    | refine State.draw_keeps_pair (by assumption) ?_
    | with_reducible apply State.bump_keeps
    | (with_reducible apply Keeps.ite) <;> intro _
    | split
    | fail_if_no_progress ((with_reducible refine Keeps.upd ?_ ?_ ?_ ?_ ?_) <;> [skip; rfl; rfl; rfl; rfl])

theorem State.pickDie_keeps {s0 : State} {s : State} {die : Option Nat} (hs : Keeps s0 s) :
    Keeps s0 (State.pickDie s die).2 := by
  unfold State.pickDie
  repeat' first
    | with_reducible exact hs
    | with_reducible assumption
    | (intro _)
    | with_reducible apply State.draw_keeps
    | refine State.draw_keeps_pair (by assumption) ?_
    | split

theorem State.pickDie_keeps_pair {s0 : State} {s : State} {die : Option Nat} {o0 : Nat} {t0 : State}
    (e : State.pickDie s die = (o0, t0)) (hs : Keeps s0 s) :
    Keeps s0 t0 := by
  have h := State.pickDie_keeps (s0 := s0) (s := s) (die := die) hs
  rw [e] at h
  exact h

theorem State.touchUnit_keeps {s0 : State} {s : State} {die : Option Nat} {counts : Bool} {write : Bool} {u : Nat} (hs : Keeps s0 s) :
    Keeps s0 (State.touchUnit s die counts write u) := by
  unfold State.touchUnit
  repeat' first
    | with_reducible exact hs
    | with_reducible assumption
    | (intro _)
    | with_reducible apply State.pickDie_keeps
    | refine State.pickDie_keeps_pair (by assumption) ?_
    | with_reducible apply State.glbLookup_keeps
    | (with_reducible apply Keeps.ite) <;> intro _
    | split
    | fail_if_no_progress ((with_reducible refine Keeps.upd ?_ ?_ ?_ ?_ ?_) <;> [skip; rfl; rfl; rfl; rfl])

theorem touchUnits_keeps {s0 : State} {die : Option Nat} {counts : Bool} {write : Bool} {a4 : List Nat} {a5 : State} (ha5 : Keeps s0 a5) :
    Keeps s0 (touchUnits die counts write a4 a5) := by
  induction a4 generalizing a5 with
  | nil =>
    unfold touchUnits
    repeat' first
      | with_reducible exact ha5
  | cons x xs ih =>
    unfold touchUnits
    repeat' first
      | with_reducible exact ha5
      | with_reducible exact ih
      | with_reducible assumption
      | (intro _)
      | with_reducible apply ih
      | with_reducible apply State.touchUnit_keeps

theorem State.touchReadOn_keeps {s0 : State} {s : State} {die : Nat} {a : Nat} {n : Nat} (hs : Keeps s0 s) :
    Keeps s0 (State.touchReadOn s die a n) := by
  unfold State.touchReadOn
  repeat' first
    | with_reducible exact hs
    | with_reducible assumption
    | (intro _)
    | with_reducible apply touchUnits_keeps

theorem State.touchRead_keeps {s0 : State} {s : State} {a : Nat} {n : Nat} (hs : Keeps s0 s) :
    Keeps s0 (State.touchRead s a n) := by
  unfold State.touchRead
  repeat' first
    | with_reducible exact hs
    | with_reducible assumption
    | (intro _)
    | with_reducible apply touchUnits_keeps

theorem State.writeThrough_keeps {s0 s : State} {die : Option Nat} {counts : Bool} {a : Nat} {bs : List Byte} (hs : Keeps s0 s) :
    Keeps s0 (State.writeThrough s die counts a bs) := by
  unfold State.writeThrough
  exact Keeps.updMem (touchUnits_keeps hs) Memory.writeOpen_wf rfl rfl rfl

theorem State.devWriteOn_keeps {s0 : State} {s : State} {die : Nat} {a : Nat} {bs : List Byte} (hs : Keeps s0 s) :
    Keeps s0 (State.devWriteOn s die a bs) := by
  unfold State.devWriteOn
  repeat' first
    | with_reducible exact hs
    | with_reducible assumption
    | (intro _)
    | with_reducible apply State.writeThrough_keeps

theorem State.devWrite_keeps {s0 : State} {s : State} {a : Nat} {bs : List Byte} (hs : Keeps s0 s) :
    Keeps s0 (State.devWrite s a bs) := by
  unfold State.devWrite
  repeat' first
    | with_reducible exact hs
    | with_reducible assumption
    | (intro _)
    | with_reducible apply State.writeThrough_keeps

theorem State.devWriteQuiet_keeps {s0 : State} {s : State} {a : Nat} {bs : List Byte} (hs : Keeps s0 s) :
    Keeps s0 (State.devWriteQuiet s a bs) := by
  unfold State.devWriteQuiet
  repeat' first
    | with_reducible exact hs
    | with_reducible assumption
    | (intro _)
    | with_reducible apply State.writeThrough_keeps

theorem State.pickSlot_keeps {s0 : State} {s : State} {k : Nat} {r : Region} {under : Bool} {res0 : (Nat × State)} (e : State.pickSlot s k r under = some res0) (hs : Keeps s0 s) :
    Keeps s0 res0.2 := by
  revert e
  unfold State.pickSlot
  intro e
  try dsimp only at e
  (repeat' split at e) <;> first
    | (cases e; done)
    | (cases e
       repeat' first
         | with_reducible exact hs
         | with_reducible assumption
         | (intro _)
         | with_reducible apply State.draw_keeps)

theorem State.pickSlot_keeps_pair {s0 : State} {s : State} {k : Nat} {r : Region} {under : Bool} {o0 : Nat} {t0 : State}
    (e : State.pickSlot s k r under = some (o0, t0)) (hs : Keeps s0 s) :
    Keeps s0 t0 := State.pickSlot_keeps e hs

theorem State.mapGranule_keeps {s0 : State} {s : State} {k : Nat} {r : Region} {i : Nat} {anyStack : Bool} (hs : Keeps s0 s) :
    Keeps s0 (State.mapGranule s k r i anyStack) := by
  unfold State.mapGranule
  repeat' first
    | with_reducible exact hs
    | with_reducible assumption
    | (intro _)
    | refine State.pickSlot_keeps (by assumption) ?_
    | refine State.pickSlot_keeps_pair (by assumption) ?_
    | (with_reducible refine State.setMem_keeps ?_ ?_) <;> [skip; exact id]
    | split
    | fail_if_no_progress ((with_reducible refine Keeps.upd ?_ ?_ ?_ ?_ ?_) <;> [skip; rfl; rfl; rfl; rfl])
    | dsimp only

theorem State.unmapGranule_keeps {s0 : State} {s : State} {k : Nat} {r : Region} {i : Nat} (hs : Keeps s0 s) :
    Keeps s0 (State.unmapGranule s k r i) := by
  unfold State.unmapGranule
  repeat' first
    | with_reducible exact hs
    | with_reducible assumption
    | (intro _)
    | split
    | fail_if_no_progress ((with_reducible refine Keeps.upd ?_ ?_ ?_ ?_ ?_) <;> [skip; rfl; rfl; rfl; rfl])

theorem State.hintGranule_keeps {s0 : State} {s : State} {r : Region} {i : Nat} {kind : Nat} {hexp : DWord} (hs : Keeps s0 s) :
    Keeps s0 (State.hintGranule s r i kind hexp) := by
  unfold State.hintGranule
  repeat' first
    | with_reducible exact hs
    | with_reducible assumption
    | (intro _)
    | split
    | fail_if_no_progress ((with_reducible refine Keeps.upd ?_ ?_ ?_ ?_ ?_) <;> [skip; rfl; rfl; rfl; rfl])

theorem State.errorPhys_keeps {s0 : State} {s : State} {kind : Nat} {p : Nat} (hs : Keeps s0 s) :
    Keeps s0 (State.errorPhys s kind p) := by
  unfold State.errorPhys
  repeat' first
    | with_reducible exact hs
    | with_reducible assumption
    | (intro _)
    | with_reducible apply State.history_keeps

theorem State.errorAt_keeps {s0 : State} {s : State} {kind : Nat} {a : Nat} (hs : Keeps s0 s) :
    Keeps s0 (State.errorAt s kind a) := by
  unfold State.errorAt
  repeat' first
    | with_reducible exact hs
    | with_reducible assumption
    | (intro _)
    | with_reducible apply State.errorPhys_keeps
    | split

theorem State.poisonAt_keeps {s0 : State} {s : State} {phys : Option Nat} (hs : Keeps s0 s) :
    Keeps s0 (State.poisonAt s phys) := by
  unfold State.poisonAt
  repeat' first
    | with_reducible exact hs
    | with_reducible assumption
    | (intro _)
    | with_reducible apply State.bump_keeps
    | split
    | fail_if_no_progress ((with_reducible refine Keeps.upd ?_ ?_ ?_ ?_ ?_) <;> [skip; rfl; rfl; rfl; rfl])

theorem poisonPlaces_keeps {s0 : State} {ps : List Nat} {s : State} (hs : Keeps s0 s) : Keeps s0 (poisonPlaces ps s) := by
  induction ps generalizing s with
  | nil => exact hs
  | cons p ps ih =>
    unfold poisonPlaces
    exact ih (State.poisonAt_keeps hs)

/-- Counting poisoned places leaves what the tiers hold. -/
theorem poisonPlaces_phys {ps : List Nat} {s : State} : (poisonPlaces ps s).mem.phys = s.mem.phys := by
  induction ps generalizing s with
  | nil => rfl
  | cons p ps ih =>
    unfold poisonPlaces
    rw [ih]
    unfold State.poisonAt
    split <;> rfl

theorem State.countPoison_keeps {s0 : State} {s : State} {a : Nat} (hs : Keeps s0 s) :
    Keeps s0 (State.countPoison s a) := by
  unfold State.countPoison
  repeat' first
    | with_reducible exact hs
    | with_reducible assumption
    | (intro _)
    | with_reducible apply State.poisonAt_keeps

theorem countPoisons_keeps {s0 : State} {a1 : List Nat} {a2 : State} (ha2 : Keeps s0 a2) :
    Keeps s0 (countPoisons a1 a2) := by
  induction a1 generalizing a2 with
  | nil =>
    unfold countPoisons
    repeat' first
      | with_reducible exact ha2
  | cons x xs ih =>
    unfold countPoisons
    repeat' first
      | with_reducible exact ha2
      | with_reducible exact ih
      | with_reducible assumption
      | (intro _)
      | with_reducible apply ih
      | with_reducible apply State.countPoison_keeps

end Sys2Proof.Machine
end

