-- ==== Sys2Proof/Laws/KeepsLedger.lean ====
section
/-!
SUPPORT. What the operations of Machine/Ledger.lean keep: one lemma for each that gives a state.
-/

namespace Sys2Proof.Machine

theorem State.setEntry_keeps {s0 : State} {s : State} {i : Nat} {e : LedgerEntry} (hs : Keeps s0 s) :
    Keeps s0 (State.setEntry s i e) := by
  unfold State.setEntry
  repeat' first
    | with_reducible exact hs
    | with_reducible assumption
    | (intro _)
    | split
    | fail_if_no_progress ((with_reducible refine Keeps.upd ?_ ?_ ?_ ?_ ?_) <;> [skip; rfl; rfl; rfl; rfl])

theorem State.event_keeps {s0 : State} {s : State} {code : Nat} {slot : Nat} {index : Nat} {epoch : Nat} {value : Nat} (hs : Keeps s0 s) :
    Keeps s0 (State.event s code slot index epoch value) := by
  unfold State.event
  repeat' first
    | with_reducible exact hs
    | with_reducible assumption
    | (intro _)
    | split
    | fail_if_no_progress ((with_reducible refine Keeps.upd ?_ ?_ ?_ ?_ ?_) <;> [skip; rfl; rfl; rfl; rfl])

theorem State.refuseCmd_keeps {s0 : State} {s : State} {index : Nat} {epoch : Nat} {slot : Nat} {cause : Nat} (hs : Keeps s0 s) :
    Keeps s0 (State.refuseCmd s index epoch slot cause) := by
  unfold State.refuseCmd
  repeat' first
    | with_reducible exact hs
    | with_reducible assumption
    | (intro _)
    | with_reducible apply State.event_keeps
    | with_reducible apply State.bump_keeps

theorem State.refuseState_keeps {s0 : State} {s : State} {index : Nat} {epoch : Nat} (hs : Keeps s0 s) :
    Keeps s0 (State.refuseState s index epoch) := by
  unfold State.refuseState
  repeat' first
    | with_reducible exact hs
    | with_reducible assumption
    | (intro _)
    | with_reducible apply State.refuseCmd_keeps
    | with_reducible apply State.draw_keeps

theorem State.setPte_keeps {s0 : State} {s : State} {p : Nat} {e : Pte} (hs : Keeps s0 s) :
    Keeps s0 (State.setPte s p e) := by
  unfold State.setPte
  repeat' first
    | with_reducible exact hs
    | with_reducible assumption
    | (intro _)
    | with_reducible apply State.devWrite_keeps

theorem State.popPage_keeps {s0 : State} {s : State} {res0 : (Nat × State)} (e : State.popPage s = some res0) (hs : Keeps s0 s) :
    Keeps s0 res0.2 := by
  revert e
  unfold State.popPage
  intro e
  try dsimp only at e
  (repeat' split at e) <;> first
    | (cases e; done)
    | (cases e
       repeat' first
         | with_reducible exact hs
         | with_reducible assumption
         | (intro _)
         | split
         | fail_if_no_progress ((with_reducible refine Keeps.upd ?_ ?_ ?_ ?_ ?_) <;> [skip; rfl; rfl; rfl; rfl]))

theorem State.popPage_keeps_pair {s0 : State} {s : State} {o0 : Nat} {t0 : State}
    (e : State.popPage s = some (o0, t0)) (hs : Keeps s0 s) :
    Keeps s0 t0 := State.popPage_keeps e hs

theorem State.mapPage_keeps {s0 : State} {s : State} {p : Nat} (hs : Keeps s0 s) :
    Keeps s0 (State.mapPage s p) := by
  unfold State.mapPage
  repeat' first
    | with_reducible exact hs
    | with_reducible assumption
    | (intro _)
    | with_reducible apply State.mapGranule_keeps
    | split

theorem State.unmapPage_keeps {s0 : State} {s : State} {p : Nat} (hs : Keeps s0 s) :
    Keeps s0 (State.unmapPage s p) := by
  unfold State.unmapPage
  repeat' first
    | with_reducible exact hs
    | with_reducible assumption
    | (intro _)
    | with_reducible apply State.unmapGranule_keeps
    | split

theorem State.allocPage_keeps {s0 : State} {s : State} {tenant : Nat} {fill : Nat} {resident : Bool} {res0 : (Nat × State)} (e : State.allocPage s tenant fill resident = some res0) (hs : Keeps s0 s) :
    Keeps s0 res0.2 := by
  revert e
  unfold State.allocPage
  intro e
  try dsimp only at e
  (repeat' split at e) <;> first
    | (cases e; done)
    | (cases e
       repeat' first
         | with_reducible exact hs
         | with_reducible assumption
         | (intro _)
         | refine State.popPage_keeps (by assumption) ?_
         | refine State.popPage_keeps_pair (by assumption) ?_
         | with_reducible apply State.setPte_keeps
         | with_reducible apply State.mapPage_keeps
         | split
         | fail_if_no_progress ((with_reducible refine Keeps.upd ?_ ?_ ?_ ?_ ?_) <;> [skip; rfl; rfl; rfl; rfl]))

theorem State.allocPage_keeps_pair {s0 : State} {s : State} {tenant : Nat} {fill : Nat} {resident : Bool} {o0 : Nat} {t0 : State}
    (e : State.allocPage s tenant fill resident = some (o0, t0)) (hs : Keeps s0 s) :
    Keeps s0 t0 := State.allocPage_keeps e hs

theorem State.addRef_keeps {s0 : State} {s : State} {p : Nat} (hs : Keeps s0 s) :
    Keeps s0 (State.addRef s p) := by
  unfold State.addRef
  repeat' first
    | with_reducible exact hs
    | with_reducible assumption
    | (intro _)
    | with_reducible apply State.setPte_keeps

theorem State.dropRef_keeps {s0 : State} {s : State} {p : Nat} (hs : Keeps s0 s) :
    Keeps s0 (State.dropRef s p) := by
  unfold State.dropRef
  repeat' first
    | with_reducible exact hs
    | with_reducible assumption
    | (intro _)
    | with_reducible apply State.setPte_keeps

theorem State.readerOn_keeps {s0 : State} {s : State} {p : Nat} (hs : Keeps s0 s) :
    Keeps s0 (State.readerOn s p) := by
  unfold State.readerOn
  repeat' first
    | with_reducible exact hs
    | with_reducible assumption
    | (intro _)
    | with_reducible apply State.setPte_keeps

theorem State.setListPage_keeps {s0 : State} {s : State} {e : LedgerEntry} {i : Nat} {p : Nat} (hs : Keeps s0 s) :
    Keeps s0 (State.setListPage s e i p) := by
  unfold State.setListPage
  repeat' first
    | with_reducible exact hs
    | with_reducible assumption
    | (intro _)
    | with_reducible apply State.devWrite_keeps

theorem State.appendPage_keeps {s0 : State} {s : State} {i : Nat} {p : Nat} (hs : Keeps s0 s) :
    Keeps s0 (State.appendPage s i p) := by
  unfold State.appendPage
  repeat' first
    | with_reducible exact hs
    | with_reducible assumption
    | (intro _)
    | with_reducible apply State.setEntry_keeps
    | with_reducible apply State.setListPage_keeps

theorem putTokens_keeps {s0 : State} {i : Nat} {a2 : Nat} {a3 : List Nat} {a4 : State} (ha4 : Keeps s0 a4) :
    Keeps s0 (putTokens i a2 a3 a4) := by
  induction a3 generalizing a2 a4 with
  | nil =>
    unfold putTokens
    repeat' first
      | with_reducible exact ha4
  | cons x xs ih =>
    unfold putTokens
    repeat' first
      | with_reducible exact ha4
      | with_reducible exact ih
      | with_reducible assumption
      | (intro _)
      | with_reducible apply ih
      | with_reducible apply State.devWrite_keeps

theorem State.dropRecord_keeps {s0 : State} {s : State} {r : Nat} (hs : Keeps s0 s) :
    Keeps s0 (State.dropRecord s r) := by
  unfold State.dropRecord
  repeat' first
    | with_reducible exact hs
    | with_reducible assumption
    | (intro _)
    | with_reducible apply State.devWrite_keeps

theorem State.setGraft_keeps {s0 : State} {s : State} {k : Nat} {g : GraftSlot} (hs : Keeps s0 s) :
    Keeps s0 (State.setGraft s k g) := by
  unfold State.setGraft
  repeat' first
    | with_reducible exact hs
    | with_reducible assumption
    | (intro _)
    | split
    | fail_if_no_progress ((with_reducible refine Keeps.upd ?_ ?_ ?_ ?_ ?_) <;> [skip; rfl; rfl; rfl; rfl])

theorem State.pin_keeps {s0 : State} {s : State} {k : Nat} (hs : Keeps s0 s) :
    Keeps s0 (State.pin s k) := by
  unfold State.pin
  repeat' first
    | with_reducible exact hs
    | with_reducible assumption
    | (intro _)
    | with_reducible apply State.setGraft_keeps

theorem State.unpin_keeps {s0 : State} {s : State} {k : Nat} (hs : Keeps s0 s) :
    Keeps s0 (State.unpin s k) := by
  unfold State.unpin
  repeat' first
    | with_reducible exact hs
    | with_reducible assumption
    | (intro _)
    | with_reducible apply State.setGraft_keeps
    | (with_reducible apply Keeps.ite) <;> intro _

theorem State.hintPage_keeps {s0 : State} {s : State} {p : Nat} {kind : Nat} {hexp : DWord} (hs : Keeps s0 s) :
    Keeps s0 (State.hintPage s p kind hexp) := by
  unfold State.hintPage
  repeat' first
    | with_reducible exact hs
    | with_reducible assumption
    | (intro _)
    | with_reducible apply State.hintGranule_keeps
    | split

theorem hintPages_keeps {s0 : State} {kind : Nat} {hexp : DWord} {a3 : List Nat} {a4 : State} (ha4 : Keeps s0 a4) :
    Keeps s0 (hintPages kind hexp a3 a4) := by
  induction a3 generalizing a4 with
  | nil =>
    unfold hintPages
    repeat' first
      | with_reducible exact ha4
  | cons x xs ih =>
    unfold hintPages
    repeat' first
      | with_reducible exact ha4
      | with_reducible exact ih
      | with_reducible assumption
      | (intro _)
      | with_reducible apply ih
      | with_reducible apply State.hintPage_keeps

end Sys2Proof.Machine
end

