-- ==== Sys2Proof/Laws/KeepsRepair.lean ====
section
/-!
SUPPORT. What the operations of Machine/Repair.lean keep: one lemma for each that gives a state.
-/

namespace Sys2Proof.Machine

theorem State.setRepair_keeps {s0 : State} {s : State} {k : Nat} {e : RepairEntry} (hs : Keeps s0 s) :
    Keeps s0 (State.setRepair s k e) := by
  unfold State.setRepair
  repeat' first
    | with_reducible exact hs
    | with_reducible assumption
    | (intro _)
    | split
    | fail_if_no_progress ((with_reducible refine Keeps.upd ?_ ?_ ?_ ?_ ?_) <;> [skip; rfl; rfl; rfl; rfl])

theorem State.dropRepair_keeps {s0 : State} {s : State} {k : Nat} (hs : Keeps s0 s) :
    Keeps s0 (State.dropRepair s k) := by
  unfold State.dropRepair
  repeat' first
    | with_reducible exact hs
    | with_reducible assumption
    | (intro _)
    | split
    | (with_reducible refine Keeps.updMem ?_ ?_ ?_ ?_ ?_) <;> [skip; exact fun h => Memory.flushLate_wf h; rfl; rfl; rfl]

theorem State.deliver_keeps {s0 : State} {s : State} {addr : Nat} (hs : Keeps s0 s) :
    Keeps s0 (State.deliver s addr) := by
  unfold State.deliver
  repeat' first
    | with_reducible exact hs
    | with_reducible assumption
    | (intro _)
    | with_reducible apply mapGlades_keeps

theorem tellPlots_keeps {s0 : State} {k : Nat} {a2 : List (BitVec 6)} {a3 : State} (ha3 : Keeps s0 a3) :
    Keeps s0 (tellPlots k a2 a3) := by
  induction a2 generalizing a3 with
  | nil =>
    unfold tellPlots
    repeat' first
      | with_reducible exact ha3
  | cons x xs ih =>
    unfold tellPlots
    repeat' first
      | with_reducible exact ha3
      | with_reducible exact ih
      | with_reducible assumption
      | (intro _)
      | with_reducible apply ih
      | with_reducible apply State.setRepair_keeps
      | with_reducible apply State.raise_keeps
      | (with_reducible apply Keeps.ite) <;> intro _
      | split

theorem State.failBlock_keeps {s0 : State} {s : State} {k : Nat} {e : RepairEntry} {cause : Nat} (hs : Keeps s0 s) :
    Keeps s0 (State.failBlock s k e cause) := by
  unfold State.failBlock
  repeat' first
    | with_reducible exact hs
    | with_reducible assumption
    | (intro _)
    | with_reducible apply State.bump_keeps
    | with_reducible apply State.setRepair_keeps
    | with_reducible apply tellPlots_keeps

theorem tellJoined_keeps {s0 : State} {p : BitVec 6} {a2 : List RepairEntry} {a3 : State} (ha3 : Keeps s0 a3) :
    Keeps s0 (tellJoined p a2 a3) := by
  induction a2 generalizing a3 with
  | nil =>
    unfold tellJoined
    repeat' first
      | with_reducible exact ha3
  | cons x xs ih =>
    unfold tellJoined
    repeat' first
      | with_reducible exact ha3
      | with_reducible exact ih
      | with_reducible assumption
      | (intro _)
      | with_reducible apply ih
      | with_reducible apply tellPlots_keeps
      | with_reducible apply step_keeps
      | split

theorem holdEach_keeps {s0 : State} {p : Option (BitVec 6)} {a2 : List (Nat × Nat)} {a3 : State} (ha3 : Keeps s0 a3) :
    Keeps s0 (holdEach p a2 a3) := by
  induction a2 generalizing a3 with
  | nil =>
    unfold holdEach
    repeat' first
      | with_reducible exact ha3
  | cons x xs ih =>
    unfold holdEach
    repeat' first
      | with_reducible exact ha3
      | with_reducible exact ih
      | with_reducible assumption
      | (intro _)
      | with_reducible apply ih
      | with_reducible apply tellJoined_keeps
      | (with_reducible apply Keeps.ite) <;> intro _
      | split
      | fail_if_no_progress ((with_reducible refine Keeps.upd ?_ ?_ ?_ ?_ ?_) <;> [skip; rfl; rfl; rfl; rfl])

theorem State.whenReadable_keeps {s0 : State} {s : State} {p : Option (BitVec 6)} {es : List (Nat × Nat)} {k : State} (hs : Keeps s0 s) (hk : Keeps s0 k) :
    Keeps s0 (State.whenReadable s p es k) := by
  unfold State.whenReadable
  repeat' first
    | with_reducible exact hs
    | with_reducible exact hk
    | with_reducible assumption
    | (intro _)
    | with_reducible apply holdEach_keeps
    | (with_reducible apply Keeps.ite) <;> intro _
    | split
    | fail_if_no_progress ((with_reducible refine Keeps.upd ?_ ?_ ?_ ?_ ?_) <;> [skip; rfl; rfl; rfl; rfl])

theorem State.askHost_keeps {s0 : State} {s : State} {k : Nat} {e : RepairEntry} (hs : Keeps s0 s) :
    Keeps s0 (State.askHost s k e) := by
  unfold State.askHost
  repeat' first
    | with_reducible exact hs
    | with_reducible assumption
    | (intro _)
    | with_reducible apply State.fetchBlock_keeps
    | with_reducible apply State.setRepair_keeps
    | with_reducible apply State.failBlock_keeps
    | (with_reducible apply Keeps.ite) <;> intro _
    | split

theorem State.afterRetry_keeps {s0 : State} {s : State} {k : Nat} {e : RepairEntry} (hs : Keeps s0 s) :
    Keeps s0 (State.afterRetry s k e) := by
  unfold State.afterRetry
  repeat' first
    | with_reducible exact hs
    | with_reducible assumption
    | (intro _)
    | with_reducible apply State.setRepair_keeps
    | with_reducible apply State.askHost_keeps
    | (with_reducible apply Keeps.ite) <;> intro _
    | split

theorem State.openRepairOf_keeps {s0 : State} {s : State} {ofMirror : Bool} {rg : Nat} {off : Nat} {len : Nat} {chk : BlockCheck} (hs : Keeps s0 s) :
    Keeps s0 (State.openRepairOf s ofMirror rg off len chk) := by
  unfold State.openRepairOf
  repeat' first
    | with_reducible exact hs
    | with_reducible assumption
    | (intro _)
    | with_reducible apply State.afterRetry_keeps
    | (with_reducible apply Keeps.ite) <;> intro _
    | split
    | fail_if_no_progress ((with_reducible refine Keeps.upd ?_ ?_ ?_ ?_ ?_) <;> [skip; rfl; rfl; rfl; rfl])

theorem State.openRepair_keeps {s0 : State} {s : State} {rg : Nat} {off : Nat} {len : Nat} {chk : BlockCheck} (hs : Keeps s0 s) :
    Keeps s0 (State.openRepair s rg off len chk) := by
  unfold State.openRepair
  repeat' first
    | with_reducible exact hs
    | with_reducible assumption
    | (intro _)
    | with_reducible apply State.openRepairOf_keeps

theorem State.repairPoison_keeps {s0 : State} {s : State} {e : RepairEntry} {other : Bool} (hs : Keeps s0 s) :
    Keeps s0 (State.repairPoison s e other) := by
  unfold State.repairPoison
  repeat' first
    | with_reducible exact hs
    | with_reducible assumption
    | (intro _)
    | with_reducible apply State.poisonAt_keeps

/-- Writing bytes over the source copy of a block keeps the canonical form. -/
theorem writeSource_wf {r : Region} : ∀ {bs : List Byte} {o : Nat} {m : Memory}, m.wf → (writeSource r bs o m).wf
  | [], _, _, h => h
  | b :: bs, o, m, h => by
    unfold writeSource
    split
    · refine writeSource_wf (bs := bs) ?_
      rw [Memory.wf, Memory.dirtyAt_phys]
      exact mwf_mset h
    · exact writeSource_wf (bs := bs) h

/-- Writing bytes over the mirror copy of a block keeps the canonical form. -/
theorem writeMirror_wf {r : Region} : ∀ {bs : List Byte} {o : Nat} {m : Memory}, m.wf → (writeMirror r bs o m).wf
  | [], _, _, h => h
  | b :: bs, _, _, h => writeMirror_wf (bs := bs) (mwf_mset h)

theorem State.writeBack_keeps {s0 s : State} {k : Nat} {e : RepairEntry} {r : Region} {bs : List Byte} {fromHost : Bool}
    (hs : Keeps s0 s) : Keeps s0 (State.writeBack s k e r bs fromHost) := by
  unfold State.writeBack
  refine State.deliver_keeps (State.setRepair_keeps (Keeps.updMem hs ?_ rfl rfl rfl))
  intro h
  have src : ∀ c : Prop, ∀ [Decidable c], (if c then writeSource r bs e.off s.mem else s.mem).wf := by
    intro c _
    split
    · exact writeSource_wf h
    · exact h
  split
  · exact writeMirror_wf (src _)
  · exact src _

theorem execRepairRetryComplete_keeps {s0 : State} {k : Nat} {bad : Bool} {s : State} (hs : Keeps s0 s) :
    KeepsOut s0 (execRepairRetryComplete k bad s) := by
  unfold execRepairRetryComplete
  repeat' first
    | with_reducible exact hs
    | with_reducible assumption
    | (intro _)
    | with_reducible apply KeepsOut.next
    | with_reducible exact KeepsOut.fault
    | with_reducible exact KeepsOut.refused
    | with_reducible apply State.repairPoison_keeps
    | with_reducible apply State.bump_keeps
    | with_reducible apply State.dropRepair_keeps
    | with_reducible apply State.deliver_keeps
    | with_reducible apply State.afterRetry_keeps
    | (with_reducible apply Keeps.ite) <;> intro _
    | (with_reducible apply KeepsOut.ite) <;> intro _
    | split

theorem execRepairMirrorComplete_keeps {s0 : State} {k : Nat} {bad : Bool} {s : State} (hs : Keeps s0 s) :
    KeepsOut s0 (execRepairMirrorComplete k bad s) := by
  unfold execRepairMirrorComplete
  repeat' first
    | with_reducible exact hs
    | with_reducible assumption
    | (intro _)
    | with_reducible apply KeepsOut.next
    | with_reducible exact KeepsOut.fault
    | with_reducible exact KeepsOut.refused
    | with_reducible apply State.repairPoison_keeps
    | with_reducible apply State.writeBack_keeps
    | with_reducible apply State.askHost_keeps
    | (with_reducible apply Keeps.ite) <;> intro _
    | (with_reducible apply KeepsOut.ite) <;> intro _
    | split

theorem State.markWeak_keeps {s0 : State} {s : State} {e : RepairEntry} (hs : Keeps s0 s) :
    Keeps s0 (State.markWeak s e) := by
  unfold State.markWeak
  repeat' first
    | with_reducible exact hs
    | with_reducible assumption
    | (intro _)
    | with_reducible apply State.errorPhys_keeps
    | with_reducible apply State.raise_keeps
    | (with_reducible apply Keeps.ite) <;> intro _
    | split
    | fail_if_no_progress ((with_reducible refine Keeps.upd ?_ ?_ ?_ ?_ ?_) <;> [skip; rfl; rfl; rfl; rfl])

theorem execWritebackVerifyComplete_keeps {s0 : State} {k : Nat} {bad : Bool} {s : State} (hs : Keeps s0 s) :
    KeepsOut s0 (execWritebackVerifyComplete k bad s) := by
  unfold execWritebackVerifyComplete
  repeat' first
    | with_reducible exact hs
    | with_reducible assumption
    | (intro _)
    | with_reducible apply KeepsOut.next
    | with_reducible exact KeepsOut.fault
    | with_reducible exact KeepsOut.refused
    | with_reducible apply State.repairPoison_keeps
    | with_reducible apply State.bump_keeps
    | with_reducible apply State.dropRepair_keeps
    | with_reducible apply State.markWeak_keeps
    | (with_reducible apply Keeps.ite) <;> intro _
    | split

theorem execRepairHostTimeout_keeps {s0 : State} {k : Nat} {s : State} (hs : Keeps s0 s) :
    KeepsOut s0 (execRepairHostTimeout k s) := by
  unfold execRepairHostTimeout
  repeat' first
    | with_reducible exact hs
    | with_reducible assumption
    | (intro _)
    | with_reducible apply KeepsOut.next
    | with_reducible exact KeepsOut.fault
    | with_reducible exact KeepsOut.refused
    | with_reducible apply State.fetchBlock_keeps
    | with_reducible apply State.failBlock_keeps
    | with_reducible apply State.setRepair_keeps
    | (with_reducible apply KeepsOut.ite) <;> intro _
    | split

theorem State.hostCopy_keeps {s0 : State} {s : State} {region : Nat} {off : Nat} {bs : List Byte} (hs : Keeps s0 s) :
    Keeps s0 (State.hostCopy s region off bs) := by
  unfold State.hostCopy
  repeat' first
    | with_reducible exact hs
    | with_reducible assumption
    | (intro _)
    | with_reducible apply State.bump_keeps
    | with_reducible apply State.writeBack_keeps
    | with_reducible apply State.failBlock_keeps
    | (with_reducible apply Keeps.ite) <;> intro _
    | split

theorem State.traceRepair_keeps {s0 : State} {s : State} {dev : Nat} {src : SourceRun} {wform : Nat} {book : Option HeldCodebook} (hs : Keeps s0 s) :
    Keeps s0 (State.traceRepair s dev src wform book) := by
  unfold State.traceRepair
  repeat' first
    | with_reducible exact hs
    | with_reducible assumption
    | (intro _)
    | with_reducible apply State.openRepair_keeps
    | (with_reducible apply Keeps.ite) <;> intro _
    | split
    | fail_if_no_progress ((with_reducible refine Keeps.upd ?_ ?_ ?_ ?_ ?_) <;> [skip; rfl; rfl; rfl; rfl])
    | dsimp only

end Sys2Proof.Machine
end

