-- ==== Sys2Proof/Laws/KeepsRecords.lean ====
section
/-!
SUPPORT. What the operations of Machine/Records.lean keep: one lemma for each that gives a state.
-/

namespace Sys2Proof.Machine

theorem State.setInChan_keeps {s0 : State} {s : State} {c : Nat} {x : InChannel} (hs : Keeps s0 s) :
    Keeps s0 (State.setInChan s c x) := by
  unfold State.setInChan
  repeat' first
    | with_reducible exact hs
    | with_reducible assumption
    | (intro _)
    | split
    | fail_if_no_progress ((with_reducible refine Keeps.upd ?_ ?_ ?_ ?_ ?_) <;> [skip; rfl; rfl; rfl; rfl])

theorem State.returnCredit_keeps {s0 : State} {s : State} {c : Nat} {bs : List Byte} (hs : Keeps s0 s) :
    Keeps s0 (State.returnCredit s c bs) := by
  unfold State.returnCredit
  repeat' first
    | with_reducible exact hs
    | with_reducible assumption
    | (intro _)
    | split
    | fail_if_no_progress ((with_reducible refine Keeps.upd ?_ ?_ ?_ ?_ ?_) <;> [skip; rfl; rfl; rfl; rfl])

theorem State.hostLinkFault_keeps {s0 : State} {s : State} {seq : Nat} (hs : Keeps s0 s) :
    Keeps s0 (State.hostLinkFault s seq) := by
  unfold State.hostLinkFault
  repeat' first
    | with_reducible exact hs
    | with_reducible assumption
    | (intro _)
    | with_reducible apply State.raise_keeps
    | with_reducible apply State.bump_keeps

theorem takeRecord_keeps {s0 : State} {chan : Nat} {kind : Nat} {bs : List Byte} {s : State} {k : State → State} (hs : Keeps s0 s) (hk : ∀ x0, Keeps s0 x0 → Keeps s0 (k x0)) :
    KeepsOut s0 (takeRecord chan kind bs s k) := by
  unfold takeRecord
  repeat' first
    | with_reducible exact hs
    | with_reducible exact hk
    | with_reducible apply hk
    | with_reducible assumption
    | (intro _)
    | with_reducible apply KeepsOut.next
    | with_reducible exact KeepsOut.fault
    | with_reducible exact KeepsOut.refused
    | with_reducible apply State.ohmipRetrain_keeps
    | with_reducible apply State.hostLinkFault_keeps
    | with_reducible apply State.returnCredit_keeps
    | with_reducible apply State.setInChan_keeps
    | with_reducible apply State.bump_keeps
    | (with_reducible apply KeepsOut.ite) <;> intro _
    | split
    | fail_if_no_progress ((with_reducible refine Keeps.upd ?_ ?_ ?_ ?_ ?_) <;> [skip; rfl; rfl; rfl; rfl])

theorem State.keepCmd_keeps {s0 : State} {s : State} {x : InboxCmd} (hs : Keeps s0 s) :
    Keeps s0 (State.keepCmd s x) := by
  unfold State.keepCmd
  repeat' first
    | with_reducible exact hs
    | with_reducible assumption
    | (intro _)
    | split
    | fail_if_no_progress ((with_reducible refine Keeps.upd ?_ ?_ ?_ ?_ ?_) <;> [skip; rfl; rfl; rfl; rfl])

theorem State.dropRivals_keeps {s0 : State} {s : State} {i : Nat} {kind : Nat} {act : Nat} (hs : Keeps s0 s) :
    Keeps s0 (State.dropRivals s i kind act) := by
  unfold State.dropRivals
  repeat' first
    | with_reducible exact hs
    | with_reducible assumption
    | (intro _)
    | split
    | fail_if_no_progress ((with_reducible refine Keeps.upd ?_ ?_ ?_ ?_ ?_) <;> [skip; rfl; rfl; rfl; rfl])

theorem State.refuseTag_keeps {s0 : State} {s : State} {bs : List Byte} {cause : Nat} (hs : Keeps s0 s) :
    Keeps s0 (State.refuseTag s bs cause) := by
  unfold State.refuseTag
  repeat' first
    | with_reducible exact hs
    | with_reducible assumption
    | (intro _)
    | with_reducible apply State.refuseCmd_keeps

theorem State.acceptAdmit_keeps {s0 : State} {s : State} {x : InboxCmd} (hs : Keeps s0 s) :
    Keeps s0 (State.acceptAdmit s x) := by
  unfold State.acceptAdmit
  repeat' first
    | with_reducible exact hs
    | with_reducible assumption
    | (intro _)
    | with_reducible apply State.refuseTag_keeps
    | with_reducible apply State.keepCmd_keeps
    | with_reducible apply putTokens_keeps
    | split
    | fail_if_no_progress ((with_reducible refine Keeps.upd ?_ ?_ ?_ ?_ ?_) <;> [skip; rfl; rfl; rfl; rfl])
    | dsimp only

theorem State.acceptAppend_keeps {s0 : State} {s : State} {x : InboxCmd} (hs : Keeps s0 s) :
    Keeps s0 (State.acceptAppend s x) := by
  unfold State.acceptAppend
  repeat' first
    | with_reducible exact hs
    | with_reducible assumption
    | (intro _)
    | with_reducible apply State.refuseTag_keeps
    | with_reducible apply State.refuseState_keeps
    | with_reducible apply State.keepCmd_keeps
    | with_reducible apply putTokens_keeps
    | (with_reducible apply Keeps.ite) <;> intro _
    | split
    | fail_if_no_progress ((with_reducible refine Keeps.upd ?_ ?_ ?_ ?_ ?_) <;> [skip; rfl; rfl; rfl; rfl])
    | dsimp only

theorem State.acceptCancel_keeps {s0 : State} {s : State} {x : InboxCmd} (hs : Keeps s0 s) :
    Keeps s0 (State.acceptCancel s x) := by
  unfold State.acceptCancel
  repeat' first
    | with_reducible exact hs
    | with_reducible assumption
    | (intro _)
    | with_reducible apply State.refuseTag_keeps
    | with_reducible apply State.refuseState_keeps
    | with_reducible apply State.keepCmd_keeps
    | (with_reducible apply Keeps.ite) <;> intro _
    | split
    | fail_if_no_progress ((with_reducible refine Keeps.upd ?_ ?_ ?_ ?_ ?_) <;> [skip; rfl; rfl; rfl; rfl])
    | dsimp only

theorem State.acceptPause_keeps {s0 : State} {s : State} {x : InboxCmd} (hs : Keeps s0 s) :
    Keeps s0 (State.acceptPause s x) := by
  unfold State.acceptPause
  repeat' first
    | with_reducible exact hs
    | with_reducible assumption
    | (intro _)
    | with_reducible apply State.refuseTag_keeps
    | with_reducible apply State.keepCmd_keeps
    | with_reducible apply State.dropRivals_keeps
    | with_reducible apply State.refuseState_keeps
    | (with_reducible apply Keeps.ite) <;> intro _
    | split
    | fail_if_no_progress ((with_reducible refine Keeps.upd ?_ ?_ ?_ ?_ ?_) <;> [skip; rfl; rfl; rfl; rfl])
    | dsimp only

theorem State.startRestore_keeps {s0 : State} {s : State} {x : InboxCmd} (hs : Keeps s0 s) :
    Keeps s0 (State.startRestore s x) := by
  unfold State.startRestore
  repeat' first
    | with_reducible exact hs
    | with_reducible assumption
    | (intro _)
    | with_reducible apply State.setEntry_keeps
    | split
    | fail_if_no_progress ((with_reducible refine Keeps.upd ?_ ?_ ?_ ?_ ?_) <;> [skip; rfl; rfl; rfl; rfl])

theorem State.acceptResume_keeps {s0 : State} {s : State} {x : InboxCmd} (hs : Keeps s0 s) :
    Keeps s0 (State.acceptResume s x) := by
  unfold State.acceptResume
  repeat' first
    | with_reducible exact hs
    | with_reducible assumption
    | (intro _)
    | with_reducible apply State.refuseTag_keeps
    | with_reducible apply State.startRestore_keeps
    | with_reducible apply State.keepCmd_keeps
    | with_reducible apply State.dropRivals_keeps
    | with_reducible apply State.refuseState_keeps
    | (with_reducible apply Keeps.ite) <;> intro _
    | split

theorem State.refuseSlot_keeps {s0 : State} {s : State} {slot : Nat} {cause : Nat} (hs : Keeps s0 s) :
    Keeps s0 (State.refuseSlot s slot cause) := by
  unfold State.refuseSlot
  repeat' first
    | with_reducible exact hs
    | with_reducible assumption
    | (intro _)
    | with_reducible apply State.refuseCmd_keeps

theorem State.acceptLoadGraft_keeps {s0 : State} {s : State} {bs : List Byte} (hs : Keeps s0 s) :
    Keeps s0 (State.acceptLoadGraft s bs) := by
  unfold State.acceptLoadGraft
  repeat' first
    | with_reducible exact hs
    | with_reducible assumption
    | (intro _)
    | with_reducible apply State.refuseSlot_keeps
    | with_reducible apply State.setGraft_keeps
    | (with_reducible apply Keeps.ite) <;> intro _

theorem State.acceptGraftAbort_keeps {s0 : State} {s : State} {bs : List Byte} (hs : Keeps s0 s) :
    Keeps s0 (State.acceptGraftAbort s bs) := by
  unfold State.acceptGraftAbort
  repeat' first
    | with_reducible exact hs
    | with_reducible assumption
    | (intro _)
    | with_reducible apply State.refuseSlot_keeps
    | with_reducible apply State.setGraft_keeps
    | (with_reducible apply Keeps.ite) <;> intro _

theorem State.acceptHint_keeps {s0 : State} {s : State} {bs : List Byte} (hs : Keeps s0 s) :
    Keeps s0 (State.acceptHint s bs) := by
  unfold State.acceptHint
  repeat' first
    | with_reducible exact hs
    | with_reducible assumption
    | (intro _)
    | with_reducible apply State.bump_keeps
    | (with_reducible apply Keeps.ite) <;> intro _
    | split
    | fail_if_no_progress ((with_reducible refine Keeps.upd ?_ ?_ ?_ ?_ ?_) <;> [skip; rfl; rfl; rfl; rfl])

theorem State.acceptOpPoint_keeps {s0 : State} {s : State} {bs : List Byte} (hs : Keeps s0 s) :
    Keeps s0 (State.acceptOpPoint s bs) := by
  unfold State.acceptOpPoint
  repeat' first
    | with_reducible exact hs
    | with_reducible assumption
    | (intro _)
    | with_reducible apply State.bump_keeps
    | (with_reducible apply Keeps.ite) <;> intro _
    | split
    | fail_if_no_progress ((with_reducible refine Keeps.upd ?_ ?_ ?_ ?_ ?_) <;> [skip; rfl; rfl; rfl; rfl])

theorem State.processCmd_keeps {s0 : State} {s : State} {x : InboxCmd} (hs : Keeps s0 s) :
    Keeps s0 (State.processCmd s x) := by
  unfold State.processCmd
  repeat' first
    | with_reducible exact hs
    | with_reducible assumption
    | (intro _)
    | with_reducible apply State.returnCredit_keeps
    | with_reducible apply State.acceptAdmit_keeps
    | with_reducible apply State.acceptAppend_keeps
    | with_reducible apply State.acceptCancel_keeps
    | with_reducible apply State.acceptPause_keeps
    | with_reducible apply State.acceptResume_keeps
    | with_reducible apply State.acceptGraftAbort_keeps
    | with_reducible apply State.acceptLoadGraft_keeps
    | with_reducible apply State.acceptHint_keeps
    | with_reducible apply State.acceptOpPoint_keeps
    | (with_reducible apply Keeps.ite) <;> intro _
    | split
    | fail_if_no_progress ((with_reducible refine Keeps.upd ?_ ?_ ?_ ?_ ?_) <;> [skip; rfl; rfl; rfl; rfl])
    | dsimp only

theorem processAll_keeps {s0 : State} {a1 : List InboxCmd} {a2 : State} (ha2 : Keeps s0 a2) :
    Keeps s0 (processAll a1 a2) := by
  induction a1 generalizing a2 with
  | nil =>
    unfold processAll
    repeat' first
      | with_reducible exact ha2
  | cons x xs ih =>
    unfold processAll
    repeat' first
      | with_reducible exact ha2
      | with_reducible exact ih
      | with_reducible assumption
      | (intro _)
      | with_reducible apply ih
      | with_reducible apply State.processCmd_keeps

theorem State.drainInbox_keeps {s0 : State} {s : State} (hs : Keeps s0 s) :
    Keeps s0 (State.drainInbox s) := by
  unfold State.drainInbox
  repeat' first
    | with_reducible exact hs
    | with_reducible assumption
    | (intro _)
    | with_reducible apply processAll_keeps
    | (with_reducible apply Keeps.ite) <;> intro _
    | split
    | fail_if_no_progress ((with_reducible refine Keeps.upd ?_ ?_ ?_ ?_ ?_) <;> [skip; rfl; rfl; rfl; rfl])

theorem State.enterInbox_keeps {s0 : State} {s : State} {bs : List Byte} (hs : Keeps s0 s) :
    Keeps s0 (State.enterInbox s bs) := by
  unfold State.enterInbox
  repeat' first
    | with_reducible exact hs
    | with_reducible assumption
    | (intro _)
    | with_reducible apply State.drainInbox_keeps
    | with_reducible apply State.bump_keeps
    | split
    | fail_if_no_progress ((with_reducible refine Keeps.upd ?_ ?_ ?_ ?_ ?_) <;> [skip; rfl; rfl; rfl; rfl])

theorem commandRow_keeps {s0 : State} {kind : Nat} {bs : List Byte} {s : State} (hs : Keeps s0 s) :
    KeepsOut s0 (commandRow kind bs s) := by
  unfold commandRow
  repeat' first
    | with_reducible exact hs
    | with_reducible assumption
    | (intro _)
    | with_reducible apply KeepsOut.next
    | with_reducible exact KeepsOut.fault
    | with_reducible exact KeepsOut.refused
    | with_reducible apply takeRecord_keeps
    | with_reducible apply State.enterInbox_keeps

theorem execAdmitReq_keeps {s0 : State} {rec : List Byte} {s : State} (hs : Keeps s0 s) :
    KeepsOut s0 (execAdmitReq rec s) := by
  unfold execAdmitReq
  repeat' first
    | with_reducible exact hs
    | with_reducible assumption
    | (intro _)
    | with_reducible apply KeepsOut.next
    | with_reducible exact KeepsOut.fault
    | with_reducible exact KeepsOut.refused
    | with_reducible apply commandRow_keeps

theorem execAppendReq_keeps {s0 : State} {rec : List Byte} {s : State} (hs : Keeps s0 s) :
    KeepsOut s0 (execAppendReq rec s) := by
  unfold execAppendReq
  repeat' first
    | with_reducible exact hs
    | with_reducible assumption
    | (intro _)
    | with_reducible apply KeepsOut.next
    | with_reducible exact KeepsOut.fault
    | with_reducible exact KeepsOut.refused
    | with_reducible apply commandRow_keeps

theorem execCancelReq_keeps {s0 : State} {rec : List Byte} {s : State} (hs : Keeps s0 s) :
    KeepsOut s0 (execCancelReq rec s) := by
  unfold execCancelReq
  repeat' first
    | with_reducible exact hs
    | with_reducible assumption
    | (intro _)
    | with_reducible apply KeepsOut.next
    | with_reducible exact KeepsOut.fault
    | with_reducible exact KeepsOut.refused
    | with_reducible apply commandRow_keeps

theorem execPauseReq_keeps {s0 : State} {rec : List Byte} {s : State} (hs : Keeps s0 s) :
    KeepsOut s0 (execPauseReq rec s) := by
  unfold execPauseReq
  repeat' first
    | with_reducible exact hs
    | with_reducible assumption
    | (intro _)
    | with_reducible apply KeepsOut.next
    | with_reducible exact KeepsOut.fault
    | with_reducible exact KeepsOut.refused
    | with_reducible apply commandRow_keeps

theorem execResumeReq_keeps {s0 : State} {rec : List Byte} {s : State} (hs : Keeps s0 s) :
    KeepsOut s0 (execResumeReq rec s) := by
  unfold execResumeReq
  repeat' first
    | with_reducible exact hs
    | with_reducible assumption
    | (intro _)
    | with_reducible apply KeepsOut.next
    | with_reducible exact KeepsOut.fault
    | with_reducible exact KeepsOut.refused
    | with_reducible apply commandRow_keeps

theorem execLoadGraft_keeps {s0 : State} {rec : List Byte} {s : State} (hs : Keeps s0 s) :
    KeepsOut s0 (execLoadGraft rec s) := by
  unfold execLoadGraft
  repeat' first
    | with_reducible exact hs
    | with_reducible assumption
    | (intro _)
    | with_reducible apply KeepsOut.next
    | with_reducible exact KeepsOut.fault
    | with_reducible exact KeepsOut.refused
    | with_reducible apply commandRow_keeps
    | (with_reducible apply KeepsOut.ite) <;> intro _

theorem execLoadGraftAbort_keeps {s0 : State} {rec : List Byte} {s : State} (hs : Keeps s0 s) :
    KeepsOut s0 (execLoadGraftAbort rec s) := by
  unfold execLoadGraftAbort
  repeat' first
    | with_reducible exact hs
    | with_reducible assumption
    | (intro _)
    | with_reducible apply KeepsOut.next
    | with_reducible exact KeepsOut.fault
    | with_reducible exact KeepsOut.refused
    | with_reducible apply commandRow_keeps
    | (with_reducible apply KeepsOut.ite) <;> intro _

theorem execPhaseHint_keeps {s0 : State} {rec : List Byte} {s : State} (hs : Keeps s0 s) :
    KeepsOut s0 (execPhaseHint rec s) := by
  unfold execPhaseHint
  repeat' first
    | with_reducible exact hs
    | with_reducible assumption
    | (intro _)
    | with_reducible apply KeepsOut.next
    | with_reducible exact KeepsOut.fault
    | with_reducible exact KeepsOut.refused
    | with_reducible apply commandRow_keeps

theorem execOpPoint_keeps {s0 : State} {rec : List Byte} {s : State} (hs : Keeps s0 s) :
    KeepsOut s0 (execOpPoint rec s) := by
  unfold execOpPoint
  repeat' first
    | with_reducible exact hs
    | with_reducible assumption
    | (intro _)
    | with_reducible apply KeepsOut.next
    | with_reducible exact KeepsOut.fault
    | with_reducible exact KeepsOut.refused
    | with_reducible apply commandRow_keeps

theorem State.resendFrom_keeps {s0 : State} {s : State} {chan : Nat} {nak : Nat} (hs : Keeps s0 s) :
    Keeps s0 (State.resendFrom s chan nak) := by
  unfold State.resendFrom
  repeat' first
    | with_reducible exact hs
    | with_reducible assumption
    | (intro _)
    | with_reducible apply State.pump_keeps
    | split
    | fail_if_no_progress ((with_reducible refine Keeps.upd ?_ ?_ ?_ ?_ ?_) <;> [skip; rfl; rfl; rfl; rfl])
    | dsimp only

theorem execHostAck_keeps {s0 : State} {rec : List Byte} {s : State} (hs : Keeps s0 s) :
    KeepsOut s0 (execHostAck rec s) := by
  unfold execHostAck
  repeat' first
    | with_reducible exact hs
    | with_reducible assumption
    | (intro _)
    | with_reducible apply KeepsOut.next
    | with_reducible exact KeepsOut.fault
    | with_reducible exact KeepsOut.refused
    | with_reducible apply takeRecord_keeps
    | with_reducible apply State.returnCredit_keeps
    | with_reducible apply State.resendFrom_keeps
    | split
    | fail_if_no_progress ((with_reducible refine Keeps.upd ?_ ?_ ?_ ?_ ?_) <;> [skip; rfl; rfl; rfl; rfl])

theorem execOhmipAckSend_keeps {s0 : State} {s : State} (hs : Keeps s0 s) :
    KeepsOut s0 (execOhmipAckSend s) := by
  unfold execOhmipAckSend
  repeat' first
    | with_reducible exact hs
    | with_reducible assumption
    | (intro _)
    | with_reducible apply KeepsOut.next
    | with_reducible exact KeepsOut.fault
    | with_reducible exact KeepsOut.refused
    | with_reducible apply State.hostSend_keeps
    | with_reducible apply State.setInChan_keeps
    | (with_reducible apply KeepsOut.ite) <;> intro _

theorem State.guarded_keeps {s0 : State} {s : State} {a : Nat} {n : Nat} (hs : Keeps s0 s) :
    Keeps s0 (State.guarded s a n).2 := by
  unfold State.guarded
  repeat' first
    | with_reducible exact hs
    | with_reducible assumption
    | (intro _)
    | with_reducible apply State.drawBool_keeps
    | refine State.drawBool_keeps_pair (by assumption) ?_
    | (with_reducible apply Keeps.iteSnd) <;> intro _

theorem State.guarded_keeps_pair {s0 : State} {s : State} {a : Nat} {n : Nat} {o0 : Bool} {t0 : State}
    (e : State.guarded s a n = (o0, t0)) (hs : Keeps s0 s) :
    Keeps s0 t0 := by
  have h := State.guarded_keeps (s0 := s0) (s := s) (a := a) (n := n) hs
  rw [e] at h
  exact h

theorem State.refuseData_keeps {s0 : State} {s : State} {bs : List Byte} (hs : Keeps s0 s) :
    Keeps s0 (State.refuseData s bs) := by
  unfold State.refuseData
  repeat' first
    | with_reducible exact hs
    | with_reducible assumption
    | (intro _)
    | with_reducible apply State.hostLinkFault_keeps
    | with_reducible apply State.setInChan_keeps

theorem State.applyLoad_keeps {s0 : State} {s : State} {bs : List Byte} (hs : Keeps s0 s) :
    Keeps s0 (State.applyLoad s bs) := by
  unfold State.applyLoad
  repeat' first
    | with_reducible exact hs
    | with_reducible assumption
    | (intro _)
    | with_reducible apply State.returnCredit_keeps
    | with_reducible apply State.guarded_keeps
    | refine State.guarded_keeps_pair (by assumption) ?_
    | with_reducible apply State.refuseData_keeps
    | with_reducible apply State.devWriteQuiet_keeps
    | (with_reducible apply Keeps.ite) <;> intro _

theorem State.applyRepair_keeps {s0 : State} {s : State} {bs : List Byte} (hs : Keeps s0 s) :
    Keeps s0 (State.applyRepair s bs) := by
  unfold State.applyRepair
  repeat' first
    | with_reducible exact hs
    | with_reducible assumption
    | (intro _)
    | with_reducible apply State.returnCredit_keeps
    | with_reducible apply State.hostCopy_keeps
    | with_reducible apply State.bump_keeps
    | (with_reducible apply Keeps.ite) <;> intro _

theorem State.applyGraftData_keeps {s0 : State} {s : State} {bs : List Byte} (hs : Keeps s0 s) :
    Keeps s0 (State.applyGraftData s bs) := by
  unfold State.applyGraftData
  repeat' first
    | with_reducible exact hs
    | with_reducible assumption
    | (intro _)
    | with_reducible apply State.returnCredit_keeps
    | with_reducible apply State.refuseSlot_keeps
    | with_reducible apply State.setGraft_keeps
    | with_reducible apply State.devWriteQuiet_keeps
    | (with_reducible apply Keeps.ite) <;> intro _

end Sys2Proof.Machine
end

