-- ==== Sys2Proof/Laws/KeepsBundles.lean ====
section
/-!
SUPPORT. What the operations of Machine/Bundles.lean keep: one lemma for each that gives a state.
-/

namespace Sys2Proof.Machine

theorem State.setBundleKey_keeps {s0 : State} {s : State} {tenant : BitVec 12} {k : BundleKey} (hs : Keeps s0 s) :
    Keeps s0 (State.setBundleKey s tenant k) := by
  unfold State.setBundleKey
  repeat' first
    | with_reducible exact hs
    | with_reducible assumption
    | (intro _)
    | split
    | fail_if_no_progress ((with_reducible refine Keeps.upd ?_ ?_ ?_ ?_ ?_) <;> [skip; rfl; rfl; rfl; rfl])

theorem State.setSeal_keeps {s0 : State} {s : State} {r : SealRun} (hs : Keeps s0 s) :
    Keeps s0 (State.setSeal s r) := by
  unfold State.setSeal
  repeat' first
    | with_reducible exact hs
    | with_reducible assumption
    | (intro _)
    | split
    | fail_if_no_progress ((with_reducible refine Keeps.upd ?_ ?_ ?_ ?_ ?_) <;> [skip; rfl; rfl; rfl; rfl])

theorem State.dropSeal_keeps {s0 : State} {s : State} {i : Nat} (hs : Keeps s0 s) :
    Keeps s0 (State.dropSeal s i) := by
  unfold State.dropSeal
  repeat' first
    | with_reducible exact hs
    | with_reducible assumption
    | (intro _)
    | split
    | fail_if_no_progress ((with_reducible refine Keeps.upd ?_ ?_ ?_ ?_ ?_) <;> [skip; rfl; rfl; rfl; rfl])

theorem sendBundle_keeps {s0 : State} {i : Nat} {ident : Word} {a3 : Nat} {a4 : List (List Byte)} {a5 : State} (ha5 : Keeps s0 a5) :
    Keeps s0 (sendBundle i ident a3 a4 a5) := by
  induction a4 generalizing a3 a5 with
  | nil =>
    unfold sendBundle
    repeat' first
      | with_reducible exact ha5
  | cons x xs ih =>
    unfold sendBundle
    repeat' first
      | with_reducible exact ha5
      | with_reducible exact ih
      | with_reducible assumption
      | (intro _)
      | with_reducible apply ih
      | with_reducible apply State.hostSend_keeps

theorem State.sendSeal_keeps {s0 : State} {s : State} {r : SealRun} {st : SealStart} {bs : List Byte} {content : List Byte} (hs : Keeps s0 s) :
    Keeps s0 (State.sendSeal s r st bs content) := by
  unfold State.sendSeal
  repeat' first
    | with_reducible exact hs
    | with_reducible assumption
    | (intro _)
    | with_reducible apply State.setSeal_keeps
    | with_reducible apply sendBundle_keeps

theorem State.takeIv_keeps {s0 : State} {s : State} {tenant : BitVec 12} {k : BundleKey} (hs : Keeps s0 s) :
    Keeps s0 (State.takeIv s tenant k).2 := by
  unfold State.takeIv
  repeat' first
    | with_reducible exact hs
    | with_reducible assumption
    | (intro _)
    | with_reducible apply State.drawRandom_keeps
    | refine State.drawRandom_keeps_pair (by assumption) ?_
    | with_reducible apply State.setBundleKey_keeps
    | (with_reducible apply Keeps.ite) <;> intro _

theorem State.takeIv_keeps_pair {s0 : State} {s : State} {tenant : BitVec 12} {k : BundleKey} {o0 : List Byte} {t0 : State}
    (e : State.takeIv s tenant k = (o0, t0)) (hs : Keeps s0 s) :
    Keeps s0 t0 := by
  have h := State.takeIv_keeps (s0 := s0) (s := s) (tenant := tenant) (k := k) hs
  rw [e] at h
  exact h

theorem readPages_keeps {s0 : State} {a1 : List Nat} {a2 : State} (ha2 : Keeps s0 a2) :
    Keeps s0 (readPages a1 a2) := by
  induction a1 generalizing a2 with
  | nil =>
    unfold readPages
    repeat' first
      | with_reducible exact ha2
  | cons x xs ih =>
    unfold readPages
    repeat' first
      | with_reducible exact ha2
      | with_reducible exact ih
      | with_reducible assumption
      | (intro _)
      | with_reducible apply ih
      | with_reducible apply State.readerOn_keeps

theorem State.startSeal_keeps {s0 : State} {s : State} {r : SealRun} {k : BundleKey} (hs : Keeps s0 s) :
    Keeps s0 (State.startSeal s r k) := by
  unfold State.startSeal
  repeat' first
    | with_reducible exact hs
    | with_reducible assumption
    | (intro _)
    | with_reducible apply State.takeIv_keeps
    | refine State.takeIv_keeps_pair (by assumption) ?_
    | with_reducible apply State.draw_keeps
    | refine State.draw_keeps_pair (by assumption) ?_
    | with_reducible apply State.event_keeps
    | with_reducible apply State.sendSeal_keeps

theorem State.nextSegment_keeps {s0 : State} {s : State} {r : SealRun} {st : SealStart} {k : BundleKey} (hs : Keeps s0 s) :
    Keeps s0 (State.nextSegment s r st k) := by
  unfold State.nextSegment
  repeat' first
    | with_reducible exact hs
    | with_reducible assumption
    | (intro _)
    | with_reducible apply State.sendSeal_keeps
    | with_reducible apply readPages_keeps

theorem execSealBundle_keeps {s0 : State} {index : BitVec 14} {s : State} (hs : Keeps s0 s) :
    KeepsOut s0 (execSealBundle index s) := by
  unfold execSealBundle
  repeat' first
    | with_reducible exact hs
    | with_reducible assumption
    | (intro _)
    | with_reducible apply KeepsOut.next
    | with_reducible exact KeepsOut.fault
    | with_reducible exact KeepsOut.refused
    | with_reducible apply State.whenReadable_keeps
    | with_reducible apply State.event_keeps
    | with_reducible apply State.startSeal_keeps
    | with_reducible apply State.nextSegment_keeps
    | with_reducible apply State.setSeal_keeps
    | (with_reducible apply Keeps.ite) <;> intro _
    | (with_reducible apply KeepsOut.ite) <;> intro _
    | split
    | dsimp only

theorem State.abortSeal_keeps {s0 : State} {s : State} {i : Nat} (hs : Keeps s0 s) :
    Keeps s0 (State.abortSeal s i) := by
  unfold State.abortSeal
  repeat' first
    | with_reducible exact hs
    | with_reducible assumption
    | (intro _)
    | with_reducible apply State.sendSeal_keeps
    | with_reducible apply State.dropSeal_keeps
    | split
    | fail_if_no_progress ((with_reducible refine Keeps.upd ?_ ?_ ?_ ?_ ?_) <;> [skip; rfl; rfl; rfl; rfl])
    | dsimp only

theorem State.setRestore_keeps {s0 : State} {s : State} {r : RestoreRun} (hs : Keeps s0 s) :
    Keeps s0 (State.setRestore s r) := by
  unfold State.setRestore
  repeat' first
    | with_reducible exact hs
    | with_reducible assumption
    | (intro _)
    | split
    | fail_if_no_progress ((with_reducible refine Keeps.upd ?_ ?_ ?_ ?_ ?_) <;> [skip; rfl; rfl; rfl; rfl])

theorem State.failRestore_keeps {s0 : State} {s : State} {r : RestoreRun} {cause : Nat} (hs : Keeps s0 s) :
    Keeps s0 (State.failRestore s r cause) := by
  unfold State.failRestore
  repeat' first
    | with_reducible exact hs
    | with_reducible assumption
    | (intro _)
    | with_reducible apply State.refuseCmd_keeps
    | with_reducible apply State.setRestore_keeps

theorem State.restorePage_keeps {s0 s : State} {r : RestoreRun} {bs : List Byte} {body dig : Nat} (hs : Keeps s0 s) :
    Keeps s0 (State.restorePage s r bs body dig).2 := by
  unfold State.restorePage
  extract_lets i e h hit
  clear_value hit
  cases hit with
  | some p => exact State.setRestore_keeps (State.appendPage_keeps (State.addRef_keeps (State.readerOn_keeps hs)))
  | none =>
    dsimp only
    split
    · exact hs
    · rename_i p s1 ha
      have h1 : Keeps s0 s1 := State.allocPage_keeps_pair ha hs
      exact State.setRestore_keeps (State.appendPage_keeps (State.setPte_keeps
        (Keeps.ite (fun _ => State.devWrite_keeps h1) (fun _ => State.devWrite_keeps (State.devWrite_keeps h1)))))

theorem placePages_keeps {s0 : State} {i n : Nat} {s : State} (hs : Keeps s0 s) : Keeps s0 (placePages i n s) := by
  induction n generalizing s with
  | zero => exact hs
  | succ n ih =>
    unfold placePages
    split
    · exact hs
    · split
      · exact hs
      · extract_lets bs body dig p
        have hp : Keeps s0 p.2 := State.restorePage_keeps hs
        exact Keeps.ite (fun _ => hs)
          (fun _ => Keeps.ite (fun _ => ih hp) (fun _ => State.refuseState_keeps (State.setRestore_keeps hp)))

theorem State.rebuild_keeps {s0 : State} {s : State} {r : RestoreRun} {body : List Byte} (hs : Keeps s0 s) :
    Keeps s0 (State.rebuild s r body) := by
  unfold State.rebuild
  repeat' first
    | with_reducible exact hs
    | with_reducible assumption
    | (intro _)
    | with_reducible apply State.failRestore_keeps
    | with_reducible apply State.draw_keeps
    | refine State.draw_keeps_pair (by assumption) ?_
    | with_reducible apply State.setEntry_keeps
    | with_reducible apply State.pin_keeps
    | with_reducible apply putTokens_keeps
    | with_reducible apply State.setRestore_keeps
    | (with_reducible apply Keeps.ite) <;> intro _
    | split

theorem State.place_keeps {s0 : State} {s : State} {i : Nat} (hs : Keeps s0 s) :
    Keeps s0 (State.place s i) := by
  unfold State.place
  repeat' first
    | with_reducible exact hs
    | with_reducible assumption
    | (intro _)
    | with_reducible apply State.rebuild_keeps
    | with_reducible apply placePages_keeps
    | (with_reducible apply Keeps.ite) <;> intro _
    | split

theorem makeResident_keeps {s0 : State} {a1 : List Nat} {a2 : State} (ha2 : Keeps s0 a2) :
    Keeps s0 (makeResident a1 a2) := by
  induction a1 generalizing a2 with
  | nil =>
    unfold makeResident
    repeat' first
      | with_reducible exact ha2
  | cons x xs ih =>
    unfold makeResident
    repeat' first
      | with_reducible exact ha2
      | with_reducible exact ih
      | with_reducible assumption
      | (intro _)
      | with_reducible apply ih
      | with_reducible apply State.setPte_keeps

theorem State.finishRestore_keeps {s0 : State} {s : State} {r : RestoreRun} {abort : Bool} (hs : Keeps s0 s) :
    Keeps s0 (State.finishRestore s r abort) := by
  unfold State.finishRestore
  repeat' first
    | with_reducible exact hs
    | with_reducible assumption
    | (intro _)
    | with_reducible apply State.failRestore_keeps
    | with_reducible apply State.setRestore_keeps
    | with_reducible apply makeResident_keeps
    | (with_reducible apply Keeps.ite) <;> intro _

theorem takeSegments_keeps {s0 : State} {i : Nat} {a2 : Nat} {a3 : State} (ha3 : Keeps s0 a3) :
    Keeps s0 (takeSegments i a2 a3) := by
  induction a2 generalizing a3 with
  | zero =>
    unfold takeSegments
    repeat' first
      | with_reducible exact ha3
  | succ k ih =>
    unfold takeSegments
    repeat' first
      | with_reducible exact ha3
      | with_reducible exact ih
      | with_reducible assumption
      | (intro _)
      | with_reducible apply ih
      | with_reducible apply State.finishRestore_keeps
      | with_reducible apply State.place_keeps
      | with_reducible apply State.setRestore_keeps
      | with_reducible apply State.failRestore_keeps
      | (with_reducible apply Keeps.ite) <;> intro _
      | split
      | fail_if_no_progress ((with_reducible refine Keeps.upd ?_ ?_ ?_ ?_ ?_) <;> [skip; rfl; rfl; rfl; rfl])
      | dsimp only

theorem State.takeHeader_keeps {s0 : State} {s : State} {r : RestoreRun} (hs : Keeps s0 s) :
    Keeps s0 (State.takeHeader s r) := by
  unfold State.takeHeader
  repeat' first
    | with_reducible exact hs
    | with_reducible assumption
    | (intro _)
    | with_reducible apply State.failRestore_keeps
    | with_reducible apply State.setEntry_keeps
    | with_reducible apply State.setRestore_keeps
    | (with_reducible apply Keeps.ite) <;> intro _

theorem State.applyBundle_keeps {s0 : State} {s : State} {bs : List Byte} (hs : Keeps s0 s) :
    Keeps s0 (State.applyBundle s bs) := by
  unfold State.applyBundle
  repeat' first
    | with_reducible exact hs
    | with_reducible assumption
    | (intro _)
    | with_reducible apply State.returnCredit_keeps
    | with_reducible apply State.setRestore_keeps
    | with_reducible apply State.takeHeader_keeps
    | with_reducible apply takeSegments_keeps
    | (with_reducible apply Keeps.ite) <;> intro _
    | split
    | fail_if_no_progress ((with_reducible refine Keeps.upd ?_ ?_ ?_ ?_ ?_) <;> [skip; rfl; rfl; rfl; rfl])
    | dsimp only

theorem State.applyData_keeps {s0 : State} {s : State} {bs : List Byte} (hs : Keeps s0 s) :
    Keeps s0 (State.applyData s bs) := by
  unfold State.applyData
  repeat' first
    | with_reducible exact hs
    | with_reducible assumption
    | (intro _)
    | with_reducible apply State.applyLoad_keeps
    | with_reducible apply State.applyGraftData_keeps
    | with_reducible apply State.applyBundle_keeps
    | with_reducible apply State.applyRepair_keeps
    | split

theorem applyAllData_keeps {s0 : State} {a1 : List (List Byte)} {a2 : State} (ha2 : Keeps s0 a2) :
    Keeps s0 (applyAllData a1 a2) := by
  induction a1 generalizing a2 with
  | nil =>
    unfold applyAllData
    repeat' first
      | with_reducible exact ha2
  | cons x xs ih =>
    unfold applyAllData
    repeat' first
      | with_reducible exact ha2
      | with_reducible exact ih
      | with_reducible assumption
      | (intro _)
      | with_reducible apply ih
      | with_reducible apply State.returnCredit_keeps
      | with_reducible apply State.applyData_keeps
      | (with_reducible apply Keeps.ite) <;> intro _

theorem State.drainData_keeps {s0 : State} {s : State} (hs : Keeps s0 s) :
    Keeps s0 (State.drainData s) := by
  unfold State.drainData
  repeat' first
    | with_reducible exact hs
    | with_reducible assumption
    | (intro _)
    | with_reducible apply applyAllData_keeps
    | (with_reducible apply Keeps.ite) <;> intro _
    | split
    | fail_if_no_progress ((with_reducible refine Keeps.upd ?_ ?_ ?_ ?_ ?_) <;> [skip; rfl; rfl; rfl; rfl])

theorem dataRow_keeps {s0 : State} {kind : Nat} {bs : List Byte} {s : State} (hs : Keeps s0 s) :
    KeepsOut s0 (dataRow kind bs s) := by
  unfold dataRow
  repeat' first
    | with_reducible exact hs
    | with_reducible assumption
    | (intro _)
    | with_reducible apply KeepsOut.next
    | with_reducible exact KeepsOut.fault
    | with_reducible exact KeepsOut.refused
    | with_reducible apply takeRecord_keeps
    | with_reducible apply State.drainData_keeps
    | split
    | fail_if_no_progress ((with_reducible refine Keeps.upd ?_ ?_ ?_ ?_ ?_) <;> [skip; rfl; rfl; rfl; rfl])

theorem execLoadRec_keeps {s0 : State} {rec : List Byte} {s : State} (hs : Keeps s0 s) :
    KeepsOut s0 (execLoadRec rec s) := by
  unfold execLoadRec
  repeat' first
    | with_reducible exact hs
    | with_reducible assumption
    | (intro _)
    | with_reducible apply KeepsOut.next
    | with_reducible exact KeepsOut.fault
    | with_reducible exact KeepsOut.refused
    | with_reducible apply dataRow_keeps

theorem execGraftData_keeps {s0 : State} {rec : List Byte} {s : State} (hs : Keeps s0 s) :
    KeepsOut s0 (execGraftData rec s) := by
  unfold execGraftData
  repeat' first
    | with_reducible exact hs
    | with_reducible assumption
    | (intro _)
    | with_reducible apply KeepsOut.next
    | with_reducible exact KeepsOut.fault
    | with_reducible exact KeepsOut.refused
    | with_reducible apply dataRow_keeps

theorem execBundleIn_keeps {s0 : State} {rec : List Byte} {s : State} (hs : Keeps s0 s) :
    KeepsOut s0 (execBundleIn rec s) := by
  unfold execBundleIn
  repeat' first
    | with_reducible exact hs
    | with_reducible assumption
    | (intro _)
    | with_reducible apply KeepsOut.next
    | with_reducible exact KeepsOut.fault
    | with_reducible exact KeepsOut.refused
    | with_reducible apply dataRow_keeps

theorem execRepairRec_keeps {s0 : State} {rec : List Byte} {s : State} (hs : Keeps s0 s) :
    KeepsOut s0 (execRepairRec rec s) := by
  unfold execRepairRec
  repeat' first
    | with_reducible exact hs
    | with_reducible assumption
    | (intro _)
    | with_reducible apply KeepsOut.next
    | with_reducible exact KeepsOut.fault
    | with_reducible exact KeepsOut.refused
    | with_reducible apply dataRow_keeps

end Sys2Proof.Machine
end

