-- ==== Sys2Proof/Laws/KeepsSkajor.lean ====
section
/-!
SUPPORT. What the operations of Machine/Skajor.lean keep: one lemma for each that gives a state.
-/

namespace Sys2Proof.Machine

theorem State.setPort_keeps {s0 : State} {s : State} {p : Nat} {x : Port} (hs : Keeps s0 s) :
    Keeps s0 (State.setPort s p x) := by
  unfold State.setPort
  repeat' first
    | with_reducible exact hs
    | with_reducible assumption
    | (intro _)
    | split
    | fail_if_no_progress ((with_reducible refine Keeps.upd ?_ ?_ ?_ ?_ ?_) <;> [skip; rfl; rfl; rfl; rfl])

theorem onPort_keeps {s0 : State} {name : String} {p : BitVec 3} {s : State} {k : Port → State} (hs : Keeps s0 s) (hk : ∀ x0, Keeps s0 (k x0)) :
    KeepsOut s0 (onPort name p s k) := by
  unfold onPort
  repeat' first
    | with_reducible exact hs
    | with_reducible exact hk
    | with_reducible apply hk
    | with_reducible assumption
    | (intro _)
    | with_reducible apply KeepsOut.next
    | with_reducible exact KeepsOut.fault
    | with_reducible exact KeepsOut.refused
    | (with_reducible apply KeepsOut.ite) <;> intro _

theorem State.sendItem_keeps {s0 : State} {s : State} {p : Nat} {item : Item} (hs : Keeps s0 s) :
    Keeps s0 (State.sendItem s p item) := by
  unfold State.sendItem
  repeat' first
    | with_reducible exact hs
    | with_reducible assumption
    | (intro _)
    | with_reducible apply State.setPort_keeps
    | (with_reducible apply Keeps.ite) <;> intro _

theorem sendAll_keeps {s0 : State} {item : Item} {a2 : List Nat} {a3 : State} (ha3 : Keeps s0 a3) :
    Keeps s0 (sendAll item a2 a3) := by
  induction a2 generalizing a3 with
  | nil =>
    unfold sendAll
    repeat' first
      | with_reducible exact ha3
  | cons x xs ih =>
    unfold sendAll
    repeat' first
      | with_reducible exact ha3
      | with_reducible exact ih
      | with_reducible assumption
      | (intro _)
      | with_reducible apply ih
      | with_reducible apply State.sendItem_keeps

theorem State.broadcastItem_keeps {s0 : State} {s : State} {item : Item} (hs : Keeps s0 s) :
    Keeps s0 (State.broadcastItem s item) := by
  unfold State.broadcastItem
  repeat' first
    | with_reducible exact hs
    | with_reducible assumption
    | (intro _)
    | with_reducible apply sendAll_keeps

theorem State.portRetrain_keeps {s0 : State} {s : State} {p : Nat} (hs : Keeps s0 s) :
    Keeps s0 (State.portRetrain s p) := by
  unfold State.portRetrain
  repeat' first
    | with_reducible exact hs
    | with_reducible assumption
    | (intro _)
    | with_reducible apply State.bump_keeps
    | with_reducible apply State.setPort_keeps

theorem onItem_keeps {s0 : State} {name : String} {p : BitVec 3} {w0 : DWord} {s : State} {k : Port → State} (hs : Keeps s0 s) (hk : ∀ x0, Keeps s0 (k x0)) :
    KeepsOut s0 (onItem name p w0 s k) := by
  unfold onItem
  repeat' first
    | with_reducible exact hs
    | with_reducible exact hk
    | with_reducible apply hk
    | with_reducible assumption
    | (intro _)
    | with_reducible apply KeepsOut.next
    | with_reducible exact KeepsOut.fault
    | with_reducible exact KeepsOut.refused
    | with_reducible apply onPort_keeps
    | with_reducible apply State.portRetrain_keeps
    | (with_reducible apply Keeps.ite) <;> intro _

theorem State.countFec_keeps {s0 : State} {s : State} {lane : Nat} {bin : Nat} (hs : Keeps s0 s) :
    Keeps s0 (State.countFec s lane bin) := by
  unfold State.countFec
  repeat' first
    | with_reducible exact hs
    | with_reducible assumption
    | (intro _)
    | split
    | fail_if_no_progress ((with_reducible refine Keeps.upd ?_ ?_ ?_ ?_ ?_) <;> [skip; rfl; rfl; rfl; rfl])

theorem countBlocks_keeps {s0 : State} {lane : Nat} {a2 : List Byte} {a3 : State} (ha3 : Keeps s0 a3) :
    Keeps s0 (countBlocks lane a2 a3) := by
  induction a2 generalizing a3 with
  | nil =>
    unfold countBlocks
    repeat' first
      | with_reducible exact ha3
  | cons x xs ih =>
    unfold countBlocks
    repeat' first
      | with_reducible exact ha3
      | with_reducible exact ih
      | with_reducible assumption
      | (intro _)
      | with_reducible apply ih
      | with_reducible apply State.countFec_keeps
      | (with_reducible apply Keeps.ite) <;> intro _

theorem State.receiveBlocks_keeps {s0 : State} {s : State} {p : Nat} {got : List Byte} (hs : Keeps s0 s) :
    Keeps s0 (State.receiveBlocks s p got) := by
  unfold State.receiveBlocks
  repeat' first
    | with_reducible exact hs
    | with_reducible assumption
    | (intro _)
    | with_reducible apply countBlocks_keeps
    | with_reducible apply State.bump_keeps
    | with_reducible apply State.setPort_keeps
    | with_reducible apply State.sendItem_keeps
    | (with_reducible apply Keeps.ite) <;> intro _

theorem execSkajorLinkStatus_keeps {s0 : State} {p : BitVec 3} {w0 : BitVec 64} {got : List Byte} {s : State} (hs : Keeps s0 s) :
    KeepsOut s0 (execSkajorLinkStatus p w0 got s) := by
  unfold execSkajorLinkStatus
  repeat' first
    | with_reducible exact hs
    | with_reducible assumption
    | (intro _)
    | with_reducible apply KeepsOut.next
    | with_reducible exact KeepsOut.fault
    | with_reducible exact KeepsOut.refused
    | with_reducible apply onItem_keeps
    | with_reducible apply State.receiveBlocks_keeps
    | with_reducible apply State.setPort_keeps
    | with_reducible apply State.bumpField_keeps
    | (with_reducible apply Keeps.ite) <;> intro _

theorem execSkajorReplayRequest_keeps {s0 : State} {p : BitVec 3} {w0 : BitVec 64} {s : State} (hs : Keeps s0 s) :
    KeepsOut s0 (execSkajorReplayRequest p w0 s) := by
  unfold execSkajorReplayRequest
  repeat' first
    | with_reducible exact hs
    | with_reducible assumption
    | (intro _)
    | with_reducible apply KeepsOut.next
    | with_reducible exact KeepsOut.fault
    | with_reducible exact KeepsOut.refused
    | with_reducible apply onItem_keeps
    | with_reducible apply State.bump_keeps
    | with_reducible apply State.setPort_keeps
    | (with_reducible apply Keeps.ite) <;> intro _

theorem execSkajorUncorrectableBlock_keeps {s0 : State} {p : BitVec 3} {block : BitVec 16} {s : State} (hs : Keeps s0 s) :
    KeepsOut s0 (execSkajorUncorrectableBlock p block s) := by
  unfold execSkajorUncorrectableBlock
  repeat' first
    | with_reducible exact hs
    | with_reducible assumption
    | (intro _)
    | with_reducible apply KeepsOut.next
    | with_reducible exact KeepsOut.fault
    | with_reducible exact KeepsOut.refused
    | with_reducible apply onPort_keeps
    | with_reducible apply State.countFec_keeps
    | with_reducible apply State.bump_keeps
    | with_reducible apply State.setPort_keeps
    | with_reducible apply State.sendItem_keeps
    | (with_reducible apply Keeps.ite) <;> intro _

theorem execSwitchBlock_keeps {s0 : State} {p : BitVec 3} {s : State} (hs : Keeps s0 s) :
    KeepsOut s0 (execSwitchBlock p s) := by
  unfold execSwitchBlock
  repeat' first
    | with_reducible exact hs
    | with_reducible assumption
    | (intro _)
    | with_reducible apply KeepsOut.next
    | with_reducible exact KeepsOut.fault
    | with_reducible exact KeepsOut.refused
    | with_reducible apply onPort_keeps
    | with_reducible apply State.bumpField_keeps
    | with_reducible apply State.setPort_keeps
    | (with_reducible apply Keeps.ite) <;> intro _

theorem execLaneLockLoss_keeps {s0 : State} {p : BitVec 3} {spare : Bool} {s : State} (hs : Keeps s0 s) :
    KeepsOut s0 (execLaneLockLoss p spare s) := by
  unfold execLaneLockLoss
  repeat' first
    | with_reducible exact hs
    | with_reducible assumption
    | (intro _)
    | with_reducible apply KeepsOut.next
    | with_reducible exact KeepsOut.fault
    | with_reducible exact KeepsOut.refused
    | with_reducible apply onPort_keeps
    | with_reducible apply State.setPort_keeps
    | with_reducible apply State.sendItem_keeps
    | (with_reducible apply Keeps.ite) <;> intro _

theorem execLaneRetrainComplete_keeps {s0 : State} {p : BitVec 3} {pass : Bool} {s : State} (hs : Keeps s0 s) :
    KeepsOut s0 (execLaneRetrainComplete p pass s) := by
  unfold execLaneRetrainComplete
  repeat' first
    | with_reducible exact hs
    | with_reducible assumption
    | (intro _)
    | with_reducible apply KeepsOut.next
    | with_reducible exact KeepsOut.fault
    | with_reducible exact KeepsOut.refused
    | with_reducible apply onPort_keeps
    | with_reducible apply State.setPort_keeps
    | split

theorem execSkajorPortTraining_keeps {s0 : State} {p : BitVec 3} {nbr : Option PortHello} {s : State} (hs : Keeps s0 s) :
    KeepsOut s0 (execSkajorPortTraining p nbr s) := by
  unfold execSkajorPortTraining
  repeat' first
    | with_reducible exact hs
    | with_reducible assumption
    | (intro _)
    | with_reducible apply KeepsOut.next
    | with_reducible exact KeepsOut.fault
    | with_reducible exact KeepsOut.refused
    | with_reducible apply onPort_keeps
    | with_reducible apply State.setPort_keeps
    | (with_reducible apply Keeps.ite) <;> intro _
    | split

theorem execDownItem_keeps {s0 : State} {p : BitVec 3} {w0 : BitVec 64} {s : State} (hs : Keeps s0 s) :
    KeepsOut s0 (execDownItem p w0 s) := by
  unfold execDownItem
  repeat' first
    | with_reducible exact hs
    | with_reducible assumption
    | (intro _)
    | with_reducible apply KeepsOut.next
    | with_reducible exact KeepsOut.fault
    | with_reducible exact KeepsOut.refused
    | with_reducible apply onItem_keeps
    | with_reducible apply State.setPort_keeps
    | (with_reducible apply Keeps.ite) <;> intro _

end Sys2Proof.Machine
end

