-- ==== Sys2Proof/Laws/KeepsRing.lean ====
section
/-!
SUPPORT. What the operations of Machine/Ring.lean keep: one lemma for each that gives a state.
-/

namespace Sys2Proof.Machine

theorem State.setRails_keeps {s0 : State} {s : State} (hs : Keeps s0 s) :
    Keeps s0 (State.setRails s) := by
  unfold State.setRails
  repeat' first
    | with_reducible exact hs
    | with_reducible assumption
    | (intro _)
    | split
    | fail_if_no_progress ((with_reducible refine Keeps.upd ?_ ?_ ?_ ?_ ?_) <;> [skip; rfl; rfl; rfl; rfl])

theorem State.checkOffer_keeps {s0 : State} {s : State} (hs : Keeps s0 s) :
    Keeps s0 (State.checkOffer s) := by
  unfold State.checkOffer
  repeat' first
    | with_reducible exact hs
    | with_reducible assumption
    | (intro _)
    | with_reducible apply State.bumpField_keeps
    | with_reducible apply State.broadcastItem_keeps
    | (with_reducible apply Keeps.ite) <;> intro _
    | split
    | fail_if_no_progress ((with_reducible refine Keeps.upd ?_ ?_ ?_ ?_ ?_) <;> [skip; rfl; rfl; rfl; rfl])

theorem State.setRing_keeps {s0 : State} {s : State} {r : Ring} (hs : Keeps s0 s) :
    Keeps s0 (State.setRing s r) := by
  unfold State.setRing
  repeat' first
    | with_reducible exact hs
    | with_reducible assumption
    | (intro _)
    | split
    | fail_if_no_progress ((with_reducible refine Keeps.upd ?_ ?_ ?_ ?_ ?_) <;> [skip; rfl; rfl; rfl; rfl])

theorem State.tick_keeps {s0 : State} {s : State} (hs : Keeps s0 s) :
    Keeps s0 (State.tick s) := by
  unfold State.tick
  repeat' first
    | with_reducible exact hs
    | with_reducible assumption
    | (intro _)
    | with_reducible apply State.setRing_keeps
    | (with_reducible apply Keeps.ite) <;> intro _
    | split
    | fail_if_no_progress ((with_reducible refine Keeps.upd ?_ ?_ ?_ ?_ ?_) <;> [skip; rfl; rfl; rfl; rfl])

theorem State.abandonForClock_keeps {s0 : State} {s : State} {cause : Nat} {p : Nat} (hs : Keeps s0 s) :
    Keeps s0 (State.abandonForClock s cause p) := by
  unfold State.abandonForClock
  repeat' first
    | with_reducible exact hs
    | with_reducible assumption
    | (intro _)
    | with_reducible apply State.abandonStep_keeps
    | with_reducible apply State.setPlot_keeps
    | split

theorem abandonPlots_keeps {s0 : State} {cause : Nat} {a2 : List Nat} {a3 : State} (ha3 : Keeps s0 a3) :
    Keeps s0 (abandonPlots cause a2 a3) := by
  induction a2 generalizing a3 with
  | nil =>
    unfold abandonPlots
    repeat' first
      | with_reducible exact ha3
  | cons x xs ih =>
    unfold abandonPlots
    repeat' first
      | with_reducible exact ha3
      | with_reducible exact ih
      | with_reducible assumption
      | (intro _)
      | with_reducible apply ih
      | with_reducible apply State.abandonForClock_keeps

theorem State.clockFault_keeps {s0 : State} {s : State} {cause : Nat} (hs : Keeps s0 s) :
    Keeps s0 (State.clockFault s cause) := by
  unfold State.clockFault
  repeat' first
    | with_reducible exact hs
    | with_reducible assumption
    | (intro _)
    | with_reducible apply State.raise_keeps

theorem State.ringFault_keeps {s0 : State} {s : State} {cause : Nat} (hs : Keeps s0 s) :
    Keeps s0 (State.ringFault s cause) := by
  unfold State.ringFault
  repeat' first
    | with_reducible exact hs
    | with_reducible assumption
    | (intro _)
    | with_reducible apply State.setCause_keeps
    | with_reducible apply State.setRing_keeps
    | with_reducible apply State.broadcastItem_keeps
    | with_reducible apply abandonPlots_keeps
    | with_reducible apply State.bumpField_keeps
    | with_reducible apply State.clockFault_keeps

theorem execFrameMarkerPulse_keeps {s0 : State} {s : State} (hs : Keeps s0 s) :
    KeepsOut s0 (execFrameMarkerPulse s) := by
  unfold execFrameMarkerPulse
  repeat' first
    | with_reducible exact hs
    | with_reducible assumption
    | (intro _)
    | with_reducible apply KeepsOut.next
    | with_reducible exact KeepsOut.fault
    | with_reducible exact KeepsOut.refused
    | with_reducible apply State.setRing_keeps
    | with_reducible apply State.bump_keeps
    | (with_reducible apply KeepsOut.ite) <;> intro _

theorem execFrameMarkerAbsent_keeps {s0 : State} {s : State} (hs : Keeps s0 s) :
    KeepsOut s0 (execFrameMarkerAbsent s) := by
  unfold execFrameMarkerAbsent
  repeat' first
    | with_reducible exact hs
    | with_reducible assumption
    | (intro _)
    | with_reducible apply KeepsOut.next
    | with_reducible exact KeepsOut.fault
    | with_reducible exact KeepsOut.refused
    | with_reducible apply State.bump_keeps
    | (with_reducible apply KeepsOut.ite) <;> intro _

theorem execRackReferenceLoss_keeps {s0 : State} {s : State} (hs : Keeps s0 s) :
    KeepsOut s0 (execRackReferenceLoss s) := by
  unfold execRackReferenceLoss
  repeat' first
    | with_reducible exact hs
    | with_reducible assumption
    | (intro _)
    | with_reducible apply KeepsOut.next
    | with_reducible exact KeepsOut.fault
    | with_reducible exact KeepsOut.refused
    | with_reducible apply State.setRing_keeps
    | with_reducible apply State.clockFault_keeps
    | with_reducible apply State.setCause_keeps
    | with_reducible apply State.bumpField_keeps
    | (with_reducible apply KeepsOut.ite) <;> intro _
    | split

theorem execRackReferenceReturn_keeps {s0 : State} {off : ℤ} {s : State} (hs : Keeps s0 s) :
    KeepsOut s0 (execRackReferenceReturn off s) := by
  unfold execRackReferenceReturn
  repeat' first
    | with_reducible exact hs
    | with_reducible assumption
    | (intro _)
    | with_reducible apply KeepsOut.next
    | with_reducible exact KeepsOut.fault
    | with_reducible exact KeepsOut.refused
    | with_reducible apply State.setRing_keeps
    | with_reducible apply State.ringFault_keeps
    | (with_reducible apply KeepsOut.ite) <;> intro _
    | split

theorem execHoldoverExpiry_keeps {s0 : State} {s : State} (hs : Keeps s0 s) :
    KeepsOut s0 (execHoldoverExpiry s) := by
  unfold execHoldoverExpiry
  repeat' first
    | with_reducible exact hs
    | with_reducible assumption
    | (intro _)
    | with_reducible apply KeepsOut.next
    | with_reducible exact KeepsOut.fault
    | with_reducible exact KeepsOut.refused
    | with_reducible apply State.ringFault_keeps
    | (with_reducible apply KeepsOut.ite) <;> intro _

theorem State.hear_keeps {s0 : State} {s : State} {p : Nat} {x : Port} (hs : Keeps s0 s) :
    Keeps s0 (State.hear s p x) := by
  unfold State.hear
  repeat' first
    | with_reducible exact hs
    | (intro _)
    | with_reducible apply State.setPort_keeps
    | (with_reducible apply Keeps.ite) <;> intro _

theorem execPhaseMeasurementTimer_keeps {s0 : State} {p : BitVec 3} {s : State} (hs : Keeps s0 s) :
    KeepsOut s0 (execPhaseMeasurementTimer p s) := by
  unfold execPhaseMeasurementTimer
  repeat' first
    | with_reducible exact hs
    | with_reducible assumption
    | (intro _)
    | with_reducible apply KeepsOut.next
    | with_reducible exact KeepsOut.fault
    | with_reducible exact KeepsOut.refused
    | with_reducible apply onPort_keeps
    | with_reducible apply State.draw_keeps
    | refine State.draw_keeps_pair (by assumption) ?_
    | with_reducible apply State.sendItem_keeps
    | with_reducible apply State.setPort_keeps
    | (with_reducible apply Keeps.ite) <;> intro _

theorem execPhaseRequest_keeps {s0 : State} {p : BitVec 3} {w0 : BitVec 64} {_t1 : BitVec 64} {s : State} (hs : Keeps s0 s) :
    KeepsOut s0 (execPhaseRequest p w0 _t1 s) := by
  unfold execPhaseRequest
  repeat' first
    | with_reducible exact hs
    | with_reducible assumption
    | (intro _)
    | with_reducible apply KeepsOut.next
    | with_reducible exact KeepsOut.fault
    | with_reducible exact KeepsOut.refused
    | with_reducible apply onItem_keeps
    | with_reducible apply State.draw_keeps
    | refine State.draw_keeps_pair (by assumption) ?_
    | with_reducible apply State.setRing_keeps
    | with_reducible apply State.sendItem_keeps
    | with_reducible apply State.setPort_keeps
    | (with_reducible apply Keeps.ite) <;> intro _

theorem State.moveCal_keeps {s0 : State} {s : State} {r : Ring} (hs : Keeps s0 s) :
    Keeps s0 (State.moveCal s r) := by
  unfold State.moveCal
  repeat' first
    | with_reducible exact hs
    | with_reducible assumption
    | (intro _)
    | with_reducible apply State.setReg64_keeps
    | (with_reducible apply Keeps.ite) <;> intro _
    | split
    | fail_if_no_progress ((with_reducible refine Keeps.upd ?_ ?_ ?_ ?_ ?_) <;> [skip; rfl; rfl; rfl; rfl])

theorem State.align_keeps {s0 : State} {s : State} {p : Nat} {freq : Nat} (hs : Keeps s0 s) :
    Keeps s0 (State.align s p freq) := by
  unfold State.align
  repeat' first
    | with_reducible exact hs
    | with_reducible assumption
    | (intro _)
    | with_reducible apply State.checkOffer_keeps
    | with_reducible apply State.setRails_keeps
    | with_reducible apply State.setRing_keeps

theorem State.applyLocal_keeps {s0 : State} {s : State} {p : Nat} {o : ℤ} {freq : Nat} (hs : Keeps s0 s) :
    Keeps s0 (State.applyLocal s p o freq) := by
  unfold State.applyLocal
  repeat' first
    | with_reducible exact hs
    | with_reducible assumption
    | (intro _)
    | with_reducible apply State.setRing_keeps
    | with_reducible apply State.moveCal_keeps
    | with_reducible apply State.align_keeps
    | (with_reducible apply Keeps.ite) <;> intro _

theorem State.applyAligned_keeps {s0 : State} {s : State} {o : ℤ} (hs : Keeps s0 s) :
    Keeps s0 (State.applyAligned s o) := by
  unfold State.applyAligned
  repeat' first
    | with_reducible exact hs
    | with_reducible assumption
    | (intro _)
    | with_reducible apply State.bump_keeps
    | with_reducible apply State.ringFault_keeps
    | with_reducible apply State.setRing_keeps
    | (with_reducible apply Keeps.ite) <;> intro _

theorem execPhaseResponse_keeps {s0 : State} {p : BitVec 3} {w0 : BitVec 64} {t2 : BitVec 64} {t3 : BitVec 64} {t4 : BitVec 64} {s : State} (hs : Keeps s0 s) :
    KeepsOut s0 (execPhaseResponse p w0 t2 t3 t4 s) := by
  unfold execPhaseResponse
  repeat' first
    | with_reducible exact hs
    | with_reducible assumption
    | (intro _)
    | with_reducible apply KeepsOut.next
    | with_reducible exact KeepsOut.fault
    | with_reducible exact KeepsOut.refused
    | with_reducible apply onItem_keeps
    | with_reducible apply State.hear_keeps
    | with_reducible apply State.setRing_keeps
    | with_reducible apply State.setPort_keeps
    | with_reducible apply State.applyLocal_keeps
    | with_reducible apply State.applyAligned_keeps
    | (with_reducible apply Keeps.ite) <;> intro _
    | split
    | fail_if_no_progress ((with_reducible refine Keeps.upd ?_ ?_ ?_ ?_ ?_) <;> [skip; rfl; rfl; rfl; rfl])
    | dsimp only

theorem execRingLoadArm_keeps {s0 : State} {data : BitVec 32} {s : State} (hs : Keeps s0 s) :
    KeepsOut s0 (execRingLoadArm data s) := by
  unfold execRingLoadArm
  repeat' first
    | with_reducible exact hs
    | with_reducible assumption
    | (intro _)
    | with_reducible apply KeepsOut.next
    | with_reducible exact KeepsOut.fault
    | with_reducible exact KeepsOut.refused
    | with_reducible apply State.setReg_keeps
    | with_reducible apply onReg_keeps
    | with_reducible apply State.setRing_keeps

theorem execRootRingLoad_keeps {s0 : State} {s : State} (hs : Keeps s0 s) :
    KeepsOut s0 (execRootRingLoad s) := by
  unfold execRootRingLoad
  repeat' first
    | with_reducible exact hs
    | with_reducible assumption
    | (intro _)
    | with_reducible apply KeepsOut.next
    | with_reducible exact KeepsOut.fault
    | with_reducible exact KeepsOut.refused
    | with_reducible apply State.setRails_keeps
    | with_reducible apply State.setRing_keeps
    | (with_reducible apply KeepsOut.ite) <;> intro _

theorem execFreqRoundSend_keeps {s0 : State} {s : State} (hs : Keeps s0 s) :
    KeepsOut s0 (execFreqRoundSend s) := by
  unfold execFreqRoundSend
  repeat' first
    | with_reducible exact hs
    | with_reducible assumption
    | (intro _)
    | with_reducible apply KeepsOut.next
    | with_reducible exact KeepsOut.fault
    | with_reducible exact KeepsOut.refused
    | with_reducible apply State.broadcastItem_keeps
    | with_reducible apply State.setRing_keeps
    | (with_reducible apply KeepsOut.ite) <;> intro _

theorem execFreqFinalSend_keeps {s0 : State} {s : State} (hs : Keeps s0 s) :
    KeepsOut s0 (execFreqFinalSend s) := by
  unfold execFreqFinalSend
  repeat' first
    | with_reducible exact hs
    | with_reducible assumption
    | (intro _)
    | with_reducible apply KeepsOut.next
    | with_reducible exact KeepsOut.fault
    | with_reducible exact KeepsOut.refused
    | with_reducible apply State.checkOffer_keeps
    | with_reducible apply State.broadcastItem_keeps
    | with_reducible apply State.setRing_keeps
    | (with_reducible apply KeepsOut.ite) <;> intro _

theorem execFreqRoundItem_keeps {s0 : State} {p : BitVec 3} {w0 : BitVec 64} {w1 : BitVec 64} {s : State} (hs : Keeps s0 s) :
    KeepsOut s0 (execFreqRoundItem p w0 w1 s) := by
  unfold execFreqRoundItem
  repeat' first
    | with_reducible exact hs
    | with_reducible assumption
    | (intro _)
    | with_reducible apply KeepsOut.next
    | with_reducible exact KeepsOut.fault
    | with_reducible exact KeepsOut.refused
    | with_reducible apply onItem_keeps
    | with_reducible apply State.setRing_keeps
    | with_reducible apply State.setPort_keeps
    | with_reducible apply State.hear_keeps
    | (with_reducible apply Keeps.ite) <;> intro _

theorem execFreqFinalItem_keeps {s0 : State} {p : BitVec 3} {w0 : BitVec 64} {w1 : BitVec 64} {s : State} (hs : Keeps s0 s) :
    KeepsOut s0 (execFreqFinalItem p w0 w1 s) := by
  unfold execFreqFinalItem
  repeat' first
    | with_reducible exact hs
    | with_reducible assumption
    | (intro _)
    | with_reducible apply KeepsOut.next
    | with_reducible exact KeepsOut.fault
    | with_reducible exact KeepsOut.refused
    | with_reducible apply onItem_keeps
    | with_reducible apply State.bumpField_keeps
    | with_reducible apply State.setRing_keeps
    | with_reducible apply State.setPort_keeps
    | with_reducible apply State.hear_keeps
    | (with_reducible apply Keeps.ite) <;> intro _

theorem execFreqLowerItem_keeps {s0 : State} {p : BitVec 3} {w0 : BitVec 64} {w1 : BitVec 64} {s : State} (hs : Keeps s0 s) :
    KeepsOut s0 (execFreqLowerItem p w0 w1 s) := by
  unfold execFreqLowerItem
  repeat' first
    | with_reducible exact hs
    | with_reducible assumption
    | (intro _)
    | with_reducible apply KeepsOut.next
    | with_reducible exact KeepsOut.fault
    | with_reducible exact KeepsOut.refused
    | with_reducible apply onItem_keeps
    | with_reducible apply State.broadcastItem_keeps
    | with_reducible apply State.setPort_keeps
    | with_reducible apply State.bumpField_keeps
    | with_reducible apply State.setRing_keeps
    | with_reducible apply State.hear_keeps
    | (with_reducible apply Keeps.ite) <;> intro _

theorem execFreqRailPreraise_keeps {s0 : State} {s : State} (hs : Keeps s0 s) :
    KeepsOut s0 (execFreqRailPreraise s) := by
  unfold execFreqRailPreraise
  repeat' first
    | with_reducible exact hs
    | with_reducible assumption
    | (intro _)
    | with_reducible apply KeepsOut.next
    | with_reducible exact KeepsOut.fault
    | with_reducible exact KeepsOut.refused
    | with_reducible apply State.setRails_keeps
    | with_reducible apply State.setRing_keeps
    | (with_reducible apply KeepsOut.ite) <;> intro _
    | split

theorem execFreqApply_keeps {s0 : State} {s : State} (hs : Keeps s0 s) :
    KeepsOut s0 (execFreqApply s) := by
  unfold execFreqApply
  repeat' first
    | with_reducible exact hs
    | with_reducible assumption
    | (intro _)
    | with_reducible apply KeepsOut.next
    | with_reducible exact KeepsOut.fault
    | with_reducible exact KeepsOut.refused
    | with_reducible apply State.setRails_keeps
    | with_reducible apply State.setRing_keeps
    | with_reducible apply Keeps.foldl
    | (with_reducible apply KeepsOut.ite) <;> intro _
    | split

end Sys2Proof.Machine
end

