-- ==== Sys2Proof/Laws/KeepsApply.lean ====
section
/-!
SUPPORT. What the operations of Machine/Apply.lean keep: one lemma for each that gives a state.
-/

namespace Sys2Proof.Machine

theorem State.storeReg_keeps {s0 : State} {s : State} {a : Nat} {w : Word} (hs : Keeps s0 s) :
    Keeps s0 (State.storeReg s a w) := by
  unfold State.storeReg
  repeat' first
    | with_reducible exact hs
    | with_reducible assumption
    | (intro _)
    | with_reducible apply State.setReg_keeps
    | split

theorem State.storeRecord_keeps {s0 : State} {s : State} {a : Nat} {w : Word} (hs : Keeps s0 s) :
    Keeps s0 (State.storeRecord s a w) := by
  unfold State.storeRecord
  repeat' first
    | with_reducible exact hs
    | with_reducible assumption
    | (intro _)
    | with_reducible apply State.storeReg_keeps
    | (with_reducible apply Keeps.ite) <;> intro _
    | split
    | fail_if_no_progress ((with_reducible refine Keeps.upd ?_ ?_ ?_ ?_ ?_) <;> [skip; rfl; rfl; rfl; rfl])

theorem storeRecords_keeps {s0 : State} {a1 : List (Nat × Word)} {a2 : State} (ha2 : Keeps s0 a2) :
    Keeps s0 (storeRecords a1 a2) := by
  induction a1 generalizing a2 with
  | nil =>
    unfold storeRecords
    repeat' first
      | with_reducible exact ha2
  | cons x xs ih =>
    unfold storeRecords
    repeat' first
      | with_reducible exact ha2
      | with_reducible exact ih
      | with_reducible assumption
      | (intro _)
      | with_reducible apply ih
      | with_reducible apply State.storeRecord_keeps

theorem State.startStepping_keeps {s0 : State} {s : State} (hs : Keeps s0 s) :
    Keeps s0 (State.startStepping s) := by
  unfold State.startStepping
  repeat' first
    | with_reducible exact hs
    | with_reducible assumption
    | (intro _)
    | (with_reducible apply Keeps.ite) <;> intro _
    | split
    | fail_if_no_progress ((with_reducible refine Keeps.upd ?_ ?_ ?_ ?_ ?_) <;> [skip; rfl; rfl; rfl; rfl])

theorem resetLk_keeps {s0 : State} {a1 : List (Nat × Word)} {a2 : State} (ha2 : Keeps s0 a2) :
    Keeps s0 (resetLk a1 a2) := by
  induction a1 generalizing a2 with
  | nil =>
    unfold resetLk
    repeat' first
      | with_reducible exact ha2
  | cons x xs ih =>
    unfold resetLk
    repeat' first
      | with_reducible exact ha2
      | with_reducible exact ih
      | with_reducible assumption
      | (intro _)
      | with_reducible apply ih
      | with_reducible apply State.setReg_keeps
      | split

theorem State.configFault_keeps {s0 : State} {s : State} {a : Nat} (hs : Keeps s0 s) :
    Keeps s0 (State.configFault s a) := by
  unfold State.configFault
  repeat' first
    | with_reducible exact hs
    | with_reducible assumption
    | (intro _)
    | with_reducible apply State.raise_keeps

theorem raiseConfig_keeps {s0 : State} {a1 : List Nat} {a2 : State} (ha2 : Keeps s0 a2) :
    Keeps s0 (raiseConfig a1 a2) := by
  induction a1 generalizing a2 with
  | nil =>
    unfold raiseConfig
    repeat' first
      | with_reducible exact ha2
  | cons x xs ih =>
    unfold raiseConfig
    repeat' first
      | with_reducible exact ha2
      | with_reducible exact ih
      | with_reducible assumption
      | (intro _)
      | with_reducible apply ih
      | with_reducible apply State.configFault_keeps

theorem State.checkConfig_keeps {s0 : State} {s : State} {u : Setup} {before : List Nat} (hs : Keeps s0 s) :
    Keeps s0 (State.checkConfig s u before) := by
  unfold State.checkConfig
  repeat' first
    | with_reducible exact hs
    | with_reducible assumption
    | (intro _)
    | with_reducible apply raiseConfig_keeps
    | split
    | fail_if_no_progress ((with_reducible refine Keeps.upd ?_ ?_ ?_ ?_ ?_) <;> [skip; rfl; rfl; rfl; rfl])

theorem mapAll_keeps {s0 : State} {k : Nat} {r : Region} {a3 : List Nat} {a4 : State} (ha4 : Keeps s0 a4) :
    Keeps s0 (mapAll k r a3 a4) := by
  induction a3 generalizing a4 with
  | nil =>
    unfold mapAll
    repeat' first
      | with_reducible exact ha4
  | cons x xs ih =>
    unfold mapAll
    repeat' first
      | with_reducible exact ha4
      | with_reducible exact ih
      | with_reducible assumption
      | (intro _)
      | with_reducible apply ih
      | with_reducible apply State.mapGranule_keeps

theorem unmapAll_keeps {s0 : State} {k : Nat} {r : Region} {a3 : List Nat} {a4 : State} (ha4 : Keeps s0 a4) :
    Keeps s0 (unmapAll k r a3 a4) := by
  induction a3 generalizing a4 with
  | nil =>
    unfold unmapAll
    repeat' first
      | with_reducible exact ha4
  | cons x xs ih =>
    unfold unmapAll
    repeat' first
      | with_reducible exact ha4
      | with_reducible exact ih
      | with_reducible assumption
      | (intro _)
      | with_reducible apply ih
      | with_reducible apply State.unmapGranule_keeps

theorem State.endRegion_keeps {s0 : State} {s : State} {k : Nat} {r : Region} (hs : Keeps s0 s) :
    Keeps s0 (State.endRegion s k r) := by
  unfold State.endRegion
  repeat' first
    | with_reducible exact hs
    | with_reducible assumption
    | (intro _)
    | with_reducible apply unmapAll_keeps
    | split
    | (with_reducible refine Keeps.updMem ?_ ?_ ?_ ?_ ?_) <;> [skip; exact fun h => Memory.flushLate_wf h; rfl; rfl; rfl]

theorem endRegions_keeps {s0 : State} {a1 : List (Nat × Region)} {a2 : State} (ha2 : Keeps s0 a2) :
    Keeps s0 (endRegions a1 a2) := by
  induction a1 generalizing a2 with
  | nil =>
    unfold endRegions
    repeat' first
      | with_reducible exact ha2
  | cons x xs ih =>
    unfold endRegions
    repeat' first
      | with_reducible exact ha2
      | with_reducible exact ih
      | with_reducible assumption
      | (intro _)
      | with_reducible apply ih
      | with_reducible apply State.endRegion_keeps

theorem mapRegions_keeps {s0 : State} {a1 : List (Nat × Region)} {a2 : State} (ha2 : Keeps s0 a2) :
    Keeps s0 (mapRegions a1 a2) := by
  induction a1 generalizing a2 with
  | nil =>
    unfold mapRegions
    repeat' first
      | with_reducible exact ha2
  | cons x xs ih =>
    unfold mapRegions
    repeat' first
      | with_reducible exact ha2
      | with_reducible exact ih
      | with_reducible assumption
      | (intro _)
      | with_reducible apply ih
      | with_reducible apply mapAll_keeps
      | (with_reducible apply Keeps.ite) <;> intro _

theorem State.setRegions_keeps {s0 : State} {s : State} {old : Setup} {new : Setup} (hs : Keeps s0 s) :
    Keeps s0 (State.setRegions s old new) := by
  unfold State.setRegions
  repeat' first
    | with_reducible exact hs
    | with_reducible assumption
    | (intro _)
    | with_reducible apply endRegions_keeps
    | with_reducible apply mapRegions_keeps
    | split
    | fail_if_no_progress ((with_reducible refine Keeps.upd ?_ ?_ ?_ ?_ ?_) <;> [skip; rfl; rfl; rfl; rfl])

theorem State.fillDev_keeps {s0 s : State} {a : Nat} {bs : List Byte} (hs : Keeps s0 s) :
    Keeps s0 (State.fillDev s a bs) := by
  unfold State.fillDev
  exact Keeps.updMem hs Memory.write_wf rfl rfl rfl

theorem clearCoppice_keeps {s0 : State} {a1 : List Nat} {a2 : State} (ha2 : Keeps s0 a2) :
    Keeps s0 (clearCoppice a1 a2) := by
  induction a1 generalizing a2 with
  | nil =>
    unfold clearCoppice
    repeat' first
      | with_reducible exact ha2
  | cons x xs ih =>
    unfold clearCoppice
    repeat' first
      | with_reducible exact ha2
      | with_reducible exact ih
      | with_reducible assumption
      | (intro _)
      | with_reducible apply ih
      | with_reducible apply State.fillDev_keeps

theorem State.emptyPlbs_keeps {s0 s : State} (hs : Keeps s0 s) : Keeps s0 (State.emptyPlbs s) :=
  Keeps.updTables hs (fun q => ⟨q.1, q.2.1,
    mwfFrom_mapFilter (f := fun x : Grove => { x with canopy := { x.canopy with plb := [] } }) q.2.2⟩) rfl rfl rfl rfl

theorem State.initPages_keeps {s0 : State} {s : State} (hs : Keeps s0 s) :
    Keeps s0 (State.initPages s) := by
  unfold State.initPages
  repeat' first
    | with_reducible exact hs
    | with_reducible assumption
    | (intro _)
    | with_reducible apply State.emptyPlbs_keeps
    | with_reducible apply State.fillDev_keeps
    | split
    | fail_if_no_progress ((with_reducible refine Keeps.upd ?_ ?_ ?_ ?_ ?_) <;> [skip; rfl; rfl; rfl; rfl])

theorem State.putBias_keeps {s0 : State} {s : State} {u : Setup} {e : Nat × List (BitVec 16)} (hs : Keeps s0 s) :
    Keeps s0 (State.putBias s u e) := by
  unfold State.putBias
  repeat' first
    | with_reducible exact hs
    | with_reducible assumption
    | (intro _)
    | with_reducible apply State.fillDev_keeps
    | (with_reducible apply Keeps.ite) <;> intro _

theorem putBiases_keeps {s0 : State} {u : Setup} {a2 : List (Nat × List (BitVec 16))} {a3 : State} (ha3 : Keeps s0 a3) :
    Keeps s0 (putBiases u a2 a3) := by
  induction a2 generalizing a3 with
  | nil =>
    unfold putBiases
    repeat' first
      | with_reducible exact ha3
  | cons x xs ih =>
    unfold putBiases
    repeat' first
      | with_reducible exact ha3
      | with_reducible exact ih
      | with_reducible assumption
      | (intro _)
      | with_reducible apply ih
      | with_reducible apply State.putBias_keeps

theorem setPlots_keeps {s0 : State} {u : Setup} {a2 : List Nat} {a3 : State} (ha3 : Keeps s0 a3) :
    Keeps s0 (setPlots u a2 a3) := by
  induction a2 generalizing a3 with
  | nil =>
    unfold setPlots
    repeat' first
      | with_reducible exact ha3
  | cons x xs ih =>
    unfold setPlots
    repeat' first
      | with_reducible exact ha3
      | with_reducible exact ih
      | with_reducible assumption
      | (intro _)
      | with_reducible apply ih
      | with_reducible apply State.setPlot_keeps

theorem setGlades_keeps {s0 : State} {u : Setup} {a2 : List Nat} {a3 : State} (ha3 : Keeps s0 a3) :
    Keeps s0 (setGlades u a2 a3) := by
  induction a2 generalizing a3 with
  | nil =>
    unfold setGlades
    repeat' first
      | with_reducible exact ha3
  | cons x xs ih =>
    unfold setGlades
    repeat' first
      | with_reducible exact ha3
      | with_reducible exact ih
      | with_reducible assumption
      | (intro _)
      | with_reducible apply ih
      | with_reducible apply State.setGlade_keeps

theorem keepUnnamed_keeps {s0 : State} {u : Setup} {a2 : List (Nat × Word)} {a3 : State} (ha3 : Keeps s0 a3) :
    Keeps s0 (keepUnnamed u a2 a3) := by
  induction a2 generalizing a3 with
  | nil =>
    unfold keepUnnamed
    repeat' first
      | with_reducible exact ha3
  | cons x xs ih =>
    unfold keepUnnamed
    repeat' first
      | with_reducible exact ha3
      | with_reducible exact ih
      | with_reducible assumption
      | (intro _)
      | with_reducible apply ih
      | with_reducible apply State.setReg_keeps
      | (with_reducible apply Keeps.ite) <;> intro _
      | split

theorem State.install_keeps {s0 s : State} {u : Setup} (hs : Keeps s0 s) : Keeps s0 (State.install s u) := by
  unfold State.install
  exact State.startStepping_keeps (storeRecords_keeps (putBiases_keeps (setGlades_keeps (setPlots_keeps
    (Keeps.updTables (clearCoppice_keeps (State.initPages_keeps (State.setRegions_keeps (storeRecords_keeps (resetLk_keeps hs)))))
      (fun _ => ⟨rfl, rfl, rfl⟩) rfl rfl rfl rfl)))))

theorem State.imageFault_keeps {s0 : State} {s : State} {cause : Nat} {reg : Nat} {update : Bool} (hs : Keeps s0 s) :
    Keeps s0 (State.imageFault s cause reg update) := by
  unfold State.imageFault
  repeat' first
    | with_reducible exact hs
    | with_reducible assumption
    | (intro _)
    | with_reducible apply State.setCause_keeps
    | with_reducible apply State.raiseAs_keeps
    | split
    | fail_if_no_progress ((with_reducible refine Keeps.upd ?_ ?_ ?_ ?_ ?_) <;> [skip; rfl; rfl; rfl; rfl])

theorem State.refuseImage_keeps {s0 : State} {s : State} {cause : Nat} {c : List Byte} (hs : Keeps s0 s) :
    Keeps s0 (State.refuseImage s cause c) := by
  unfold State.refuseImage
  repeat' first
    | with_reducible exact hs
    | with_reducible assumption
    | (intro _)
    | with_reducible apply resetLk_keeps
    | with_reducible apply State.imageFault_keeps

theorem State.holdImage_keeps {s0 : State} {s : State} {c : List Byte} {u : Setup} (hs : Keeps s0 s) :
    Keeps s0 (State.holdImage s c u) := by
  unfold State.holdImage
  repeat' first
    | with_reducible exact hs
    | with_reducible assumption
    | (intro _)
    | split
    | fail_if_no_progress ((with_reducible refine Keeps.upd ?_ ?_ ?_ ?_ ?_) <;> [skip; rfl; rfl; rfl; rfl])

theorem State.initialApply_keeps {s0 : State} {s : State} {c : List Byte} {bad : Bool} (hs : Keeps s0 s) :
    Keeps s0 (State.initialApply s c bad).1 := by
  unfold State.initialApply
  repeat' first
    | with_reducible exact hs
    | with_reducible assumption
    | (intro _)
    | with_reducible apply State.refuseImage_keeps
    | with_reducible apply keepUnnamed_keeps
    | with_reducible apply State.checkConfig_keeps
    | with_reducible apply State.install_keeps
    | with_reducible apply State.drainInbox_keeps
    | with_reducible apply State.checkOffer_keeps
    | with_reducible apply State.holdImage_keeps
    | split

theorem State.initialApply_keeps_pair {s0 : State} {s : State} {c : List Byte} {bad : Bool} {o0 : Bool} {t0 : State}
    (e : State.initialApply s c bad = (t0, o0)) (hs : Keeps s0 s) :
    Keeps s0 t0 := by
  have h := State.initialApply_keeps (s0 := s0) (s := s) (c := c) (bad := bad) hs
  rw [e] at h
  exact h

end Sys2Proof.Machine
end

