-- ==== Sys2Proof/Laws/KeepsContainer.lean ====
section
/-!
SUPPORT. What the operations of Machine/Container.lean keep: one lemma for each that gives a state.
-/

namespace Sys2Proof.Machine

theorem State.norWrite_keeps {s0 : State} {s : State} {a : Nat} {bs : List Byte} (hs : Keeps s0 s) :
    Keeps s0 (State.norWrite s a bs) := by
  unfold State.norWrite
  repeat' first
    | with_reducible exact hs
    | with_reducible assumption
    | (intro _)
    | split
    | fail_if_no_progress ((with_reducible refine Keeps.upd ?_ ?_ ?_ ?_ ?_) <;> [skip; rfl; rfl; rfl; rfl])

theorem State.norErase_keeps {s0 : State} {s : State} {a : Nat} {b : Nat} (hs : Keeps s0 s) :
    Keeps s0 (State.norErase s a b) := by
  unfold State.norErase
  repeat' first
    | with_reducible exact hs
    | with_reducible assumption
    | (intro _)
    | split
    | fail_if_no_progress ((with_reducible refine Keeps.upd ?_ ?_ ?_ ?_ ?_) <;> [skip; rfl; rfl; rfl; rfl])

theorem State.setBoot_keeps {s0 : State} {s : State} {k : Nat} {boot : Bool} (hs : Keeps s0 s) :
    Keeps s0 (State.setBoot s k boot) := by
  unfold State.setBoot
  repeat' first
    | with_reducible exact hs
    | with_reducible assumption
    | (intro _)
    | with_reducible apply State.norWrite_keeps
    | (with_reducible apply Keeps.ite) <;> intro _

theorem State.storeSlot_keeps {s0 : State} {s : State} {k : Nat} {c : List Byte} (hs : Keeps s0 s) :
    Keeps s0 (State.storeSlot s k c) := by
  unfold State.storeSlot
  repeat' first
    | with_reducible exact hs
    | with_reducible assumption
    | (intro _)
    | with_reducible apply State.norWrite_keeps
    | with_reducible apply State.norErase_keeps

end Sys2Proof.Machine
end

