-- ==== Sys2Proof/Laws/KeepsSnapshot.lean ====
section
/-!
SUPPORT. What the operations of Machine/Snapshot.lean keep: one lemma for each that gives a state.
-/

namespace Sys2Proof.Machine

theorem State.noteLate_keeps {s0 : State} {s : State} {i : Nat} {late : Bool} {act : DWord} (hs : Keeps s0 s) :
    Keeps s0 (State.noteLate s i late act) := by
  unfold State.noteLate
  repeat' first
    | with_reducible exact hs
    | with_reducible assumption
    | (intro _)
    | with_reducible apply State.event_keeps
    | with_reducible apply State.bump_keeps
    | (with_reducible apply Keeps.ite) <;> intro _

theorem State.tellLate_keeps {s0 : State} {s : State} {c : PendingCmd} (hs : Keeps s0 s) :
    Keeps s0 (State.tellLate s c) := by
  unfold State.tellLate
  repeat' first
    | with_reducible exact hs
    | with_reducible assumption
    | (intro _)
    | with_reducible apply State.noteLate_keeps

theorem sharePages_keeps {s0 : State} {i : Nat} {a2 : List Nat} {a3 : State} (ha3 : Keeps s0 a3) :
    Keeps s0 (sharePages i a2 a3) := by
  induction a2 generalizing a3 with
  | nil =>
    unfold sharePages
    repeat' first
      | with_reducible exact ha3
  | cons x xs ih =>
    unfold sharePages
    repeat' first
      | with_reducible exact ha3
      | with_reducible exact ih
      | with_reducible assumption
      | (intro _)
      | with_reducible apply ih
      | with_reducible apply State.appendPage_keeps
      | with_reducible apply State.addRef_keeps
      | with_reducible apply State.readerOn_keeps

theorem State.applyAdmit_keeps {s0 : State} {s : State} {bs : List Byte} (hs : Keeps s0 s) :
    Keeps s0 (State.applyAdmit s bs) := by
  unfold State.applyAdmit
  repeat' first
    | with_reducible exact hs
    | with_reducible assumption
    | (intro _)
    | with_reducible apply State.refuseTag_keeps
    | with_reducible apply State.pin_keeps
    | with_reducible apply sharePages_keeps
    | with_reducible apply State.setEntry_keeps
    | with_reducible apply State.event_keeps
    | (with_reducible apply Keeps.ite) <;> intro _
    | split

theorem State.applyAppend_keeps {s0 : State} {s : State} {bs : List Byte} (hs : Keeps s0 s) :
    Keeps s0 (State.applyAppend s bs) := by
  unfold State.applyAppend
  repeat' first
    | with_reducible exact hs
    | with_reducible assumption
    | (intro _)
    | with_reducible apply State.refuseTag_keeps
    | with_reducible apply State.refuseState_keeps
    | with_reducible apply State.setEntry_keeps
    | (with_reducible apply Keeps.ite) <;> intro _
    | split

theorem State.resumeHints_keeps {s0 : State} {s : State} {e : LedgerEntry} (hs : Keeps s0 s) :
    Keeps s0 (State.resumeHints s e) := by
  unfold State.resumeHints
  repeat' first
    | with_reducible exact hs
    | with_reducible assumption
    | (intro _)
    | with_reducible apply hintPages_keeps

theorem State.applyResume_keeps {s0 : State} {s : State} {bs : List Byte} (hs : Keeps s0 s) :
    Keeps s0 (State.applyResume s bs) := by
  unfold State.applyResume
  repeat' first
    | with_reducible exact hs
    | with_reducible assumption
    | (intro _)
    | with_reducible apply State.refuseTag_keeps
    | with_reducible apply State.event_keeps
    | with_reducible apply State.bump_keeps
    | with_reducible apply State.setEntry_keeps
    | with_reducible apply State.resumeHints_keeps
    | with_reducible apply State.refuseState_keeps
    | (with_reducible apply Keeps.ite) <;> intro _
    | split

theorem State.applyPause_keeps {s0 : State} {s : State} {bs : List Byte} (hs : Keeps s0 s) :
    Keeps s0 (State.applyPause s bs) := by
  unfold State.applyPause
  repeat' first
    | with_reducible exact hs
    | with_reducible assumption
    | (intro _)
    | with_reducible apply State.refuseTag_keeps
    | with_reducible apply State.setEntry_keeps
    | with_reducible apply State.refuseState_keeps
    | (with_reducible apply Keeps.ite) <;> intro _
    | split

theorem State.applyAtSnapshot_keeps {s0 : State} {s : State} {c : PendingCmd} (hs : Keeps s0 s) :
    Keeps s0 (State.applyAtSnapshot s c) := by
  unfold State.applyAtSnapshot
  repeat' first
    | with_reducible exact hs
    | with_reducible assumption
    | (intro _)
    | with_reducible apply State.tellLate_keeps
    | with_reducible apply State.applyAdmit_keeps
    | with_reducible apply State.applyAppend_keeps
    | with_reducible apply State.applyPause_keeps
    | with_reducible apply State.applyResume_keeps
    | split

theorem applyCmds_keeps {s0 : State} {f : State → PendingCmd → State} {a2 : List PendingCmd} {a3 : State} (hf : ∀ x0 x1, Keeps s0 x0 → Keeps s0 (f x0 x1)) (ha3 : Keeps s0 a3) :
    Keeps s0 (applyCmds f a2 a3) := by
  induction a2 generalizing a3 with
  | nil =>
    unfold applyCmds
    repeat' first
      | with_reducible exact hf
      | with_reducible exact ha3
  | cons x xs ih =>
    unfold applyCmds
    repeat' first
      | with_reducible exact hf
      | with_reducible exact ha3
      | with_reducible exact ih
      | with_reducible apply hf
      | with_reducible assumption
      | (intro _)
      | with_reducible apply ih

theorem State.applyDue_keeps {s0 : State} {s : State} {snap : Bool} {n : Nat} {before : Nat} {f : State → PendingCmd → State} (hs : Keeps s0 s) (hf : ∀ x0 x1, Keeps s0 x0 → Keeps s0 (f x0 x1)) :
    Keeps s0 (State.applyDue s snap n before f) := by
  unfold State.applyDue
  repeat' first
    | with_reducible exact hs
    | with_reducible exact hf
    | with_reducible apply hf
    | with_reducible assumption
    | (intro _)
    | with_reducible apply applyCmds_keeps
    | split
    | fail_if_no_progress ((with_reducible refine Keeps.upd ?_ ?_ ?_ ?_ ?_) <;> [skip; rfl; rfl; rfl; rfl])

theorem State.countHit_keeps {s0 : State} {s : State} {i : Nat} (hs : Keeps s0 s) :
    Keeps s0 (State.countHit s i) := by
  unfold State.countHit
  repeat' first
    | with_reducible exact hs
    | with_reducible assumption
    | (intro _)
    | split
    | fail_if_no_progress ((with_reducible refine Keeps.upd ?_ ?_ ?_ ?_ ?_) <;> [skip; rfl; rfl; rfl; rfl])

theorem walk_keeps {s0 : State} {i : Nat} {a2 : Nat} {a3 : State} (ha3 : Keeps s0 a3) :
    Keeps s0 (walk i a2 a3) := by
  induction a2 generalizing a3 with
  | zero =>
    unfold walk
    repeat' first
      | with_reducible exact ha3
  | succ k ih =>
    unfold walk
    repeat' first
      | with_reducible exact ha3
      | with_reducible exact ih
      | with_reducible assumption
      | (intro _)
      | with_reducible apply ih
      | with_reducible apply State.bump_keeps
      | with_reducible apply State.countHit_keeps
      | with_reducible apply State.appendPage_keeps
      | with_reducible apply State.addRef_keeps
      | with_reducible apply State.setEntry_keeps
      | with_reducible apply State.readerOn_keeps
      | (with_reducible apply Keeps.ite) <;> intro _
      | split
      | fail_if_no_progress ((with_reducible refine Keeps.upd ?_ ?_ ?_ ?_ ?_) <;> [skip; rfl; rfl; rfl; rfl])
      | dsimp only

theorem State.walkEntry_keeps {s0 : State} {s : State} {i : Nat} (hs : Keeps s0 s) :
    Keeps s0 (State.walkEntry s i) := by
  unfold State.walkEntry
  repeat' first
    | with_reducible exact hs
    | with_reducible assumption
    | (intro _)
    | with_reducible apply walk_keeps
    | (with_reducible apply Keeps.ite) <;> intro _

theorem walkAll_keeps {s0 : State} {a1 : List Nat} {a2 : State} (ha2 : Keeps s0 a2) :
    Keeps s0 (walkAll a1 a2) := by
  induction a1 generalizing a2 with
  | nil =>
    unfold walkAll
    repeat' first
      | with_reducible exact ha2
  | cons x xs ih =>
    unfold walkAll
    repeat' first
      | with_reducible exact ha2
      | with_reducible exact ih
      | with_reducible assumption
      | (intro _)
      | with_reducible apply ih
      | with_reducible apply State.walkEntry_keeps

theorem allocate_keeps {s0 : State} {i : Nat} {need : Nat} {a3 : Nat} {a4 : State} (ha4 : Keeps s0 a4) :
    Keeps s0 (allocate i need a3 a4).2 := by
  induction a3 generalizing a4 with
  | zero =>
    unfold allocate
    repeat' first
      | with_reducible exact ha4
  | succ k ih =>
    unfold allocate
    repeat' first
      | with_reducible exact ha4
      | with_reducible exact ih
      | with_reducible assumption
      | (intro _)
      | with_reducible apply ih
      | refine State.allocPage_keeps (by assumption) ?_
      | refine State.allocPage_keeps_pair (by assumption) ?_
      | with_reducible apply State.appendPage_keeps
      | (with_reducible apply Keeps.iteSnd) <;> intro _
      | split

theorem allocate_keeps_pair {s0 : State} {i : Nat} {need : Nat} {a3 : Nat} {a4 : State} {o0 : Option Nat} {t0 : State}
    (e : allocate i need a3 a4 = (o0, t0)) (ha4 : Keeps s0 a4) :
    Keeps s0 t0 := by
  have h := allocate_keeps (s0 := s0) (i := i) (need := need) (a3 := a3) (a4 := a4) ha4
  rw [e] at h
  exact h

theorem State.copyOnWrite_keeps {s0 : State} {s : State} {i : Nat} {pi : Nat} (hs : Keeps s0 s) :
    Keeps s0 (State.copyOnWrite s i pi).2 := by
  unfold State.copyOnWrite
  repeat' first
    | with_reducible exact hs
    | with_reducible assumption
    | (intro _)
    | refine State.allocPage_keeps (by assumption) ?_
    | refine State.allocPage_keeps_pair (by assumption) ?_
    | with_reducible apply State.devWrite_keeps
    | with_reducible apply State.touchRead_keeps
    | with_reducible apply State.bump_keeps
    | with_reducible apply State.readerOn_keeps
    | with_reducible apply State.dropRef_keeps
    | with_reducible apply State.setListPage_keeps
    | split
    | fail_if_no_progress ((with_reducible refine Keeps.upd ?_ ?_ ?_ ?_ ?_) <;> [skip; rfl; rfl; rfl; rfl])
    | dsimp only

theorem State.copyOnWrite_keeps_pair {s0 : State} {s : State} {i : Nat} {pi : Nat} {o0 : Option Nat} {t0 : State}
    (e : State.copyOnWrite s i pi = (o0, t0)) (hs : Keeps s0 s) :
    Keeps s0 t0 := by
  have h := State.copyOnWrite_keeps (s0 := s0) (s := s) (i := i) (pi := pi) hs
  rw [e] at h
  exact h

theorem State.preparePages_keeps {s0 : State} {s : State} {i : Nat} {a : Nat} (hs : Keeps s0 s) :
    Keeps s0 (State.preparePages s i a).2 := by
  unfold State.preparePages
  repeat' first
    | with_reducible exact hs
    | with_reducible assumption
    | (intro _)
    | with_reducible apply allocate_keeps
    | refine allocate_keeps_pair (by assumption) ?_
    | with_reducible apply State.copyOnWrite_keeps
    | refine State.copyOnWrite_keeps_pair (by assumption) ?_
    | (with_reducible apply Keeps.iteSnd) <;> intro _
    | split
    | fail_if_no_progress ((with_reducible refine Keeps.upd ?_ ?_ ?_ ?_ ?_) <;> [skip; rfl; rfl; rfl; rfl])
    | dsimp only

theorem State.preparePages_keeps_pair {s0 : State} {s : State} {i : Nat} {a : Nat} {o0 : Option Nat} {t0 : State}
    (e : State.preparePages s i a = (o0, t0)) (hs : Keeps s0 s) :
    Keeps s0 t0 := by
  have h := State.preparePages_keeps (s0 := s0) (s := s) (i := i) (a := a) hs
  rw [e] at h
  exact h

theorem State.makeRow_keeps {s0 : State} {s : State} {i : Nat} {a : Nat} (hs : Keeps s0 s) :
    Keeps s0 (State.makeRow s i a).2 := by
  unfold State.makeRow
  repeat' first
    | with_reducible exact hs
    | with_reducible assumption
    | (intro _)
    | with_reducible apply State.setEntry_keeps

theorem State.makeRow_keeps_pair {s0 : State} {s : State} {i : Nat} {a : Nat} {o0 : (BatchRow × List Nat)} {t0 : State}
    (e : State.makeRow s i a = (o0, t0)) (hs : Keeps s0 s) :
    Keeps s0 t0 := by
  have h := State.makeRow_keeps (s0 := s0) (s := s) (i := i) (a := a) hs
  rw [e] at h
  exact h

theorem State.holdForPages_keeps {s0 : State} {s : State} {i : Nat} {cause : Nat} (hs : Keeps s0 s) :
    Keeps s0 (State.holdForPages s i cause) := by
  unfold State.holdForPages
  repeat' first
    | with_reducible exact hs
    | with_reducible assumption
    | (intro _)
    | with_reducible apply State.event_keeps
    | with_reducible apply State.bump_keeps
    | with_reducible apply State.setEntry_keeps

theorem buildRows_keeps {s0 : State} {a1 : List Nat} {a2 : State} (ha2 : Keeps s0 a2) :
    Keeps s0 (buildRows a1 a2).2 := by
  induction a1 generalizing a2 with
  | nil =>
    unfold buildRows
    repeat' first
      | with_reducible exact ha2
  | cons x xs ih =>
    unfold buildRows
    repeat' first
      | with_reducible exact ha2
      | with_reducible exact ih
      | with_reducible assumption
      | (intro _)
      | with_reducible apply ih
      | with_reducible apply State.makeRow_keeps
      | refine State.makeRow_keeps_pair (by assumption) ?_
      | with_reducible apply State.holdForPages_keeps
      | with_reducible apply State.preparePages_keeps
      | refine State.preparePages_keeps_pair (by assumption) ?_
      | split
      | fail_if_no_progress ((with_reducible refine Keeps.upd ?_ ?_ ?_ ?_ ?_) <;> [skip; rfl; rfl; rfl; rfl])
      | dsimp only

theorem buildRows_keeps_pair {s0 : State} {a1 : List Nat} {a2 : State} {o0 : List (BatchRow × List Nat)} {t0 : State}
    (e : buildRows a1 a2 = (o0, t0)) (ha2 : Keeps s0 a2) :
    Keeps s0 t0 := by
  have h := buildRows_keeps (s0 := s0) (a1 := a1) (a2 := a2) ha2
  rw [e] at h
  exact h

theorem State.snapshot_keeps {s0 : State} {s : State} {n : Nat} {at_ : Nat} (hs : Keeps s0 s) :
    Keeps s0 (State.snapshot s n at_) := by
  unfold State.snapshot
  repeat' first
    | with_reducible exact hs
    | with_reducible assumption
    | (intro _)
    | with_reducible apply State.drainInbox_keeps
    | with_reducible apply State.applyDue_keeps
    | with_reducible apply State.applyAtSnapshot_keeps
    | with_reducible apply walkAll_keeps
    | with_reducible apply State.bump_keeps
    | with_reducible apply buildRows_keeps
    | refine buildRows_keeps_pair (by assumption) ?_
    | (with_reducible apply Keeps.ite) <;> intro _
    | split
    | fail_if_no_progress ((with_reducible refine Keeps.upd ?_ ?_ ?_ ?_ ?_) <;> [skip; rfl; rfl; rfl; rfl])

theorem writeInputs_keeps {s0 : State} {a1 : Nat} {a2 : List (BatchRow × List Nat)} {a3 : State} (ha3 : Keeps s0 a3) :
    Keeps s0 (writeInputs a1 a2 a3) := by
  induction a2 generalizing a1 a3 with
  | nil =>
    unfold writeInputs
    repeat' first
      | with_reducible exact ha3
  | cons x xs ih =>
    unfold writeInputs
    repeat' first
      | with_reducible exact ha3
      | with_reducible exact ih
      | with_reducible assumption
      | (intro _)
      | with_reducible apply ih
      | with_reducible apply State.devWrite_keeps

theorem execBatchRelease_keeps {s0 : State} {s : State} (hs : Keeps s0 s) :
    KeepsOut s0 (execBatchRelease s) := by
  unfold execBatchRelease
  repeat' first
    | with_reducible exact hs
    | with_reducible assumption
    | (intro _)
    | with_reducible apply KeepsOut.next
    | with_reducible exact KeepsOut.fault
    | with_reducible exact KeepsOut.refused
    | with_reducible apply State.whenReadable_keeps
    | with_reducible apply writeInputs_keeps
    | (with_reducible apply KeepsOut.ite) <;> intro _
    | split
    | fail_if_no_progress ((with_reducible refine Keeps.upd ?_ ?_ ?_ ?_ ?_) <;> [skip; rfl; rfl; rfl; rfl])

theorem State.landRoute_keeps {s0 : State} {s : State} {r : Route} {bs : List Byte} (hs : Keeps s0 s) :
    Keeps s0 (State.landRoute s r bs) := by
  unfold State.landRoute
  repeat' first
    | with_reducible exact hs
    | with_reducible assumption
    | (intro _)
    | with_reducible apply State.countUp_keeps
    | with_reducible apply State.setGlade_keeps

theorem landPiece_keeps {s0 : State} {unit : Nat} {bs : List Byte} {a3 : List Nat} {a4 : State} (ha4 : Keeps s0 a4) :
    Keeps s0 (landPiece unit bs a3 a4) := by
  induction a3 generalizing a4 with
  | nil =>
    unfold landPiece
    repeat' first
      | with_reducible exact ha4
  | cons x xs ih =>
    unfold landPiece
    repeat' first
      | with_reducible exact ha4
      | with_reducible exact ih
      | with_reducible assumption
      | (intro _)
      | with_reducible apply ih
      | with_reducible apply State.landRoute_keeps

theorem execBroadcastArrival_keeps {s0 : State} {s : State} (hs : Keeps s0 s) :
    KeepsOut s0 (execBroadcastArrival s) := by
  unfold execBroadcastArrival
  repeat' first
    | with_reducible exact hs
    | with_reducible assumption
    | (intro _)
    | with_reducible apply KeepsOut.next
    | with_reducible exact KeepsOut.fault
    | with_reducible exact KeepsOut.refused
    | with_reducible apply landPiece_keeps
    | split
    | fail_if_no_progress ((with_reducible refine Keeps.upd ?_ ?_ ?_ ?_ ?_) <;> [skip; rfl; rfl; rfl; rfl])

end Sys2Proof.Machine
end

