-- ==== Sys2Proof/Laws/KeepsOperands.lean ====
section
/-!
SUPPORT. What the operations of Machine/Operands.lean keep: one lemma for each that gives a state.
-/

namespace Sys2Proof.Machine

theorem State.stopFault_keeps {s0 : State} {s : State} {i : Issue} {f : FaultArgs} (hs : Keeps s0 s) :
    Keeps s0 (State.stopFault s i f) := by
  unfold State.stopFault
  repeat' first
    | with_reducible exact hs
    | with_reducible assumption
    | (intro _)
    | with_reducible apply State.haltFault_keeps
    | with_reducible apply State.bump_keeps
    | with_reducible apply State.setGlade_keeps

theorem State.instrFault_keeps {s0 : State} {s : State} {i : Issue} {cause : Nat} (hs : Keeps s0 s) :
    Keeps s0 (State.instrFault s i cause) := by
  unfold State.instrFault
  repeat' first
    | with_reducible exact hs
    | with_reducible assumption
    | (intro _)
    | with_reducible apply State.stopFault_keeps

theorem atInstr_keeps {s0 : State} {s : State} {g : BitVec 10} {op : Nat} {k : Issue → State} (hs : Keeps s0 s) (hk : ∀ x0, Keeps s0 (k x0)) :
    KeepsOut s0 (atInstr s g op k) := by
  unfold atInstr
  repeat' first
    | with_reducible exact hs
    | with_reducible exact hk
    | with_reducible apply hk
    | with_reducible assumption
    | (intro _)
    | with_reducible apply KeepsOut.next
    | with_reducible exact KeepsOut.fault
    | with_reducible exact KeepsOut.refused
    | with_reducible apply State.instrFault_keeps
    | (with_reducible apply KeepsOut.ite) <;> intro _

theorem State.put_keeps {s0 : State} {s : State} {i : Issue} {gl : Glade} (hs : Keeps s0 s) :
    Keeps s0 (State.put s i gl) := by
  unfold State.put
  repeat' first
    | with_reducible exact hs
    | with_reducible assumption
    | (intro _)
    | with_reducible apply State.setGlade_keeps

theorem State.form_keeps {s0 : State} {s : State} {i : Issue} {lo : Nat} {k : State} (hs : Keeps s0 s) (hk : Keeps s0 k) :
    Keeps s0 (State.form s i lo k) := by
  unfold State.form
  repeat' first
    | with_reducible exact hs
    | with_reducible exact hk
    | with_reducible assumption
    | (intro _)
    | with_reducible apply State.instrFault_keeps
    | (with_reducible apply Keeps.ite) <;> intro _

end Sys2Proof.Machine
end

