-- ==== Sys2Proof/Laws/KeepsEngine.lean ====
section
/-!
SUPPORT. What the operations of Machine/Engine.lean keep: one lemma for each that gives a state.
-/

namespace Sys2Proof.Machine

theorem atEngine_keeps {s0 : State} {s : State} {g : BitVec 10} {op : Nat} {hasCount : Bool} {k : Issue → Nat → State} (hs : Keeps s0 s) (hk : ∀ x0 x1, Keeps s0 (k x0 x1)) :
    KeepsOut s0 (atEngine s g op hasCount k) := by
  unfold atEngine
  repeat' first
    | with_reducible exact hs
    | with_reducible exact hk
    | with_reducible apply hk
    | with_reducible assumption
    | (intro _)
    | with_reducible apply KeepsOut.next
    | with_reducible exact KeepsOut.fault
    | with_reducible exact KeepsOut.refused
    | with_reducible apply atInstr_keeps
    | with_reducible apply State.instrFault_keeps
    | with_reducible apply State.put_keeps
    | (with_reducible apply Keeps.ite) <;> intro _
    | split

theorem State.checks_keeps {s0 : State} {s : State} {i : Issue} {cs : List (Bool × Nat)} {k : State} (hs : Keeps s0 s) (hk : Keeps s0 k) :
    Keeps s0 (State.checks s i cs k) := by
  unfold State.checks
  repeat' first
    | with_reducible exact hs
    | with_reducible exact hk
    | with_reducible assumption
    | (intro _)
    | with_reducible apply State.instrFault_keeps
    | split

theorem State.tests_keeps {s0 : State} {s : State} {i : Issue} {cs : List (Bool × Nat)} {k : Option State} (hs : Keeps s0 s) (hk : KeepsOpt s0 k) :
    KeepsOpt s0 (State.tests s i cs k) := by
  unfold State.tests
  repeat' first
    | with_reducible exact hs
    | with_reducible exact hk
    | with_reducible assumption
    | (intro _)
    | with_reducible apply KeepsOpt.some
    | with_reducible exact KeepsOpt.none
    | with_reducible apply State.instrFault_keeps
    | split

theorem State.tagFault_keeps {s0 : State} {s : State} {i : Issue} {cause : Nat} {tile : Nat} (hs : Keeps s0 s) :
    Keeps s0 (State.tagFault s i cause tile) := by
  unfold State.tagFault
  repeat' first
    | with_reducible exact hs
    | with_reducible assumption
    | (intro _)
    | with_reducible apply State.abandonFault_keeps
    | with_reducible apply State.bump_keeps

theorem State.formatFault_keeps {s0 : State} {s : State} {i : Issue} {cause : Nat} {addr : Nat} {wform : Nat} {book : Option HeldCodebook} (hs : Keeps s0 s) :
    Keeps s0 (State.formatFault s i cause addr wform book) := by
  unfold State.formatFault
  repeat' first
    | with_reducible exact hs
    | with_reducible assumption
    | (intro _)
    | with_reducible apply State.bump_keeps
    | with_reducible apply State.abandonFault_keeps
    | with_reducible apply State.traceRepair_keeps
    | with_reducible apply State.haltFault_keeps
    | split

theorem State.onTiles_keeps {s0 : State} {s : State} {i : Issue} {n : Nat} {f : Tile → Option Nat} {waits : Bool} {k : Option State} (hs : Keeps s0 s) (hk : KeepsOpt s0 k) :
    KeepsOpt s0 (State.onTiles s i n f waits k) := by
  unfold State.onTiles
  repeat' first
    | with_reducible exact hs
    | with_reducible exact hk
    | with_reducible assumption
    | (intro _)
    | with_reducible apply KeepsOpt.some
    | with_reducible exact KeepsOpt.none
    | with_reducible apply State.tagFault_keeps
    | (with_reducible apply KeepsOpt.ite) <;> intro _
    | split

end Sys2Proof.Machine
end

