-- ==== Sys2Proof/Laws/KeepsMessages.lean ====
section
/-!
SUPPORT. What the operations of Machine/Messages.lean keep: one lemma for each that gives a state.
-/

namespace Sys2Proof.Machine

theorem State.send_keeps {s0 : State} {s : State} {r : Route} {bytes : List Byte} {extra : List (Nat × Byte × Byte)} (hs : Keeps s0 s) :
    Keeps s0 (State.send s r bytes extra) := by
  unfold State.send
  repeat' first
    | with_reducible exact hs
    | with_reducible assumption
    | (intro _)
    | split
    | fail_if_no_progress ((with_reducible refine Keeps.upd ?_ ?_ ?_ ?_ ?_) <;> [skip; rfl; rfl; rfl; rfl])

theorem State.takeMsg_keeps {s0 : State} {s : State} {src : Nat} {dst : Nat} {res0 : (MeshMsg × State)} (e : State.takeMsg s src dst = some res0) (hs : Keeps s0 s) :
    Keeps s0 res0.2 := by
  revert e
  unfold State.takeMsg
  intro e
  try dsimp only at e
  (repeat' split at e) <;> first
    | (cases e; done)
    | (cases e
       repeat' first
         | with_reducible exact hs
         | with_reducible assumption
         | (intro _)
         | split
         | fail_if_no_progress ((with_reducible refine Keeps.upd ?_ ?_ ?_ ?_ ?_) <;> [skip; rfl; rfl; rfl; rfl]))

theorem State.takeMsg_keeps_pair {s0 : State} {s : State} {src : Nat} {dst : Nat} {o0 : MeshMsg} {t0 : State}
    (e : State.takeMsg s src dst = some (o0, t0)) (hs : Keeps s0 s) :
    Keeps s0 t0 := State.takeMsg_keeps e hs

theorem State.refuse_keeps {s0 : State} {s : State} {r : Route} {w : DWord} {cause : Nat} (hs : Keeps s0 s) :
    Keeps s0 (State.refuse s r w cause) := by
  unfold State.refuse
  repeat' first
    | with_reducible exact hs
    | with_reducible assumption
    | (intro _)
    | with_reducible apply State.send_keeps

theorem State.acceptWrite_keeps {s0 : State} {s : State} {m : MeshMsg} {r : Route} (hs : Keeps s0 s) :
    Keeps s0 (State.acceptWrite s m r) := by
  unfold State.acceptWrite
  repeat' first
    | with_reducible exact hs
    | with_reducible assumption
    | (intro _)
    | with_reducible apply State.countUp_keeps
    | with_reducible apply State.setGlade_keeps

theorem execMessageArrival_keeps {s0 : State} {src : BitVec 10} {dst : BitVec 10} {s : State} (hs : Keeps s0 s) :
    KeepsOut s0 (execMessageArrival src dst s) := by
  unfold execMessageArrival
  repeat' first
    | with_reducible exact hs
    | with_reducible assumption
    | (intro _)
    | with_reducible apply KeepsOut.next
    | with_reducible exact KeepsOut.fault
    | with_reducible exact KeepsOut.refused
    | refine State.takeMsg_keeps (by assumption) ?_
    | refine State.takeMsg_keeps_pair (by assumption) ?_
    | with_reducible apply State.refuse_keeps
    | with_reducible apply State.acceptWrite_keeps
    | (with_reducible apply KeepsOut.ite) <;> intro _
    | split

theorem execRefusalArrival_keeps {s0 : State} {src : BitVec 10} {dst : BitVec 10} {s : State} (hs : Keeps s0 s) :
    KeepsOut s0 (execRefusalArrival src dst s) := by
  unfold execRefusalArrival
  repeat' first
    | with_reducible exact hs
    | with_reducible assumption
    | (intro _)
    | with_reducible apply KeepsOut.next
    | with_reducible exact KeepsOut.fault
    | with_reducible exact KeepsOut.refused
    | refine State.takeMsg_keeps (by assumption) ?_
    | refine State.takeMsg_keeps_pair (by assumption) ?_
    | with_reducible apply State.bump_keeps
    | with_reducible apply State.countUp_keeps
    | with_reducible apply State.setGlade_keeps
    | with_reducible apply State.plotFault_keeps
    | (with_reducible apply KeepsOut.ite) <;> intro _
    | split

end Sys2Proof.Machine
end

