-- ==== Sys2Proof/Laws/KeepsBole.lean ====
section
/-!
SUPPORT. What the operations of Machine/Bole.lean keep: one lemma for each that gives a state.
-/

namespace Sys2Proof.Machine

theorem atBole_keeps {s0 : State} {noCount : Bool} {aformZero : Bool} {rsv : List (Nat × Nat)} {more : Issue → Nat → State → List (Bool × Nat)} {k : Issue → Nat → State → Grove → Nat → Option State} {i : Issue} {n : Nat} {s : State} (hk : ∀ x0 x1 x2 x3 x4, Keeps s0 x2 → KeepsOpt s0 (k x0 x1 x2 x3 x4)) (hs : Keeps s0 s) :
    KeepsOpt s0 (atBole noCount aformZero rsv more k i n s) := by
  unfold atBole
  repeat' first
    | with_reducible exact hk
    | with_reducible exact hs
    | with_reducible apply hk
    | with_reducible assumption
    | (intro _)
    | with_reducible apply KeepsOpt.some
    | with_reducible exact KeepsOpt.none
    | with_reducible apply State.tests_keeps

theorem State.boleDone_keeps {s0 : State} {s : State} {i : Issue} {gv : Nat} {b : Bole} (hs : Keeps s0 s) :
    Keeps s0 (State.boleDone s i gv b) := by
  unfold State.boleDone
  repeat' first
    | with_reducible exact hs
    | with_reducible assumption
    | (intro _)
    | with_reducible apply State.pendCount_keeps
    | with_reducible apply State.setGrove_keeps
    | with_reducible apply State.put_keeps

theorem boleLdw_keeps {s0 : State} {i : Issue} {n : Nat} {s : State} (hs : Keeps s0 s) :
    KeepsOpt s0 (boleLdw i n s) := by
  unfold boleLdw
  repeat' first
    | with_reducible exact hs
    | with_reducible assumption
    | (intro _)
    | with_reducible apply KeepsOpt.some
    | with_reducible exact KeepsOpt.none
    | with_reducible apply atBole_keeps
    | with_reducible apply State.boleDone_keeps
    | refine KeepsOpt.keeps ?_ _ (by assumption)
    | (with_reducible apply KeepsOpt.ite) <;> intro _

theorem boleMm_keeps {s0 : State} {i : Issue} {n : Nat} {s : State} (hs : Keeps s0 s) :
    KeepsOpt s0 (boleMm i n s) := by
  unfold boleMm
  repeat' first
    | with_reducible exact hs
    | with_reducible assumption
    | (intro _)
    | with_reducible apply KeepsOpt.some
    | with_reducible exact KeepsOpt.none
    | with_reducible apply atBole_keeps
    | with_reducible apply State.tagFault_keeps
    | with_reducible apply State.pendLayer_keeps
    | with_reducible apply State.boleDone_keeps
    | refine KeepsOpt.keeps ?_ _ (by assumption)
    | (with_reducible apply KeepsOpt.ite) <;> intro _
    | split
    | dsimp only

theorem boleEw_keeps {s0 : State} {i : Issue} {n : Nat} {s : State} (hs : Keeps s0 s) :
    KeepsOpt s0 (boleEw i n s) := by
  unfold boleEw
  repeat' first
    | with_reducible exact hs
    | with_reducible assumption
    | (intro _)
    | with_reducible apply KeepsOpt.some
    | with_reducible exact KeepsOpt.none
    | with_reducible apply atBole_keeps
    | with_reducible apply State.tagFault_keeps
    | with_reducible apply State.pendLayer_keeps
    | with_reducible apply State.boleDone_keeps
    | refine KeepsOpt.keeps ?_ _ (by assumption)
    | split
    | dsimp only

theorem boleOutRows_keeps {s0 : State} {i : Issue} {o : OutDesc} {gv : Nat} {row0 : Nat} {drow0 : Nat} {a6 : List Nat} {a7 : State} (ha7 : Keeps s0 a7) :
    Keeps s0 (boleOutRows i o gv row0 drow0 a6 a7) := by
  induction a6 generalizing a7 with
  | nil =>
    unfold boleOutRows
    repeat' first
      | with_reducible exact ha7
  | cons x xs ih =>
    unfold boleOutRows
    repeat' first
      | with_reducible exact ha7
      | with_reducible exact ih
      | with_reducible assumption
      | (intro _)
      | with_reducible apply ih
      | with_reducible apply State.setGrove_keeps
      | with_reducible apply State.setGlade_keeps
      | with_reducible apply State.send_keeps
      | with_reducible apply State.pendLayer_keeps
      | split
      | fail_if_no_progress ((with_reducible refine Keeps.upd ?_ ?_ ?_ ?_ ?_) <;> [skip; rfl; rfl; rfl; rfl])
      | dsimp only

theorem boleOut_keeps {s0 : State} {i : Issue} {n : Nat} {s : State} (hs : Keeps s0 s) :
    KeepsOpt s0 (boleOut i n s) := by
  unfold boleOut
  repeat' first
    | with_reducible exact hs
    | with_reducible assumption
    | (intro _)
    | with_reducible apply KeepsOpt.some
    | with_reducible exact KeepsOpt.none
    | with_reducible apply atBole_keeps
    | with_reducible apply State.tagFault_keeps
    | with_reducible apply boleOutRows_keeps
    | with_reducible apply State.boleDone_keeps
    | refine KeepsOpt.keeps ?_ _ (by assumption)
    | split
    | dsimp only

theorem boleSelw_keeps {s0 : State} {i : Issue} {n : Nat} {s : State} (hs : Keeps s0 s) :
    KeepsOpt s0 (boleSelw i n s) := by
  unfold boleSelw
  repeat' first
    | with_reducible exact hs
    | with_reducible assumption
    | (intro _)
    | with_reducible apply KeepsOpt.some
    | with_reducible exact KeepsOpt.none
    | with_reducible apply atBole_keeps
    | with_reducible apply State.boleDone_keeps
    | with_reducible apply State.setGlade_keeps

end Sys2Proof.Machine
end

