-- ==== Sys2Proof/Laws/KeepsGraft.lean ====
section
/-!
SUPPORT. What the operations of Machine/Graft.lean keep: one lemma for each that gives a state.
-/

namespace Sys2Proof.Machine

theorem grfUpd_keeps {s0 : State} {i : Issue} {n : Nat} {s : State} (hs : Keeps s0 s) :
    KeepsOpt s0 (grfUpd i n s) := by
  unfold grfUpd
  repeat' first
    | with_reducible exact hs
    | with_reducible assumption
    | (intro _)
    | with_reducible apply KeepsOpt.some
    | with_reducible exact KeepsOpt.none
    | with_reducible apply State.tests_keeps
    | with_reducible apply State.formatFault_keeps
    | with_reducible apply State.put_keeps
    | with_reducible apply State.pendCount_keeps
    | with_reducible apply State.onTiles_keeps
    | refine KeepsOpt.keeps ?_ _ (by assumption)
    | (with_reducible apply Keeps.ite) <;> intro _
    | (with_reducible apply KeepsOpt.ite) <;> intro _
    | split

end Sys2Proof.Machine
end

