-- ==== Sys2Proof/Laws/KeepsProducts.lean ====
section
/-!
SUPPORT. What the operations of Machine/Products.lean keep: one lemma for each that gives a state.
-/

namespace Sys2Proof.Machine

theorem State.spuChecks_keeps {s0 : State} {s : State} {i : Issue} {d : LayerDesc} {rows : Nat} {xEnd : Nat} {yEnd : Nat} {more : List (Bool × Nat)} {k : Option State} (hs : Keeps s0 s) (hk : KeepsOpt s0 k) :
    KeepsOpt s0 (State.spuChecks s i d rows xEnd yEnd more k) := by
  unfold State.spuChecks
  repeat' first
    | with_reducible exact hs
    | with_reducible exact hk
    | with_reducible assumption
    | (intro _)
    | with_reducible apply KeepsOpt.some
    | with_reducible exact KeepsOpt.none
    | with_reducible apply State.tests_keeps

theorem State.spuCounts_keeps {s0 : State} {s : State} {i : Issue} {d : LayerDesc} {rows : Nat} {st : SpuRun} (hs : Keeps s0 s) :
    Keeps s0 (State.spuCounts s i d rows st) := by
  unfold State.spuCounts
  repeat' first
    | with_reducible exact hs
    | with_reducible assumption
    | (intro _)
    | with_reducible apply State.pendCount_keeps
    | with_reducible apply State.pendLayer_keeps

theorem spuEw_keeps {s0 : State} {i : Issue} {n : Nat} {s : State} (hs : Keeps s0 s) :
    KeepsOpt s0 (spuEw i n s) := by
  unfold spuEw
  repeat' first
    | with_reducible exact hs
    | with_reducible assumption
    | (intro _)
    | with_reducible apply KeepsOpt.some
    | with_reducible exact KeepsOpt.none
    | with_reducible apply State.spuChecks_keeps
    | with_reducible apply State.onTiles_keeps
    | with_reducible apply State.spuCounts_keeps
    | with_reducible apply State.put_keeps

theorem State.spuOuter_keeps {s0 : State} {s : State} {i : Issue} {d : LayerDesc} {n : Nat} {k : SpuKind} (hs : Keeps s0 s) :
    KeepsOpt s0 (State.spuOuter s i d n k) := by
  unfold State.spuOuter
  repeat' first
    | with_reducible exact hs
    | with_reducible assumption
    | (intro _)
    | with_reducible apply KeepsOpt.some
    | with_reducible exact KeepsOpt.none
    | with_reducible apply State.onTiles_keeps
    | with_reducible apply State.spuCounts_keeps
    | with_reducible apply State.put_keeps

theorem spuOp_keeps {s0 : State} {i : Issue} {n : Nat} {s : State} (hs : Keeps s0 s) :
    KeepsOpt s0 (spuOp i n s) := by
  unfold spuOp
  repeat' first
    | with_reducible exact hs
    | with_reducible assumption
    | (intro _)
    | with_reducible apply KeepsOpt.some
    | with_reducible exact KeepsOpt.none
    | with_reducible apply State.spuChecks_keeps
    | with_reducible apply State.spuOuter_keeps

theorem spuGm_keeps {s0 : State} {i : Issue} {n : Nat} {s : State} (hs : Keeps s0 s) :
    KeepsOpt s0 (spuGm i n s) := by
  unfold spuGm
  repeat' first
    | with_reducible exact hs
    | with_reducible assumption
    | (intro _)
    | with_reducible apply KeepsOpt.some
    | with_reducible exact KeepsOpt.none
    | with_reducible apply State.spuChecks_keeps
    | with_reducible apply State.formatFault_keeps
    | with_reducible apply State.spuOuter_keeps
    | refine KeepsOpt.keeps ?_ _ (by assumption)
    | split

end Sys2Proof.Machine
end

