-- ==== Sys2Proof/Laws/KeepsThicket.lean ====
section
/-!
SUPPORT. What the operations of Machine/Thicket.lean keep: one lemma for each that gives a state.
-/

namespace Sys2Proof.Machine

theorem State.loadTile_keeps {s0 : State} {s : State} {i : Issue} {gl : Glade} {t : WeightTile} {src : Nat} {len : Nat} (hs : Keeps s0 s) :
    Keeps s0 (State.loadTile s i gl t src len) := by
  unfold State.loadTile
  repeat' first
    | with_reducible exact hs
    | with_reducible assumption
    | (intro _)
    | with_reducible apply State.bump_keeps
    | with_reducible apply State.pendCount_keeps
    | with_reducible apply State.put_keeps

theorem thkLdw_keeps {s0 : State} {i : Issue} {n : Nat} {s : State} (hs : Keeps s0 s) :
    KeepsOpt s0 (thkLdw i n s) := by
  unfold thkLdw
  repeat' first
    | with_reducible exact hs
    | with_reducible assumption
    | (intro _)
    | with_reducible apply KeepsOpt.some
    | with_reducible exact KeepsOpt.none
    | with_reducible apply State.tests_keeps
    | with_reducible apply State.formatFault_keeps
    | with_reducible apply State.loadTile_keeps
    | with_reducible apply State.instrFault_keeps
    | with_reducible apply State.pendCount_keeps
    | refine KeepsOpt.keeps ?_ _ (by assumption)
    | (with_reducible apply KeepsOpt.ite) <;> intro _
    | split

theorem pendUnder_keeps {s0 : State} {p : Nat} {a2 : List (Nat × Nat)} {a3 : State} (ha3 : Keeps s0 a3) :
    Keeps s0 (pendUnder p a2 a3) := by
  induction a2 generalizing a3 with
  | nil =>
    unfold pendUnder
    repeat' first
      | with_reducible exact ha3
  | cons x xs ih =>
    unfold pendUnder
    repeat' first
      | with_reducible exact ha3
      | with_reducible exact ih
      | with_reducible assumption
      | (intro _)
      | with_reducible apply ih
      | with_reducible apply State.pendLayer_keeps

theorem State.mmHashed_keeps {s0 : State} {s : State} {i : Issue} {a : MmArgs} {w : WeightTile} {vecs : Nat} {gl : Glade} (hs : Keeps s0 s) :
    Keeps s0 (State.mmHashed s i a w vecs gl) := by
  unfold State.mmHashed
  repeat' first
    | with_reducible exact hs
    | with_reducible assumption
    | (intro _)
    | with_reducible apply State.tagFault_keeps
    | with_reducible apply State.abandonFault_keeps
    | with_reducible apply State.setGlade_keeps
    | with_reducible apply State.pendCount_keeps
    | with_reducible apply State.pendLayer_keeps
    | with_reducible apply State.put_keeps
    | (with_reducible apply Keeps.ite) <;> intro _
    | split

theorem thkMm_keeps {s0 : State} {i : Issue} {n : Nat} {s : State} (hs : Keeps s0 s) :
    KeepsOpt s0 (thkMm i n s) := by
  unfold thkMm
  repeat' first
    | with_reducible exact hs
    | with_reducible assumption
    | (intro _)
    | with_reducible apply KeepsOpt.some
    | with_reducible exact KeepsOpt.none
    | with_reducible apply State.tests_keeps
    | with_reducible apply State.mmHashed_keeps
    | with_reducible apply State.onTiles_keeps
    | with_reducible apply pendUnder_keeps
    | with_reducible apply State.put_keeps
    | refine KeepsOpt.keeps ?_ _ (by assumption)
    | (with_reducible apply KeepsOpt.ite) <;> intro _

theorem State.fence_keeps {s0 : State} {s : State} {i : Issue} {n : Nat} {tags : Tags} (hs : Keeps s0 s) :
    Keeps s0 (State.fence s i n tags) := by
  unfold State.fence
  repeat' first
    | with_reducible exact hs
    | with_reducible assumption
    | (intro _)
    | with_reducible apply State.drawBool_keeps
    | refine State.drawBool_keeps_pair (by assumption) ?_
    | with_reducible apply State.pendCount_keeps
    | (with_reducible apply Keeps.ite) <;> intro _

theorem countStaged_keeps {s0 : State} {g : Nat} {a2 : List StagedItem} {a3 : State} (ha3 : Keeps s0 a3) :
    Keeps s0 (countStaged g a2 a3) := by
  induction a2 generalizing a3 with
  | nil =>
    unfold countStaged
    repeat' first
      | with_reducible exact ha3
  | cons x xs ih =>
    unfold countStaged
    repeat' first
      | with_reducible exact ha3
      | with_reducible exact ih
      | with_reducible assumption
      | (intro _)
      | with_reducible apply ih
      | with_reducible apply State.countUp_keeps

theorem State.applyBatch_keeps {s0 : State} {s : State} {g : Nat} {t : Nat} (hs : Keeps s0 s) :
    Keeps s0 (State.applyBatch s g t) := by
  unfold State.applyBatch
  repeat' first
    | with_reducible exact hs
    | with_reducible assumption
    | (intro _)
    | with_reducible apply countStaged_keeps
    | with_reducible apply State.setGlade_keeps
    | (with_reducible apply Keeps.ite) <;> intro _
    | split
    | fail_if_no_progress ((with_reducible refine Keeps.upd ?_ ?_ ?_ ?_ ?_) <;> [skip; rfl; rfl; rfl; rfl])
    | dsimp only

theorem applyBatches_keeps {s0 : State} {g : Nat} {t : Nat} {a3 : List Nat} {a4 : State} (ha4 : Keeps s0 a4) :
    Keeps s0 (applyBatches g t a3 a4) := by
  induction a3 generalizing a4 with
  | nil =>
    unfold applyBatches
    repeat' first
      | with_reducible exact ha4
  | cons x xs ih =>
    unfold applyBatches
    repeat' first
      | with_reducible exact ha4
      | with_reducible exact ih
      | with_reducible assumption
      | (intro _)
      | with_reducible apply ih
      | with_reducible apply State.applyBatch_keeps

theorem accOpen_keeps {s0 : State} {i : Issue} {n : Nat} {s : State} (hs : Keeps s0 s) :
    KeepsOpt s0 (accOpen i n s) := by
  unfold accOpen
  repeat' first
    | with_reducible exact hs
    | with_reducible assumption
    | (intro _)
    | with_reducible apply KeepsOpt.some
    | with_reducible exact KeepsOpt.none
    | with_reducible apply State.tests_keeps
    | with_reducible apply State.leaseFault_keeps
    | with_reducible apply State.tagFault_keeps
    | with_reducible apply applyBatches_keeps
    | with_reducible apply State.put_keeps
    | with_reducible apply State.fence_keeps
    | refine KeepsOpt.keeps ?_ _ (by assumption)
    | (with_reducible apply KeepsOpt.ite) <;> intro _
    | split

theorem accLoad_keeps {s0 : State} {i : Issue} {n : Nat} {s : State} (hs : Keeps s0 s) :
    KeepsOpt s0 (accLoad i n s) := by
  unfold accLoad
  repeat' first
    | with_reducible exact hs
    | with_reducible assumption
    | (intro _)
    | with_reducible apply KeepsOpt.some
    | with_reducible exact KeepsOpt.none
    | with_reducible apply State.tests_keeps
    | with_reducible apply State.tagFault_keeps
    | with_reducible apply State.put_keeps
    | with_reducible apply State.fence_keeps
    | refine KeepsOpt.keeps ?_ _ (by assumption)
    | split

theorem accSave_keeps {s0 : State} {i : Issue} {n : Nat} {s : State} (hs : Keeps s0 s) :
    KeepsOpt s0 (accSave i n s) := by
  unfold accSave
  repeat' first
    | with_reducible exact hs
    | with_reducible assumption
    | (intro _)
    | with_reducible apply KeepsOpt.some
    | with_reducible exact KeepsOpt.none
    | with_reducible apply State.tests_keeps
    | with_reducible apply State.onTiles_keeps
    | with_reducible apply State.put_keeps

theorem chainAdd_keeps {s0 : State} {i : Issue} {n : Nat} {s : State} (hs : Keeps s0 s) :
    KeepsOpt s0 (chainAdd i n s) := by
  unfold chainAdd
  repeat' first
    | with_reducible exact hs
    | with_reducible assumption
    | (intro _)
    | with_reducible apply KeepsOpt.some
    | with_reducible exact KeepsOpt.none
    | with_reducible apply State.tests_keeps
    | with_reducible apply State.onTiles_keeps
    | with_reducible apply State.put_keeps

theorem sendTiles_keeps {s0 : State} {mk : Nat → Route × List Byte} {a2 : List Nat} {a3 : State} (ha3 : Keeps s0 a3) :
    Keeps s0 (sendTiles mk a2 a3) := by
  induction a2 generalizing a3 with
  | nil =>
    unfold sendTiles
    repeat' first
      | with_reducible exact ha3
  | cons x xs ih =>
    unfold sendTiles
    repeat' first
      | with_reducible exact ha3
      | with_reducible exact ih
      | with_reducible assumption
      | (intro _)
      | with_reducible apply ih
      | with_reducible apply State.send_keeps

theorem chainSend_keeps {s0 : State} {i : Issue} {n : Nat} {s : State} (hs : Keeps s0 s) :
    KeepsOpt s0 (chainSend i n s) := by
  unfold chainSend
  repeat' first
    | with_reducible exact hs
    | with_reducible assumption
    | (intro _)
    | with_reducible apply KeepsOpt.some
    | with_reducible exact KeepsOpt.none
    | with_reducible apply State.tests_keeps
    | with_reducible apply State.onTiles_keeps
    | with_reducible apply sendTiles_keeps
    | with_reducible apply State.put_keeps

theorem atomAdd_keeps {s0 : State} {i : Issue} {n : Nat} {s : State} (hs : Keeps s0 s) :
    KeepsOpt s0 (atomAdd i n s) := by
  unfold atomAdd
  repeat' first
    | with_reducible exact hs
    | with_reducible assumption
    | (intro _)
    | with_reducible apply KeepsOpt.some
    | with_reducible exact KeepsOpt.none
    | with_reducible apply State.tests_keeps
    | with_reducible apply State.onTiles_keeps
    | with_reducible apply sendTiles_keeps
    | with_reducible apply State.put_keeps

theorem State.targetFault_keeps {s0 : State} {s : State} {g : Nat} {tile : Nat} {cause : Nat} {src : Nat} {plot : Nat} {rank : Option (BitVec 16)} (hs : Keeps s0 s) :
    Keeps s0 (State.targetFault s g tile cause src plot rank) := by
  unfold State.targetFault
  repeat' first
    | with_reducible exact hs
    | with_reducible assumption
    | (intro _)
    | with_reducible apply State.bump_keeps
    | with_reducible apply State.abandonFault_keeps
    | (with_reducible apply Keeps.ite) <;> intro _

theorem State.contribute_keeps {s0 : State} {s : State} {g : Nat} {t : Nat} {bytes : List Byte} {ctr : Nat} {plot : Nat} {rank : Option (BitVec 16)} (hs : Keeps s0 s) :
    Keeps s0 (State.contribute s g t bytes ctr plot rank) := by
  unfold State.contribute
  repeat' first
    | with_reducible exact hs
    | with_reducible assumption
    | (intro _)
    | with_reducible apply State.targetFault_keeps
    | with_reducible apply State.countUp_keeps
    | with_reducible apply State.pendCount_keeps
    | with_reducible apply State.setGlade_keeps
    | with_reducible apply State.applyBatch_keeps
    | (with_reducible apply Keeps.ite) <;> intro _
    | split
    | fail_if_no_progress ((with_reducible refine Keeps.upd ?_ ?_ ?_ ?_ ?_) <;> [skip; rfl; rfl; rfl; rfl])
    | dsimp only

theorem accHcfg_keeps {s0 : State} {i : Issue} {n : Nat} {s : State} (hs : Keeps s0 s) :
    KeepsOpt s0 (accHcfg i n s) := by
  unfold accHcfg
  repeat' first
    | with_reducible exact hs
    | with_reducible assumption
    | (intro _)
    | with_reducible apply KeepsOpt.some
    | with_reducible exact KeepsOpt.none
    | with_reducible apply State.tests_keeps
    | with_reducible apply State.tagFault_keeps
    | with_reducible apply State.put_keeps
    | with_reducible apply State.fence_keeps
    | refine KeepsOpt.keeps ?_ _ (by assumption)
    | (with_reducible apply KeepsOpt.ite) <;> intro _
    | split

theorem accHdrn_keeps {s0 : State} {i : Issue} {n : Nat} {s : State} (hs : Keeps s0 s) :
    KeepsOpt s0 (accHdrn i n s) := by
  unfold accHdrn
  repeat' first
    | with_reducible exact hs
    | with_reducible assumption
    | (intro _)
    | with_reducible apply KeepsOpt.some
    | with_reducible exact KeepsOpt.none
    | with_reducible apply State.tests_keeps
    | with_reducible apply State.tagFault_keeps
    | with_reducible apply State.abandonFault_keeps
    | with_reducible apply State.setGlade_keeps
    | with_reducible apply State.put_keeps
    | refine KeepsOpt.keeps ?_ _ (by assumption)
    | (with_reducible apply KeepsOpt.ite) <;> intro _
    | split

theorem outRows_keeps {s0 : State} {i : Issue} {o : OutDesc} {row0 : Nat} {a4 : List Nat} {a5 : State} (ha5 : Keeps s0 a5) :
    Keeps s0 (outRows i o row0 a4 a5) := by
  induction a4 generalizing a5 with
  | nil =>
    unfold outRows
    repeat' first
      | with_reducible exact ha5
  | cons x xs ih =>
    unfold outRows
    repeat' first
      | with_reducible exact ha5
      | with_reducible exact ih
      | with_reducible assumption
      | (intro _)
      | with_reducible apply ih
      | with_reducible apply State.setGlade_keeps
      | with_reducible apply State.send_keeps
      | with_reducible apply State.pendLayer_keeps
      | (with_reducible apply Keeps.ite) <;> intro _

theorem outOp_keeps {s0 : State} {i : Issue} {n : Nat} {s : State} (hs : Keeps s0 s) :
    KeepsOpt s0 (outOp i n s) := by
  unfold outOp
  repeat' first
    | with_reducible exact hs
    | with_reducible assumption
    | (intro _)
    | with_reducible apply KeepsOpt.some
    | with_reducible exact KeepsOpt.none
    | with_reducible apply State.tests_keeps
    | with_reducible apply State.onTiles_keeps
    | with_reducible apply outRows_keeps
    | with_reducible apply State.put_keeps

end Sys2Proof.Machine
end

