-- ==== Sys2Proof/Laws/KeepsEngineQueue.lean ====
section
/-!
SUPPORT. What the operations of Machine/EngineQueue.lean keep: one lemma for each that gives a state.
-/

namespace Sys2Proof.Machine

theorem engineOp_keeps {s0 : State} {op : Nat} {i : Issue} {n : Nat} {s : State} (hs : Keeps s0 s) :
    KeepsOpt s0 (engineOp op i n s) := by
  unfold engineOp
  repeat' first
    | with_reducible exact hs
    | with_reducible assumption
    | (intro _)
    | with_reducible apply KeepsOpt.some
    | with_reducible exact KeepsOpt.none
    | with_reducible apply thkLdw_keeps
    | with_reducible apply thkMm_keeps
    | with_reducible apply accOpen_keeps
    | with_reducible apply accLoad_keeps
    | with_reducible apply chainAdd_keeps
    | with_reducible apply chainSend_keeps
    | with_reducible apply atomAdd_keeps
    | with_reducible apply accHcfg_keeps
    | with_reducible apply accHdrn_keeps
    | with_reducible apply accSave_keeps
    | with_reducible apply outOp_keeps
    | with_reducible apply grfUpd_keeps
    | with_reducible apply spuEw_keeps
    | with_reducible apply spuOp_keeps
    | with_reducible apply spuGm_keeps
    | with_reducible apply boleLdw_keeps
    | with_reducible apply boleMm_keeps
    | with_reducible apply boleEw_keeps
    | with_reducible apply boleOut_keeps
    | with_reducible apply boleSelw_keeps
    | refine KeepsOpt.keeps ?_ _ (by assumption)
    | split

theorem State.nextEngine_keeps {s0 : State} {s : State} {g : Nat} {a3 : List QueuedInstr} {a4 : List QueuedInstr} (hs : Keeps s0 s) :
    KeepsOpt s0 (State.nextEngine s g a3 a4) := by
  induction a4 generalizing a3 with
  | nil =>
    unfold State.nextEngine
    repeat' first
      | with_reducible exact hs
      | with_reducible exact ih
      | with_reducible assumption
      | (intro _)
      | with_reducible apply ih
      | with_reducible apply KeepsOpt.some
      | with_reducible exact KeepsOpt.none
  | cons x xs ih =>
    unfold State.nextEngine
    repeat' first
      | with_reducible exact hs
      | with_reducible exact ih
      | with_reducible assumption
      | (intro _)
      | with_reducible apply ih
      | with_reducible apply KeepsOpt.some
      | with_reducible exact KeepsOpt.none
      | with_reducible apply engineOp_keeps
      | with_reducible apply State.engine_keeps
      | with_reducible apply State.setGlade_keeps
      | refine KeepsOpt.keeps ?_ _ (by assumption)
      | (with_reducible apply KeepsOpt.ite) <;> intro _
      | split

theorem drainEngine_keeps {s0 : State} {g : Nat} {a2 : Nat} {a3 : State} (ha3 : Keeps s0 a3) :
    Keeps s0 (drainEngine g a2 a3) := by
  induction a2 generalizing a3 with
  | zero =>
    unfold drainEngine
    repeat' first
      | with_reducible exact ha3
  | succ k ih =>
    unfold drainEngine
    repeat' first
      | with_reducible exact ha3
      | with_reducible exact ih
      | with_reducible assumption
      | (intro _)
      | with_reducible apply ih
      | with_reducible apply State.engine_keeps
      | with_reducible apply State.nextEngine_keeps
      | refine KeepsOpt.keeps ?_ _ (by assumption)
      | split

theorem State.engineOn_keeps {s0 : State} {s : State} {g : Nat} (hs : Keeps s0 s) :
    Keeps s0 (State.engineOn s g) := by
  unfold State.engineOn
  repeat' first
    | with_reducible exact hs
    | with_reducible assumption
    | (intro _)
    | with_reducible apply drainEngine_keeps

theorem State.engine_keeps {s0 : State} {s : State} {i : Issue} {n : Nat} (hs : Keeps s0 s) :
    Keeps s0 (State.engine s i n) := by
  unfold State.engine
  repeat' first
    | with_reducible exact hs
    | with_reducible assumption
    | (intro _)
    | with_reducible apply State.put_keeps
    | with_reducible apply engineOp_keeps
    | with_reducible apply State.engineOn_keeps
    | refine KeepsOpt.keeps ?_ _ (by assumption)
    | (with_reducible apply Keeps.ite) <;> intro _
    | split

theorem atQueueIf_keeps {s0 : State} {s : State} {g : BitVec 10} {op : Nat} {ok : Issue → Bool} (hs : Keeps s0 s) :
    KeepsOut s0 (atQueueIf s g op ok) := by
  unfold atQueueIf
  repeat' first
    | with_reducible exact hs
    | with_reducible assumption
    | (intro _)
    | with_reducible apply KeepsOut.next
    | with_reducible exact KeepsOut.fault
    | with_reducible exact KeepsOut.refused
    | with_reducible apply atEngine_keeps
    | with_reducible apply State.engine_keeps
    | (with_reducible apply Keeps.ite) <;> intro _

theorem atQueue_keeps {s0 : State} {s : State} {g : BitVec 10} {op : Nat} (hs : Keeps s0 s) :
    KeepsOut s0 (atQueue s g op) := by
  unfold atQueue
  repeat' first
    | with_reducible exact hs
    | with_reducible assumption
    | (intro _)
    | with_reducible apply KeepsOut.next
    | with_reducible exact KeepsOut.fault
    | with_reducible exact KeepsOut.refused
    | with_reducible apply atQueueIf_keeps

theorem execThkLdw_keeps {s0 : State} {g : BitVec 10} {s : State} (hs : Keeps s0 s) :
    KeepsOut s0 (execThkLdw g s) := by
  unfold execThkLdw
  repeat' first
    | with_reducible exact hs
    | with_reducible assumption
    | (intro _)
    | with_reducible apply KeepsOut.next
    | with_reducible exact KeepsOut.fault
    | with_reducible exact KeepsOut.refused
    | with_reducible apply atQueue_keeps

theorem execThkMm_keeps {s0 : State} {g : BitVec 10} {s : State} (hs : Keeps s0 s) :
    KeepsOut s0 (execThkMm g s) := by
  unfold execThkMm
  repeat' first
    | with_reducible exact hs
    | with_reducible assumption
    | (intro _)
    | with_reducible apply KeepsOut.next
    | with_reducible exact KeepsOut.fault
    | with_reducible exact KeepsOut.refused
    | with_reducible apply atQueue_keeps

theorem execAccOpen_keeps {s0 : State} {g : BitVec 10} {s : State} (hs : Keeps s0 s) :
    KeepsOut s0 (execAccOpen g s) := by
  unfold execAccOpen
  repeat' first
    | with_reducible exact hs
    | with_reducible assumption
    | (intro _)
    | with_reducible apply KeepsOut.next
    | with_reducible exact KeepsOut.fault
    | with_reducible exact KeepsOut.refused
    | with_reducible apply atQueue_keeps

theorem execAccLoad_keeps {s0 : State} {g : BitVec 10} {s : State} (hs : Keeps s0 s) :
    KeepsOut s0 (execAccLoad g s) := by
  unfold execAccLoad
  repeat' first
    | with_reducible exact hs
    | with_reducible assumption
    | (intro _)
    | with_reducible apply KeepsOut.next
    | with_reducible exact KeepsOut.fault
    | with_reducible exact KeepsOut.refused
    | with_reducible apply atQueue_keeps

theorem execChainAdd_keeps {s0 : State} {g : BitVec 10} {s : State} (hs : Keeps s0 s) :
    KeepsOut s0 (execChainAdd g s) := by
  unfold execChainAdd
  repeat' first
    | with_reducible exact hs
    | with_reducible assumption
    | (intro _)
    | with_reducible apply KeepsOut.next
    | with_reducible exact KeepsOut.fault
    | with_reducible exact KeepsOut.refused
    | with_reducible apply atQueue_keeps

theorem execChainSend_keeps {s0 : State} {g : BitVec 10} {s : State} (hs : Keeps s0 s) :
    KeepsOut s0 (execChainSend g s) := by
  unfold execChainSend
  repeat' first
    | with_reducible exact hs
    | with_reducible assumption
    | (intro _)
    | with_reducible apply KeepsOut.next
    | with_reducible exact KeepsOut.fault
    | with_reducible exact KeepsOut.refused
    | with_reducible apply atQueue_keeps

theorem execAtomAdd_keeps {s0 : State} {g : BitVec 10} {s : State} (hs : Keeps s0 s) :
    KeepsOut s0 (execAtomAdd g s) := by
  unfold execAtomAdd
  repeat' first
    | with_reducible exact hs
    | with_reducible assumption
    | (intro _)
    | with_reducible apply KeepsOut.next
    | with_reducible exact KeepsOut.fault
    | with_reducible exact KeepsOut.refused
    | with_reducible apply atQueue_keeps

theorem execAccHcfg_keeps {s0 : State} {g : BitVec 10} {s : State} (hs : Keeps s0 s) :
    KeepsOut s0 (execAccHcfg g s) := by
  unfold execAccHcfg
  repeat' first
    | with_reducible exact hs
    | with_reducible assumption
    | (intro _)
    | with_reducible apply KeepsOut.next
    | with_reducible exact KeepsOut.fault
    | with_reducible exact KeepsOut.refused
    | with_reducible apply atQueue_keeps

theorem execAccHdrn_keeps {s0 : State} {g : BitVec 10} {s : State} (hs : Keeps s0 s) :
    KeepsOut s0 (execAccHdrn g s) := by
  unfold execAccHdrn
  repeat' first
    | with_reducible exact hs
    | with_reducible assumption
    | (intro _)
    | with_reducible apply KeepsOut.next
    | with_reducible exact KeepsOut.fault
    | with_reducible exact KeepsOut.refused
    | with_reducible apply atQueue_keeps

theorem execAccSave_keeps {s0 : State} {g : BitVec 10} {s : State} (hs : Keeps s0 s) :
    KeepsOut s0 (execAccSave g s) := by
  unfold execAccSave
  repeat' first
    | with_reducible exact hs
    | with_reducible assumption
    | (intro _)
    | with_reducible apply KeepsOut.next
    | with_reducible exact KeepsOut.fault
    | with_reducible exact KeepsOut.refused
    | with_reducible apply atQueue_keeps

theorem execOutTile_keeps {s0 : State} {g : BitVec 10} {s : State} (hs : Keeps s0 s) :
    KeepsOut s0 (execOutTile g s) := by
  unfold execOutTile
  repeat' first
    | with_reducible exact hs
    | with_reducible assumption
    | (intro _)
    | with_reducible apply KeepsOut.next
    | with_reducible exact KeepsOut.fault
    | with_reducible exact KeepsOut.refused
    | with_reducible apply atQueue_keeps

theorem execGrfUpd_keeps {s0 : State} {g : BitVec 10} {s : State} (hs : Keeps s0 s) :
    KeepsOut s0 (execGrfUpd g s) := by
  unfold execGrfUpd
  repeat' first
    | with_reducible exact hs
    | with_reducible assumption
    | (intro _)
    | with_reducible apply KeepsOut.next
    | with_reducible exact KeepsOut.fault
    | with_reducible exact KeepsOut.refused
    | with_reducible apply atQueueIf_keeps

theorem execGrfUpdHold_keeps {s0 : State} {g : BitVec 10} {s : State} (hs : Keeps s0 s) :
    KeepsOut s0 (execGrfUpdHold g s) := by
  unfold execGrfUpdHold
  repeat' first
    | with_reducible exact hs
    | with_reducible assumption
    | (intro _)
    | with_reducible apply KeepsOut.next
    | with_reducible exact KeepsOut.fault
    | with_reducible exact KeepsOut.refused
    | with_reducible apply atQueueIf_keeps

theorem execSpuEw_keeps {s0 : State} {g : BitVec 10} {s : State} (hs : Keeps s0 s) :
    KeepsOut s0 (execSpuEw g s) := by
  unfold execSpuEw
  repeat' first
    | with_reducible exact hs
    | with_reducible assumption
    | (intro _)
    | with_reducible apply KeepsOut.next
    | with_reducible exact KeepsOut.fault
    | with_reducible exact KeepsOut.refused
    | with_reducible apply atQueue_keeps

theorem execSpuOp_keeps {s0 : State} {g : BitVec 10} {s : State} (hs : Keeps s0 s) :
    KeepsOut s0 (execSpuOp g s) := by
  unfold execSpuOp
  repeat' first
    | with_reducible exact hs
    | with_reducible assumption
    | (intro _)
    | with_reducible apply KeepsOut.next
    | with_reducible exact KeepsOut.fault
    | with_reducible exact KeepsOut.refused
    | with_reducible apply atQueue_keeps

theorem execSpuGm_keeps {s0 : State} {g : BitVec 10} {s : State} (hs : Keeps s0 s) :
    KeepsOut s0 (execSpuGm g s) := by
  unfold execSpuGm
  repeat' first
    | with_reducible exact hs
    | with_reducible assumption
    | (intro _)
    | with_reducible apply KeepsOut.next
    | with_reducible exact KeepsOut.fault
    | with_reducible exact KeepsOut.refused
    | with_reducible apply atQueue_keeps

theorem execBoleLdw_keeps {s0 : State} {g : BitVec 10} {s : State} (hs : Keeps s0 s) :
    KeepsOut s0 (execBoleLdw g s) := by
  unfold execBoleLdw
  repeat' first
    | with_reducible exact hs
    | with_reducible assumption
    | (intro _)
    | with_reducible apply KeepsOut.next
    | with_reducible exact KeepsOut.fault
    | with_reducible exact KeepsOut.refused
    | with_reducible apply atQueue_keeps

theorem execBoleMm_keeps {s0 : State} {g : BitVec 10} {s : State} (hs : Keeps s0 s) :
    KeepsOut s0 (execBoleMm g s) := by
  unfold execBoleMm
  repeat' first
    | with_reducible exact hs
    | with_reducible assumption
    | (intro _)
    | with_reducible apply KeepsOut.next
    | with_reducible exact KeepsOut.fault
    | with_reducible exact KeepsOut.refused
    | with_reducible apply atQueue_keeps

theorem execBoleEw_keeps {s0 : State} {g : BitVec 10} {s : State} (hs : Keeps s0 s) :
    KeepsOut s0 (execBoleEw g s) := by
  unfold execBoleEw
  repeat' first
    | with_reducible exact hs
    | with_reducible assumption
    | (intro _)
    | with_reducible apply KeepsOut.next
    | with_reducible exact KeepsOut.fault
    | with_reducible exact KeepsOut.refused
    | with_reducible apply atQueue_keeps

theorem execBoleOut_keeps {s0 : State} {g : BitVec 10} {s : State} (hs : Keeps s0 s) :
    KeepsOut s0 (execBoleOut g s) := by
  unfold execBoleOut
  repeat' first
    | with_reducible exact hs
    | with_reducible assumption
    | (intro _)
    | with_reducible apply KeepsOut.next
    | with_reducible exact KeepsOut.fault
    | with_reducible exact KeepsOut.refused
    | with_reducible apply atQueue_keeps

theorem execBoleSelw_keeps {s0 : State} {g : BitVec 10} {s : State} (hs : Keeps s0 s) :
    KeepsOut s0 (execBoleSelw g s) := by
  unfold execBoleSelw
  repeat' first
    | with_reducible exact hs
    | with_reducible assumption
    | (intro _)
    | with_reducible apply KeepsOut.next
    | with_reducible exact KeepsOut.fault
    | with_reducible exact KeepsOut.refused
    | with_reducible apply atQueue_keeps

theorem execAtomicContributionArrival_keeps {s0 : State} {src : BitVec 10} {dst : BitVec 10} {s : State} (hs : Keeps s0 s) :
    KeepsOut s0 (execAtomicContributionArrival src dst s) := by
  unfold execAtomicContributionArrival
  repeat' first
    | with_reducible exact hs
    | with_reducible assumption
    | (intro _)
    | with_reducible apply KeepsOut.next
    | with_reducible exact KeepsOut.fault
    | with_reducible exact KeepsOut.refused
    | refine State.takeMsg_keeps (by assumption) ?_
    | refine State.takeMsg_keeps_pair (by assumption) ?_
    | with_reducible apply State.refuse_keeps
    | with_reducible apply State.engineOn_keeps
    | with_reducible apply State.contribute_keeps
    | (with_reducible apply KeepsOut.ite) <;> intro _
    | split

end Sys2Proof.Machine
end

