-- ==== Sys2Proof/Laws/KeepsFabric.lean ====
section
/-!
SUPPORT. What the operations of Machine/Fabric.lean keep: one lemma for each that gives a state.
-/

namespace Sys2Proof.Machine

theorem State.routeFault_keeps {s0 : State} {s : State} {p : Option Nat} {g : Option Nat} {cause : Nat} {dst : BitVec 24} (hs : Keeps s0 s) :
    Keeps s0 (State.routeFault s p g cause dst) := by
  unfold State.routeFault
  repeat' first
    | with_reducible exact hs
    | with_reducible assumption
    | (intro _)
    | with_reducible apply State.raise_keeps
    | with_reducible apply State.bump_keeps

theorem State.linkFault_keeps {s0 : State} {s : State} {port : Nat} {src : BitVec 24} (hs : Keeps s0 s) :
    Keeps s0 (State.linkFault s port src) := by
  unfold State.linkFault
  repeat' first
    | with_reducible exact hs
    | with_reducible assumption
    | (intro _)
    | with_reducible apply State.raise_keeps
    | with_reducible apply State.bump_keeps

theorem State.askResend_keeps {s0 : State} {s : State} {port : Nat} {m : FabMsg} (hs : Keeps s0 s) :
    Keeps s0 (State.askResend s port m) := by
  unfold State.askResend
  repeat' first
    | with_reducible exact hs
    | with_reducible assumption
    | (intro _)
    | with_reducible apply State.sendItem_keeps
    | (with_reducible apply Keeps.ite) <;> intro _
    | split
    | fail_if_no_progress ((with_reducible refine Keeps.upd ?_ ?_ ?_ ?_ ?_) <;> [skip; rfl; rfl; rfl; rfl])

theorem State.fabWrite_keeps {s0 : State} {s : State} {m : FabMsg} {bytes : List Byte} (hs : Keeps s0 s) :
    Keeps s0 (State.fabWrite s m bytes) := by
  unfold State.fabWrite
  repeat' first
    | with_reducible exact hs
    | with_reducible assumption
    | (intro _)
    | with_reducible apply State.engineOn_keeps
    | with_reducible apply State.contribute_keeps
    | with_reducible apply State.setGlade_keeps
    | with_reducible apply State.devWriteQuiet_keeps
    | with_reducible apply State.countUp_keeps
    | (with_reducible apply Keeps.ite) <;> intro _
    | split
    | fail_if_no_progress ((with_reducible refine Keeps.upd ?_ ?_ ?_ ?_ ?_) <;> [skip; rfl; rfl; rfl; rfl])

theorem State.acceptFab_keeps {s0 : State} {s : State} {port : Nat} {m : FabMsg} (hs : Keeps s0 s) :
    Keeps s0 (State.acceptFab s port m) := by
  unfold State.acceptFab
  repeat' first
    | with_reducible exact hs
    | with_reducible assumption
    | (intro _)
    | with_reducible apply State.linkFault_keeps
    | with_reducible apply State.bump_keeps
    | with_reducible apply State.plotFault_keeps
    | with_reducible apply State.fabWrite_keeps
    | with_reducible apply State.askResend_keeps
    | (with_reducible apply Keeps.ite) <;> intro _
    | split
    | fail_if_no_progress ((with_reducible refine Keeps.upd ?_ ?_ ?_ ?_ ?_) <;> [skip; rfl; rfl; rfl; rfl])
    | dsimp only

theorem State.forVersion1_keeps {s0 : State} {s : State} {m : FabMsg} (hs : Keeps s0 s) :
    Keeps s0 (State.forVersion1 s m).2 := by
  unfold State.forVersion1
  repeat' first
    | with_reducible exact hs
    | with_reducible assumption
    | (intro _)
    | with_reducible apply State.drawBytes_keeps
    | refine State.drawBytes_keeps_pair (by assumption) ?_
    | (with_reducible apply Keeps.iteSnd) <;> intro _

theorem State.forVersion1_keeps_pair {s0 : State} {s : State} {m : FabMsg} {o0 : Option FabMsg} {t0 : State}
    (e : State.forVersion1 s m = (o0, t0)) (hs : Keeps s0 s) :
    Keeps s0 t0 := by
  have h := State.forVersion1_keeps (s0 := s0) (s := s) (m := m) hs
  rw [e] at h
  exact h

theorem State.forwardVersion1_keeps {s0 : State} {s : State} {p : Nat} {m : FabMsg} {item : Item} (hs : Keeps s0 s) :
    Keeps s0 (State.forwardVersion1 s p m item) := by
  unfold State.forwardVersion1
  repeat' first
    | with_reducible exact hs
    | with_reducible assumption
    | (intro _)
    | with_reducible apply State.routeFault_keeps
    | with_reducible apply State.sendItem_keeps
    | with_reducible apply State.linkFault_keeps
    | refine State.forVersion1_keeps_pair (by assumption) ?_
    | (with_reducible apply Keeps.ite) <;> intro _
    | split

theorem State.forward_keeps {s0 : State} {s : State} {m : FabMsg} {item : Item} (hs : Keeps s0 s) :
    Keeps s0 (State.forward s m item) := by
  unfold State.forward
  repeat' first
    | with_reducible exact hs
    | with_reducible assumption
    | (intro _)
    | with_reducible apply State.routeFault_keeps
    | with_reducible apply State.sendItem_keeps
    | with_reducible apply State.forwardVersion1_keeps
    | split

theorem State.fireBreak_keeps {s0 : State} {s : State} {m : FabMsg} (hs : Keeps s0 s) :
    Keeps s0 (State.fireBreak s m) := by
  unfold State.fireBreak
  repeat' first
    | with_reducible exact hs
    | with_reducible assumption
    | (intro _)
    | with_reducible apply State.bump_keeps
    | split
    | fail_if_no_progress ((with_reducible refine Keeps.upd ?_ ?_ ?_ ?_ ?_) <;> [skip; rfl; rfl; rfl; rfl])

theorem execFabricMessageArrival_keeps {s0 : State} {p : BitVec 3} {item : List Byte} {s : State} (hs : Keeps s0 s) :
    KeepsOut s0 (execFabricMessageArrival p item s) := by
  unfold execFabricMessageArrival
  repeat' first
    | with_reducible exact hs
    | with_reducible assumption
    | (intro _)
    | with_reducible apply KeepsOut.next
    | with_reducible exact KeepsOut.fault
    | with_reducible exact KeepsOut.refused
    | with_reducible apply onItem_keeps
    | with_reducible apply State.setPort_keeps
    | with_reducible apply State.fireBreak_keeps
    | with_reducible apply State.forward_keeps
    | with_reducible apply State.acceptFab_keeps
    | (with_reducible apply Keeps.ite) <;> intro _

theorem State.pickForm_keeps {s0 : State} {s : State} {n : Nat} (hs : Keeps s0 s) :
    Keeps s0 (State.pickForm s n).2 := by
  unfold State.pickForm
  repeat' first
    | with_reducible exact hs
    | with_reducible assumption
    | (intro _)
    | with_reducible apply State.draw_keeps
    | refine State.draw_keeps_pair (by assumption) ?_
    | split
    | fail_if_no_progress ((with_reducible refine Keeps.upd ?_ ?_ ?_ ?_ ?_) <;> [skip; rfl; rfl; rfl; rfl])
    | dsimp only

theorem State.pickForm_keeps_pair {s0 : State} {s : State} {n : Nat} {o0 : Option (Nat × Nat)} {t0 : State}
    (e : State.pickForm s n = (o0, t0)) (hs : Keeps s0 s) :
    Keeps s0 t0 := by
  have h := State.pickForm_keeps (s0 := s0) (s := s) (n := n) hs
  rw [e] at h
  exact h

theorem State.keepSend_keeps {s0 : State} {s : State} {k : KeptSend} (hs : Keeps s0 s) :
    Keeps s0 (State.keepSend s k) := by
  unfold State.keepSend
  repeat' first
    | with_reducible exact hs
    | with_reducible assumption
    | (intro _)
    | split
    | fail_if_no_progress ((with_reducible refine Keeps.upd ?_ ?_ ?_ ?_ ?_) <;> [skip; rfl; rfl; rfl; rfl])

theorem State.markResent_keeps {s0 : State} {s : State} {xslot : Nat} {mslot : Nat} {tstep : Nat} {dst : BitVec 24} (hs : Keeps s0 s) :
    Keeps s0 (State.markResent s xslot mslot tstep dst) := by
  unfold State.markResent
  repeat' first
    | with_reducible exact hs
    | with_reducible assumption
    | (intro _)
    | split
    | fail_if_no_progress ((with_reducible refine Keeps.upd ?_ ?_ ?_ ?_ ?_) <;> [skip; rfl; rfl; rfl; rfl])

theorem State.launchSelf_keeps {s0 : State} {s : State} {m : FabMsg} (hs : Keeps s0 s) :
    Keeps s0 (State.launchSelf s m) := by
  unfold State.launchSelf
  repeat' first
    | with_reducible exact hs
    | with_reducible assumption
    | (intro _)
    | with_reducible apply State.acceptFab_keeps
    | with_reducible apply State.bump_keeps
    | with_reducible apply State.markResent_keeps
    | (with_reducible apply Keeps.ite) <;> intro _

theorem State.launch_keeps {s0 : State} {s : State} {port : Option Nat} {m : FabMsg} (hs : Keeps s0 s) :
    Keeps s0 (State.launch s port m) := by
  unfold State.launch
  repeat' first
    | with_reducible exact hs
    | with_reducible assumption
    | (intro _)
    | with_reducible apply State.forwardVersion1_keeps
    | with_reducible apply State.sendItem_keeps
    | with_reducible apply State.launchSelf_keeps
    | (with_reducible apply Keeps.ite) <;> intro _
    | split

theorem State.finishSend_keeps {s0 : State} {s : State} {k : KeptSend} {ctr : Nat} {src : List Byte} (hs : Keeps s0 s) :
    Keeps s0 (State.finishSend s k ctr src) := by
  unfold State.finishSend
  repeat' first
    | with_reducible exact hs
    | with_reducible assumption
    | (intro _)
    | with_reducible apply State.routeFault_keeps
    | with_reducible apply State.bump_keeps
    | with_reducible apply State.launch_keeps
    | with_reducible apply State.countUp_keeps
    | with_reducible apply State.keepSend_keeps
    | (with_reducible apply Keeps.ite) <;> intro _
    | split

theorem State.addTransfer_keeps {s0 : State} {s : State} {g : Nat} {t : Transfer} (hs : Keeps s0 s) :
    Keeps s0 (State.addTransfer s g t) := by
  unfold State.addTransfer
  repeat' first
    | with_reducible exact hs
    | with_reducible assumption
    | (intro _)
    | with_reducible apply State.setGlade_keeps

theorem State.fabSend_keeps {s0 : State} {s : State} {i : Issue} (hs : Keeps s0 s) :
    Keeps s0 (State.fabSend s i) := by
  unfold State.fabSend
  repeat' first
    | with_reducible exact hs
    | with_reducible assumption
    | (intro _)
    | with_reducible apply State.instrFault_keeps
    | with_reducible apply State.leaseFault_keeps
    | with_reducible apply State.routeFault_keeps
    | with_reducible apply State.pickForm_keeps
    | refine State.pickForm_keeps_pair (by assumption) ?_
    | with_reducible apply State.formatFault_keeps
    | with_reducible apply State.setGlade_keeps
    | with_reducible apply State.touchReadOn_keeps
    | with_reducible apply State.addTransfer_keeps
    | with_reducible apply State.finishSend_keeps
    | (with_reducible apply Keeps.ite) <;> intro _
    | split

theorem State.passRequest_keeps {s0 : State} {s : State} {p : Nat} {w0 : DWord} {w1 : DWord} (hs : Keeps s0 s) :
    Keeps s0 (State.passRequest s p w0 w1) := by
  unfold State.passRequest
  repeat' first
    | with_reducible exact hs
    | with_reducible assumption
    | (intro _)
    | with_reducible apply State.draw_keeps
    | refine State.draw_keeps_pair (by assumption) ?_
    | with_reducible apply State.sendItem_keeps
    | (with_reducible apply Keeps.ite) <;> intro _

theorem execResendRequest_keeps {s0 : State} {p : BitVec 3} {w0 : BitVec 64} {w1 : BitVec 64} {s : State} (hs : Keeps s0 s) :
    KeepsOut s0 (execResendRequest p w0 w1 s) := by
  unfold execResendRequest
  repeat' first
    | with_reducible exact hs
    | with_reducible assumption
    | (intro _)
    | with_reducible apply KeepsOut.next
    | with_reducible exact KeepsOut.fault
    | with_reducible exact KeepsOut.refused
    | with_reducible apply onItem_keeps
    | with_reducible apply State.setPort_keeps
    | with_reducible apply State.passRequest_keeps
    | with_reducible apply State.markResent_keeps
    | with_reducible apply State.addTransfer_keeps
    | with_reducible apply State.finishSend_keeps
    | (with_reducible apply Keeps.ite) <;> intro _
    | split

end Sys2Proof.Machine
end

