-- ==== Sys2Proof/Laws/KeepsTransfer.lean ====
section
/-!
SUPPORT. What the operations of Machine/Transfer.lean keep: one lemma for each that gives a state.
-/

namespace Sys2Proof.Machine

theorem State.startSend_keeps {s0 : State} {s : State} {i : Issue} (hs : Keeps s0 s) :
    Keeps s0 (State.startSend s i) := by
  unfold State.startSend
  repeat' first
    | with_reducible exact hs
    | with_reducible assumption
    | (intro _)
    | with_reducible apply State.send_keeps

theorem State.startMem_keeps {s0 : State} {s : State} {i : Issue} {write : Bool} {addr : Nat} {table : Nat} (hs : Keeps s0 s) :
    Keeps s0 (State.startMem s i write addr table) := by
  unfold State.startMem
  repeat' first
    | with_reducible exact hs
    | with_reducible assumption
    | (intro _)
    | with_reducible apply State.addTransfer_keeps
    | with_reducible apply State.touchReadOn_keeps
    | (with_reducible apply Keeps.ite) <;> intro _

theorem State.startTransfer_keeps {s0 : State} {s : State} {g : Nat} {q : QueuedInstr} (hs : Keeps s0 s) :
    Keeps s0 (State.startTransfer s g q) := by
  unfold State.startTransfer
  repeat' first
    | with_reducible exact hs
    | with_reducible assumption
    | (intro _)
    | with_reducible apply State.startSend_keeps
    | with_reducible apply State.startMem_keeps
    | with_reducible apply State.fabSend_keeps
    | split

theorem drainQueue_keeps {s0 : State} {g : Nat} {a2 : Nat} {a3 : State} (ha3 : Keeps s0 a3) :
    Keeps s0 (drainQueue g a2 a3) := by
  induction a2 generalizing a3 with
  | zero =>
    unfold drainQueue
    repeat' first
      | with_reducible exact ha3
  | succ k ih =>
    unfold drainQueue
    repeat' first
      | with_reducible exact ha3
      | with_reducible exact ih
      | with_reducible assumption
      | (intro _)
      | with_reducible apply ih
      | with_reducible apply State.setGlade_keeps
      | with_reducible apply State.startTransfer_keeps
      | (with_reducible apply Keeps.ite) <;> intro _
      | split
      | fail_if_no_progress ((with_reducible refine Keeps.upd ?_ ?_ ?_ ?_ ?_) <;> [skip; rfl; rfl; rfl; rfl])
      | dsimp only

theorem State.toQueue_keeps {s0 : State} {s : State} {i : Issue} {args : List DWord} (hs : Keeps s0 s) :
    Keeps s0 (State.toQueue s i args) := by
  unfold State.toQueue
  repeat' first
    | with_reducible exact hs
    | with_reducible assumption
    | (intro _)
    | with_reducible apply drainQueue_keeps
    | with_reducible apply State.setGlade_keeps
    | (with_reducible apply Keeps.ite) <;> intro _

theorem execMsgSend_keeps {s0 : State} {g : BitVec 10} {s : State} (hs : Keeps s0 s) :
    KeepsOut s0 (execMsgSend g s) := by
  unfold execMsgSend
  repeat' first
    | with_reducible exact hs
    | with_reducible assumption
    | (intro _)
    | with_reducible apply KeepsOut.next
    | with_reducible exact KeepsOut.fault
    | with_reducible exact KeepsOut.refused
    | with_reducible apply atInstr_keeps
    | with_reducible apply State.instrFault_keeps
    | with_reducible apply State.toQueue_keeps
    | (with_reducible apply Keeps.ite) <;> intro _

theorem State.memChecks_keeps {s0 : State} {s : State} {i : Issue} {write : Bool} {k : Nat → Nat → State} (hs : Keeps s0 s) (hk : ∀ x0 x1, Keeps s0 (k x0 x1)) :
    Keeps s0 (State.memChecks s i write k) := by
  unfold State.memChecks
  repeat' first
    | with_reducible exact hs
    | with_reducible exact hk
    | with_reducible apply hk
    | with_reducible assumption
    | (intro _)
    | with_reducible apply State.checks_keeps

theorem execMemRd_keeps {s0 : State} {g : BitVec 10} {s : State} (hs : Keeps s0 s) :
    KeepsOut s0 (execMemRd g s) := by
  unfold execMemRd
  repeat' first
    | with_reducible exact hs
    | with_reducible assumption
    | (intro _)
    | with_reducible apply KeepsOut.next
    | with_reducible exact KeepsOut.fault
    | with_reducible exact KeepsOut.refused
    | with_reducible apply atInstr_keeps
    | with_reducible apply State.memChecks_keeps
    | with_reducible apply State.toQueue_keeps

theorem execMemWr_keeps {s0 : State} {g : BitVec 10} {s : State} (hs : Keeps s0 s) :
    KeepsOut s0 (execMemWr g s) := by
  unfold execMemWr
  repeat' first
    | with_reducible exact hs
    | with_reducible assumption
    | (intro _)
    | with_reducible apply KeepsOut.next
    | with_reducible exact KeepsOut.fault
    | with_reducible exact KeepsOut.refused
    | with_reducible apply atInstr_keeps
    | with_reducible apply State.memChecks_keeps
    | with_reducible apply State.leaseFault_keeps
    | with_reducible apply State.toQueue_keeps
    | split
    | fail_if_no_progress ((with_reducible refine Keeps.upd ?_ ?_ ?_ ?_ ?_) <;> [skip; rfl; rfl; rfl; rfl])
    | dsimp only

theorem execFabSend_keeps {s0 : State} {g : BitVec 10} {s : State} (hs : Keeps s0 s) :
    KeepsOut s0 (execFabSend g s) := by
  unfold execFabSend
  repeat' first
    | with_reducible exact hs
    | with_reducible assumption
    | (intro _)
    | with_reducible apply KeepsOut.next
    | with_reducible exact KeepsOut.fault
    | with_reducible exact KeepsOut.refused
    | with_reducible apply atInstr_keeps
    | with_reducible apply State.instrFault_keeps
    | with_reducible apply State.toQueue_keeps
    | (with_reducible apply Keeps.ite) <;> intro _

theorem State.setTransfer_keeps {s0 : State} {s : State} {g : Nat} {k : Nat} {t : Transfer} (hs : Keeps s0 s) :
    Keeps s0 (State.setTransfer s g k t) := by
  unfold State.setTransfer
  repeat' first
    | with_reducible exact hs
    | with_reducible assumption
    | (intro _)
    | with_reducible apply State.setGlade_keeps

theorem State.dropTransfer_keeps {s0 : State} {s : State} {g : Nat} {k : Nat} (hs : Keeps s0 s) :
    Keeps s0 (State.dropTransfer s g k) := by
  unfold State.dropTransfer
  repeat' first
    | with_reducible exact hs
    | with_reducible assumption
    | (intro _)
    | with_reducible apply State.setGlade_keeps

theorem State.memoryFault_keeps {s0 : State} {s : State} {g : Nat} {pc : Nat} {addr : Nat} (hs : Keeps s0 s) :
    Keeps s0 (State.memoryFault s g pc addr) := by
  unfold State.memoryFault
  repeat' first
    | with_reducible exact hs
    | with_reducible assumption
    | (intro _)
    | with_reducible apply State.haltFault_keeps
    | with_reducible apply State.errorAt_keeps
    | with_reducible apply State.abandonFault_keeps
    | with_reducible apply State.setPlot_keeps
    | (with_reducible apply Keeps.ite) <;> intro _
    | split
    | fail_if_no_progress ((with_reducible refine Keeps.upd ?_ ?_ ?_ ?_ ?_) <;> [skip; rfl; rfl; rfl; rfl])

theorem State.finishRead_keeps {s0 : State} {s : State} {g : Nat} {k : Nat} {t : Transfer} (hs : Keeps s0 s) :
    Keeps s0 (State.finishRead s g k t) := by
  unfold State.finishRead
  repeat' first
    | with_reducible exact hs
    | with_reducible assumption
    | (intro _)
    | with_reducible apply State.dropTransfer_keeps
    | with_reducible apply State.finishSend_keeps
    | with_reducible apply State.countUp_keeps
    | with_reducible apply State.setGlade_keeps
    | split

theorem State.failRead_keeps {s0 : State} {s : State} {g : Nat} {k : Nat} {t : Transfer} {a : Nat} (hs : Keeps s0 s) :
    Keeps s0 (State.failRead s g k t a) := by
  unfold State.failRead
  repeat' first
    | with_reducible exact hs
    | with_reducible assumption
    | (intro _)
    | with_reducible apply State.dropTransfer_keeps
    | with_reducible apply State.memoryFault_keeps
    | (with_reducible apply Keeps.ite) <;> intro _
    | split

theorem openRepairs_keeps {s0 : State} {r : Nat × Region} {a2 : List BlockRef} {a3 : State} (ha3 : Keeps s0 a3) :
    Keeps s0 (openRepairs r a2 a3) := by
  induction a2 generalizing a3 with
  | nil =>
    unfold openRepairs
    repeat' first
      | with_reducible exact ha3
  | cons x xs ih =>
    unfold openRepairs
    repeat' first
      | with_reducible exact ha3
      | with_reducible exact ih
      | with_reducible assumption
      | (intro _)
      | with_reducible apply ih
      | with_reducible apply State.bump_keeps
      | with_reducible apply State.openRepair_keeps
      | (with_reducible apply Keeps.ite) <;> intro _

theorem State.finishChecked_keeps {s0 : State} {s : State} {g : Nat} {k : Nat} {t : Transfer} {bad : List Nat} {again : List Nat} (hs : Keeps s0 s) :
    Keeps s0 (State.finishChecked s g k t bad again) := by
  unfold State.finishChecked
  repeat' first
    | with_reducible exact hs
    | with_reducible assumption
    | (intro _)
    | with_reducible apply State.failRead_keeps
    | with_reducible apply countPoisons_keeps
    | with_reducible apply State.finishRead_keeps
    | with_reducible apply openRepairs_keeps
    | with_reducible apply State.setTransfer_keeps
    | with_reducible apply State.bump_keeps
    | (with_reducible apply Keeps.ite) <;> intro _
    | split

theorem State.openMore_keeps {s0 : State} {s : State} {g : Nat} {k : Nat} {t : Transfer} {bad : List Nat} (hs : Keeps s0 s) :
    Keeps s0 (State.openMore s g k t bad) := by
  unfold State.openMore
  repeat' first
    | with_reducible exact hs
    | with_reducible assumption
    | (intro _)
    | with_reducible apply openRepairs_keeps
    | with_reducible apply State.setTransfer_keeps
    | (with_reducible apply Keeps.ite) <;> intro _
    | split

theorem State.finishPlain_keeps {s0 : State} {s : State} {g : Nat} {k : Nat} {t : Transfer} {bad : List Nat} {again : List Nat} (hs : Keeps s0 s) :
    Keeps s0 (State.finishPlain s g k t bad again) := by
  unfold State.finishPlain
  repeat' first
    | with_reducible exact hs
    | with_reducible assumption
    | (intro _)
    | with_reducible apply countPoisons_keeps
    | with_reducible apply State.finishRead_keeps
    | with_reducible apply State.failRead_keeps
    | split
    | fail_if_no_progress ((with_reducible refine Keeps.upd ?_ ?_ ?_ ?_ ?_) <;> [skip; rfl; rfl; rfl; rfl])
    | dsimp only

theorem execMemRdComplete_keeps {s0 : State} {g : BitVec 10} {k : Nat} {bad : List Nat} {again : List Nat} {s : State} (hs : Keeps s0 s) :
    KeepsOut s0 (execMemRdComplete g k bad again s) := by
  unfold execMemRdComplete
  repeat' first
    | with_reducible exact hs
    | with_reducible assumption
    | (intro _)
    | with_reducible apply KeepsOut.next
    | with_reducible exact KeepsOut.fault
    | with_reducible exact KeepsOut.refused
    | with_reducible apply State.openMore_keeps
    | with_reducible apply tellJoined_keeps
    | with_reducible apply State.setTransfer_keeps
    | with_reducible apply State.failRead_keeps
    | with_reducible apply State.finishChecked_keeps
    | with_reducible apply State.finishPlain_keeps
    | (with_reducible apply Keeps.ite) <;> intro _
    | (with_reducible apply KeepsOut.ite) <;> intro _
    | split
    | dsimp only

theorem releaseBlocks_keeps {s0 : State} {a1 : List RepairEntry} {a2 : State} (ha2 : Keeps s0 a2) :
    Keeps s0 (releaseBlocks a1 a2) := by
  induction a1 generalizing a2 with
  | nil =>
    unfold releaseBlocks
    repeat' first
      | with_reducible exact ha2
  | cons x xs ih =>
    unfold releaseBlocks
    repeat' first
      | with_reducible exact ha2
      | with_reducible exact ih
      | with_reducible assumption
      | (intro _)
      | with_reducible apply ih
      | with_reducible apply State.deliver_keeps
      | split
      | (with_reducible refine Keeps.updMem ?_ ?_ ?_ ?_ ?_) <;> [skip; exact fun h => Memory.flushLate_wf h; rfl; rfl; rfl]

theorem execMemWrComplete_keeps {s0 : State} {g : BitVec 10} {k : Nat} {s : State} (hs : Keeps s0 s) :
    KeepsOut s0 (execMemWrComplete g k s) := by
  unfold execMemWrComplete
  repeat' first
    | with_reducible exact hs
    | with_reducible assumption
    | (intro _)
    | with_reducible apply KeepsOut.next
    | with_reducible exact KeepsOut.fault
    | with_reducible exact KeepsOut.refused
    | with_reducible apply State.devWriteOn_keeps
    | with_reducible apply State.dropTransfer_keeps
    | with_reducible apply State.countUp_keeps
    | with_reducible apply releaseBlocks_keeps
    | (with_reducible apply Keeps.ite) <;> intro _
    | (with_reducible apply KeepsOut.ite) <;> intro _
    | split
    | dsimp only

theorem State.setShape_keeps {s0 : State} {s : State} {w : Nat} {value : Nat} (hs : Keeps s0 s) :
    Keeps s0 (State.setShape s w value) := by
  unfold State.setShape
  repeat' first
    | with_reducible exact hs
    | with_reducible assumption
    | (intro _)
    | with_reducible apply State.devWrite_keeps

theorem touchAll_keeps {s0 : State} {die : Option Nat} {a2 : List (Nat × Nat)} {a3 : State} (ha3 : Keeps s0 a3) :
    Keeps s0 (touchAll die a2 a3) := by
  induction a2 generalizing a3 with
  | nil =>
    unfold touchAll
    repeat' first
      | with_reducible exact ha3
  | cons x xs ih =>
    unfold touchAll
    repeat' first
      | with_reducible exact ha3
      | with_reducible exact ih
      | with_reducible assumption
      | (intro _)
      | with_reducible apply ih
      | with_reducible apply touchUnits_keeps

theorem State.engineReads_keeps {s0 : State} {s : State} {die : Option Nat} {g : Nat} {pc : Nat} {es : List (Nat × Nat)} {poison : Option (Nat × Bool)} {k : State → State} (hs : Keeps s0 s) (hk : ∀ x0, Keeps s0 x0 → Keeps s0 (k x0)) :
    Keeps s0 (State.engineReads s die g pc es poison k) := by
  unfold State.engineReads
  repeat' first
    | with_reducible exact hs
    | with_reducible exact hk
    | with_reducible apply hk
    | with_reducible assumption
    | (intro _)
    | with_reducible apply State.memoryFault_keeps
    | with_reducible apply touchAll_keeps
    | with_reducible apply State.countPoison_keeps
    | (with_reducible apply Keeps.ite) <;> intro _
    | split

theorem execShpLd_keeps {s0 : State} {g : BitVec 10} {poison : Option Bool} {s : State} (hs : Keeps s0 s) :
    KeepsOut s0 (execShpLd g poison s) := by
  unfold execShpLd
  repeat' first
    | with_reducible exact hs
    | with_reducible assumption
    | (intro _)
    | with_reducible apply KeepsOut.next
    | with_reducible exact KeepsOut.fault
    | with_reducible exact KeepsOut.refused
    | with_reducible apply atInstr_keeps
    | with_reducible apply State.instrFault_keeps
    | with_reducible apply State.whenReadable_keeps
    | with_reducible apply State.engineReads_keeps
    | with_reducible apply State.put_keeps
    | (with_reducible apply Keeps.ite) <;> intro _

theorem execShpSt_keeps {s0 : State} {g : BitVec 10} {s : State} (hs : Keeps s0 s) :
    KeepsOut s0 (execShpSt g s) := by
  unfold execShpSt
  repeat' first
    | with_reducible exact hs
    | with_reducible assumption
    | (intro _)
    | with_reducible apply KeepsOut.next
    | with_reducible exact KeepsOut.fault
    | with_reducible exact KeepsOut.refused
    | with_reducible apply atInstr_keeps
    | with_reducible apply State.form_keeps
    | with_reducible apply State.instrFault_keeps
    | with_reducible apply State.leaseFault_keeps
    | with_reducible apply State.devWriteOn_keeps
    | with_reducible apply State.put_keeps
    | (with_reducible apply Keeps.ite) <;> intro _

theorem execEngN_keeps {s0 : State} {g : BitVec 10} {s : State} (hs : Keeps s0 s) :
    KeepsOut s0 (execEngN g s) := by
  unfold execEngN
  repeat' first
    | with_reducible exact hs
    | with_reducible assumption
    | (intro _)
    | with_reducible apply KeepsOut.next
    | with_reducible exact KeepsOut.fault
    | with_reducible exact KeepsOut.refused
    | with_reducible apply atInstr_keeps
    | with_reducible apply State.form_keeps
    | with_reducible apply State.instrFault_keeps
    | with_reducible apply State.put_keeps
    | (with_reducible apply Keeps.ite) <;> intro _

theorem hintGranules_keeps {s0 : State} {r : Region} {kind : Nat} {hexp : DWord} {a4 : List Nat} {a5 : State} (ha5 : Keeps s0 a5) :
    Keeps s0 (hintGranules r kind hexp a4 a5) := by
  induction a4 generalizing a5 with
  | nil =>
    unfold hintGranules
    repeat' first
      | with_reducible exact ha5
  | cons x xs ih =>
    unfold hintGranules
    repeat' first
      | with_reducible exact ha5
      | with_reducible exact ih
      | with_reducible assumption
      | (intro _)
      | with_reducible apply ih
      | with_reducible apply State.hintGranule_keeps

theorem execMemHint_keeps {s0 : State} {g : BitVec 10} {s : State} (hs : Keeps s0 s) :
    KeepsOut s0 (execMemHint g s) := by
  unfold execMemHint
  repeat' first
    | with_reducible exact hs
    | with_reducible assumption
    | (intro _)
    | with_reducible apply KeepsOut.next
    | with_reducible exact KeepsOut.fault
    | with_reducible exact KeepsOut.refused
    | with_reducible apply atInstr_keeps
    | with_reducible apply State.form_keeps
    | with_reducible apply State.instrFault_keeps
    | with_reducible apply State.put_keeps
    | with_reducible apply State.leaseFault_keeps
    | with_reducible apply hintGranules_keeps
    | (with_reducible apply Keeps.ite) <;> intro _
    | split

end Sys2Proof.Machine
end

