-- ==== Sys2Proof/Laws/KeepsCanopy.lean ====
section
/-!
SUPPORT. What the operations of Machine/Canopy.lean keep: one lemma for each that gives a state.
-/

namespace Sys2Proof.Machine

theorem State.setCanopy_keeps {s0 : State} {s : State} {gv : Nat} {c : Canopy} (hs : Keeps s0 s) :
    Keeps s0 (State.setCanopy s gv c) := by
  unfold State.setCanopy
  repeat' first
    | with_reducible exact hs
    | with_reducible assumption
    | (intro _)
    | with_reducible apply State.setGrove_keeps

theorem State.ifCurrent_keeps {s0 : State} {s : State} {i : CanopyInstr} {t : State} (hs : Keeps s0 s) (ht : Keeps s0 t) :
    Keeps s0 (State.ifCurrent s i t) := by
  unfold State.ifCurrent
  repeat' first
    | with_reducible exact hs
    | with_reducible exact ht
    | with_reducible assumption
    | (intro _)
    | (with_reducible apply Keeps.ite) <;> intro _

theorem State.pendFor_keeps {s0 : State} {s : State} {i : CanopyInstr} {reg : Nat} {n : Nat} (hs : Keeps s0 s) :
    Keeps s0 (State.pendFor s i reg n) := by
  unfold State.pendFor
  repeat' first
    | with_reducible exact hs
    | with_reducible assumption
    | (intro _)
    | with_reducible apply State.ifCurrent_keeps
    | with_reducible apply State.pendCount_keeps

theorem State.layerFor_keeps {s0 : State} {s : State} {i : CanopyInstr} {layer : Nat} {sat : Nat} {zc : Nat} {under : Nat} (hs : Keeps s0 s) :
    Keeps s0 (State.layerFor s i layer sat zc under) := by
  unfold State.layerFor
  repeat' first
    | with_reducible exact hs
    | with_reducible assumption
    | (intro _)
    | with_reducible apply State.ifCurrent_keeps
    | with_reducible apply State.pendLayer_keeps

theorem State.countFor_keeps {s0 : State} {s : State} {i : CanopyInstr} {c : Nat} (hs : Keeps s0 s) :
    Keeps s0 (State.countFor s i c) := by
  unfold State.countFor
  repeat' first
    | with_reducible exact hs
    | with_reducible assumption
    | (intro _)
    | with_reducible apply State.ifCurrent_keeps
    | with_reducible apply State.countUp_keeps

theorem State.tellRow_keeps {s0 : State} {s : State} {index : Nat} {x : RowReport} (hs : Keeps s0 s) :
    Keeps s0 (State.tellRow s index x) := by
  unfold State.tellRow
  repeat' first
    | with_reducible exact hs
    | with_reducible assumption
    | (intro _)
    | with_reducible apply State.mapRows_keeps

theorem State.attFault_keeps {s0 : State} {s : State} {i : CanopyInstr} {r : LtRow} {cause : Nat} (hs : Keeps s0 s) :
    Keeps s0 (State.attFault s i r cause) := by
  unfold State.attFault
  repeat' first
    | with_reducible exact hs
    | with_reducible assumption
    | (intro _)
    | with_reducible apply State.bump_keeps
    | with_reducible apply State.ifCurrent_keeps
    | with_reducible apply State.tellRow_keeps
    | with_reducible apply State.plotFault_keeps

theorem State.attInstrFault_keeps {s0 : State} {s : State} {i : Issue} {cause : Nat} (hs : Keeps s0 s) :
    Keeps s0 (State.attInstrFault s i cause) := by
  unfold State.attInstrFault
  repeat' first
    | with_reducible exact hs
    | with_reducible assumption
    | (intro _)
    | with_reducible apply State.stopFault_keeps
    | with_reducible apply State.bump_keeps

theorem issueCanopy_keeps {s0 : State} {s : State} {g : BitVec 10} {app : Bool} (hs : Keeps s0 s) :
    KeepsOut s0 (issueCanopy s g app) := by
  unfold issueCanopy
  repeat' first
    | with_reducible exact hs
    | with_reducible assumption
    | (intro _)
    | with_reducible apply KeepsOut.next
    | with_reducible exact KeepsOut.fault
    | with_reducible exact KeepsOut.refused
    | with_reducible apply atEngine_keeps
    | with_reducible apply State.checks_keeps
    | with_reducible apply State.toQueue_keeps

theorem State.acceptHead_keeps {s0 : State} {s : State} {g : Nat} {gv : Nat} {i : CanopyInstr} (hs : Keeps s0 s) :
    Keeps s0 (State.acceptHead s g gv i) := by
  unfold State.acceptHead
  repeat' first
    | with_reducible exact hs
    | with_reducible assumption
    | (intro _)
    | with_reducible apply drainQueue_keeps
    | with_reducible apply State.setCanopy_keeps
    | with_reducible apply State.setGlade_keeps

theorem State.dropHead_keeps {s0 : State} {s : State} {g : Nat} (hs : Keeps s0 s) :
    Keeps s0 (State.dropHead s g) := by
  unfold State.dropHead
  repeat' first
    | with_reducible exact hs
    | with_reducible assumption
    | (intro _)
    | with_reducible apply State.setGlade_keeps

theorem State.acceptTwin_keeps {s0 : State} {s : State} {i : Issue} {ci : CanopyInstr} {gv : Nat} (hs : Keeps s0 s) :
    Keeps s0 (State.acceptTwin s i ci gv) := by
  unfold State.acceptTwin
  repeat' first
    | with_reducible exact hs
    | with_reducible assumption
    | (intro _)
    | with_reducible apply State.acceptHead_keeps
    | with_reducible apply State.setCanopy_keeps
    | with_reducible apply State.attInstrFault_keeps
    | (with_reducible apply Keeps.ite) <;> intro _
    | split

theorem execCanopyInstructionAccept_keeps {s0 : State} {g : BitVec 10} {s : State} (hs : Keeps s0 s) :
    KeepsOut s0 (execCanopyInstructionAccept g s) := by
  unfold execCanopyInstructionAccept
  repeat' first
    | with_reducible exact hs
    | with_reducible assumption
    | (intro _)
    | with_reducible apply KeepsOut.next
    | with_reducible exact KeepsOut.fault
    | with_reducible exact KeepsOut.refused
    | with_reducible apply State.leaseFault_keeps
    | with_reducible apply State.dropHead_keeps
    | with_reducible apply State.attInstrFault_keeps
    | with_reducible apply State.acceptTwin_keeps
    | with_reducible apply State.instrFault_keeps
    | (with_reducible apply KeepsOut.ite) <;> intro _
    | split
    | dsimp only

theorem State.appendToken_keeps {s0 : State} {s : State} {i : CanopyInstr} {a : AttDesc} {page : Nat} {pos : Nat} {k : List Byte} {v : List Byte} (hs : Keeps s0 s) :
    Keeps s0 (State.appendToken s i a page pos k v) := by
  unfold State.appendToken
  repeat' first
    | with_reducible exact hs
    | with_reducible assumption
    | (intro _)
    | with_reducible apply State.devWriteOn_keeps
    | with_reducible apply State.touchReadOn_keeps
    | with_reducible apply State.pendFor_keeps
    | with_reducible apply State.ifCurrent_keeps
    | (with_reducible apply Keeps.ite) <;> intro _
    | split
    | fail_if_no_progress ((with_reducible refine Keeps.upd ?_ ?_ ?_ ?_ ?_) <;> [skip; rfl; rfl; rfl; rfl])

theorem appendTokens_keeps {s0 : State} {i : CanopyInstr} {a : AttDesc} {gl : Glade} {kg : Glade} {r : LtRow} {kb : Nat} {vb : Nat} {st : Nat} {j0 : Nat} {a10 : List Nat} {a11 : State} (ha11 : Keeps s0 a11) :
    Keeps s0 (appendTokens i a gl kg r kb vb st j0 a10 a11) := by
  induction a10 generalizing a11 with
  | nil =>
    unfold appendTokens
    repeat' first
      | with_reducible exact ha11
  | cons x xs ih =>
    unfold appendTokens
    repeat' first
      | with_reducible exact ha11
      | with_reducible exact ih
      | with_reducible assumption
      | (intro _)
      | with_reducible apply ih
      | with_reducible apply State.appendToken_keeps

theorem appendRows_keeps {s0 : State} {i : CanopyInstr} {a : AttDesc} {gl : Glade} {kg : Glade} {kb : Nat} {vb : Nat} {st : Nat} {a8 : List Nat} {a9 : Nat} {a10 : State} (ha10 : Keeps s0 a10) :
    Keeps s0 (appendRows i a gl kg kb vb st a8 a9 a10) := by
  induction a8 generalizing a9 a10 with
  | nil =>
    unfold appendRows
    repeat' first
      | with_reducible exact ha10
  | cons x xs ih =>
    unfold appendRows
    repeat' first
      | with_reducible exact ha10
      | with_reducible exact ih
      | with_reducible assumption
      | (intro _)
      | with_reducible apply ih
      | with_reducible apply appendTokens_keeps
      | with_reducible apply touchAll_keeps
      | with_reducible apply State.attFault_keeps
      | split
      | fail_if_no_progress ((with_reducible refine Keeps.upd ?_ ?_ ?_ ?_ ?_) <;> [skip; rfl; rfl; rfl; rfl])
      | dsimp only

theorem State.runAppend_keeps {s0 : State} {s : State} {i : CanopyInstr} (hs : Keeps s0 s) :
    Keeps s0 (State.runAppend s i) := by
  unfold State.runAppend
  repeat' first
    | with_reducible exact hs
    | with_reducible assumption
    | (intro _)
    | with_reducible apply State.instrFault_keeps
    | with_reducible apply touchAll_keeps
    | with_reducible apply State.countFor_keeps
    | with_reducible apply appendRows_keeps
    | (with_reducible apply Keeps.ite) <;> intro _

theorem State.plbLookup_keeps {s0 : State} {s : State} {gv : Nat} {page : Nat} (hs : Keeps s0 s) :
    Keeps s0 (State.plbLookup s gv page) := by
  unfold State.plbLookup
  repeat' first
    | with_reducible exact hs
    | with_reducible assumption
    | (intro _)
    | with_reducible apply State.bump_keeps
    | with_reducible apply State.setCanopy_keeps
    | with_reducible apply State.touchReadOn_keeps
    | (with_reducible apply Keeps.ite) <;> intro _

theorem buildRounds_keeps {s0 : State} {i : CanopyInstr} {a : AttDesc} {gl : Glade} {a4 : List Nat} {a5 : Nat} {a6 : State} (ha6 : Keeps s0 a6) :
    Keeps s0 (buildRounds i a gl a4 a5 a6).2 := by
  induction a4 generalizing a5 a6 with
  | nil =>
    unfold buildRounds
    repeat' first
      | with_reducible exact ha6
  | cons x xs ih =>
    unfold buildRounds
    repeat' first
      | with_reducible exact ha6
      | with_reducible exact ih
      | with_reducible assumption
      | (intro _)
      | with_reducible apply ih
      | with_reducible apply State.attFault_keeps
      | (with_reducible apply Keeps.ite) <;> intro _
      | split

theorem buildRounds_keeps_pair {s0 : State} {i : CanopyInstr} {a : AttDesc} {gl : Glade} {a4 : List Nat} {a5 : Nat} {a6 : State} {o0 : List Round} {t0 : State}
    (e : buildRounds i a gl a4 a5 a6 = (o0, t0)) (ha6 : Keeps s0 a6) :
    Keeps s0 t0 := by
  have h := buildRounds_keeps (s0 := s0) (i := i) (a := a) (gl := gl) (a4 := a4) (a5 := a5) (a6 := a6) ha6
  rw [e] at h
  exact h

theorem issueReads_keeps {s0 : State} {gv : Nat} {a : AttDesc} {a3 : Nat} {a4 : List Round} {a5 : State} (ha5 : Keeps s0 a5) :
    Keeps s0 (issueReads gv a a3 a4 a5).2 := by
  induction a4 generalizing a3 a5 with
  | nil =>
    unfold issueReads
    repeat' first
      | with_reducible exact ha5
  | cons x xs ih =>
    unfold issueReads
    repeat' first
      | with_reducible exact ha5
      | with_reducible exact ih
      | with_reducible assumption
      | (intro _)
      | with_reducible apply ih
      | with_reducible apply State.visit_keeps
      | with_reducible apply State.touchReadOn_keeps
      | with_reducible apply State.plbLookup_keeps
      | split

theorem issueReads_keeps_pair {s0 : State} {gv : Nat} {a : AttDesc} {a3 : Nat} {a4 : List Round} {a5 : State} {o0 : List Round} {t0 : State}
    (e : issueReads gv a a3 a4 a5 = (o0, t0)) (ha5 : Keeps s0 a5) :
    Keeps s0 t0 := by
  have h := issueReads_keeps (s0 := s0) (gv := gv) (a := a) (a3 := a3) (a4 := a4) (a5 := a5) ha5
  rw [e] at h
  exact h

theorem State.readAhead_keeps {s0 : State} {s : State} {gv : Nat} (hs : Keeps s0 s) :
    Keeps s0 (State.readAhead s gv) := by
  unfold State.readAhead
  repeat' first
    | with_reducible exact hs
    | with_reducible assumption
    | (intro _)
    | with_reducible apply issueReads_keeps
    | refine issueReads_keeps_pair (by assumption) ?_
    | with_reducible apply State.setCanopy_keeps
    | (with_reducible apply Keeps.ite) <;> intro _
    | split

theorem State.writeQuery_keeps {s0 : State} {s : State} {i : CanopyInstr} {a : AttDesc} {o : OutDesc} {j : Nat} {bs : List Block} {status : Nat} (hs : Keeps s0 s) :
    Keeps s0 (State.writeQuery s i a o j bs status) := by
  unfold State.writeQuery
  repeat' first
    | with_reducible exact hs
    | with_reducible assumption
    | (intro _)
    | with_reducible apply State.setGlade_keeps
    | with_reducible apply State.send_keeps
    | with_reducible apply State.countFor_keeps
    | with_reducible apply State.pendFor_keeps
    | (with_reducible apply Keeps.ite) <;> intro _

theorem State.endQuery_keeps {s0 : State} {s : State} {run : AttRun} {q : QueryRun} {r : Round} (hs : Keeps s0 s) :
    Keeps s0 (State.endQuery s run q r) := by
  unfold State.endQuery
  repeat' first
    | with_reducible exact hs
    | with_reducible assumption
    | (intro _)
    | with_reducible apply State.writeQuery_keeps
    | with_reducible apply State.layerFor_keeps
    | with_reducible apply State.ifCurrent_keeps
    | with_reducible apply State.tellRow_keeps
    | with_reducible apply State.pendCount_keeps
    | (with_reducible apply Keeps.ite) <;> intro _

theorem State.runRound_keeps {s0 : State} {s : State} {gv : Nat} {run : AttRun} {r : Round} {q : QueryRun} {num : Nat} {item : SliceItem} (hs : Keeps s0 s) :
    Keeps s0 (State.runRound s gv run r q num item).2 := by
  unfold State.runRound
  repeat' first
    | with_reducible exact hs
    | with_reducible assumption
    | (intro _)
    | with_reducible apply State.pendFor_keeps
    | with_reducible apply State.setCanopy_keeps
    | with_reducible apply State.layerFor_keeps
    | (with_reducible apply Keeps.ite) <;> intro _
    | split

theorem State.runRound_keeps_pair {s0 : State} {s : State} {gv : Nat} {run : AttRun} {r : Round} {q : QueryRun} {num : Nat} {item : SliceItem} {o0 : QueryRun} {t0 : State}
    (e : State.runRound s gv run r q num item = (o0, t0)) (hs : Keeps s0 s) :
    Keeps s0 t0 := by
  have h := State.runRound_keeps (s0 := s0) (s := s) (gv := gv) (run := run) (r := r) (q := q) (num := num) (item := item) hs
  rw [e] at h
  exact h

theorem State.consume_keeps {s0 : State} {s : State} {gv : Nat} {own : Option SliceItem} {x : SliceItem} (hs : Keeps s0 s) :
    Keeps s0 (State.consume s gv own x) := by
  unfold State.consume
  repeat' first
    | with_reducible exact hs
    | with_reducible assumption
    | (intro _)
    | with_reducible apply State.setCanopy_keeps
    | (with_reducible apply Keeps.ite) <;> intro _
    | split
    | fail_if_no_progress ((with_reducible refine Keeps.upd ?_ ?_ ?_ ?_ ?_) <;> [skip; rfl; rfl; rfl; rfl])
    | dsimp only

theorem State.setRun_keeps {s0 : State} {s : State} {gv : Nat} {run : Option AttRun} (hs : Keeps s0 s) :
    Keeps s0 (State.setRun s gv run) := by
  unfold State.setRun
  repeat' first
    | with_reducible exact hs
    | with_reducible assumption
    | (intro _)
    | with_reducible apply State.setCanopy_keeps

theorem State.advanceOnce_keeps {s0 : State} {s : State} {gv : Nat} (hs : Keeps s0 s) :
    KeepsOpt s0 (State.advanceOnce s gv) := by
  unfold State.advanceOnce
  repeat' first
    | with_reducible exact hs
    | with_reducible assumption
    | (intro _)
    | with_reducible apply KeepsOpt.some
    | with_reducible exact KeepsOpt.none
    | with_reducible apply State.setRun_keeps
    | with_reducible apply State.pendFor_keeps
    | with_reducible apply State.writeQuery_keeps
    | with_reducible apply State.consume_keeps
    | with_reducible apply State.runRound_keeps
    | refine State.runRound_keeps_pair (by assumption) ?_
    | with_reducible apply State.attFault_keeps
    | with_reducible apply State.endQuery_keeps
    | (with_reducible apply KeepsOpt.ite) <;> intro _
    | split

theorem advance_keeps {s0 : State} {gv : Nat} {a2 : Nat} {a3 : State} (ha3 : Keeps s0 a3) :
    Keeps s0 (advance gv a2 a3) := by
  induction a2 generalizing a3 with
  | zero =>
    unfold advance
    repeat' first
      | with_reducible exact ha3
  | succ k ih =>
    unfold advance
    repeat' first
      | with_reducible exact ha3
      | with_reducible exact ih
      | with_reducible assumption
      | (intro _)
      | with_reducible apply ih
      | with_reducible apply State.advanceOnce_keeps
      | with_reducible apply State.readAhead_keeps
      | refine KeepsOpt.keeps ?_ _ (by assumption)
      | split

theorem State.advanceBoth_keeps {s0 : State} {s : State} {gv : Nat} (hs : Keeps s0 s) :
    Keeps s0 (State.advanceBoth s gv) := by
  unfold State.advanceBoth
  repeat' first
    | with_reducible exact hs
    | with_reducible assumption
    | (intro _)
    | with_reducible apply advance_keeps
    | split
    | fail_if_no_progress ((with_reducible refine Keeps.upd ?_ ?_ ?_ ?_ ?_) <;> [skip; rfl; rfl; rfl; rfl])
    | dsimp only

theorem State.startAtt_keeps {s0 : State} {s : State} {gv : Nat} {i : CanopyInstr} (hs : Keeps s0 s) :
    Keeps s0 (State.startAtt s gv i) := by
  unfold State.startAtt
  repeat' first
    | with_reducible exact hs
    | with_reducible assumption
    | (intro _)
    | with_reducible apply State.instrFault_keeps
    | with_reducible apply buildRounds_keeps
    | refine buildRounds_keeps_pair (by assumption) ?_
    | with_reducible apply touchAll_keeps
    | with_reducible apply State.pendFor_keeps
    | with_reducible apply State.readAhead_keeps
    | with_reducible apply State.setRun_keeps
    | (with_reducible apply Keeps.ite) <;> intro _

theorem runCanopy_keeps {s0 : State} {s : State} {u : BitVec 10} {app : Bool} (hs : Keeps s0 s) :
    KeepsOut s0 (runCanopy s u app) := by
  unfold runCanopy
  repeat' first
    | with_reducible exact hs
    | with_reducible assumption
    | (intro _)
    | with_reducible apply KeepsOut.next
    | with_reducible exact KeepsOut.fault
    | with_reducible exact KeepsOut.refused
    | with_reducible apply State.setCanopy_keeps
    | with_reducible apply State.whenReadable_keeps
    | with_reducible apply State.runAppend_keeps
    | with_reducible apply State.advanceBoth_keeps
    | with_reducible apply State.startAtt_keeps
    | (with_reducible apply Keeps.ite) <;> intro _
    | (with_reducible apply KeepsOut.ite) <;> intro _
    | split

theorem execCnpApp_keeps {s0 : State} {stage : Stage} {u : BitVec 10} {s : State} (hs : Keeps s0 s) :
    KeepsOut s0 (execCnpApp stage u s) := by
  unfold execCnpApp
  repeat' first
    | with_reducible exact hs
    | with_reducible assumption
    | (intro _)
    | with_reducible apply KeepsOut.next
    | with_reducible exact KeepsOut.fault
    | with_reducible exact KeepsOut.refused
    | with_reducible apply issueCanopy_keeps
    | with_reducible apply runCanopy_keeps
    | split

theorem execCnpAtt_keeps {s0 : State} {stage : Stage} {u : BitVec 10} {s : State} (hs : Keeps s0 s) :
    KeepsOut s0 (execCnpAtt stage u s) := by
  unfold execCnpAtt
  repeat' first
    | with_reducible exact hs
    | with_reducible assumption
    | (intro _)
    | with_reducible apply KeepsOut.next
    | with_reducible exact KeepsOut.fault
    | with_reducible exact KeepsOut.refused
    | with_reducible apply issueCanopy_keeps
    | with_reducible apply runCanopy_keeps
    | split

theorem State.giveItem_keeps {s0 : State} {s : State} {gv : Nat} {k : Nat} {run : AttRun} {r : Round} {x : SliceItem} (hs : Keeps s0 s) :
    Keeps s0 (State.giveItem s gv k run r x) := by
  unfold State.giveItem
  repeat' first
    | with_reducible exact hs
    | with_reducible assumption
    | (intro _)
    | with_reducible apply State.setRun_keeps
    | split

theorem execSliceReadComplete_keeps {s0 : State} {grove : BitVec 4} {k : Nat} {bad1 : Bool} {bad2 : Bool} {s : State} (hs : Keeps s0 s) :
    KeepsOut s0 (execSliceReadComplete grove k bad1 bad2 s) := by
  unfold execSliceReadComplete
  repeat' first
    | with_reducible exact hs
    | with_reducible assumption
    | (intro _)
    | with_reducible apply KeepsOut.next
    | with_reducible exact KeepsOut.fault
    | with_reducible exact KeepsOut.refused
    | with_reducible apply State.countPoison_keeps
    | with_reducible apply State.touchReadOn_keeps
    | with_reducible apply State.whenReadable_keeps
    | with_reducible apply State.advanceBoth_keeps
    | with_reducible apply State.giveItem_keeps
    | (with_reducible apply Keeps.ite) <;> intro _
    | split
    | dsimp only

theorem State.lateHint_keeps {s0 : State} {s : State} {at_ : Nat} (hs : Keeps s0 s) :
    Keeps s0 (State.lateHint s at_) := by
  unfold State.lateHint
  repeat' first
    | with_reducible exact hs
    | with_reducible assumption
    | (intro _)
    | with_reducible apply State.bump_keeps
    | with_reducible apply State.hintGranule_keeps
    | (with_reducible apply Keeps.ite) <;> intro _
    | split

theorem execLatePage_keeps {s0 : State} {grove : BitVec 4} {badDigest : Bool} {s : State} (hs : Keeps s0 s) :
    KeepsOut s0 (execLatePage grove badDigest s) := by
  unfold execLatePage
  repeat' first
    | with_reducible exact hs
    | with_reducible assumption
    | (intro _)
    | with_reducible apply KeepsOut.next
    | with_reducible exact KeepsOut.fault
    | with_reducible exact KeepsOut.refused
    | with_reducible apply State.whenReadable_keeps
    | with_reducible apply State.setRun_keeps
    | with_reducible apply State.lateHint_keeps
    | with_reducible apply State.pendFor_keeps
    | with_reducible apply State.bumpField_keeps
    | with_reducible apply State.countPoison_keeps
    | with_reducible apply State.touchReadOn_keeps
    | with_reducible apply State.advanceBoth_keeps
    | with_reducible apply State.giveItem_keeps
    | (with_reducible apply KeepsOut.ite) <;> intro _
    | split
    | dsimp only

end Sys2Proof.Machine
end

