-- ==== Sys2Proof/Laws/KeepsControl.lean ====
section
/-!
SUPPORT. What the operations of Machine/Control.lean keep: one lemma for each that gives a state.
-/

namespace Sys2Proof.Machine

theorem State.alu_keeps {s0 : State} {s : State} {i : Issue} {v : DWord} (hs : Keeps s0 s) :
    Keeps s0 (State.alu s i v) := by
  unfold State.alu
  repeat' first
    | with_reducible exact hs
    | with_reducible assumption
    | (intro _)
    | with_reducible apply State.form_keeps
    | with_reducible apply State.put_keeps

theorem execNop_keeps {s0 : State} {g : BitVec 10} {s : State} (hs : Keeps s0 s) :
    KeepsOut s0 (execNop g s) := by
  unfold execNop
  repeat' first
    | with_reducible exact hs
    | with_reducible assumption
    | (intro _)
    | with_reducible apply KeepsOut.next
    | with_reducible exact KeepsOut.fault
    | with_reducible exact KeepsOut.refused
    | with_reducible apply atInstr_keeps
    | with_reducible apply State.form_keeps
    | with_reducible apply State.put_keeps

theorem execAddOp_keeps {s0 : State} {g : BitVec 10} {s : State} (hs : Keeps s0 s) :
    KeepsOut s0 (execAddOp g s) := by
  unfold execAddOp
  repeat' first
    | with_reducible exact hs
    | with_reducible assumption
    | (intro _)
    | with_reducible apply KeepsOut.next
    | with_reducible exact KeepsOut.fault
    | with_reducible exact KeepsOut.refused
    | with_reducible apply atInstr_keeps
    | with_reducible apply State.alu_keeps

theorem execSubOp_keeps {s0 : State} {g : BitVec 10} {s : State} (hs : Keeps s0 s) :
    KeepsOut s0 (execSubOp g s) := by
  unfold execSubOp
  repeat' first
    | with_reducible exact hs
    | with_reducible assumption
    | (intro _)
    | with_reducible apply KeepsOut.next
    | with_reducible exact KeepsOut.fault
    | with_reducible exact KeepsOut.refused
    | with_reducible apply atInstr_keeps
    | with_reducible apply State.alu_keeps

theorem execAndOp_keeps {s0 : State} {g : BitVec 10} {s : State} (hs : Keeps s0 s) :
    KeepsOut s0 (execAndOp g s) := by
  unfold execAndOp
  repeat' first
    | with_reducible exact hs
    | with_reducible assumption
    | (intro _)
    | with_reducible apply KeepsOut.next
    | with_reducible exact KeepsOut.fault
    | with_reducible exact KeepsOut.refused
    | with_reducible apply atInstr_keeps
    | with_reducible apply State.alu_keeps

theorem execOrOp_keeps {s0 : State} {g : BitVec 10} {s : State} (hs : Keeps s0 s) :
    KeepsOut s0 (execOrOp g s) := by
  unfold execOrOp
  repeat' first
    | with_reducible exact hs
    | with_reducible assumption
    | (intro _)
    | with_reducible apply KeepsOut.next
    | with_reducible exact KeepsOut.fault
    | with_reducible exact KeepsOut.refused
    | with_reducible apply atInstr_keeps
    | with_reducible apply State.alu_keeps

theorem execXorOp_keeps {s0 : State} {g : BitVec 10} {s : State} (hs : Keeps s0 s) :
    KeepsOut s0 (execXorOp g s) := by
  unfold execXorOp
  repeat' first
    | with_reducible exact hs
    | with_reducible assumption
    | (intro _)
    | with_reducible apply KeepsOut.next
    | with_reducible exact KeepsOut.fault
    | with_reducible exact KeepsOut.refused
    | with_reducible apply atInstr_keeps
    | with_reducible apply State.alu_keeps

theorem execShl_keeps {s0 : State} {g : BitVec 10} {s : State} (hs : Keeps s0 s) :
    KeepsOut s0 (execShl g s) := by
  unfold execShl
  repeat' first
    | with_reducible exact hs
    | with_reducible assumption
    | (intro _)
    | with_reducible apply KeepsOut.next
    | with_reducible exact KeepsOut.fault
    | with_reducible exact KeepsOut.refused
    | with_reducible apply atInstr_keeps
    | with_reducible apply State.alu_keeps

theorem execShr_keeps {s0 : State} {g : BitVec 10} {s : State} (hs : Keeps s0 s) :
    KeepsOut s0 (execShr g s) := by
  unfold execShr
  repeat' first
    | with_reducible exact hs
    | with_reducible assumption
    | (intro _)
    | with_reducible apply KeepsOut.next
    | with_reducible exact KeepsOut.fault
    | with_reducible exact KeepsOut.refused
    | with_reducible apply atInstr_keeps
    | with_reducible apply State.alu_keeps

theorem execSha_keeps {s0 : State} {g : BitVec 10} {s : State} (hs : Keeps s0 s) :
    KeepsOut s0 (execSha g s) := by
  unfold execSha
  repeat' first
    | with_reducible exact hs
    | with_reducible assumption
    | (intro _)
    | with_reducible apply KeepsOut.next
    | with_reducible exact KeepsOut.fault
    | with_reducible exact KeepsOut.refused
    | with_reducible apply atInstr_keeps
    | with_reducible apply State.alu_keeps

theorem execSlt_keeps {s0 : State} {g : BitVec 10} {s : State} (hs : Keeps s0 s) :
    KeepsOut s0 (execSlt g s) := by
  unfold execSlt
  repeat' first
    | with_reducible exact hs
    | with_reducible assumption
    | (intro _)
    | with_reducible apply KeepsOut.next
    | with_reducible exact KeepsOut.fault
    | with_reducible exact KeepsOut.refused
    | with_reducible apply atInstr_keeps
    | with_reducible apply State.alu_keeps

theorem execSltu_keeps {s0 : State} {g : BitVec 10} {s : State} (hs : Keeps s0 s) :
    KeepsOut s0 (execSltu g s) := by
  unfold execSltu
  repeat' first
    | with_reducible exact hs
    | with_reducible assumption
    | (intro _)
    | with_reducible apply KeepsOut.next
    | with_reducible exact KeepsOut.fault
    | with_reducible exact KeepsOut.refused
    | with_reducible apply atInstr_keeps
    | with_reducible apply State.alu_keeps

theorem execAddi_keeps {s0 : State} {g : BitVec 10} {s : State} (hs : Keeps s0 s) :
    KeepsOut s0 (execAddi g s) := by
  unfold execAddi
  repeat' first
    | with_reducible exact hs
    | with_reducible assumption
    | (intro _)
    | with_reducible apply KeepsOut.next
    | with_reducible exact KeepsOut.fault
    | with_reducible exact KeepsOut.refused
    | with_reducible apply atInstr_keeps
    | with_reducible apply State.put_keeps

theorem State.loadN_keeps {s0 : State} {s : State} {i : Issue} {n : Nat} (hs : Keeps s0 s) :
    Keeps s0 (State.loadN s i n) := by
  unfold State.loadN
  repeat' first
    | with_reducible exact hs
    | with_reducible assumption
    | (intro _)
    | with_reducible apply State.draw_keeps
    | refine State.draw_keeps_pair (by assumption) ?_
    | with_reducible apply State.put_keeps
    | with_reducible apply State.instrFault_keeps
    | (with_reducible apply Keeps.ite) <;> intro _

theorem State.storeN_keeps {s0 : State} {s : State} {i : Issue} {n : Nat} (hs : Keeps s0 s) :
    Keeps s0 (State.storeN s i n) := by
  unfold State.storeN
  repeat' first
    | with_reducible exact hs
    | with_reducible assumption
    | (intro _)
    | with_reducible apply State.put_keeps
    | with_reducible apply State.instrFault_keeps
    | (with_reducible apply Keeps.ite) <;> intro _

theorem execLd_keeps {s0 : State} {g : BitVec 10} {s : State} (hs : Keeps s0 s) :
    KeepsOut s0 (execLd g s) := by
  unfold execLd
  repeat' first
    | with_reducible exact hs
    | with_reducible assumption
    | (intro _)
    | with_reducible apply KeepsOut.next
    | with_reducible exact KeepsOut.fault
    | with_reducible exact KeepsOut.refused
    | with_reducible apply atInstr_keeps
    | with_reducible apply State.loadN_keeps

theorem execSt_keeps {s0 : State} {g : BitVec 10} {s : State} (hs : Keeps s0 s) :
    KeepsOut s0 (execSt g s) := by
  unfold execSt
  repeat' first
    | with_reducible exact hs
    | with_reducible assumption
    | (intro _)
    | with_reducible apply KeepsOut.next
    | with_reducible exact KeepsOut.fault
    | with_reducible exact KeepsOut.refused
    | with_reducible apply atInstr_keeps
    | with_reducible apply State.storeN_keeps

theorem execLd4_keeps {s0 : State} {g : BitVec 10} {s : State} (hs : Keeps s0 s) :
    KeepsOut s0 (execLd4 g s) := by
  unfold execLd4
  repeat' first
    | with_reducible exact hs
    | with_reducible assumption
    | (intro _)
    | with_reducible apply KeepsOut.next
    | with_reducible exact KeepsOut.fault
    | with_reducible exact KeepsOut.refused
    | with_reducible apply atInstr_keeps
    | with_reducible apply State.loadN_keeps

theorem execSt4_keeps {s0 : State} {g : BitVec 10} {s : State} (hs : Keeps s0 s) :
    KeepsOut s0 (execSt4 g s) := by
  unfold execSt4
  repeat' first
    | with_reducible exact hs
    | with_reducible assumption
    | (intro _)
    | with_reducible apply KeepsOut.next
    | with_reducible exact KeepsOut.fault
    | with_reducible exact KeepsOut.refused
    | with_reducible apply atInstr_keeps
    | with_reducible apply State.storeN_keeps

theorem State.jump_keeps {s0 : State} {s : State} {i : Issue} {gl : Glade} {t : ℤ} (hs : Keeps s0 s) :
    Keeps s0 (State.jump s i gl t) := by
  unfold State.jump
  repeat' first
    | with_reducible exact hs
    | with_reducible assumption
    | (intro _)
    | with_reducible apply State.instrFault_keeps
    | with_reducible apply State.setGlade_keeps
    | (with_reducible apply Keeps.ite) <;> intro _

theorem State.branch_keeps {s0 : State} {s : State} {i : Issue} {taken : Bool} (hs : Keeps s0 s) :
    Keeps s0 (State.branch s i taken) := by
  unfold State.branch
  repeat' first
    | with_reducible exact hs
    | with_reducible assumption
    | (intro _)
    | with_reducible apply State.jump_keeps
    | with_reducible apply State.put_keeps
    | (with_reducible apply Keeps.ite) <;> intro _

theorem execBeq_keeps {s0 : State} {g : BitVec 10} {s : State} (hs : Keeps s0 s) :
    KeepsOut s0 (execBeq g s) := by
  unfold execBeq
  repeat' first
    | with_reducible exact hs
    | with_reducible assumption
    | (intro _)
    | with_reducible apply KeepsOut.next
    | with_reducible exact KeepsOut.fault
    | with_reducible exact KeepsOut.refused
    | with_reducible apply atInstr_keeps
    | with_reducible apply State.branch_keeps

theorem execBne_keeps {s0 : State} {g : BitVec 10} {s : State} (hs : Keeps s0 s) :
    KeepsOut s0 (execBne g s) := by
  unfold execBne
  repeat' first
    | with_reducible exact hs
    | with_reducible assumption
    | (intro _)
    | with_reducible apply KeepsOut.next
    | with_reducible exact KeepsOut.fault
    | with_reducible exact KeepsOut.refused
    | with_reducible apply atInstr_keeps
    | with_reducible apply State.branch_keeps

theorem execBlt_keeps {s0 : State} {g : BitVec 10} {s : State} (hs : Keeps s0 s) :
    KeepsOut s0 (execBlt g s) := by
  unfold execBlt
  repeat' first
    | with_reducible exact hs
    | with_reducible assumption
    | (intro _)
    | with_reducible apply KeepsOut.next
    | with_reducible exact KeepsOut.fault
    | with_reducible exact KeepsOut.refused
    | with_reducible apply atInstr_keeps
    | with_reducible apply State.branch_keeps

theorem execBge_keeps {s0 : State} {g : BitVec 10} {s : State} (hs : Keeps s0 s) :
    KeepsOut s0 (execBge g s) := by
  unfold execBge
  repeat' first
    | with_reducible exact hs
    | with_reducible assumption
    | (intro _)
    | with_reducible apply KeepsOut.next
    | with_reducible exact KeepsOut.fault
    | with_reducible exact KeepsOut.refused
    | with_reducible apply atInstr_keeps
    | with_reducible apply State.branch_keeps

theorem execJal_keeps {s0 : State} {g : BitVec 10} {s : State} (hs : Keeps s0 s) :
    KeepsOut s0 (execJal g s) := by
  unfold execJal
  repeat' first
    | with_reducible exact hs
    | with_reducible assumption
    | (intro _)
    | with_reducible apply KeepsOut.next
    | with_reducible exact KeepsOut.fault
    | with_reducible exact KeepsOut.refused
    | with_reducible apply atInstr_keeps
    | with_reducible apply State.jump_keeps

theorem execJr_keeps {s0 : State} {g : BitVec 10} {s : State} (hs : Keeps s0 s) :
    KeepsOut s0 (execJr g s) := by
  unfold execJr
  repeat' first
    | with_reducible exact hs
    | with_reducible assumption
    | (intro _)
    | with_reducible apply KeepsOut.next
    | with_reducible exact KeepsOut.fault
    | with_reducible exact KeepsOut.refused
    | with_reducible apply atInstr_keeps
    | with_reducible apply State.form_keeps
    | with_reducible apply State.jump_keeps

theorem execLi_keeps {s0 : State} {g : BitVec 10} {s : State} (hs : Keeps s0 s) :
    KeepsOut s0 (execLi g s) := by
  unfold execLi
  repeat' first
    | with_reducible exact hs
    | with_reducible assumption
    | (intro _)
    | with_reducible apply KeepsOut.next
    | with_reducible exact KeepsOut.fault
    | with_reducible exact KeepsOut.refused
    | with_reducible apply atInstr_keeps
    | with_reducible apply State.put_keeps
    | with_reducible apply State.instrFault_keeps
    | (with_reducible apply Keeps.ite) <;> intro _

theorem execSrRd_keeps {s0 : State} {g : BitVec 10} {s : State} (hs : Keeps s0 s) :
    KeepsOut s0 (execSrRd g s) := by
  unfold execSrRd
  repeat' first
    | with_reducible exact hs
    | with_reducible assumption
    | (intro _)
    | with_reducible apply KeepsOut.next
    | with_reducible exact KeepsOut.fault
    | with_reducible exact KeepsOut.refused
    | with_reducible apply atInstr_keeps
    | with_reducible apply State.form_keeps
    | with_reducible apply State.put_keeps
    | with_reducible apply State.instrFault_keeps
    | split

theorem execSrWr_keeps {s0 : State} {g : BitVec 10} {s : State} (hs : Keeps s0 s) :
    KeepsOut s0 (execSrWr g s) := by
  unfold execSrWr
  repeat' first
    | with_reducible exact hs
    | with_reducible assumption
    | (intro _)
    | with_reducible apply KeepsOut.next
    | with_reducible exact KeepsOut.fault
    | with_reducible exact KeepsOut.refused
    | with_reducible apply atInstr_keeps
    | with_reducible apply State.form_keeps
    | with_reducible apply State.put_keeps
    | with_reducible apply State.instrFault_keeps
    | (with_reducible apply Keeps.ite) <;> intro _

theorem execAcPoll_keeps {s0 : State} {g : BitVec 10} {s : State} (hs : Keeps s0 s) :
    KeepsOut s0 (execAcPoll g s) := by
  unfold execAcPoll
  repeat' first
    | with_reducible exact hs
    | with_reducible assumption
    | (intro _)
    | with_reducible apply KeepsOut.next
    | with_reducible exact KeepsOut.fault
    | with_reducible exact KeepsOut.refused
    | with_reducible apply atInstr_keeps
    | with_reducible apply State.form_keeps
    | with_reducible apply State.put_keeps

theorem execAcAdd_keeps {s0 : State} {g : BitVec 10} {s : State} (hs : Keeps s0 s) :
    KeepsOut s0 (execAcAdd g s) := by
  unfold execAcAdd
  repeat' first
    | with_reducible exact hs
    | with_reducible assumption
    | (intro _)
    | with_reducible apply KeepsOut.next
    | with_reducible exact KeepsOut.fault
    | with_reducible exact KeepsOut.refused
    | with_reducible apply atInstr_keeps
    | with_reducible apply State.form_keeps
    | with_reducible apply State.instrFault_keeps
    | with_reducible apply State.countUp_keeps
    | with_reducible apply State.put_keeps
    | (with_reducible apply Keeps.ite) <;> intro _

theorem execAcWait_keeps {s0 : State} {g : BitVec 10} {s : State} (hs : Keeps s0 s) :
    KeepsOut s0 (execAcWait g s) := by
  unfold execAcWait
  repeat' first
    | with_reducible exact hs
    | with_reducible assumption
    | (intro _)
    | with_reducible apply KeepsOut.next
    | with_reducible exact KeepsOut.fault
    | with_reducible exact KeepsOut.refused
    | with_reducible apply atInstr_keeps
    | with_reducible apply State.form_keeps
    | with_reducible apply State.setGlade_keeps
    | (with_reducible apply Keeps.ite) <;> intro _

theorem State.lateXchg_keeps {s0 : State} {s : State} {late : Bool} (hs : Keeps s0 s) :
    Keeps s0 (State.lateXchg s late) := by
  unfold State.lateXchg
  repeat' first
    | with_reducible exact hs
    | with_reducible assumption
    | (intro _)
    | with_reducible apply State.bumpField_keeps
    | (with_reducible apply Keeps.ite) <;> intro _

theorem execAcWaitSatisfied_keeps {s0 : State} {g : BitVec 10} {s : State} (hs : Keeps s0 s) :
    KeepsOut s0 (execAcWaitSatisfied g s) := by
  unfold execAcWaitSatisfied
  repeat' first
    | with_reducible exact hs
    | with_reducible assumption
    | (intro _)
    | with_reducible apply KeepsOut.next
    | with_reducible exact KeepsOut.fault
    | with_reducible exact KeepsOut.refused
    | with_reducible apply State.setGlade_keeps
    | with_reducible apply State.lateXchg_keeps
    | (with_reducible apply KeepsOut.ite) <;> intro _
    | split
    | dsimp only

theorem State.xcArrived_keeps {s0 : State} {s : State} {i : Issue} {c : Nat} {t : Nat} (hs : Keeps s0 s) :
    Keeps s0 (State.xcArrived s i c t) := by
  unfold State.xcArrived
  repeat' first
    | with_reducible exact hs
    | with_reducible assumption
    | (intro _)
    | with_reducible apply State.setGlade_keeps
    | (with_reducible apply Keeps.ite) <;> intro _

theorem execXcWait_keeps {s0 : State} {g : BitVec 10} {s : State} (hs : Keeps s0 s) :
    KeepsOut s0 (execXcWait g s) := by
  unfold execXcWait
  repeat' first
    | with_reducible exact hs
    | with_reducible assumption
    | (intro _)
    | with_reducible apply KeepsOut.next
    | with_reducible exact KeepsOut.fault
    | with_reducible exact KeepsOut.refused
    | with_reducible apply atInstr_keeps
    | with_reducible apply State.xcArrived_keeps
    | with_reducible apply State.setGlade_keeps
    | (with_reducible apply Keeps.ite) <;> intro _

theorem execXcWaitTimeReached_keeps {s0 : State} {g : BitVec 10} {s : State} (hs : Keeps s0 s) :
    KeepsOut s0 (execXcWaitTimeReached g s) := by
  unfold execXcWaitTimeReached
  repeat' first
    | with_reducible exact hs
    | with_reducible assumption
    | (intro _)
    | with_reducible apply KeepsOut.next
    | with_reducible exact KeepsOut.fault
    | with_reducible exact KeepsOut.refused
    | with_reducible apply State.xcArrived_keeps
    | (with_reducible apply KeepsOut.ite) <;> intro _
    | split
    | dsimp only

theorem execWaitExpiry_keeps {s0 : State} {g : BitVec 10} {s : State} (hs : Keeps s0 s) :
    KeepsOut s0 (execWaitExpiry g s) := by
  unfold execWaitExpiry
  repeat' first
    | with_reducible exact hs
    | with_reducible assumption
    | (intro _)
    | with_reducible apply KeepsOut.next
    | with_reducible exact KeepsOut.fault
    | with_reducible exact KeepsOut.refused
    | with_reducible apply State.bump_keeps
    | with_reducible apply State.setGlade_keeps
    | with_reducible apply State.abandonFault_keeps
    | (with_reducible apply KeepsOut.ite) <;> intro _
    | split

theorem execEngFence_keeps {s0 : State} {g : BitVec 10} {s : State} (hs : Keeps s0 s) :
    KeepsOut s0 (execEngFence g s) := by
  unfold execEngFence
  repeat' first
    | with_reducible exact hs
    | with_reducible assumption
    | (intro _)
    | with_reducible apply KeepsOut.next
    | with_reducible exact KeepsOut.fault
    | with_reducible exact KeepsOut.refused
    | with_reducible apply atInstr_keeps
    | with_reducible apply State.form_keeps
    | with_reducible apply State.put_keeps
    | (with_reducible apply Keeps.ite) <;> intro _

theorem execStepEnd_keeps {s0 : State} {g : BitVec 10} {s : State} (hs : Keeps s0 s) :
    KeepsOut s0 (execStepEnd g s) := by
  unfold execStepEnd
  repeat' first
    | with_reducible exact hs
    | with_reducible assumption
    | (intro _)
    | with_reducible apply KeepsOut.next
    | with_reducible exact KeepsOut.fault
    | with_reducible exact KeepsOut.refused
    | with_reducible apply atInstr_keeps
    | with_reducible apply State.form_keeps
    | with_reducible apply State.setGlade_keeps

theorem State.leaseCode_keeps {s0 : State} {s : State} {i : Issue} {code : Nat} (hs : Keeps s0 s) :
    Keeps s0 (State.leaseCode s i code) := by
  unfold State.leaseCode
  repeat' first
    | with_reducible exact hs
    | with_reducible assumption
    | (intro _)
    | with_reducible apply State.put_keeps

theorem discardFaults_keeps {s0 : State} {p : Nat} {res : Word} {a3 : List CanopyInstr} {a4 : State} (ha4 : Keeps s0 a4) :
    Keeps s0 (discardFaults p res a3 a4) := by
  induction a3 generalizing a4 with
  | nil =>
    unfold discardFaults
    repeat' first
      | with_reducible exact ha4
  | cons x xs ih =>
    unfold discardFaults
    repeat' first
      | with_reducible exact ha4
      | with_reducible exact ih
      | with_reducible assumption
      | (intro _)
      | with_reducible apply ih
      | with_reducible apply State.abandonFault_keeps

theorem State.leaseEnds_keeps {s0 : State} {s : State} {l : Lease} {cause : Nat} (hs : Keeps s0 s) :
    Keeps s0 (State.leaseEnds s l cause) := by
  unfold State.leaseEnds
  repeat' first
    | with_reducible exact hs
    | with_reducible assumption
    | (intro _)
    | with_reducible apply discardFaults_keeps
    | with_reducible apply State.leaseGone_keeps
    | with_reducible apply State.abandonFault_keeps
    | (with_reducible apply Keeps.ite) <;> intro _

theorem State.expireLease_keeps {s0 : State} {s : State} {l : Lease} (hs : Keeps s0 s) :
    Keeps s0 (State.expireLease s l) := by
  unfold State.expireLease
  repeat' first
    | with_reducible exact hs
    | with_reducible assumption
    | (intro _)
    | with_reducible apply State.leaseEnds_keeps
    | with_reducible apply State.bump_keeps
    | split
    | fail_if_no_progress ((with_reducible refine Keeps.upd ?_ ?_ ?_ ?_ ?_) <;> [skip; rfl; rfl; rfl; rfl])

theorem execLeaseExpiry_keeps {s0 : State} {res : BitVec 32} {s : State} (hs : Keeps s0 s) :
    KeepsOut s0 (execLeaseExpiry res s) := by
  unfold execLeaseExpiry
  repeat' first
    | with_reducible exact hs
    | with_reducible assumption
    | (intro _)
    | with_reducible apply KeepsOut.next
    | with_reducible exact KeepsOut.fault
    | with_reducible exact KeepsOut.refused
    | with_reducible apply State.expireLease_keeps
    | (with_reducible apply KeepsOut.ite) <;> intro _
    | split

theorem State.revokeLease_keeps {s0 : State} {s : State} {l : Lease} (hs : Keeps s0 s) :
    Keeps s0 (State.revokeLease s l) := by
  unfold State.revokeLease
  repeat' first
    | with_reducible exact hs
    | with_reducible assumption
    | (intro _)
    | with_reducible apply State.raise_keeps
    | with_reducible apply State.bump_keeps
    | with_reducible apply State.leaseEnds_keeps
    | split
    | fail_if_no_progress ((with_reducible refine Keeps.upd ?_ ?_ ?_ ?_ ?_) <;> [skip; rfl; rfl; rfl; rfl])

theorem execLeaseRevoke_keeps {s0 : State} {data : BitVec 32} {s : State} (hs : Keeps s0 s) :
    KeepsOut s0 (execLeaseRevoke data s) := by
  unfold execLeaseRevoke
  repeat' first
    | with_reducible exact hs
    | with_reducible assumption
    | (intro _)
    | with_reducible apply KeepsOut.next
    | with_reducible exact KeepsOut.fault
    | with_reducible exact KeepsOut.refused
    | with_reducible apply State.revokeLease_keeps
    | split

theorem revokeEach_keeps {s0 : State} {a1 : List Lease} {a2 : State} (ha2 : Keeps s0 a2) :
    Keeps s0 (revokeEach a1 a2) := by
  induction a1 generalizing a2 with
  | nil =>
    unfold revokeEach
    repeat' first
      | with_reducible exact ha2
  | cons x xs ih =>
    unfold revokeEach
    repeat' first
      | with_reducible exact ha2
      | with_reducible exact ih
      | with_reducible assumption
      | (intro _)
      | with_reducible apply ih
      | with_reducible apply State.revokeLease_keeps

theorem execLeaseRevokePlot_keeps {s0 : State} {data : BitVec 32} {s : State} (hs : Keeps s0 s) :
    KeepsOut s0 (execLeaseRevokePlot data s) := by
  unfold execLeaseRevokePlot
  repeat' first
    | with_reducible exact hs
    | with_reducible assumption
    | (intro _)
    | with_reducible apply KeepsOut.next
    | with_reducible exact KeepsOut.fault
    | with_reducible exact KeepsOut.refused
    | with_reducible apply revokeEach_keeps

theorem State.expireFirst_keeps {s0 : State} {s : State} {res : Word} (hs : Keeps s0 s) :
    Keeps s0 (State.expireFirst s res) := by
  unfold State.expireFirst
  repeat' first
    | with_reducible exact hs
    | with_reducible assumption
    | (intro _)
    | with_reducible apply State.expireLease_keeps
    | (with_reducible apply Keeps.ite) <;> intro _
    | split

theorem execLsAcq_keeps {s0 : State} {g : BitVec 10} {s : State} (hs : Keeps s0 s) :
    KeepsOut s0 (execLsAcq g s) := by
  unfold execLsAcq
  repeat' first
    | with_reducible exact hs
    | with_reducible assumption
    | (intro _)
    | with_reducible apply KeepsOut.next
    | with_reducible exact KeepsOut.fault
    | with_reducible exact KeepsOut.refused
    | with_reducible apply atInstr_keeps
    | with_reducible apply State.form_keeps
    | with_reducible apply State.expireFirst_keeps
    | with_reducible apply State.leaseCode_keeps
    | with_reducible apply State.setGlade_keeps
    | with_reducible apply State.bump_keeps
    | (with_reducible apply Keeps.ite) <;> intro _
    | split
    | fail_if_no_progress ((with_reducible refine Keeps.upd ?_ ?_ ?_ ?_ ?_) <;> [skip; rfl; rfl; rfl; rfl])

theorem execLsRen_keeps {s0 : State} {g : BitVec 10} {s : State} (hs : Keeps s0 s) :
    KeepsOut s0 (execLsRen g s) := by
  unfold execLsRen
  repeat' first
    | with_reducible exact hs
    | with_reducible assumption
    | (intro _)
    | with_reducible apply KeepsOut.next
    | with_reducible exact KeepsOut.fault
    | with_reducible exact KeepsOut.refused
    | with_reducible apply atInstr_keeps
    | with_reducible apply State.form_keeps
    | with_reducible apply State.expireFirst_keeps
    | with_reducible apply State.leaseCode_keeps
    | (with_reducible apply Keeps.ite) <;> intro _
    | split
    | fail_if_no_progress ((with_reducible refine Keeps.upd ?_ ?_ ?_ ?_ ?_) <;> [skip; rfl; rfl; rfl; rfl])

theorem execLsRel_keeps {s0 : State} {g : BitVec 10} {s : State} (hs : Keeps s0 s) :
    KeepsOut s0 (execLsRel g s) := by
  unfold execLsRel
  repeat' first
    | with_reducible exact hs
    | with_reducible assumption
    | (intro _)
    | with_reducible apply KeepsOut.next
    | with_reducible exact KeepsOut.fault
    | with_reducible exact KeepsOut.refused
    | with_reducible apply atInstr_keeps
    | with_reducible apply State.form_keeps
    | with_reducible apply State.expireFirst_keeps
    | with_reducible apply State.leaseCode_keeps
    | (with_reducible apply Keeps.ite) <;> intro _
    | split
    | fail_if_no_progress ((with_reducible refine Keeps.upd ?_ ?_ ?_ ?_ ?_) <;> [skip; rfl; rfl; rfl; rfl])

theorem State.leaseAnswer_keeps {s0 : State} {s : State} {w : LeaseWait} {code : Nat} (hs : Keeps s0 s) :
    Keeps s0 (State.leaseAnswer s w code) := by
  unfold State.leaseAnswer
  repeat' first
    | with_reducible exact hs
    | with_reducible assumption
    | (intro _)
    | with_reducible apply State.leaseCode_keeps
    | split
    | fail_if_no_progress ((with_reducible refine Keeps.upd ?_ ?_ ?_ ?_ ?_) <;> [skip; rfl; rfl; rfl; rfl])
    | dsimp only

theorem execLeaseGrant_keeps {s0 : State} {res : BitVec 32} {s : State} (hs : Keeps s0 s) :
    KeepsOut s0 (execLeaseGrant res s) := by
  unfold execLeaseGrant
  repeat' first
    | with_reducible exact hs
    | with_reducible assumption
    | (intro _)
    | with_reducible apply KeepsOut.next
    | with_reducible exact KeepsOut.fault
    | with_reducible exact KeepsOut.refused
    | with_reducible apply State.leaseAnswer_keeps
    | (with_reducible apply KeepsOut.ite) <;> intro _
    | split
    | fail_if_no_progress ((with_reducible refine Keeps.upd ?_ ?_ ?_ ?_ ?_) <;> [skip; rfl; rfl; rfl; rfl])

theorem execLeaseRequestTimeout_keeps {s0 : State} {g : BitVec 10} {s : State} (hs : Keeps s0 s) :
    KeepsOut s0 (execLeaseRequestTimeout g s) := by
  unfold execLeaseRequestTimeout
  repeat' first
    | with_reducible exact hs
    | with_reducible assumption
    | (intro _)
    | with_reducible apply KeepsOut.next
    | with_reducible exact KeepsOut.fault
    | with_reducible exact KeepsOut.refused
    | with_reducible apply State.leaseAnswer_keeps
    | (with_reducible apply KeepsOut.ite) <;> intro _
    | split
    | fail_if_no_progress ((with_reducible refine Keeps.upd ?_ ?_ ?_ ?_ ?_) <;> [skip; rfl; rfl; rfl; rfl])

end Sys2Proof.Machine
end

