-- ==== Sys2Proof/Laws/KeepsUpdate.lean ====
section
/-!
SUPPORT. What the operations of Machine/Update.lean keep: one lemma for each that gives a state.
-/

namespace Sys2Proof.Machine

theorem State.setImage_keeps {s0 : State} {s : State} {i : Image} (hs : Keeps s0 s) :
    Keeps s0 (State.setImage s i) := by
  unfold State.setImage
  repeat' first
    | with_reducible exact hs
    | with_reducible assumption
    | (intro _)
    | split
    | fail_if_no_progress ((with_reducible refine Keeps.upd ?_ ?_ ?_ ?_ ?_) <;> [skip; rfl; rfl; rfl; rfl])

theorem State.refuseOp_keeps {s0 : State} {s : State} (hs : Keeps s0 s) :
    Keeps s0 (State.refuseOp s) := by
  unfold State.refuseOp
  repeat' first
    | with_reducible exact hs
    | with_reducible assumption
    | (intro _)
    | with_reducible apply State.imageFault_keeps

theorem imageCommand_keeps {s0 : State} {s : State} {k : State → State} (hs : Keeps s0 s) (hk : ∀ x0, Keeps s0 x0 → Keeps s0 (k x0)) :
    KeepsOut s0 (imageCommand s k) := by
  unfold imageCommand
  repeat' first
    | with_reducible exact hs
    | with_reducible exact hk
    | with_reducible apply hk
    | with_reducible assumption
    | (intro _)
    | with_reducible apply KeepsOut.next
    | with_reducible exact KeepsOut.fault
    | with_reducible exact KeepsOut.refused
    | with_reducible apply State.refuseOp_keeps
    | (with_reducible apply KeepsOut.ite) <;> intro _

theorem State.startImage_keeps {s0 : State} {s : State} {op : Nat} {slot : Bool} {cause : Nat} {body : List Byte} (hs : Keeps s0 s) :
    Keeps s0 (State.startImage s op slot cause body) := by
  unfold State.startImage
  repeat' first
    | with_reducible exact hs
    | with_reducible assumption
    | (intro _)
    | with_reducible apply State.setImage_keeps

theorem State.verify_keeps {s0 : State} {s : State} (hs : Keeps s0 s) :
    Keeps s0 (State.verify s) := by
  unfold State.verify
  repeat' first
    | with_reducible exact hs
    | with_reducible assumption
    | (intro _)
    | with_reducible apply State.startImage_keeps

theorem State.store_keeps {s0 : State} {s : State} {slot : Bool} (hs : Keeps s0 s) :
    Keeps s0 (State.store s slot) := by
  unfold State.store
  repeat' first
    | with_reducible exact hs
    | with_reducible assumption
    | (intro _)
    | with_reducible apply State.refuseOp_keeps
    | with_reducible apply State.startImage_keeps
    | (with_reducible apply Keeps.ite) <;> intro _

theorem State.stage_keeps {s0 : State} {s : State} {slot : Bool} (hs : Keeps s0 s) :
    Keeps s0 (State.stage s slot) := by
  unfold State.stage
  repeat' first
    | with_reducible exact hs
    | with_reducible assumption
    | (intro _)
    | with_reducible apply State.startImage_keeps

theorem execVerifyImage_keeps {s0 : State} {s : State} (hs : Keeps s0 s) :
    KeepsOut s0 (execVerifyImage s) := by
  unfold execVerifyImage
  repeat' first
    | with_reducible exact hs
    | with_reducible assumption
    | (intro _)
    | with_reducible apply KeepsOut.next
    | with_reducible exact KeepsOut.fault
    | with_reducible exact KeepsOut.refused
    | with_reducible apply imageCommand_keeps
    | with_reducible apply State.verify_keeps

theorem execStoreImage_keeps {s0 : State} {slot : Bool} {s : State} (hs : Keeps s0 s) :
    KeepsOut s0 (execStoreImage slot s) := by
  unfold execStoreImage
  repeat' first
    | with_reducible exact hs
    | with_reducible assumption
    | (intro _)
    | with_reducible apply KeepsOut.next
    | with_reducible exact KeepsOut.fault
    | with_reducible exact KeepsOut.refused
    | with_reducible apply imageCommand_keeps
    | with_reducible apply State.store_keeps

theorem execStageImage_keeps {s0 : State} {slot : Bool} {s : State} (hs : Keeps s0 s) :
    KeepsOut s0 (execStageImage slot s) := by
  unfold execStageImage
  repeat' first
    | with_reducible exact hs
    | with_reducible assumption
    | (intro _)
    | with_reducible apply KeepsOut.next
    | with_reducible exact KeepsOut.fault
    | with_reducible exact KeepsOut.refused
    | with_reducible apply imageCommand_keeps
    | with_reducible apply State.stage_keeps

theorem execBootSlot_keeps {s0 : State} {slot : Bool} {s : State} (hs : Keeps s0 s) :
    KeepsOut s0 (execBootSlot slot s) := by
  unfold execBootSlot
  repeat' first
    | with_reducible exact hs
    | with_reducible assumption
    | (intro _)
    | with_reducible apply KeepsOut.next
    | with_reducible exact KeepsOut.fault
    | with_reducible exact KeepsOut.refused
    | with_reducible apply imageCommand_keeps
    | with_reducible apply State.startImage_keeps

theorem State.endVerify_keeps {s0 : State} {s : State} {r : ImageRun} (hs : Keeps s0 s) :
    Keeps s0 (State.endVerify s r) := by
  unfold State.endVerify
  repeat' first
    | with_reducible exact hs
    | with_reducible assumption
    | (intro _)
    | with_reducible apply State.setImage_keeps
    | with_reducible apply State.verifyFailed_keeps
    | with_reducible apply State.imageFault_keeps
    | (with_reducible apply Keeps.ite) <;> intro _

theorem State.markSlot_keeps {s0 : State} {s : State} {slot : Bool} {ok : Bool} (hs : Keeps s0 s) :
    Keeps s0 (State.markSlot s slot ok) := by
  unfold State.markSlot
  repeat' first
    | with_reducible exact hs
    | with_reducible assumption
    | (intro _)
    | with_reducible apply State.setImage_keeps

theorem State.endImage_keeps {s0 : State} {s : State} {r : ImageRun} (hs : Keeps s0 s) :
    Keeps s0 (State.endImage s r) := by
  unfold State.endImage
  repeat' first
    | with_reducible exact hs
    | with_reducible assumption
    | (intro _)
    | with_reducible apply State.storeSlot_keeps
    | with_reducible apply State.markSlot_keeps
    | with_reducible apply State.endVerify_keeps
    | with_reducible apply State.fillDev_keeps
    | with_reducible apply State.setBoot_keeps
    | split

theorem execImageCommandComplete_keeps {s0 : State} {s : State} (hs : Keeps s0 s) :
    KeepsOut s0 (execImageCommandComplete s) := by
  unfold execImageCommandComplete
  repeat' first
    | with_reducible exact hs
    | with_reducible assumption
    | (intro _)
    | with_reducible apply KeepsOut.next
    | with_reducible exact KeepsOut.fault
    | with_reducible exact KeepsOut.refused
    | with_reducible apply State.setCause_keeps
    | with_reducible apply State.endImage_keeps
    | with_reducible apply State.setImage_keeps
    | (with_reducible apply KeepsOut.ite) <;> intro _
    | split

theorem State.schedule_keeps {s0 : State} {s : State} {op : ImageOp} {phases : List PhaseInfo} (hs : Keeps s0 s) :
    Keeps s0 (State.schedule s op phases) := by
  unfold State.schedule
  repeat' first
    | with_reducible exact hs
    | with_reducible assumption
    | (intro _)
    | with_reducible apply State.setImage_keeps

theorem State.apply_keeps {s0 : State} {s : State} {bad : Bool} (hs : Keeps s0 s) :
    Keeps s0 (State.apply s bad) := by
  unfold State.apply
  repeat' first
    | with_reducible exact hs
    | with_reducible assumption
    | (intro _)
    | with_reducible apply State.refuseOp_keeps
    | with_reducible apply State.imageFault_keeps
    | with_reducible apply State.initialApply_keeps
    | refine State.initialApply_keeps_pair (by assumption) ?_
    | with_reducible apply State.setCause_keeps
    | with_reducible apply State.schedule_keeps
    | (with_reducible apply Keeps.ite) <;> intro _

theorem execApplyImage_keeps {s0 : State} {bad : Bool} {s : State} (hs : Keeps s0 s) :
    KeepsOut s0 (execApplyImage bad s) := by
  unfold execApplyImage
  repeat' first
    | with_reducible exact hs
    | with_reducible assumption
    | (intro _)
    | with_reducible apply KeepsOut.next
    | with_reducible exact KeepsOut.fault
    | with_reducible exact KeepsOut.refused
    | with_reducible apply imageCommand_keeps
    | with_reducible apply State.apply_keeps

theorem State.startRollback_keeps {s0 : State} {s : State} (hs : Keeps s0 s) :
    Keeps s0 (State.startRollback s) := by
  unfold State.startRollback
  repeat' first
    | with_reducible exact hs
    | with_reducible assumption
    | (intro _)
    | with_reducible apply State.refuseOp_keeps
    | with_reducible apply State.schedule_keeps
    | (with_reducible apply Keeps.ite) <;> intro _

theorem execRollback_keeps {s0 : State} {s : State} (hs : Keeps s0 s) :
    KeepsOut s0 (execRollback s) := by
  unfold execRollback
  repeat' first
    | with_reducible exact hs
    | with_reducible assumption
    | (intro _)
    | with_reducible apply KeepsOut.next
    | with_reducible exact KeepsOut.fault
    | with_reducible exact KeepsOut.refused
    | with_reducible apply imageCommand_keeps
    | with_reducible apply State.startRollback_keeps

theorem State.startReload_keeps {s0 : State} {s : State} (hs : Keeps s0 s) :
    Keeps s0 (State.startReload s) := by
  unfold State.startReload
  repeat' first
    | with_reducible exact hs
    | with_reducible assumption
    | (intro _)
    | with_reducible apply State.refuseOp_keeps
    | with_reducible apply State.schedule_keeps
    | (with_reducible apply Keeps.ite) <;> intro _

theorem execReload_keeps {s0 : State} {s : State} (hs : Keeps s0 s) :
    KeepsOut s0 (execReload s) := by
  unfold execReload
  repeat' first
    | with_reducible exact hs
    | with_reducible assumption
    | (intro _)
    | with_reducible apply KeepsOut.next
    | with_reducible exact KeepsOut.fault
    | with_reducible exact KeepsOut.refused
    | with_reducible apply imageCommand_keeps
    | with_reducible apply State.startReload_keeps

theorem State.cancelImage_keeps {s0 : State} {s : State} (hs : Keeps s0 s) :
    Keeps s0 (State.cancelImage s) := by
  unfold State.cancelImage
  repeat' first
    | with_reducible exact hs
    | with_reducible assumption
    | (intro _)
    | with_reducible apply State.setCause_keeps
    | with_reducible apply State.setImage_keeps
    | with_reducible apply State.refuseOp_keeps
    | (with_reducible apply Keeps.ite) <;> intro _

theorem execImageCancel_keeps {s0 : State} {s : State} (hs : Keeps s0 s) :
    KeepsOut s0 (execImageCancel s) := by
  unfold execImageCancel
  repeat' first
    | with_reducible exact hs
    | with_reducible assumption
    | (intro _)
    | with_reducible apply KeepsOut.next
    | with_reducible exact KeepsOut.fault
    | with_reducible exact KeepsOut.refused
    | with_reducible apply imageCommand_keeps
    | with_reducible apply State.cancelImage_keeps

theorem State.bootSlot_keeps {s0 : State} {s : State} {k : Nat} {bad : Bool} (hs : Keeps s0 s) :
    Keeps s0 (State.bootSlot s k bad).1 := by
  unfold State.bootSlot
  repeat' first
    | with_reducible exact hs
    | with_reducible assumption
    | (intro _)
    | with_reducible apply State.endImage_keeps
    | with_reducible apply State.initialApply_keeps
    | refine State.initialApply_keeps_pair (by assumption) ?_
    | split
    | fail_if_no_progress ((with_reducible refine Keeps.upd ?_ ?_ ?_ ?_ ?_) <;> [skip; rfl; rfl; rfl; rfl])
    | dsimp only

theorem State.bootSlot_keeps_pair {s0 : State} {s : State} {k : Nat} {bad : Bool} {o0 : Bool} {t0 : State}
    (e : State.bootSlot s k bad = (t0, o0)) (hs : Keeps s0 s) :
    Keeps s0 t0 := by
  have h := State.bootSlot_keeps (s0 := s0) (s := s) (k := k) (bad := bad) hs
  rw [e] at h
  exact h

theorem State.boot_keeps {s0 : State} {s : State} {bad : Bool} {bad2 : Bool} (hs : Keeps s0 s) :
    Keeps s0 (State.boot s bad bad2) := by
  unfold State.boot
  repeat' first
    | with_reducible exact hs
    | with_reducible assumption
    | (intro _)
    | with_reducible apply State.setImage_keeps
    | with_reducible apply State.bootSlot_keeps
    | refine State.bootSlot_keeps_pair (by assumption) ?_
    | (with_reducible apply Keeps.ite) <;> intro _
    | split

theorem execBootImageApply_keeps {s0 : State} {bad : Bool} {bad2 : Bool} {s : State} (hs : Keeps s0 s) :
    KeepsOut s0 (execBootImageApply bad bad2 s) := by
  unfold execBootImageApply
  repeat' first
    | with_reducible exact hs
    | with_reducible assumption
    | (intro _)
    | with_reducible apply KeepsOut.next
    | with_reducible exact KeepsOut.fault
    | with_reducible exact KeepsOut.refused
    | with_reducible apply State.boot_keeps
    | (with_reducible apply KeepsOut.ite) <;> intro _

theorem State.disable_keeps {s0 : State} {s : State} {a : Setup} {b : Setup} (hs : Keeps s0 s) :
    Keeps s0 (State.disable s a b) := by
  unfold State.disable
  repeat' first
    | with_reducible exact hs
    | with_reducible assumption
    | (intro _)
    | with_reducible apply mapGlades_keeps
    | with_reducible apply revokeEach_keeps
    | with_reducible apply State.setImage_keeps

theorem State.enableAll_keeps {s0 : State} {s : State} (hs : Keeps s0 s) :
    Keeps s0 (State.enableAll s) := by
  unfold State.enableAll
  repeat' first
    | with_reducible exact hs
    | with_reducible assumption
    | (intro _)
    | with_reducible apply mapGlades_keeps
    | with_reducible apply State.setImage_keeps

theorem holdPlots_keeps {s0 : State} {m : BitVec 64} {a2 : List Nat} {a3 : State} (ha3 : Keeps s0 a3) :
    Keeps s0 (holdPlots m a2 a3) := by
  induction a2 generalizing a3 with
  | nil =>
    unfold holdPlots
    repeat' first
      | with_reducible exact ha3
  | cons x xs ih =>
    unfold holdPlots
    repeat' first
      | with_reducible exact ha3
      | with_reducible exact ih
      | with_reducible assumption
      | (intro _)
      | with_reducible apply ih
      | with_reducible apply State.setPlot_keeps

theorem State.beginPhase_keeps {s0 : State} {s : State} {i : Nat} {at_ : Nat} (hs : Keeps s0 s) :
    Keeps s0 (State.beginPhase s i at_) := by
  unfold State.beginPhase
  repeat' first
    | with_reducible exact hs
    | with_reducible assumption
    | (intro _)
    | with_reducible apply holdPlots_keeps
    | with_reducible apply State.setImage_keeps
    | with_reducible apply State.disable_keeps
    | (with_reducible apply Keeps.ite) <;> intro _

theorem State.beginRolling_keeps {s0 : State} {s : State} {at_ : Nat} (hs : Keeps s0 s) :
    Keeps s0 (State.beginRolling s at_) := by
  unfold State.beginRolling
  repeat' first
    | with_reducible exact hs
    | with_reducible assumption
    | (intro _)
    | with_reducible apply holdPlots_keeps
    | with_reducible apply State.setImage_keeps
    | with_reducible apply State.disable_keeps

theorem refillGlades_keeps {s0 : State} {a1 : List Nat} {a2 : State} (ha2 : Keeps s0 a2) :
    Keeps s0 (refillGlades a1 a2) := by
  induction a1 generalizing a2 with
  | nil =>
    unfold refillGlades
    repeat' first
      | with_reducible exact ha2
  | cons x xs ih =>
    unfold refillGlades
    repeat' first
      | with_reducible exact ha2
      | with_reducible exact ih
      | with_reducible assumption
      | (intro _)
      | with_reducible apply ih
      | with_reducible apply State.setGlade_keeps

theorem State.drawLfsr_keeps {s0 : State} {s : State} (hs : Keeps s0 s) :
    Keeps s0 (State.drawLfsr s).2 := by
  unfold State.drawLfsr
  repeat' first
    | with_reducible exact hs
    | with_reducible assumption
    | (intro _)
    | with_reducible apply Keeps.foldl
    | split
    | fail_if_no_progress ((with_reducible refine Keeps.upd ?_ ?_ ?_ ?_ ?_) <;> [skip; rfl; rfl; rfl; rfl])

theorem State.drawLfsr_keeps_pair {s0 : State} {s : State} {o0 : SMap (BitVec 32)} {t0 : State}
    (e : State.drawLfsr s = (o0, t0)) (hs : Keeps s0 s) :
    Keeps s0 t0 := by
  have h := State.drawLfsr_keeps (s0 := s0) (s := s) hs
  rw [e] at h
  exact h

theorem State.moveGlade_keeps {s0 : State} {s : State} {g : Nat} (hs : Keeps s0 s) :
    Keeps s0 (State.moveGlade s g) := by
  unfold State.moveGlade
  repeat' first
    | with_reducible exact hs
    | with_reducible assumption
    | (intro _)
    | with_reducible apply State.drawBytes_keeps
    | refine State.drawBytes_keeps_pair (by assumption) ?_
    | with_reducible apply State.drawLfsr_keeps
    | refine State.drawLfsr_keeps_pair (by assumption) ?_
    | with_reducible apply State.setGlade_keeps

theorem moveGlades_keeps {s0 : State} {a1 : List Nat} {a2 : State} (ha2 : Keeps s0 a2) :
    Keeps s0 (moveGlades a1 a2) := by
  induction a1 generalizing a2 with
  | nil =>
    unfold moveGlades
    repeat' first
      | with_reducible exact ha2
  | cons x xs ih =>
    unfold moveGlades
    repeat' first
      | with_reducible exact ha2
      | with_reducible exact ih
      | with_reducible assumption
      | (intro _)
      | with_reducible apply ih
      | with_reducible apply State.moveGlade_keeps

theorem revivePlots_keeps {s0 : State} {a1 : List Nat} {a2 : State} (ha2 : Keeps s0 a2) :
    Keeps s0 (revivePlots a1 a2) := by
  induction a1 generalizing a2 with
  | nil =>
    unfold revivePlots
    repeat' first
      | with_reducible exact ha2
  | cons x xs ih =>
    unfold revivePlots
    repeat' first
      | with_reducible exact ha2
      | with_reducible exact ih
      | with_reducible assumption
      | (intro _)
      | with_reducible apply ih
      | with_reducible apply State.setPlot_keeps

theorem releasePlots_keeps {s0 : State} {a1 : List Nat} {a2 : State} (ha2 : Keeps s0 a2) :
    Keeps s0 (releasePlots a1 a2) := by
  induction a1 generalizing a2 with
  | nil =>
    unfold releasePlots
    repeat' first
      | with_reducible exact ha2
  | cons x xs ih =>
    unfold releasePlots
    repeat' first
      | with_reducible exact ha2
      | with_reducible exact ih
      | with_reducible assumption
      | (intro _)
      | with_reducible apply ih
      | with_reducible apply State.setPlot_keeps

theorem reseedCanopies_keeps {s0 : State} {ps : List Nat} {a2 : List Lease} {a3 : State} (ha3 : Keeps s0 a3) :
    Keeps s0 (reseedCanopies ps a2 a3) := by
  induction a2 generalizing a3 with
  | nil =>
    unfold reseedCanopies
    repeat' first
      | with_reducible exact ha3
  | cons x xs ih =>
    unfold reseedCanopies
    repeat' first
      | with_reducible exact ha3
      | with_reducible exact ih
      | with_reducible assumption
      | (intro _)
      | with_reducible apply ih
      | with_reducible apply State.setCanopy_keeps
      | (with_reducible apply Keeps.ite) <;> intro _

theorem clearPrefs_keeps {s0 : State} {a1 : List Nat} {a2 : State} (ha2 : Keeps s0 a2) :
    Keeps s0 (clearPrefs a1 a2) := by
  induction a1 generalizing a2 with
  | nil =>
    unfold clearPrefs
    repeat' first
      | with_reducible exact ha2
  | cons x xs ih =>
    unfold clearPrefs
    repeat' first
      | with_reducible exact ha2
      | with_reducible exact ih
      | with_reducible assumption
      | (intro _)
      | with_reducible apply ih
      | split
      | fail_if_no_progress ((with_reducible refine Keeps.upd ?_ ?_ ?_ ?_ ?_) <;> [skip; rfl; rfl; rfl; rfl])

theorem State.change_keeps {s0 : State} {s : State} {a : Setup} {b : Setup} (hs : Keeps s0 s) :
    Keeps s0 (State.change s a b) := by
  unfold State.change
  repeat' first
    | with_reducible exact hs
    | with_reducible assumption
    | (intro _)
    | with_reducible apply State.setRegions_keeps
    | with_reducible apply storeRecords_keeps
    | with_reducible apply State.initPages_keeps
    | with_reducible apply setGlades_keeps
    | with_reducible apply setPlots_keeps
    | with_reducible apply refillGlades_keeps
    | with_reducible apply moveGlades_keeps
    | with_reducible apply putBiases_keeps
    | with_reducible apply reseedCanopies_keeps
    | with_reducible apply revivePlots_keeps
    | with_reducible apply State.checkOffer_keeps
    | with_reducible apply clearPrefs_keeps
    | with_reducible apply State.checkConfig_keeps
    | (with_reducible apply Keeps.ite) <;> intro _

theorem State.turnRotation_keeps {s0 : State} {s : State} (hs : Keeps s0 s) :
    Keeps s0 (State.turnRotation s) := by
  unfold State.turnRotation
  repeat' first
    | with_reducible exact hs
    | with_reducible assumption
    | (intro _)
    | with_reducible apply State.setField_keeps

theorem State.commitTo_keeps {s0 : State} {s : State} {b : Setup} {n : Nat} (hs : Keeps s0 s) :
    Keeps s0 (State.commitTo s b n) := by
  unfold State.commitTo
  repeat' first
    | with_reducible exact hs
    | with_reducible assumption
    | (intro _)
    | with_reducible apply State.change_keeps
    | with_reducible apply State.enableAll_keeps
    | with_reducible apply releasePlots_keeps
    | with_reducible apply State.turnRotation_keeps
    | with_reducible apply State.setCause_keeps
    | with_reducible apply State.setReg64_keeps
    | with_reducible apply State.setImage_keeps
    | (with_reducible apply Keeps.ite) <;> intro _

theorem State.endOp_keeps {s0 : State} {s : State} (hs : Keeps s0 s) :
    Keeps s0 (State.endOp s) := by
  unfold State.endOp
  repeat' first
    | with_reducible exact hs
    | with_reducible assumption
    | (intro _)
    | with_reducible apply State.setImage_keeps

theorem State.reloadItems_keeps {s0 : State} {s : State} {ps : List Nat} (hs : Keeps s0 s) :
    Keeps s0 (State.reloadItems s ps) := by
  unfold State.reloadItems
  repeat' first
    | with_reducible exact hs
    | with_reducible assumption
    | (intro _)
    | with_reducible apply refillGlades_keeps
    | with_reducible apply setGlades_keeps
    | with_reducible apply setPlots_keeps
    | with_reducible apply State.setImage_keeps
    | with_reducible apply revivePlots_keeps
    | with_reducible apply putBiases_keeps
    | (with_reducible apply Keeps.ite) <;> intro _

theorem State.endPhase_keeps {s0 : State} {s : State} {n : Nat} {at_ : Nat} (hs : Keeps s0 s) :
    Keeps s0 (State.endPhase s n at_) := by
  unfold State.endPhase
  repeat' first
    | with_reducible exact hs
    | with_reducible assumption
    | (intro _)
    | with_reducible apply State.beginRolling_keeps
    | with_reducible apply State.imageFault_keeps
    | with_reducible apply State.reloadItems_keeps
    | with_reducible apply State.commitTo_keeps
    | with_reducible apply State.bumpField_keeps
    | with_reducible apply State.beginPhase_keeps
    | with_reducible apply State.endOp_keeps
    | (with_reducible apply Keeps.ite) <;> intro _

theorem haltPlots_keeps {s0 : State} {a1 : List Nat} {a2 : State} (ha2 : Keeps s0 a2) :
    Keeps s0 (haltPlots a1 a2) := by
  induction a1 generalizing a2 with
  | nil =>
    unfold haltPlots
    repeat' first
      | with_reducible exact ha2
  | cons x xs ih =>
    unfold haltPlots
    repeat' first
      | with_reducible exact ha2
      | with_reducible exact ih
      | with_reducible assumption
      | (intro _)
      | with_reducible apply ih
      | with_reducible apply State.halt_keeps

theorem State.endRolling_keeps {s0 : State} {s : State} {n : Nat} (hs : Keeps s0 s) :
    Keeps s0 (State.endRolling s n) := by
  unfold State.endRolling
  repeat' first
    | with_reducible exact hs
    | with_reducible assumption
    | (intro _)
    | with_reducible apply State.bumpField_keeps
    | with_reducible apply State.commitTo_keeps
    | with_reducible apply State.setImage_keeps
    | with_reducible apply haltPlots_keeps
    | with_reducible apply State.imageFault_keeps
    | with_reducible apply State.enableAll_keeps
    | with_reducible apply releasePlots_keeps
    | (with_reducible apply Keeps.ite) <;> intro _

theorem State.imageAtBoundary_keeps {s0 : State} {s : State} {n : Nat} {at_ : Nat} {taken : Bool} (hs : Keeps s0 s) :
    Keeps s0 (State.imageAtBoundary s n at_ taken) := by
  unfold State.imageAtBoundary
  repeat' first
    | with_reducible exact hs
    | with_reducible assumption
    | (intro _)
    | with_reducible apply State.endRolling_keeps
    | with_reducible apply State.endPhase_keeps
    | with_reducible apply State.beginPhase_keeps
    | (with_reducible apply Keeps.ite) <;> intro _

theorem State.drainAbort_keeps {s0 : State} {s : State} {f : FaultArgs} (hs : Keeps s0 s) :
    Keeps s0 (State.drainAbort s f) := by
  unfold State.drainAbort
  repeat' first
    | with_reducible exact hs
    | with_reducible assumption
    | (intro _)
    | with_reducible apply State.bump_keeps
    | with_reducible apply State.raise_keeps

theorem abortTransfers_keeps {s0 : State} {g : Nat} {a2 : List Transfer} {a3 : State} (ha3 : Keeps s0 a3) :
    Keeps s0 (abortTransfers g a2 a3) := by
  induction a2 generalizing a3 with
  | nil =>
    unfold abortTransfers
    repeat' first
      | with_reducible exact ha3
  | cons x xs ih =>
    unfold abortTransfers
    repeat' first
      | with_reducible exact ha3
      | with_reducible exact ih
      | with_reducible assumption
      | (intro _)
      | with_reducible apply ih
      | with_reducible apply State.drainAbort_keeps
      | (with_reducible apply Keeps.ite) <;> intro _

theorem abortQueued_keeps {s0 : State} {g : Nat} {a2 : List QueuedInstr} {a3 : State} (ha3 : Keeps s0 a3) :
    Keeps s0 (abortQueued g a2 a3) := by
  induction a2 generalizing a3 with
  | nil =>
    unfold abortQueued
    repeat' first
      | with_reducible exact ha3
  | cons x xs ih =>
    unfold abortQueued
    repeat' first
      | with_reducible exact ha3
      | with_reducible exact ih
      | with_reducible assumption
      | (intro _)
      | with_reducible apply ih
      | with_reducible apply State.drainAbort_keeps

theorem drainGlades_keeps {s0 : State} {a1 : List Nat} {a2 : State} (ha2 : Keeps s0 a2) :
    Keeps s0 (drainGlades a1 a2) := by
  induction a1 generalizing a2 with
  | nil =>
    unfold drainGlades
    repeat' first
      | with_reducible exact ha2
  | cons x xs ih =>
    unfold drainGlades
    repeat' first
      | with_reducible exact ha2
      | with_reducible exact ih
      | with_reducible assumption
      | (intro _)
      | with_reducible apply ih
      | with_reducible apply abortTransfers_keeps
      | with_reducible apply abortQueued_keeps
      | with_reducible apply State.setGlade_keeps
      | (with_reducible apply Keeps.ite) <;> intro _

theorem drainPlots_keeps {s0 : State} {a1 : List Nat} {a2 : State} (ha2 : Keeps s0 a2) :
    Keeps s0 (drainPlots a1 a2) := by
  induction a1 generalizing a2 with
  | nil =>
    unfold drainPlots
    repeat' first
      | with_reducible exact ha2
  | cons x xs ih =>
    unfold drainPlots
    repeat' first
      | with_reducible exact ha2
      | with_reducible exact ih
      | with_reducible assumption
      | (intro _)
      | with_reducible apply ih
      | with_reducible apply State.drainAbort_keeps
      | with_reducible apply State.halt_keeps
      | (with_reducible apply Keeps.ite) <;> intro _

theorem drainItems_keeps {s0 : State} {f : FaultArgs} {a2 : Nat} {a3 : State} (ha3 : Keeps s0 a3) :
    Keeps s0 (drainItems f a2 a3) := by
  induction a2 generalizing a3 with
  | zero =>
    unfold drainItems
    repeat' first
      | with_reducible exact ha3
  | succ k ih =>
    unfold drainItems
    repeat' first
      | with_reducible exact ha3
      | with_reducible exact ih
      | with_reducible assumption
      | (intro _)
      | with_reducible apply ih
      | with_reducible apply State.drainAbort_keeps

theorem drainPorts_keeps {s0 : State} {a1 : List Nat} {a2 : State} (ha2 : Keeps s0 a2) :
    Keeps s0 (drainPorts a1 a2) := by
  induction a1 generalizing a2 with
  | nil =>
    unfold drainPorts
    repeat' first
      | with_reducible exact ha2
  | cons x xs ih =>
    unfold drainPorts
    repeat' first
      | with_reducible exact ha2
      | with_reducible exact ih
      | with_reducible assumption
      | (intro _)
      | with_reducible apply ih
      | with_reducible apply State.setPort_keeps
      | with_reducible apply drainItems_keeps

theorem abortRepairs_keeps {s0 : State} {a1 : List RepairEntry} {a2 : State} (ha2 : Keeps s0 a2) :
    Keeps s0 (abortRepairs a1 a2) := by
  induction a1 generalizing a2 with
  | nil =>
    unfold abortRepairs
    repeat' first
      | with_reducible exact ha2
  | cons x xs ih =>
    unfold abortRepairs
    repeat' first
      | with_reducible exact ha2
      | with_reducible exact ih
      | with_reducible assumption
      | (intro _)
      | with_reducible apply ih
      | with_reducible apply State.drainAbort_keeps

theorem State.drainMemory_keeps {s0 : State} {s : State} (hs : Keeps s0 s) :
    Keeps s0 (State.drainMemory s) := by
  unfold State.drainMemory
  repeat' first
    | with_reducible exact hs
    | with_reducible assumption
    | (intro _)
    | with_reducible apply abortRepairs_keeps
    | with_reducible apply drainItems_keeps
    | split
    | (with_reducible refine Keeps.updMem ?_ ?_ ?_ ?_ ?_) <;> [skip; exact fun h => Memory.flushLate_wf h; rfl; rfl; rfl]

theorem execDrainLimitExpiry_keeps {s0 : State} {s : State} (hs : Keeps s0 s) :
    KeepsOut s0 (execDrainLimitExpiry s) := by
  unfold execDrainLimitExpiry
  repeat' first
    | with_reducible exact hs
    | with_reducible assumption
    | (intro _)
    | with_reducible apply KeepsOut.next
    | with_reducible exact KeepsOut.fault
    | with_reducible exact KeepsOut.refused
    | with_reducible apply drainGlades_keeps
    | with_reducible apply State.drainMemory_keeps
    | with_reducible apply drainPorts_keeps
    | with_reducible apply drainPlots_keeps
    | with_reducible apply State.setImage_keeps
    | (with_reducible apply KeepsOut.ite) <;> intro _

end Sys2Proof.Machine
end

