-- ==== Sys2Proof/Laws/KeepsSteps.lean ====
section
/-!
SUPPORT. What the operations of Machine/Steps.lean keep: one lemma for each that gives a state.
-/

namespace Sys2Proof.Machine

theorem State.noteMissed_keeps {s0 : State} {s : State} {k : Nat} (hs : Keeps s0 s) :
    Keeps s0 (State.noteMissed s k) := by
  unfold State.noteMissed
  repeat' first
    | with_reducible exact hs
    | with_reducible assumption
    | (intro _)
    | with_reducible apply State.setCause_keeps
    | with_reducible apply State.bumpField_keeps
    | (with_reducible apply Keeps.ite) <;> intro _

theorem State.setStep_keeps {s0 : State} {s : State} {x : StepState} (hs : Keeps s0 s) :
    Keeps s0 (State.setStep s x) := by
  unfold State.setStep
  repeat' first
    | with_reducible exact hs
    | with_reducible assumption
    | (intro _)
    | split
    | fail_if_no_progress ((with_reducible refine Keeps.upd ?_ ?_ ?_ ?_ ?_) <;> [skip; rfl; rfl; rfl; rfl])

theorem State.startPrograms_keeps {s0 : State} {s : State} {p : Nat} (hs : Keeps s0 s) :
    Keeps s0 (State.startPrograms s p) := by
  unfold State.startPrograms
  repeat' first
    | with_reducible exact hs
    | with_reducible assumption
    | (intro _)
    | with_reducible apply mapGlades_keeps

theorem startPlots_keeps {s0 : State} {a1 : List Nat} {a2 : State} (ha2 : Keeps s0 a2) :
    Keeps s0 (startPlots a1 a2) := by
  induction a1 generalizing a2 with
  | nil =>
    unfold startPlots
    repeat' first
      | with_reducible exact ha2
  | cons x xs ih =>
    unfold startPlots
    repeat' first
      | with_reducible exact ha2
      | with_reducible exact ih
      | with_reducible assumption
      | (intro _)
      | with_reducible apply ih
      | with_reducible apply State.poisonAt_keeps
      | with_reducible apply State.startPrograms_keeps
      | with_reducible apply State.setPlot_keeps
      | (with_reducible apply Keeps.ite) <;> intro _

theorem State.countStep_keeps {s0 : State} {s : State} (hs : Keeps s0 s) :
    Keeps s0 (State.countStep s) := by
  unfold State.countStep
  repeat' first
    | with_reducible exact hs
    | with_reducible assumption
    | (intro _)
    | split
    | fail_if_no_progress ((with_reducible refine Keeps.upd ?_ ?_ ?_ ?_ ?_) <;> [skip; rfl; rfl; rfl; rfl])

theorem State.startStep_keeps {s0 : State} {s : State} {n : Nat} (hs : Keeps s0 s) :
    Keeps s0 (State.startStep s n) := by
  unfold State.startStep
  repeat' first
    | with_reducible exact hs
    | with_reducible assumption
    | (intro _)
    | with_reducible apply State.setStep_keeps
    | with_reducible apply startPlots_keeps
    | with_reducible apply State.countStep_keeps
    | with_reducible apply mapGlades_keeps
    | with_reducible apply State.bump_keeps
    | with_reducible apply State.snapshot_keeps
    | (with_reducible apply Keeps.ite) <;> intro _

theorem State.suspendAt_keeps {s0 : State} {s : State} {n : Nat} (hs : Keeps s0 s) :
    Keeps s0 (State.suspendAt s n) := by
  unfold State.suspendAt
  repeat' first
    | with_reducible exact hs
    | with_reducible assumption
    | (intro _)
    | with_reducible apply State.noteMissed_keeps
    | (with_reducible apply Keeps.ite) <;> intro _
    | split
    | fail_if_no_progress ((with_reducible refine Keeps.upd ?_ ?_ ?_ ?_ ?_) <;> [skip; rfl; rfl; rfl; rfl])

theorem State.leaveS1_keeps {s0 : State} {s : State} (hs : Keeps s0 s) :
    Keeps s0 (State.leaveS1 s) := by
  unfold State.leaveS1
  repeat' first
    | with_reducible exact hs
    | with_reducible assumption
    | (intro _)
    | (with_reducible apply Keeps.ite) <;> intro _
    | split
    | fail_if_no_progress ((with_reducible refine Keeps.upd ?_ ?_ ?_ ?_ ?_) <;> [skip; rfl; rfl; rfl; rfl])

theorem execStepBoundary_keeps {s0 : State} {s : State} (hs : Keeps s0 s) :
    KeepsOut s0 (execStepBoundary s) := by
  unfold execStepBoundary
  repeat' first
    | with_reducible exact hs
    | with_reducible assumption
    | (intro _)
    | with_reducible apply KeepsOut.next
    | with_reducible exact KeepsOut.fault
    | with_reducible exact KeepsOut.refused
    | with_reducible apply State.suspendAt_keeps
    | with_reducible apply State.setStep_keeps
    | with_reducible apply State.setReg_keeps
    | with_reducible apply State.startStep_keeps
    | with_reducible apply State.imageAtBoundary_keeps
    | with_reducible apply State.leaveS1_keeps
    | with_reducible apply State.noteMissed_keeps
    | (with_reducible apply KeepsOut.ite) <;> intro _
    | split

theorem State.lkWrite_keeps {s0 : State} {s : State} {k : State → State} (hs : Keeps s0 s) (hk : ∀ x0, Keeps s0 x0 → Keeps s0 (k x0)) :
    Keeps s0 (State.lkWrite s k) := by
  unfold State.lkWrite
  repeat' first
    | with_reducible exact hs
    | with_reducible exact hk
    | with_reducible apply hk
    | with_reducible assumption
    | (intro _)
    | with_reducible apply State.setCause_keeps
    | (with_reducible apply Keeps.ite) <;> intro _

theorem State.writePeriod_keeps {s0 : State} {s : State} {w : Word} (hs : Keeps s0 s) :
    Keeps s0 (State.writePeriod s w) := by
  unfold State.writePeriod
  repeat' first
    | with_reducible exact hs
    | with_reducible assumption
    | (intro _)
    | with_reducible apply State.setStep_keeps
    | with_reducible apply State.configFault_keeps
    | with_reducible apply State.startStepping_keeps
    | with_reducible apply State.setReg_keeps
    | (with_reducible apply Keeps.ite) <;> intro _

theorem execStepPeriodWrite_keeps {s0 : State} {data : BitVec 32} {s : State} (hs : Keeps s0 s) :
    KeepsOut s0 (execStepPeriodWrite data s) := by
  unfold execStepPeriodWrite
  repeat' first
    | with_reducible exact hs
    | with_reducible assumption
    | (intro _)
    | with_reducible apply KeepsOut.next
    | with_reducible exact KeepsOut.fault
    | with_reducible exact KeepsOut.refused
    | with_reducible apply onReg_keeps
    | with_reducible apply State.lkWrite_keeps
    | with_reducible apply State.writePeriod_keeps

theorem execStepBaseWrite_keeps {s0 : State} {hi : Bool} {data : BitVec 32} {s : State} (hs : Keeps s0 s) :
    KeepsOut s0 (execStepBaseWrite hi data s) := by
  unfold execStepBaseWrite
  repeat' first
    | with_reducible exact hs
    | with_reducible assumption
    | (intro _)
    | with_reducible apply KeepsOut.next
    | with_reducible exact KeepsOut.fault
    | with_reducible exact KeepsOut.refused
    | with_reducible apply onReg_keeps
    | with_reducible apply State.lkWrite_keeps
    | with_reducible apply State.setReg_keeps
    | (with_reducible apply Keeps.ite) <;> intro _

theorem execStepStop_keeps {s0 : State} {s : State} (hs : Keeps s0 s) :
    KeepsOut s0 (execStepStop s) := by
  unfold execStepStop
  repeat' first
    | with_reducible exact hs
    | with_reducible assumption
    | (intro _)
    | with_reducible apply KeepsOut.next
    | with_reducible exact KeepsOut.fault
    | with_reducible exact KeepsOut.refused
    | with_reducible apply onReg_keeps
    | with_reducible apply State.lkWrite_keeps
    | with_reducible apply State.writePeriod_keeps

theorem execNumLrecBaseWrite_keeps {s0 : State} {data : BitVec 32} {s : State} (hs : Keeps s0 s) :
    KeepsOut s0 (execNumLrecBaseWrite data s) := by
  unfold execNumLrecBaseWrite
  repeat' first
    | with_reducible exact hs
    | with_reducible assumption
    | (intro _)
    | with_reducible apply KeepsOut.next
    | with_reducible exact KeepsOut.fault
    | with_reducible exact KeepsOut.refused
    | with_reducible apply onReg_keeps
    | with_reducible apply State.lkWrite_keeps
    | with_reducible apply State.storeRecord_keeps

theorem execReplayStart_keeps {s0 : State} {plot : BitVec 6} {s : State} (hs : Keeps s0 s) :
    KeepsOut s0 (execReplayStart plot s) := by
  unfold execReplayStart
  repeat' first
    | with_reducible exact hs
    | with_reducible assumption
    | (intro _)
    | with_reducible apply KeepsOut.next
    | with_reducible exact KeepsOut.fault
    | with_reducible exact KeepsOut.refused
    | with_reducible apply State.setPlot_keeps
    | with_reducible apply mapGlades_keeps
    | with_reducible apply State.setStep_keeps
    | (with_reducible apply KeepsOut.ite) <;> intro _

theorem State.setPhys_keeps {s0 : State} {s : State} {ph : Nat} {x : PhysGlade} (hs : Keeps s0 s) :
    Keeps s0 (State.setPhys s ph x) := by
  unfold State.setPhys
  repeat' first
    | with_reducible exact hs
    | with_reducible assumption
    | (intro _)
    | split
    | fail_if_no_progress ((with_reducible refine Keeps.upd ?_ ?_ ?_ ?_ ?_) <;> [skip; rfl; rfl; rfl; rfl])

theorem State.failSlow_keeps {s0 : State} {s : State} {gv : Nat} {k : Nat} (hs : Keeps s0 s) :
    Keeps s0 (State.failSlow s gv k) := by
  unfold State.failSlow
  repeat' first
    | with_reducible exact hs
    | with_reducible assumption
    | (intro _)
    | with_reducible apply State.setField_keeps
    | (with_reducible apply Keeps.ite) <;> intro _

theorem State.remapTo_keeps {s0 : State} {s : State} {gv : Nat} {k : Nat} {g : Nat} (hs : Keeps s0 s) :
    Keeps s0 (State.remapTo s gv k g) := by
  unfold State.remapTo
  repeat' first
    | with_reducible exact hs
    | with_reducible assumption
    | (intro _)
    | with_reducible apply State.moveGlade_keeps
    | with_reducible apply State.setField_keeps
    | with_reducible apply State.setGlade_keeps
    | (with_reducible apply Keeps.ite) <;> intro _
    | split
    | fail_if_no_progress ((with_reducible refine Keeps.upd ?_ ?_ ?_ ?_ ?_) <;> [skip; rfl; rfl; rfl; rfl])

theorem State.loseSpare_keeps {s0 : State} {s : State} {ph : Nat} (hs : Keeps s0 s) :
    Keeps s0 (State.loseSpare s ph) := by
  unfold State.loseSpare
  repeat' first
    | with_reducible exact hs
    | with_reducible assumption
    | (intro _)
    | with_reducible apply State.setField_keeps
    | (with_reducible apply Keeps.ite) <;> intro _

theorem State.unserve_keeps {s0 : State} {s : State} {gv : Nat} {g : Nat} {k : Nat} (hs : Keeps s0 s) :
    Keeps s0 (State.unserve s gv g k) := by
  unfold State.unserve
  repeat' first
    | with_reducible exact hs
    | with_reducible assumption
    | (intro _)
    | with_reducible apply State.setField_keeps
    | (with_reducible apply Keeps.ite) <;> intro _

theorem State.replaceGlade_keeps {s0 : State} {s : State} {gv : Nat} {g : Nat} (hs : Keeps s0 s) :
    Keeps s0 (State.replaceGlade s gv g) := by
  unfold State.replaceGlade
  repeat' first
    | with_reducible exact hs
    | with_reducible assumption
    | (intro _)
    | with_reducible apply State.failSlow_keeps
    | with_reducible apply State.remapTo_keeps
    | with_reducible apply State.unserve_keeps
    | with_reducible apply State.setField_keeps
    | with_reducible apply State.halt_keeps
    | split
    | fail_if_no_progress ((with_reducible refine Keeps.upd ?_ ?_ ?_ ?_ ?_) <;> [skip; rfl; rfl; rfl; rfl])
    | dsimp only

theorem remapWaiting_keeps {s0 : State} {a1 : List (BitVec 10)} {a2 : State} (ha2 : Keeps s0 a2) :
    Keeps s0 (remapWaiting a1 a2) := by
  induction a1 generalizing a2 with
  | nil =>
    unfold remapWaiting
    repeat' first
      | with_reducible exact ha2
  | cons x xs ih =>
    unfold remapWaiting
    repeat' first
      | with_reducible exact ha2
      | with_reducible exact ih
      | with_reducible assumption
      | (intro _)
      | with_reducible apply ih
      | with_reducible apply State.replaceGlade_keeps

theorem execClearingComplete_keeps {s0 : State} {s : State} (hs : Keeps s0 s) :
    KeepsOut s0 (execClearingComplete s) := by
  unfold execClearingComplete
  repeat' first
    | with_reducible exact hs
    | with_reducible assumption
    | (intro _)
    | with_reducible apply KeepsOut.next
    | with_reducible exact KeepsOut.fault
    | with_reducible exact KeepsOut.refused
    | with_reducible apply remapWaiting_keeps
    | (with_reducible apply KeepsOut.ite) <;> intro _
    | split
    | fail_if_no_progress ((with_reducible refine Keeps.upd ?_ ?_ ?_ ?_ ?_) <;> [skip; rfl; rfl; rfl; rfl])

theorem execGladeFailure_keeps {s0 : State} {phys : BitVec 11} {cause : BitVec 8} {s : State} (hs : Keeps s0 s) :
    KeepsOut s0 (execGladeFailure phys cause s) := by
  unfold execGladeFailure
  repeat' first
    | with_reducible exact hs
    | with_reducible assumption
    | (intro _)
    | with_reducible apply KeepsOut.next
    | with_reducible exact KeepsOut.fault
    | with_reducible exact KeepsOut.refused
    | with_reducible apply State.history_keeps
    | with_reducible apply State.setPhys_keeps
    | with_reducible apply State.failSlow_keeps
    | with_reducible apply State.loseSpare_keeps
    | with_reducible apply State.abandonFault_keeps
    | with_reducible apply State.raise_keeps
    | with_reducible apply State.replaceGlade_keeps
    | (with_reducible apply Keeps.ite) <;> intro _
    | (with_reducible apply KeepsOut.ite) <;> intro _
    | split
    | fail_if_no_progress ((with_reducible refine Keeps.upd ?_ ?_ ?_ ?_ ?_) <;> [skip; rfl; rfl; rfl; rfl])

theorem execGladeRemapRefillDone_keeps {s0 : State} {g : BitVec 10} {s : State} (hs : Keeps s0 s) :
    KeepsOut s0 (execGladeRemapRefillDone g s) := by
  unfold execGladeRemapRefillDone
  repeat' first
    | with_reducible exact hs
    | with_reducible assumption
    | (intro _)
    | with_reducible apply KeepsOut.next
    | with_reducible exact KeepsOut.fault
    | with_reducible exact KeepsOut.refused
    | with_reducible apply refillGlades_keeps
    | with_reducible apply State.setImage_keeps
    | (with_reducible apply KeepsOut.ite) <;> intro _
    | split
    | fail_if_no_progress ((with_reducible refine Keeps.upd ?_ ?_ ?_ ?_ ?_) <;> [skip; rfl; rfl; rfl; rfl])

end Sys2Proof.Machine
end

