-- ==== Sys2Proof/Laws/KeepsLife.lean ====
section
/-!
SUPPORT. What the operations of Machine/Life.lean keep: one lemma for each that gives a state.
-/

namespace Sys2Proof.Machine

theorem State.setDep_keeps {s0 s : State} {d : Depend} (hs : Keeps s0 s) (hq : d.queue = s.dep.queue)
    (hl : d.latched = s.dep.latched) : Keeps s0 (State.setDep s d) := Keeps.upd hs hq hl rfl rfl

theorem ageAll_keeps {s0 : State} {a1 : List Nat} {a2 : State} (ha2 : Keeps s0 a2) :
    Keeps s0 (ageAll a1 a2) := by
  induction a1 generalizing a2 with
  | nil =>
    unfold ageAll
    repeat' first
      | with_reducible exact ha2
  | cons x xs ih =>
    unfold ageAll
    repeat' first
      | with_reducible exact ha2
      | with_reducible exact ih
      | with_reducible assumption
      | (intro _)
      | with_reducible apply ih
      | with_reducible apply State.setPhys_keeps
      | split

theorem State.updateWear_keeps {s0 : State} {s : State} (hs : Keeps s0 s) :
    Keeps s0 (State.updateWear s) := by
  unfold State.updateWear
  repeat' first
    | with_reducible exact hs
    | with_reducible assumption
    | (intro _)
    | (with_reducible refine State.setDep_keeps ?_ ?_ ?_) <;> [skip; rfl; rfl]

theorem State.writeSnap_keeps {s0 : State} {s : State} {i : Nat} {seq : Nat} {ok : Bool} (hs : Keeps s0 s) :
    Keeps s0 (State.writeSnap s i seq ok) := by
  unfold State.writeSnap
  repeat' first
    | with_reducible exact hs
    | with_reducible assumption
    | (intro _)
    | with_reducible apply State.norErase_keeps
    | with_reducible apply State.norWrite_keeps
    | (with_reducible refine State.setDep_keeps ?_ ?_ ?_) <;> [skip; rfl; rfl]
    | with_reducible apply State.drawBytes_keeps
    | refine State.drawBytes_keeps_pair (by assumption) ?_
    | (with_reducible apply Keeps.ite) <;> intro _

theorem State.takeSnapshot_keeps {s0 : State} {s : State} {writeOk : Bool} {retryOk : Bool} (hs : Keeps s0 s) :
    Keeps s0 (State.takeSnapshot s writeOk retryOk) := by
  unfold State.takeSnapshot
  repeat' first
    | with_reducible exact hs
    | with_reducible assumption
    | (intro _)
    | with_reducible apply ageAll_keeps
    | with_reducible apply State.writeSnap_keeps
    | with_reducible apply State.updateWear_keeps
    | with_reducible apply State.raise_keeps
    | (with_reducible refine State.setDep_keeps ?_ ?_ ?_) <;> [skip; rfl; rfl]
    | (with_reducible apply Keeps.ite) <;> intro _

theorem execLifetimeSnapshot_keeps {s0 : State} {writeOk : Bool} {retryOk : Bool} {s : State} (hs : Keeps s0 s) :
    KeepsOut s0 (execLifetimeSnapshot writeOk retryOk s) := by
  unfold execLifetimeSnapshot
  repeat' first
    | with_reducible exact hs
    | with_reducible assumption
    | (intro _)
    | with_reducible apply KeepsOut.next
    | with_reducible exact KeepsOut.fault
    | with_reducible exact KeepsOut.refused
    | with_reducible apply State.takeSnapshot_keeps
    | (with_reducible apply KeepsOut.ite) <;> intro _

theorem State.flushLife_keeps {s0 : State} {s : State} {data : Word} {writeOk : Bool} {retryOk : Bool} (hs : Keeps s0 s) :
    Keeps s0 (State.flushLife s data writeOk retryOk) := by
  unfold State.flushLife
  repeat' first
    | with_reducible exact hs
    | with_reducible assumption
    | (intro _)
    | with_reducible apply State.takeSnapshot_keeps
    | (with_reducible apply Keeps.ite) <;> intro _

theorem execLifeFlush_keeps {s0 : State} {data : BitVec 32} {writeOk : Bool} {retryOk : Bool} {s : State} (hs : Keeps s0 s) :
    KeepsOut s0 (execLifeFlush data writeOk retryOk s) := by
  unfold execLifeFlush
  repeat' first
    | with_reducible exact hs
    | with_reducible assumption
    | (intro _)
    | with_reducible apply KeepsOut.next
    | with_reducible exact KeepsOut.fault
    | with_reducible exact KeepsOut.refused
    | with_reducible apply State.flushLife_keeps
    | (with_reducible apply KeepsOut.ite) <;> intro _

theorem State.putHist_keeps {s0 : State} {s : State} {bs : List Byte} (hs : Keeps s0 s) :
    Keeps s0 (State.putHist s bs) := by
  unfold State.putHist
  repeat' first
    | with_reducible exact hs
    | with_reducible assumption
    | (intro _)
    | with_reducible apply State.norWrite_keeps
    | (with_reducible refine State.setDep_keeps ?_ ?_ ?_) <;> [skip; rfl; rfl]

theorem putHists_keeps {s0 : State} {a1 : List (List Byte)} {a2 : State} (ha2 : Keeps s0 a2) :
    Keeps s0 (putHists a1 a2) := by
  induction a1 generalizing a2 with
  | nil =>
    unfold putHists
    repeat' first
      | with_reducible exact ha2
  | cons x xs ih =>
    unfold putHists
    repeat' first
      | with_reducible exact ha2
      | with_reducible exact ih
      | with_reducible assumption
      | (intro _)
      | with_reducible apply ih
      | with_reducible apply State.putHist_keeps

theorem eraseOld_keeps {s0 : State} {a1 : List Nat} {a2 : State} (ha2 : Keeps s0 a2) :
    Keeps s0 (eraseOld a1 a2) := by
  induction a1 generalizing a2 with
  | nil =>
    unfold eraseOld
    repeat' first
      | with_reducible exact ha2
  | cons x xs ih =>
    unfold eraseOld
    repeat' first
      | with_reducible exact ha2
      | with_reducible exact ih
      | with_reducible assumption
      | (intro _)
      | with_reducible apply ih
      | with_reducible apply State.norErase_keeps
      | (with_reducible apply Keeps.ite) <;> intro _

theorem State.consolidate_keeps {s0 : State} {s : State} (hs : Keeps s0 s) :
    Keeps s0 (State.consolidate s) := by
  unfold State.consolidate
  repeat' first
    | with_reducible exact hs
    | with_reducible assumption
    | (intro _)
    | with_reducible apply putHists_keeps
    | with_reducible apply eraseOld_keeps

theorem State.writeHist_keeps {s0 : State} {s : State} {e : HistEvent} {rest : List HistEvent} (hs : Keeps s0 s) :
    Keeps s0 (State.writeHist s e rest) := by
  unfold State.writeHist
  repeat' first
    | with_reducible exact hs
    | with_reducible assumption
    | (intro _)
    | (with_reducible refine State.setDep_keeps ?_ ?_ ?_) <;> [skip; rfl; rfl]
    | with_reducible apply State.putHist_keeps
    | with_reducible apply State.consolidate_keeps
    | with_reducible apply State.drawBool_keeps
    | refine State.drawBool_keeps_pair (by assumption) ?_
    | with_reducible apply State.takeSnapshot_keeps
    | (with_reducible apply Keeps.ite) <;> intro _

theorem execHistoryEntryWrite_keeps {s0 : State} {s : State} (hs : Keeps s0 s) :
    KeepsOut s0 (execHistoryEntryWrite s) := by
  unfold execHistoryEntryWrite
  repeat' first
    | with_reducible exact hs
    | with_reducible assumption
    | (intro _)
    | with_reducible apply KeepsOut.next
    | with_reducible exact KeepsOut.fault
    | with_reducible exact KeepsOut.refused
    | with_reducible apply State.writeHist_keeps
    | (with_reducible apply KeepsOut.ite) <;> intro _
    | split

theorem applyForce_keeps {s0 : State} {a1 : List InForce} {a2 : State} (ha2 : Keeps s0 a2) :
    Keeps s0 (applyForce a1 a2) := by
  induction a1 generalizing a2 with
  | nil =>
    unfold applyForce
    repeat' first
      | with_reducible exact ha2
  | cons x xs ih =>
    unfold applyForce
    repeat' first
      | with_reducible exact ha2
      | with_reducible exact ih
      | with_reducible assumption
      | (intro _)
      | with_reducible apply ih
      | with_reducible apply State.setPhys_keeps
      | (with_reducible apply Keeps.ite) <;> intro _
      | split
      | fail_if_no_progress ((with_reducible refine Keeps.upd ?_ ?_ ?_ ?_ ?_) <;> [skip; rfl; rfl; rfl; rfl])

theorem State.restoreHist_keeps {s0 : State} {s : State} (hs : Keeps s0 s) :
    Keeps s0 (State.restoreHist s) := by
  unfold State.restoreHist
  repeat' first
    | with_reducible exact hs
    | with_reducible assumption
    | (intro _)
    | with_reducible apply applyForce_keeps
    | (with_reducible refine State.setDep_keeps ?_ ?_ ?_) <;> [skip; rfl; rfl]
    | with_reducible apply State.raise_keeps
    | (with_reducible apply Keeps.ite) <;> intro _

theorem restoreAgeing_keeps {s0 : State} {bs : List Byte} {a2 : List Nat} {a3 : State} (ha3 : Keeps s0 a3) :
    Keeps s0 (restoreAgeing bs a2 a3) := by
  induction a2 generalizing a3 with
  | nil =>
    unfold restoreAgeing
    repeat' first
      | with_reducible exact ha3
  | cons x xs ih =>
    unfold restoreAgeing
    repeat' first
      | with_reducible exact ha3
      | with_reducible exact ih
      | with_reducible assumption
      | (intro _)
      | with_reducible apply ih
      | with_reducible apply State.setPhys_keeps

theorem clearAgeing_keeps {s0 : State} {a1 : List Nat} {a2 : State} (ha2 : Keeps s0 a2) :
    Keeps s0 (clearAgeing a1 a2) := by
  induction a1 generalizing a2 with
  | nil =>
    unfold clearAgeing
    repeat' first
      | with_reducible exact ha2
  | cons x xs ih =>
    unfold clearAgeing
    repeat' first
      | with_reducible exact ha2
      | with_reducible exact ih
      | with_reducible assumption
      | (intro _)
      | with_reducible apply ih
      | with_reducible apply State.setPhys_keeps

theorem State.countersFresh_keeps {s0 : State} {s : State} (hs : Keeps s0 s) :
    Keeps s0 (State.countersFresh s) := by
  unfold State.countersFresh
  repeat' first
    | with_reducible exact hs
    | with_reducible apply clearAgeing_keeps
    | (with_reducible refine State.setDep_keeps ?_ ?_ ?_) <;> [skip; rfl; rfl]

theorem State.restoreLife_keeps {s0 : State} {s : State} (hs : Keeps s0 s) :
    Keeps s0 (State.restoreLife s) := by
  unfold State.restoreLife
  repeat' first
    | with_reducible exact hs
    | with_reducible assumption
    | (intro _)
    | with_reducible apply restoreAgeing_keeps
    | (with_reducible refine State.setDep_keeps ?_ ?_ ?_) <;> [skip; rfl; rfl]
    | with_reducible apply State.countersFresh_keeps
    | with_reducible apply State.raise_keeps
    | with_reducible apply State.restoreHist_keeps
    | split

theorem State.commitCal_keeps {s0 : State} {s : State} (hs : Keeps s0 s) :
    Keeps s0 (State.commitCal s) := by
  unfold State.commitCal
  repeat' first
    | with_reducible exact hs
    | with_reducible assumption
    | (intro _)
    | (with_reducible refine State.setDep_keeps ?_ ?_ ?_) <;> [skip; rfl; rfl]
    | with_reducible apply State.history_keeps
    | (with_reducible apply Keeps.ite) <;> intro _

theorem execCalendarCommit_keeps {s0 : State} {data : BitVec 32} {s : State} (hs : Keeps s0 s) :
    KeepsOut s0 (execCalendarCommit data s) := by
  unfold execCalendarCommit
  repeat' first
    | with_reducible exact hs
    | with_reducible assumption
    | (intro _)
    | with_reducible apply KeepsOut.next
    | with_reducible exact KeepsOut.fault
    | with_reducible exact KeepsOut.refused
    | with_reducible apply State.commitCal_keeps
    | with_reducible apply State.setReg_keeps
    | (with_reducible apply KeepsOut.ite) <;> intro _

theorem State.attach_keeps {s0 : State} {s : State} (hs : Keeps s0 s) :
    Keeps s0 (State.attach s) := by
  unfold State.attach
  repeat' first
    | with_reducible exact hs
    | with_reducible assumption
    | (intro _)
    | (with_reducible refine State.setDep_keeps ?_ ?_ ?_) <;> [skip; rfl; rfl]
    | (with_reducible apply Keeps.ite) <;> intro _

end Sys2Proof.Machine
end

