-- ==== Sys2Proof/Laws/KeepsHostLink.lean ====
section
/-!
SUPPORT. What the operations of Machine/HostLink.lean keep: one lemma for each that gives a state.
-/

namespace Sys2Proof.Machine

theorem State.alaporTrains_keeps {s0 : State} {s : State} (hs : Keeps s0 s) :
    Keeps s0 (State.alaporTrains s) := by
  unfold State.alaporTrains
  repeat' first
    | with_reducible exact hs
    | with_reducible assumption
    | (intro _)
    | split
    | fail_if_no_progress ((with_reducible refine Keeps.upd ?_ ?_ ?_ ?_ ?_) <;> [skip; rfl; rfl; rfl; rfl])

theorem State.alaporDown_keeps {s0 : State} {s : State} (hs : Keeps s0 s) :
    Keeps s0 (State.alaporDown s) := by
  unfold State.alaporDown
  repeat' first
    | with_reducible exact hs
    | with_reducible assumption
    | (intro _)
    | with_reducible apply State.alaporTrains_keeps
    | split
    | fail_if_no_progress ((with_reducible refine Keeps.upd ?_ ?_ ?_ ?_ ?_) <;> [skip; rfl; rfl; rfl; rfl])

theorem State.alaporUp_keeps {s0 : State} {s : State} (hs : Keeps s0 s) :
    Keeps s0 (State.alaporUp s) := by
  unfold State.alaporUp
  repeat' first
    | with_reducible exact hs
    | with_reducible assumption
    | (intro _)
    | with_reducible apply State.attach_keeps
    | split
    | fail_if_no_progress ((with_reducible refine Keeps.upd ?_ ?_ ?_ ?_ ?_) <;> [skip; rfl; rfl; rfl; rfl])

theorem State.ohmipItem_keeps {s0 : State} {s : State} {item : List Byte} (hs : Keeps s0 s) :
    Keeps s0 (State.ohmipItem s item) := by
  unfold State.ohmipItem
  repeat' first
    | with_reducible exact hs
    | with_reducible assumption
    | (intro _)
    | split
    | fail_if_no_progress ((with_reducible refine Keeps.upd ?_ ?_ ?_ ?_ ?_) <;> [skip; rfl; rfl; rfl; rfl])

theorem execOhmipTraining_keeps {s0 : State} {ok : Bool} {s : State} (hs : Keeps s0 s) :
    KeepsOut s0 (execOhmipTraining ok s) := by
  unfold execOhmipTraining
  repeat' first
    | with_reducible exact hs
    | with_reducible assumption
    | (intro _)
    | with_reducible apply KeepsOut.next
    | with_reducible exact KeepsOut.fault
    | with_reducible exact KeepsOut.refused
    | with_reducible apply State.ohmipItem_keeps
    | (with_reducible apply KeepsOut.ite) <;> intro _
    | split
    | fail_if_no_progress ((with_reducible refine Keeps.upd ?_ ?_ ?_ ?_ ?_) <;> [skip; rfl; rfl; rfl; rfl])

theorem State.streamUp_keeps {s0 : State} {s : State} {v : Nat} {w0 : BitVec 64} {w1 : BitVec 64} {w2 : BitVec 64} (hs : Keeps s0 s) :
    Keeps s0 (State.streamUp s v w0 w1 w2) := by
  unfold State.streamUp
  repeat' first
    | with_reducible exact hs
    | with_reducible assumption
    | (intro _)
    | with_reducible apply State.pump_keeps
    | split
    | fail_if_no_progress ((with_reducible refine Keeps.upd ?_ ?_ ?_ ?_ ?_) <;> [skip; rfl; rfl; rfl; rfl])

theorem execHello_keeps {s0 : State} {w0 : BitVec 64} {w1 : BitVec 64} {w2 : BitVec 64} {s : State} (hs : Keeps s0 s) :
    KeepsOut s0 (execHello w0 w1 w2 s) := by
  unfold execHello
  repeat' first
    | with_reducible exact hs
    | with_reducible assumption
    | (intro _)
    | with_reducible apply KeepsOut.next
    | with_reducible exact KeepsOut.fault
    | with_reducible exact KeepsOut.refused
    | with_reducible apply State.ohmipRetrain_keeps
    | with_reducible apply State.streamUp_keeps
    | (with_reducible apply KeepsOut.ite) <;> intro _
    | split
    | fail_if_no_progress ((with_reducible refine Keeps.upd ?_ ?_ ?_ ?_ ?_) <;> [skip; rfl; rfl; rfl; rfl])

theorem execOhmipLinkStatus_keeps {s0 : State} {w0 : BitVec 64} {w1 : BitVec 64} {s : State} (hs : Keeps s0 s) :
    KeepsOut s0 (execOhmipLinkStatus w0 w1 s) := by
  unfold execOhmipLinkStatus
  repeat' first
    | with_reducible exact hs
    | with_reducible assumption
    | (intro _)
    | with_reducible apply KeepsOut.next
    | with_reducible exact KeepsOut.fault
    | with_reducible exact KeepsOut.refused
    | with_reducible apply State.ohmipRetrain_keeps
    | with_reducible apply State.pump_keeps
    | (with_reducible apply KeepsOut.ite) <;> intro _
    | split
    | fail_if_no_progress ((with_reducible refine Keeps.upd ?_ ?_ ?_ ?_ ?_) <;> [skip; rfl; rfl; rfl; rfl])

theorem execOhmipReplayRequest_keeps {s0 : State} {w0 : BitVec 64} {s : State} (hs : Keeps s0 s) :
    KeepsOut s0 (execOhmipReplayRequest w0 s) := by
  unfold execOhmipReplayRequest
  repeat' first
    | with_reducible exact hs
    | with_reducible assumption
    | (intro _)
    | with_reducible apply KeepsOut.next
    | with_reducible exact KeepsOut.fault
    | with_reducible exact KeepsOut.refused
    | with_reducible apply State.ohmipRetrain_keeps
    | with_reducible apply State.bump_keeps
    | (with_reducible apply KeepsOut.ite) <;> intro _
    | split
    | fail_if_no_progress ((with_reducible refine Keeps.upd ?_ ?_ ?_ ?_ ?_) <;> [skip; rfl; rfl; rfl; rfl])

theorem fecLanes_keeps {s0 : State} {a1 : List Nat} {a2 : State} (ha2 : Keeps s0 a2) :
    Keeps s0 (fecLanes a1 a2) := by
  induction a1 generalizing a2 with
  | nil =>
    unfold fecLanes
    repeat' first
      | with_reducible exact ha2
  | cons x xs ih =>
    unfold fecLanes
    repeat' first
      | with_reducible exact ha2
      | with_reducible exact ih
      | with_reducible assumption
      | (intro _)
      | with_reducible apply ih
      | with_reducible apply State.countFec_keeps

theorem execOhmipUncorrectableBlock_keeps {s0 : State} {block : BitVec 16} {s : State} (hs : Keeps s0 s) :
    KeepsOut s0 (execOhmipUncorrectableBlock block s) := by
  unfold execOhmipUncorrectableBlock
  repeat' first
    | with_reducible exact hs
    | with_reducible assumption
    | (intro _)
    | with_reducible apply KeepsOut.next
    | with_reducible exact KeepsOut.fault
    | with_reducible exact KeepsOut.refused
    | with_reducible apply fecLanes_keeps
    | with_reducible apply State.ohmipItem_keeps
    | (with_reducible apply KeepsOut.ite) <;> intro _
    | split
    | fail_if_no_progress ((with_reducible refine Keeps.upd ?_ ?_ ?_ ?_ ?_) <;> [skip; rfl; rfl; rfl; rfl])

theorem execOhmipLaneLoss_keeps {s0 : State} {_lane : BitVec 3} {s : State} (hs : Keeps s0 s) :
    KeepsOut s0 (execOhmipLaneLoss _lane s) := by
  unfold execOhmipLaneLoss
  repeat' first
    | with_reducible exact hs
    | with_reducible assumption
    | (intro _)
    | with_reducible apply KeepsOut.next
    | with_reducible exact KeepsOut.fault
    | with_reducible exact KeepsOut.refused
    | with_reducible apply State.ohmipDown_keeps
    | (with_reducible apply KeepsOut.ite) <;> intro _

theorem execOrefLoss_keeps {s0 : State} {s : State} (hs : Keeps s0 s) :
    KeepsOut s0 (execOrefLoss s) := by
  unfold execOrefLoss
  repeat' first
    | with_reducible exact hs
    | with_reducible assumption
    | (intro _)
    | with_reducible apply KeepsOut.next
    | with_reducible exact KeepsOut.fault
    | with_reducible exact KeepsOut.refused
    | with_reducible apply State.setRing_keeps
    | with_reducible apply State.ohmipDown_keeps
    | with_reducible apply State.alaporDown_keeps
    | with_reducible apply State.clockFault_keeps
    | (with_reducible apply KeepsOut.ite) <;> intro _

theorem execOrefReturn_keeps {s0 : State} {s : State} (hs : Keeps s0 s) :
    KeepsOut s0 (execOrefReturn s) := by
  unfold execOrefReturn
  repeat' first
    | with_reducible exact hs
    | with_reducible assumption
    | (intro _)
    | with_reducible apply KeepsOut.next
    | with_reducible exact KeepsOut.fault
    | with_reducible exact KeepsOut.refused
    | with_reducible apply State.setRing_keeps
    | with_reducible apply State.alaporTrains_keeps
    | (with_reducible apply KeepsOut.ite) <;> intro _

end Sys2Proof.Machine
end

