-- ==== Sys2Proof/Laws/KeepsTraining.lean ====
section
/-!
SUPPORT. What the operations of Machine/Training.lean keep: one lemma for each that gives a state.
-/

namespace Sys2Proof.Machine

theorem addRepairs_keeps {s0 : State} {st : Nat} {a2 : List LaneEye} {a3 : State} (ha3 : Keeps s0 a3) :
    Keeps s0 (addRepairs st a2 a3) := by
  induction a2 generalizing a3 with
  | nil =>
    unfold addRepairs
    repeat' first
      | with_reducible exact ha3
  | cons x xs ih =>
    unfold addRepairs
    repeat' first
      | with_reducible exact ha3
      | with_reducible exact ih
      | with_reducible assumption
      | (intro _)
      | with_reducible apply ih
      | with_reducible apply State.history_keeps
      | (with_reducible apply Keeps.ite) <;> intro _
      | split
      | fail_if_no_progress ((with_reducible refine Keeps.upd ?_ ?_ ?_ ?_ ?_) <;> [skip; rfl; rfl; rfl; rfl])

theorem State.setStack_keeps {s0 : State} {s : State} {st : Nat} {state : Nat} {slow : Bool} {temp : Byte} (hs : Keeps s0 s) :
    Keeps s0 (State.setStack s st state slow temp) := by
  unfold State.setStack
  repeat' first
    | with_reducible exact hs
    | with_reducible assumption
    | (intro _)
    | with_reducible apply State.raise_keeps
    | (with_reducible apply Keeps.ite) <;> intro _
    | split
    | fail_if_no_progress ((with_reducible refine Keeps.upd ?_ ?_ ?_ ?_ ?_) <;> [skip; rfl; rfl; rfl; rfl])

theorem State.trainStack_keeps {s0 : State} {s : State} {st : Nat} {t : StackTrain} (hs : Keeps s0 s) :
    Keeps s0 (State.trainStack s st t) := by
  unfold State.trainStack
  repeat' first
    | with_reducible exact hs
    | with_reducible assumption
    | (intro _)
    | with_reducible apply State.setStack_keeps
    | with_reducible apply addRepairs_keeps
    | (with_reducible apply Keeps.ite) <;> intro _

theorem trainStacks_keeps {s0 : State} {a1 : List (StackTrain × Nat)} {a2 : State} (ha2 : Keeps s0 a2) :
    Keeps s0 (trainStacks a1 a2) := by
  induction a1 generalizing a2 with
  | nil =>
    unfold trainStacks
    repeat' first
      | with_reducible exact ha2
  | cons x xs ih =>
    unfold trainStacks
    repeat' first
      | with_reducible exact ha2
      | with_reducible exact ih
      | with_reducible assumption
      | (intro _)
      | with_reducible apply ih
      | with_reducible apply State.trainStack_keeps
      | (with_reducible apply Keeps.ite) <;> intro _

theorem State.trainChan_keeps {s0 : State} {s : State} {c : Nat} {t : ChanTrain} (hs : Keeps s0 s) :
    Keeps s0 (State.trainChan s c t) := by
  unfold State.trainChan
  repeat' first
    | with_reducible exact hs
    | with_reducible assumption
    | (intro _)
    | with_reducible apply State.raise_keeps
    | (with_reducible apply Keeps.ite) <;> intro _
    | split
    | fail_if_no_progress ((with_reducible refine Keeps.upd ?_ ?_ ?_ ?_ ?_) <;> [skip; rfl; rfl; rfl; rfl])

theorem trainChans_keeps {s0 : State} {a1 : List (ChanTrain × Nat)} {a2 : State} (ha2 : Keeps s0 a2) :
    Keeps s0 (trainChans a1 a2) := by
  induction a1 generalizing a2 with
  | nil =>
    unfold trainChans
    repeat' first
      | with_reducible exact ha2
  | cons x xs ih =>
    unfold trainChans
    repeat' first
      | with_reducible exact ha2
      | with_reducible exact ih
      | with_reducible assumption
      | (intro _)
      | with_reducible apply ih
      | with_reducible apply State.trainChan_keeps
      | (with_reducible apply Keeps.ite) <;> intro _

theorem State.startTraining_keeps {s0 : State} {s : State} (hs : Keeps s0 s) :
    Keeps s0 (State.startTraining s) := by
  unfold State.startTraining
  repeat' first
    | with_reducible exact hs
    | with_reducible assumption
    | (intro _)
    | split
    | fail_if_no_progress ((with_reducible refine Keeps.upd ?_ ?_ ?_ ?_ ?_) <;> [skip; rfl; rfl; rfl; rfl])

theorem execMemoryTraining_keeps {s0 s : State} {sts : List StackTrain} {chans : List ChanTrain} (hs : Keeps s0 s) :
    KeepsOut s0 (execMemoryTraining sts chans s) := by
  unfold execMemoryTraining
  split
  · exact KeepsOut.next (trainChans_keeps (trainStacks_keeps (Keeps.updMem hs (fun _ => rfl) rfl rfl rfl)))
  · exact KeepsOut.next hs

theorem execMemRetrain_keeps {s0 : State} {data : BitVec 32} {s : State} (hs : Keeps s0 s) :
    KeepsOut s0 (execMemRetrain data s) := by
  unfold execMemRetrain
  repeat' first
    | with_reducible exact hs
    | with_reducible assumption
    | (intro _)
    | with_reducible apply KeepsOut.next
    | with_reducible exact KeepsOut.fault
    | with_reducible exact KeepsOut.refused
    | with_reducible apply State.setReg_keeps
    | with_reducible apply onReg_keeps
    | with_reducible apply State.startTraining_keeps
    | (with_reducible apply Keeps.ite) <;> intro _

theorem execUnderstoryRetiming_keeps {s0 : State} {s : State} (hs : Keeps s0 s) :
    KeepsOut s0 (execUnderstoryRetiming s) := by
  unfold execUnderstoryRetiming
  repeat' first
    | with_reducible exact hs
    | with_reducible assumption
    | (intro _)
    | with_reducible apply KeepsOut.next

theorem State.setTg_keeps {s0 : State} {s : State} {c : Nat} {u : TgUnit} (hs : Keeps s0 s) :
    Keeps s0 (State.setTg s c u) := by
  unfold State.setTg
  repeat' first
    | with_reducible exact hs
    | with_reducible assumption
    | (intro _)
    | split
    | fail_if_no_progress ((with_reducible refine Keeps.upd ?_ ?_ ?_ ?_ ?_) <;> [skip; rfl; rfl; rfl; rfl])

theorem State.tgWrite_keeps {s0 : State} {s : State} {data : BitVec 32} (hs : Keeps s0 s) :
    Keeps s0 (State.tgWrite s data) := by
  unfold State.tgWrite
  repeat' first
    | with_reducible exact hs
    | with_reducible assumption
    | (intro _)
    | with_reducible apply State.setTg_keeps
    | (with_reducible apply Keeps.ite) <;> intro _

theorem execMemTgStart_keeps {s0 : State} {data : BitVec 32} {s : State} (hs : Keeps s0 s) :
    KeepsOut s0 (execMemTgStart data s) := by
  unfold execMemTgStart
  repeat' first
    | with_reducible exact hs
    | with_reducible assumption
    | (intro _)
    | with_reducible apply KeepsOut.next
    | with_reducible exact KeepsOut.fault
    | with_reducible exact KeepsOut.refused
    | with_reducible apply onReg_keeps
    | with_reducible apply State.tgWrite_keeps

theorem execMemTgStop_keeps {s0 : State} {data : BitVec 32} {s : State} (hs : Keeps s0 s) :
    KeepsOut s0 (execMemTgStop data s) := by
  unfold execMemTgStop
  repeat' first
    | with_reducible exact hs
    | with_reducible assumption
    | (intro _)
    | with_reducible apply KeepsOut.next
    | with_reducible exact KeepsOut.fault
    | with_reducible exact KeepsOut.refused
    | with_reducible apply onReg_keeps
    | with_reducible apply State.tgWrite_keeps

theorem execMemTgRunComplete_keeps {s0 s : State} {chan : BitVec 8} {flips : List (Nat × Byte)} {poisoned : List Nat}
    (hs : Keeps s0 s) : KeepsOut s0 (execMemTgRunComplete chan flips poisoned s) := by
  have fill : ∀ {c : Nat} {u : TgUnit} {m : SMap Byte} {l : List Nat}, mwf 0 m = true → mwf 0 (tgFill c u m l) = true :=
    fun h => mwf_foldl (fun _ _ k => mwf_mset k) h
  have one : ∀ t : State, Keeps s0 t → Keeps s0 (t.draw 26).2 := fun _ h => State.draw_keeps h
  unfold execMemTgRunComplete
  refine KeepsOut.ite (fun _ => KeepsOut.fault) (fun _ => KeepsOut.ite (fun _ => KeepsOut.next hs) (fun _ => ?_))
  extract_lets d units s1 as ph width diff wrong hurt bad accesses first s1' s2 lanes ended u1
  have h1 : Keeps s0 s1 := Keeps.ite (fun _ => one s hs) (fun _ => hs)
  have h1' : Keeps s0 s1' := poisonPlaces_keeps h1
  have h2 : Keeps s0 s2 := Keeps.ite (fun _ => one s1' h1') (fun _ => h1')
  have hp : s2.mem.wf → mwf 0 ph = true := by
    have e : s2.mem.phys = s1.mem.phys := by
      unfold s2
      split
      · exact poisonPlaces_phys
      · exact poisonPlaces_phys
    intro h
    have k : mwf 0 s1.mem.phys = true := by rw [← e]; exact h
    unfold ph
    split
    · exact fill k
    · exact k
  exact KeepsOut.next (State.setTg_keeps (Keeps.updMem h2 hp rfl rfl rfl))

theorem execPatrolRead_keeps {s0 : State} {bad : Bool} {s : State} (hs : Keeps s0 s) :
    KeepsOut s0 (execPatrolRead bad s) := by
  unfold execPatrolRead
  repeat' first
    | with_reducible exact hs
    | with_reducible assumption
    | (intro _)
    | with_reducible apply KeepsOut.next
    | with_reducible exact KeepsOut.fault
    | with_reducible exact KeepsOut.refused
    | with_reducible apply State.openRepairOf_keeps
    | (with_reducible apply Keeps.ite) <;> intro _
    | (with_reducible apply KeepsOut.ite) <;> intro _
    | split
    | fail_if_no_progress ((with_reducible refine Keeps.upd ?_ ?_ ?_ ?_ ?_) <;> [skip; rfl; rfl; rfl; rfl])

end Sys2Proof.Machine
end

