-- ==== Sys2Proof/Laws/KeepsBoard.lean ====
section
/-!
SUPPORT. What the operations of Machine/Board.lean keep: one lemma for each that gives a state.
-/

namespace Sys2Proof.Machine

theorem State.setBoard_keeps {s0 : State} {s : State} {b : Board} (hs : Keeps s0 s) :
    Keeps s0 (State.setBoard s b) := by
  unfold State.setBoard
  repeat' first
    | with_reducible exact hs
    | with_reducible assumption
    | (intro _)
    | split
    | fail_if_no_progress ((with_reducible refine Keeps.upd ?_ ?_ ?_ ?_ ?_) <;> [skip; rfl; rfl; rfl; rfl])

theorem State.setLife_keeps {s0 : State} {s : State} {l : LifeCounts} (hs : Keeps s0 s) :
    Keeps s0 (State.setLife s l) := by
  unfold State.setLife
  repeat' first
    | with_reducible exact hs
    | with_reducible assumption
    | (intro _)
    | split
    | fail_if_no_progress ((with_reducible refine Keeps.upd ?_ ?_ ?_ ?_ ?_) <;> [skip; rfl; rfl; rfl; rfl])

theorem State.setStatus_keeps {s0 : State} {s : State} {bits : Byte} (hs : Keeps s0 s) :
    Keeps s0 (State.setStatus s bits) := by
  unfold State.setStatus
  repeat' first
    | with_reducible exact hs
    | with_reducible assumption
    | (intro _)
    | with_reducible apply State.setBoard_keeps

theorem State.boardFault_keeps {s0 : State} {s : State} {cause : Nat} {step : Nat} {rail : Nat} {temp : Nat} {unit : Nat} (hs : Keeps s0 s) :
    Keeps s0 (State.boardFault s cause step rail temp unit) := by
  unfold State.boardFault
  repeat' first
    | with_reducible exact hs
    | with_reducible assumption
    | (intro _)
    | with_reducible apply State.raise_keeps

theorem State.survivors_keeps {s0 s : State} {b : Board} (hs : Keeps s0 s) : Keeps s0 (State.survivors s b) :=
  hs.trans ⟨rfl, fun _ => ⟨Nat.zero_le _, fun h => by cases h⟩, fun _ => rfl, fun _ => ⟨rfl, rfl, rfl⟩, le_rfl⟩

theorem State.allOff_keeps {s0 : State} {s : State} (hs : Keeps s0 s) :
    Keeps s0 (State.allOff s) := by
  unfold State.allOff
  repeat' first
    | with_reducible exact hs
    | with_reducible assumption
    | (intro _)
    | with_reducible apply State.survivors_keeps

theorem State.fromStep1_keeps {s0 : State} {s : State} (hs : Keeps s0 s) :
    Keeps s0 (State.fromStep1 s) := by
  unfold State.fromStep1
  repeat' first
    | with_reducible exact hs
    | with_reducible assumption
    | (intro _)
    | with_reducible apply State.survivors_keeps

theorem State.rangerOnly_keeps {s0 s : State} (hs : Keeps s0 s) : Keeps s0 (State.rangerOnly s) := by
  unfold State.rangerOnly
  have k : Keeps s s.alaporDown.ohmipDown := State.ohmipDown_keeps (State.alaporDown_keeps (Keeps.refl s))
  exact resetLk_keeps (hs.trans ⟨k.pending, id, fun _ => rfl, fun _ => ⟨rfl, rfl, rfl⟩, k.minSvn⟩)

theorem State.restartFrom_keeps {s0 : State} {s : State} {n : Nat} (hs : Keeps s0 s) :
    Keeps s0 (State.restartFrom s n) := by
  unfold State.restartFrom
  repeat' first
    | with_reducible exact hs
    | with_reducible assumption
    | (intro _)
    | with_reducible apply State.rangerOnly_keeps
    | with_reducible apply State.setBoard_keeps

theorem State.restart3_keeps {s0 : State} {s : State} (hs : Keeps s0 s) :
    Keeps s0 (State.restart3 s) := by
  unfold State.restart3
  repeat' first
    | with_reducible exact hs
    | with_reducible assumption
    | (intro _)
    | with_reducible apply State.restartFrom_keeps

theorem State.restart1_keeps {s0 : State} {s : State} (hs : Keeps s0 s) :
    Keeps s0 (State.restart1 s) := by
  unfold State.restart1
  repeat' first
    | with_reducible exact hs
    | with_reducible assumption
    | (intro _)
    | with_reducible apply State.fromStep1_keeps

theorem execPowerFailWarning_keeps {s0 : State} {v : BitVec 16} {s : State} (hs : Keeps s0 s) :
    KeepsOut s0 (execPowerFailWarning v s) := by
  unfold execPowerFailWarning
  repeat' first
    | with_reducible exact hs
    | with_reducible assumption
    | (intro _)
    | with_reducible apply KeepsOut.next
    | with_reducible exact KeepsOut.fault
    | with_reducible exact KeepsOut.refused
    | with_reducible apply State.setBoard_keeps
    | with_reducible apply State.boardFault_keeps
    | with_reducible apply State.setStatus_keeps
    | with_reducible apply State.setLife_keeps
    | (with_reducible apply KeepsOut.ite) <;> intro _

theorem State.powerReturns_keeps {s0 : State} {s : State} (hs : Keeps s0 s) :
    Keeps s0 (State.powerReturns s) := by
  unfold State.powerReturns
  repeat' first
    | with_reducible exact hs
    | with_reducible assumption
    | (intro _)
    | with_reducible apply State.fromStep1_keeps
    | with_reducible apply State.setBoard_keeps
    | (with_reducible apply Keeps.ite) <;> intro _

theorem execInputRecovery_keeps {s0 : State} {v : BitVec 16} {s : State} (hs : Keeps s0 s) :
    KeepsOut s0 (execInputRecovery v s) := by
  unfold execInputRecovery
  repeat' first
    | with_reducible exact hs
    | with_reducible assumption
    | (intro _)
    | with_reducible apply KeepsOut.next
    | with_reducible exact KeepsOut.fault
    | with_reducible exact KeepsOut.refused
    | with_reducible apply State.setBoard_keeps
    | with_reducible apply State.powerReturns_keeps
    | (with_reducible apply KeepsOut.ite) <;> intro _

theorem execGroveClockResume_keeps {s0 : State} {s : State} (hs : Keeps s0 s) :
    KeepsOut s0 (execGroveClockResume s) := by
  unfold execGroveClockResume
  repeat' first
    | with_reducible exact hs
    | with_reducible assumption
    | (intro _)
    | with_reducible apply KeepsOut.next
    | with_reducible exact KeepsOut.fault
    | with_reducible exact KeepsOut.refused
    | with_reducible apply State.setBoard_keeps
    | (with_reducible apply KeepsOut.ite) <;> intro _

theorem execUnderVoltageOff_keeps {s0 : State} {v : BitVec 16} {s : State} (hs : Keeps s0 s) :
    KeepsOut s0 (execUnderVoltageOff v s) := by
  unfold execUnderVoltageOff
  repeat' first
    | with_reducible exact hs
    | with_reducible assumption
    | (intro _)
    | with_reducible apply KeepsOut.next
    | with_reducible exact KeepsOut.fault
    | with_reducible exact KeepsOut.refused
    | with_reducible apply State.setBoard_keeps
    | with_reducible apply State.boardFault_keeps
    | with_reducible apply State.rangerOnly_keeps
    | (with_reducible apply KeepsOut.ite) <;> intro _

theorem execRangerDomainCutoff_keeps {s0 : State} {v : BitVec 16} {s : State} (hs : Keeps s0 s) :
    KeepsOut s0 (execRangerDomainCutoff v s) := by
  unfold execRangerDomainCutoff
  repeat' first
    | with_reducible exact hs
    | with_reducible assumption
    | (intro _)
    | with_reducible apply KeepsOut.next
    | with_reducible exact KeepsOut.fault
    | with_reducible exact KeepsOut.refused
    | with_reducible apply State.allOff_keeps
    | with_reducible apply State.setBoard_keeps
    | (with_reducible apply KeepsOut.ite) <;> intro _

theorem execInputReturn_keeps {s0 : State} {v : BitVec 16} {s : State} (hs : Keeps s0 s) :
    KeepsOut s0 (execInputReturn v s) := by
  unfold execInputReturn
  repeat' first
    | with_reducible exact hs
    | with_reducible assumption
    | (intro _)
    | with_reducible apply KeepsOut.next
    | with_reducible exact KeepsOut.fault
    | with_reducible exact KeepsOut.refused
    | with_reducible apply State.setBoard_keeps
    | with_reducible apply State.restartFrom_keeps
    | with_reducible apply State.powerReturns_keeps
    | (with_reducible apply KeepsOut.ite) <;> intro _

theorem execOverVoltageShutdown_keeps {s0 : State} {v : BitVec 16} {s : State} (hs : Keeps s0 s) :
    KeepsOut s0 (execOverVoltageShutdown v s) := by
  unfold execOverVoltageShutdown
  repeat' first
    | with_reducible exact hs
    | with_reducible assumption
    | (intro _)
    | with_reducible apply KeepsOut.next
    | with_reducible exact KeepsOut.fault
    | with_reducible exact KeepsOut.refused
    | with_reducible apply State.setBoard_keeps
    | with_reducible apply State.setStatus_keeps
    | with_reducible apply State.allOff_keeps
    | (with_reducible apply KeepsOut.ite) <;> intro _

theorem execOverVoltageRecovery_keeps {s0 : State} {v : BitVec 16} {s : State} (hs : Keeps s0 s) :
    KeepsOut s0 (execOverVoltageRecovery v s) := by
  unfold execOverVoltageRecovery
  repeat' first
    | with_reducible exact hs
    | with_reducible assumption
    | (intro _)
    | with_reducible apply KeepsOut.next
    | with_reducible exact KeepsOut.fault
    | with_reducible exact KeepsOut.refused
    | with_reducible apply State.setStatus_keeps
    | with_reducible apply State.powerReturns_keeps
    | with_reducible apply State.setBoard_keeps
    | (with_reducible apply KeepsOut.ite) <;> intro _

theorem State.raiseStep_keeps {s0 : State} {s : State} {n : Nat} {grove : Nat} (hs : Keeps s0 s) :
    Keeps s0 (State.raiseStep s n grove) := by
  unfold State.raiseStep
  repeat' first
    | with_reducible exact hs
    | with_reducible assumption
    | (intro _)
    | with_reducible apply State.setBoard_keeps
    | with_reducible apply State.alaporTrains_keeps
    | (with_reducible apply Keeps.ite) <;> intro _

theorem State.bootRom_keeps {s0 : State} {s : State} (hs : Keeps s0 s) :
    Keeps s0 (State.bootRom s) := by
  unfold State.bootRom
  repeat' first
    | with_reducible exact hs
    | with_reducible assumption
    | (intro _)
    | with_reducible apply State.setStatus_keeps
    | with_reducible apply State.setBoard_keeps
    | split
    | fail_if_no_progress ((with_reducible refine Keeps.upd ?_ ?_ ?_ ?_ ?_) <;> [skip; rfl; rfl; rfl; rfl])

theorem State.powerOn_keeps {s0 : State} {s : State} (hs : Keeps s0 s) :
    Keeps s0 (State.powerOn s) := by
  unfold State.powerOn
  repeat' first
    | with_reducible exact hs
    | with_reducible assumption
    | (intro _)
    | with_reducible apply State.restoreLife_keeps
    | (with_reducible refine State.setDep_keeps ?_ ?_ ?_) <;> [skip; rfl; rfl]
    | with_reducible apply State.setLife_keeps

theorem State.leakFound_keeps {s0 : State} {s : State} (hs : Keeps s0 s) :
    Keeps s0 (State.leakFound s) := by
  unfold State.leakFound
  repeat' first
    | with_reducible exact hs
    | with_reducible assumption
    | (intro _)
    | with_reducible apply State.setLife_keeps
    | with_reducible apply State.boardFault_keeps
    | with_reducible apply State.setStatus_keeps
    | with_reducible apply State.setBoard_keeps

theorem State.orLeak_keeps {s0 : State} {s : State} {t : State} (hs : Keeps s0 s) (ht : Keeps s0 t) :
    Keeps s0 (State.orLeak s t) := by
  unfold State.orLeak
  repeat' first
    | with_reducible exact hs
    | with_reducible exact ht
    | with_reducible assumption
    | (intro _)
    | with_reducible apply State.setBoard_keeps
    | with_reducible apply State.leakFound_keeps
    | (with_reducible apply Keeps.ite) <;> intro _

theorem execPowerOnSequence_keeps {s0 : State} {s : State} (hs : Keeps s0 s) :
    KeepsOut s0 (execPowerOnSequence s) := by
  unfold execPowerOnSequence
  repeat' first
    | with_reducible exact hs
    | with_reducible assumption
    | (intro _)
    | with_reducible apply KeepsOut.next
    | with_reducible exact KeepsOut.fault
    | with_reducible exact KeepsOut.refused
    | with_reducible apply State.bootRom_keeps
    | with_reducible apply State.orLeak_keeps
    | with_reducible apply State.raiseStep_keeps
    | with_reducible apply State.powerOn_keeps
    | (with_reducible apply KeepsOut.ite) <;> intro _
    | split

theorem State.groveRises_keeps {s0 : State} {s : State} {gv : Nat} (hs : Keeps s0 s) :
    Keeps s0 (State.groveRises s gv) := by
  unfold State.groveRises
  repeat' first
    | with_reducible exact hs
    | with_reducible assumption
    | (intro _)
    | split
    | fail_if_no_progress ((with_reducible refine Keeps.upd ?_ ?_ ?_ ?_ ?_) <;> [skip; rfl; rfl; rfl; rfl])

theorem execSequenceStepPowerGood_keeps {s0 : State} {s : State} (hs : Keeps s0 s) :
    KeepsOut s0 (execSequenceStepPowerGood s) := by
  unfold execSequenceStepPowerGood
  repeat' first
    | with_reducible exact hs
    | with_reducible assumption
    | (intro _)
    | with_reducible apply KeepsOut.next
    | with_reducible exact KeepsOut.fault
    | with_reducible exact KeepsOut.refused
    | with_reducible apply State.raiseStep_keeps
    | with_reducible apply State.groveRises_keeps
    | with_reducible apply State.startTraining_keeps
    | with_reducible apply State.setBoard_keeps
    | (with_reducible apply KeepsOut.ite) <;> intro _
    | split

theorem execRailPowerGoodMiss_keeps {s0 : State} {rail : BitVec 8} {s : State} (hs : Keeps s0 s) :
    KeepsOut s0 (execRailPowerGoodMiss rail s) := by
  unfold execRailPowerGoodMiss
  repeat' first
    | with_reducible exact hs
    | with_reducible assumption
    | (intro _)
    | with_reducible apply KeepsOut.next
    | with_reducible exact KeepsOut.fault
    | with_reducible exact KeepsOut.refused
    | with_reducible apply State.rangerOnly_keeps
    | with_reducible apply State.setBoard_keeps
    | with_reducible apply State.boardFault_keeps
    | with_reducible apply State.setStatus_keeps
    | with_reducible apply State.setLife_keeps
    | split

theorem execPowerDownSequence_keeps {s0 : State} {s : State} (hs : Keeps s0 s) :
    KeepsOut s0 (execPowerDownSequence s) := by
  unfold execPowerDownSequence
  repeat' first
    | with_reducible exact hs
    | with_reducible assumption
    | (intro _)
    | with_reducible apply KeepsOut.next
    | with_reducible exact KeepsOut.fault
    | with_reducible exact KeepsOut.refused
    | with_reducible apply State.rangerOnly_keeps
    | split

theorem execPerstNFall_keeps {s0 : State} {s : State} (hs : Keeps s0 s) :
    KeepsOut s0 (execPerstNFall s) := by
  unfold execPerstNFall
  repeat' first
    | with_reducible exact hs
    | with_reducible assumption
    | (intro _)
    | with_reducible apply KeepsOut.next
    | with_reducible exact KeepsOut.fault
    | with_reducible exact KeepsOut.refused
    | with_reducible apply State.allOff_keeps
    | with_reducible apply State.setBoard_keeps
    | (with_reducible apply KeepsOut.ite) <;> intro _

theorem execPerstNRise_keeps {s0 : State} {ga : BitVec 5} {s : State} (hs : Keeps s0 s) :
    KeepsOut s0 (execPerstNRise ga s) := by
  unfold execPerstNRise
  repeat' first
    | with_reducible exact hs
    | with_reducible assumption
    | (intro _)
    | with_reducible apply KeepsOut.next
    | with_reducible exact KeepsOut.fault
    | with_reducible exact KeepsOut.refused
    | with_reducible apply State.setBoard_keeps
    | with_reducible apply State.powerReturns_keeps
    | (with_reducible apply KeepsOut.ite) <;> intro _

theorem execSvcHoldAssert_keeps {s0 : State} {s : State} (hs : Keeps s0 s) :
    KeepsOut s0 (execSvcHoldAssert s) := by
  unfold execSvcHoldAssert
  repeat' first
    | with_reducible exact hs
    | with_reducible assumption
    | (intro _)
    | with_reducible apply KeepsOut.next
    | with_reducible exact KeepsOut.fault
    | with_reducible exact KeepsOut.refused
    | with_reducible apply State.setBoard_keeps
    | with_reducible apply State.allOff_keeps
    | (with_reducible apply KeepsOut.ite) <;> intro _

theorem execSvcHoldRelease_keeps {s0 : State} {s : State} (hs : Keeps s0 s) :
    KeepsOut s0 (execSvcHoldRelease s) := by
  unfold execSvcHoldRelease
  repeat' first
    | with_reducible exact hs
    | with_reducible assumption
    | (intro _)
    | with_reducible apply KeepsOut.next
    | with_reducible exact KeepsOut.fault
    | with_reducible exact KeepsOut.refused
    | with_reducible apply State.setBoard_keeps
    | with_reducible apply State.powerReturns_keeps
    | (with_reducible apply KeepsOut.ite) <;> intro _

theorem State.smbReply_keeps {s0 : State} {s : State} {bs : List Byte} (hs : Keeps s0 s) :
    KeepsOut s0 (State.smbReply s bs) := by
  unfold State.smbReply
  repeat' first
    | with_reducible exact hs
    | with_reducible assumption
    | (intro _)
    | with_reducible apply KeepsOut.next
    | with_reducible exact KeepsOut.fault
    | with_reducible exact KeepsOut.refused
    | with_reducible apply State.setBoard_keeps
    | (with_reducible apply KeepsOut.ite) <;> intro _

theorem execSmbusPartNumber_keeps {s0 : State} {s : State} (hs : Keeps s0 s) :
    KeepsOut s0 (execSmbusPartNumber s) := by
  unfold execSmbusPartNumber
  repeat' first
    | with_reducible exact hs
    | with_reducible assumption
    | (intro _)
    | with_reducible apply KeepsOut.next
    | with_reducible exact KeepsOut.fault
    | with_reducible exact KeepsOut.refused
    | with_reducible apply State.smbReply_keeps

theorem execSmbusSerialNumber_keeps {s0 : State} {s : State} (hs : Keeps s0 s) :
    KeepsOut s0 (execSmbusSerialNumber s) := by
  unfold execSmbusSerialNumber
  repeat' first
    | with_reducible exact hs
    | with_reducible assumption
    | (intro _)
    | with_reducible apply KeepsOut.next
    | with_reducible exact KeepsOut.fault
    | with_reducible exact KeepsOut.refused
    | with_reducible apply State.smbReply_keeps

theorem execSmbusInputVoltage_keeps {s0 : State} {s : State} (hs : Keeps s0 s) :
    KeepsOut s0 (execSmbusInputVoltage s) := by
  unfold execSmbusInputVoltage
  repeat' first
    | with_reducible exact hs
    | with_reducible assumption
    | (intro _)
    | with_reducible apply KeepsOut.next
    | with_reducible exact KeepsOut.fault
    | with_reducible exact KeepsOut.refused
    | with_reducible apply State.smbReply_keeps

theorem execSmbusInputPower_keeps {s0 : State} {s : State} (hs : Keeps s0 s) :
    KeepsOut s0 (execSmbusInputPower s) := by
  unfold execSmbusInputPower
  repeat' first
    | with_reducible exact hs
    | with_reducible assumption
    | (intro _)
    | with_reducible apply KeepsOut.next
    | with_reducible exact KeepsOut.fault
    | with_reducible exact KeepsOut.refused
    | with_reducible apply State.smbReply_keeps

theorem execSmbusJunctionTemp_keeps {s0 : State} {s : State} (hs : Keeps s0 s) :
    KeepsOut s0 (execSmbusJunctionTemp s) := by
  unfold execSmbusJunctionTemp
  repeat' first
    | with_reducible exact hs
    | with_reducible assumption
    | (intro _)
    | with_reducible apply KeepsOut.next
    | with_reducible exact KeepsOut.fault
    | with_reducible exact KeepsOut.refused
    | with_reducible apply State.smbReply_keeps

theorem execSmbusBoardStatus_keeps {s0 : State} {clear : Option Byte} {s : State} (hs : Keeps s0 s) :
    KeepsOut s0 (execSmbusBoardStatus clear s) := by
  unfold execSmbusBoardStatus
  repeat' first
    | with_reducible exact hs
    | with_reducible assumption
    | (intro _)
    | with_reducible apply KeepsOut.next
    | with_reducible exact KeepsOut.fault
    | with_reducible exact KeepsOut.refused
    | with_reducible apply State.setBoard_keeps
    | (with_reducible apply KeepsOut.ite) <;> intro _
    | split

theorem execSmbusRestart_keeps {s0 : State} {s : State} (hs : Keeps s0 s) :
    KeepsOut s0 (execSmbusRestart s) := by
  unfold execSmbusRestart
  repeat' first
    | with_reducible exact hs
    | with_reducible assumption
    | (intro _)
    | with_reducible apply KeepsOut.next
    | with_reducible exact KeepsOut.fault
    | with_reducible exact KeepsOut.refused
    | with_reducible apply State.restart3_keeps
    | (with_reducible apply KeepsOut.ite) <;> intro _

theorem execSmbusFullRestart_keeps {s0 : State} {s : State} (hs : Keeps s0 s) :
    KeepsOut s0 (execSmbusFullRestart s) := by
  unfold execSmbusFullRestart
  repeat' first
    | with_reducible exact hs
    | with_reducible assumption
    | (intro _)
    | with_reducible apply KeepsOut.next
    | with_reducible exact KeepsOut.fault
    | with_reducible exact KeepsOut.refused
    | with_reducible apply State.restart1_keeps
    | (with_reducible apply KeepsOut.ite) <;> intro _

theorem execSmbusAlertResponse_keeps {s0 : State} {s : State} (hs : Keeps s0 s) :
    KeepsOut s0 (execSmbusAlertResponse s) := by
  unfold execSmbusAlertResponse
  repeat' first
    | with_reducible exact hs
    | with_reducible assumption
    | (intro _)
    | with_reducible apply KeepsOut.next
    | with_reducible exact KeepsOut.fault
    | with_reducible exact KeepsOut.refused
    | with_reducible apply State.smbReply_keeps
    | (with_reducible apply KeepsOut.ite) <;> intro _

theorem execThermalTrip_keeps {s0 : State} {stack : Bool} {unit : BitVec 3} {temp : BitVec 8} {s : State} (hs : Keeps s0 s) :
    KeepsOut s0 (execThermalTrip stack unit temp s) := by
  unfold execThermalTrip
  repeat' first
    | with_reducible exact hs
    | with_reducible assumption
    | (intro _)
    | with_reducible apply KeepsOut.next
    | with_reducible exact KeepsOut.fault
    | with_reducible exact KeepsOut.refused
    | with_reducible apply State.rangerOnly_keeps
    | with_reducible apply State.setLife_keeps
    | with_reducible apply State.boardFault_keeps
    | with_reducible apply State.setStatus_keeps
    | (with_reducible apply KeepsOut.ite) <;> intro _

theorem execLeakDetect_keeps {s0 : State} {wet : Bool} {s : State} (hs : Keeps s0 s) :
    KeepsOut s0 (execLeakDetect wet s) := by
  unfold execLeakDetect
  repeat' first
    | with_reducible exact hs
    | with_reducible assumption
    | (intro _)
    | with_reducible apply KeepsOut.next
    | with_reducible exact KeepsOut.fault
    | with_reducible exact KeepsOut.refused
    | with_reducible apply State.setBoard_keeps
    | with_reducible apply State.leakFound_keeps
    | (with_reducible apply KeepsOut.ite) <;> intro _

theorem State.capture_keeps {s0 : State} {s : State} {tap : Nat} {n : Nat} (hs : Keeps s0 s) :
    Keeps s0 (State.capture s tap n).2 := by
  unfold State.capture
  repeat' first
    | with_reducible exact hs
    | with_reducible assumption
    | (intro _)
    | with_reducible apply State.drawBytes_keeps

theorem State.capture_keeps_pair {s0 : State} {s : State} {tap : Nat} {n : Nat} {o0 : List Bool} {t0 : State}
    (e : State.capture s tap n = (o0, t0)) (hs : Keeps s0 s) :
    Keeps s0 t0 := by
  have h := State.capture_keeps (s0 := s0) (s := s) (tap := tap) (n := n) hs
  rw [e] at h
  exact h

theorem State.tapIr_keeps {s0 : State} {s : State} {tap : Nat} {ir : JtagIr} (hs : Keeps s0 s) :
    Keeps s0 (State.tapIr s tap ir).2 := by
  unfold State.tapIr
  repeat' first
    | with_reducible exact hs
    | with_reducible assumption
    | (intro _)
    | with_reducible apply State.capture_keeps
    | refine State.capture_keeps_pair (by assumption) ?_
    | with_reducible apply State.setBoard_keeps
    | split

theorem State.tapIr_keeps_pair {s0 : State} {s : State} {tap : Nat} {ir : JtagIr} {o0 : List Bool} {t0 : State}
    (e : State.tapIr s tap ir = (o0, t0)) (hs : Keeps s0 s) :
    Keeps s0 t0 := by
  have h := State.tapIr_keeps (s0 := s0) (s := s) (tap := tap) (ir := ir) hs
  rw [e] at h
  exact h

theorem shiftChain_keeps {s0 : State} {a1 : List (Nat × JtagIr)} {a2 : State} (ha2 : Keeps s0 a2) :
    Keeps s0 (shiftChain a1 a2).2 := by
  induction a1 generalizing a2 with
  | nil =>
    unfold shiftChain
    repeat' first
      | with_reducible exact ha2
  | cons x xs ih =>
    unfold shiftChain
    repeat' first
      | with_reducible exact ha2
      | with_reducible exact ih
      | with_reducible assumption
      | (intro _)
      | with_reducible apply ih
      | with_reducible apply State.tapIr_keeps

theorem shiftChain_keeps_pair {s0 : State} {a1 : List (Nat × JtagIr)} {a2 : State} {o0 : List Bool} {t0 : State}
    (e : shiftChain a1 a2 = (o0, t0)) (ha2 : Keeps s0 a2) :
    Keeps s0 t0 := by
  have h := shiftChain_keeps (s0 := s0) (a1 := a1) (a2 := a2) ha2
  rw [e] at h
  exact h

theorem execJtagInstruction_keeps {s0 : State} {die0 : JtagIr} {die1 : JtagIr} {die2 : JtagIr} {die3 : JtagIr} {ranger : JtagIr} {s : State} (hs : Keeps s0 s) :
    KeepsOut s0 (execJtagInstruction die0 die1 die2 die3 ranger s) := by
  unfold execJtagInstruction
  repeat' first
    | with_reducible exact hs
    | with_reducible assumption
    | (intro _)
    | with_reducible apply KeepsOut.next
    | with_reducible exact KeepsOut.fault
    | with_reducible exact KeepsOut.refused
    | with_reducible apply shiftChain_keeps
    | refine shiftChain_keeps_pair (by assumption) ?_
    | with_reducible apply State.setBoard_keeps
    | split
    | dsimp only

end Sys2Proof.Machine
end

