-- ==== Sys2Proof/Laws/KeepsGraftSlots.lean ====
section
/-!
SUPPORT. What the operations of Machine/GraftSlots.lean keep: one lemma for each that gives a state.
-/

namespace Sys2Proof.Machine

theorem execGraftVerifyComplete_keeps {s0 : State} {slot : BitVec 8} {s : State} (hs : Keeps s0 s) :
    KeepsOut s0 (execGraftVerifyComplete slot s) := by
  unfold execGraftVerifyComplete
  repeat' first
    | with_reducible exact hs
    | with_reducible assumption
    | (intro _)
    | with_reducible apply KeepsOut.next
    | with_reducible exact KeepsOut.fault
    | with_reducible exact KeepsOut.refused
    | with_reducible apply State.whenReadable_keeps
    | with_reducible apply State.drawBool_keeps
    | with_reducible apply State.verifyFailed_keeps
    | refine State.drawBool_keeps_pair (by assumption) ?_
    | with_reducible apply State.setGraft_keeps
    | with_reducible apply State.refuseSlot_keeps
    | (with_reducible apply KeepsOut.ite) <;> intro _

theorem execGraftLoadTimeout_keeps {s0 : State} {slot : BitVec 8} {s : State} (hs : Keeps s0 s) :
    KeepsOut s0 (execGraftLoadTimeout slot s) := by
  unfold execGraftLoadTimeout
  repeat' first
    | with_reducible exact hs
    | with_reducible assumption
    | (intro _)
    | with_reducible apply KeepsOut.next
    | with_reducible exact KeepsOut.fault
    | with_reducible exact KeepsOut.refused
    | with_reducible apply State.setGraft_keeps
    | (with_reducible apply KeepsOut.ite) <;> intro _

theorem endLoads_keeps {s0 : State} {a1 : List Nat} {a2 : State} (ha2 : Keeps s0 a2) :
    Keeps s0 (endLoads a1 a2) := by
  induction a1 generalizing a2 with
  | nil =>
    unfold endLoads
    repeat' first
      | with_reducible exact ha2
  | cons x xs ih =>
    unfold endLoads
    repeat' first
      | with_reducible exact ha2
      | with_reducible exact ih
      | with_reducible assumption
      | (intro _)
      | with_reducible apply ih
      | with_reducible apply State.setGraft_keeps
      | with_reducible apply State.event_keeps
      | (with_reducible apply Keeps.ite) <;> intro _
      | split
      | fail_if_no_progress ((with_reducible refine Keeps.upd ?_ ?_ ?_ ?_ ?_) <;> [skip; rfl; rfl; rfl; rfl])

theorem freeGrafts_keeps {s0 : State} {a1 : List Nat} {a2 : State} (ha2 : Keeps s0 a2) :
    Keeps s0 (freeGrafts a1 a2) := by
  induction a1 generalizing a2 with
  | nil =>
    unfold freeGrafts
    repeat' first
      | with_reducible exact ha2
  | cons x xs ih =>
    unfold freeGrafts
    repeat' first
      | with_reducible exact ha2
      | with_reducible exact ih
      | with_reducible assumption
      | (intro _)
      | with_reducible apply ih
      | with_reducible apply State.setGraft_keeps
      | with_reducible apply State.event_keeps
      | (with_reducible apply Keeps.ite) <;> intro _

theorem writeGrafts_keeps {s0 : State} {a1 : List Nat} {a2 : State} (ha2 : Keeps s0 a2) :
    Keeps s0 (writeGrafts a1 a2) := by
  induction a1 generalizing a2 with
  | nil =>
    unfold writeGrafts
    repeat' first
      | with_reducible exact ha2
  | cons x xs ih =>
    unfold writeGrafts
    repeat' first
      | with_reducible exact ha2
      | with_reducible exact ih
      | with_reducible assumption
      | (intro _)
      | with_reducible apply ih
      | with_reducible apply State.devWrite_keeps

theorem State.clearGrafts_keeps {s0 : State} {s : State} (hs : Keeps s0 s) :
    Keeps s0 (State.clearGrafts s) := by
  unfold State.clearGrafts
  repeat' first
    | with_reducible exact hs
    | with_reducible assumption
    | (intro _)
    | with_reducible apply endLoads_keeps
    | with_reducible apply freeGrafts_keeps
    | with_reducible apply writeGrafts_keeps

end Sys2Proof.Machine
end

