-- ==== Sys2Proof/Laws/KeepsClearing.lean ====
section
/-!
SUPPORT. What the operations of Machine/Clearing.lean keep: one lemma for each that gives a state.
-/

namespace Sys2Proof.Machine

theorem State.applyCancel_keeps {s0 : State} {s : State} {bs : List Byte} (hs : Keeps s0 s) :
    Keeps s0 (State.applyCancel s bs) := by
  unfold State.applyCancel
  repeat' first
    | with_reducible exact hs
    | with_reducible assumption
    | (intro _)
    | with_reducible apply State.refuseTag_keeps
    | with_reducible apply State.refuseState_keeps
    | with_reducible apply State.setEntry_keeps
    | (with_reducible apply Keeps.ite) <;> intro _
    | split
    | fail_if_no_progress ((with_reducible refine Keeps.upd ?_ ?_ ?_ ?_ ?_) <;> [skip; rfl; rfl; rfl; rfl])

theorem State.applyAtClearing_keeps {s0 : State} {s : State} {c : PendingCmd} (hs : Keeps s0 s) :
    Keeps s0 (State.applyAtClearing s c) := by
  unfold State.applyAtClearing
  repeat' first
    | with_reducible exact hs
    | with_reducible assumption
    | (intro _)
    | with_reducible apply State.tellLate_keeps
    | with_reducible apply State.applyCancel_keeps
    | with_reducible apply State.applyPause_keeps
    | (with_reducible apply Keeps.ite) <;> intro _

theorem emptySlots_keeps {s0 : State} {a1 : List Nat} {a2 : State} (ha2 : Keeps s0 a2) :
    Keeps s0 (emptySlots a1 a2) := by
  induction a1 generalizing a2 with
  | nil =>
    unfold emptySlots
    repeat' first
      | with_reducible exact ha2
  | cons x xs ih =>
    unfold emptySlots
    repeat' first
      | with_reducible exact ha2
      | with_reducible exact ih
      | with_reducible assumption
      | (intro _)
      | with_reducible apply ih
      | with_reducible apply State.devWrite_keeps

theorem State.freeLayer_keeps {s0 : State} {s : State} {l : RouteLayer} (hs : Keeps s0 s) :
    Keeps s0 (State.freeLayer s l) := by
  unfold State.freeLayer
  repeat' first
    | with_reducible exact hs
    | with_reducible assumption
    | (intro _)
    | with_reducible apply State.bump_keeps
    | with_reducible apply emptySlots_keeps

theorem freeLayers_keeps {s0 : State} {a1 : List RouteLayer} {a2 : State} (ha2 : Keeps s0 a2) :
    Keeps s0 (freeLayers a1 a2) := by
  induction a1 generalizing a2 with
  | nil =>
    unfold freeLayers
    repeat' first
      | with_reducible exact ha2
  | cons x xs ih =>
    unfold freeLayers
    repeat' first
      | with_reducible exact ha2
      | with_reducible exact ih
      | with_reducible assumption
      | (intro _)
      | with_reducible apply ih
      | with_reducible apply State.freeLayer_keeps

theorem State.freeSlots_keeps {s0 : State} {s : State} (hs : Keeps s0 s) :
    Keeps s0 (State.freeSlots s) := by
  unfold State.freeSlots
  repeat' first
    | with_reducible exact hs
    | with_reducible assumption
    | (intro _)
    | with_reducible apply freeLayers_keeps
    | with_reducible apply State.bump_keeps
    | split
    | fail_if_no_progress ((with_reducible refine Keeps.upd ?_ ?_ ?_ ?_ ?_) <;> [skip; rfl; rfl; rfl; rfl])

theorem State.markRow_keeps {s0 : State} {s : State} {r : BatchRow} (hs : Keeps s0 s) :
    Keeps s0 (State.markRow s r) := by
  unfold State.markRow
  repeat' first
    | with_reducible exact hs
    | with_reducible assumption
    | (intro _)
    | with_reducible apply State.event_keeps
    | with_reducible apply State.setEntry_keeps
    | (with_reducible apply Keeps.ite) <;> intro _

theorem State.markLate_keeps {s0 : State} {s : State} {r : BatchRow} {at_ : Nat} (hs : Keeps s0 s) :
    Keeps s0 (State.markLate s r at_) := by
  unfold State.markLate
  repeat' first
    | with_reducible exact hs
    | with_reducible assumption
    | (intro _)
    | with_reducible apply State.event_keeps
    | with_reducible apply State.bump_keeps
    | with_reducible apply State.setEntry_keeps
    | (with_reducible apply Keeps.ite) <;> intro _

theorem State.advanceRow_keeps {s0 : State} {s : State} {r : BatchRow} {at_ : Nat} (hs : Keeps s0 s) :
    Keeps s0 (State.advanceRow s r at_) := by
  unfold State.advanceRow
  repeat' first
    | with_reducible exact hs
    | with_reducible assumption
    | (intro _)
    | with_reducible apply State.markRow_keeps
    | with_reducible apply State.setEntry_keeps
    | with_reducible apply State.markLate_keeps
    | (with_reducible apply Keeps.ite) <;> intro _
    | split

theorem advanceRows_keeps {s0 : State} {at_ : Nat} {a2 : List BatchRow} {a3 : State} (ha3 : Keeps s0 a3) :
    Keeps s0 (advanceRows at_ a2 a3) := by
  induction a2 generalizing a3 with
  | nil =>
    unfold advanceRows
    repeat' first
      | with_reducible exact ha3
  | cons x xs ih =>
    unfold advanceRows
    repeat' first
      | with_reducible exact ha3
      | with_reducible exact ih
      | with_reducible assumption
      | (intro _)
      | with_reducible apply ih
      | with_reducible apply State.advanceRow_keeps

theorem fillPages_keeps {s0 : State} {r : BatchRow} {a2 : List Nat} {a3 : State} (ha3 : Keeps s0 a3) :
    Keeps s0 (fillPages r a2 a3).2 := by
  induction a2 generalizing a3 with
  | nil =>
    unfold fillPages
    repeat' first
      | with_reducible exact ha3
  | cons x xs ih =>
    unfold fillPages
    repeat' first
      | with_reducible exact ha3
      | with_reducible exact ih
      | with_reducible assumption
      | (intro _)
      | with_reducible apply ih
      | with_reducible apply State.setPte_keeps
      | (with_reducible apply Keeps.iteSnd) <;> intro _

theorem fillPages_keeps_pair {s0 : State} {r : BatchRow} {a2 : List Nat} {a3 : State} {o0 : List FullPage} {t0 : State}
    (e : fillPages r a2 a3 = (o0, t0)) (ha3 : Keeps s0 a3) :
    Keeps s0 t0 := by
  have h := fillPages_keeps (s0 := s0) (r := r) (a2 := a2) (a3 := a3) ha3
  rw [e] at h
  exact h

theorem fillRows_keeps {s0 : State} {a1 : List BatchRow} {a2 : State} (ha2 : Keeps s0 a2) :
    Keeps s0 (fillRows a1 a2).2 := by
  induction a1 generalizing a2 with
  | nil =>
    unfold fillRows
    repeat' first
      | with_reducible exact ha2
  | cons x xs ih =>
    unfold fillRows
    repeat' first
      | with_reducible exact ha2
      | with_reducible exact ih
      | with_reducible assumption
      | (intro _)
      | with_reducible apply ih
      | with_reducible apply fillPages_keeps
      | refine fillPages_keeps_pair (by assumption) ?_
      | split

theorem fillRows_keeps_pair {s0 : State} {a1 : List BatchRow} {a2 : State} {o0 : List FullPage} {t0 : State}
    (e : fillRows a1 a2 = (o0, t0)) (ha2 : Keeps s0 a2) :
    Keeps s0 t0 := by
  have h := fillRows_keeps (s0 := s0) (a1 := a1) (a2 := a2) ha2
  rw [e] at h
  exact h

theorem validDigests_keeps {s0 : State} {a1 : List Nat} {a2 : State} (ha2 : Keeps s0 a2) :
    Keeps s0 (validDigests a1 a2) := by
  induction a1 generalizing a2 with
  | nil =>
    unfold validDigests
    repeat' first
      | with_reducible exact ha2
      | with_reducible exact ih
      | with_reducible assumption
      | (intro _)
      | with_reducible apply ih
      | with_reducible apply State.setPte_keeps
      | split
      | fail_if_no_progress ((with_reducible refine Keeps.upd ?_ ?_ ?_ ?_ ?_) <;> [skip; rfl; rfl; rfl; rfl])
  | cons x xs ih =>
    unfold validDigests
    repeat' first
      | with_reducible exact ha2
      | with_reducible exact ih
      | with_reducible assumption
      | (intro _)
      | with_reducible apply ih
      | with_reducible apply State.setPte_keeps
      | (with_reducible apply Keeps.ite) <;> intro _

theorem State.insertRecord_keeps {s0 : State} {s : State} {i : Nat} {pi : Nat} {h : Nat} {toks : List Nat} (hs : Keeps s0 s) :
    Keeps s0 (State.insertRecord s i pi h toks) := by
  unfold State.insertRecord
  repeat' first
    | with_reducible exact hs
    | with_reducible assumption
    | (intro _)
    | with_reducible apply State.bump_keeps
    | with_reducible apply State.readerOn_keeps
    | with_reducible apply State.devWrite_keeps
    | with_reducible apply State.setPte_keeps
    | split
    | fail_if_no_progress ((with_reducible refine Keeps.upd ?_ ?_ ?_ ?_ ?_) <;> [skip; rfl; rfl; rfl; rfl])
    | dsimp only

theorem State.insertPage_keeps {s0 : State} {s : State} {f : FullPage} (hs : Keeps s0 s) :
    Keeps s0 (State.insertPage s f) := by
  unfold State.insertPage
  repeat' first
    | with_reducible exact hs
    | with_reducible assumption
    | (intro _)
    | with_reducible apply State.insertRecord_keeps
    | with_reducible apply State.setEntry_keeps
    | (with_reducible apply Keeps.ite) <;> intro _

theorem insertPages_keeps {s0 : State} {a1 : List FullPage} {a2 : State} (ha2 : Keeps s0 a2) :
    Keeps s0 (insertPages a1 a2) := by
  induction a1 generalizing a2 with
  | nil =>
    unfold insertPages
    repeat' first
      | with_reducible exact ha2
  | cons x xs ih =>
    unfold insertPages
    repeat' first
      | with_reducible exact ha2
      | with_reducible exact ih
      | with_reducible assumption
      | (intro _)
      | with_reducible apply ih
      | with_reducible apply State.insertPage_keeps

theorem keepTails_keeps {s0 : State} {a1 : List BatchRow} {a2 : State} (ha2 : Keeps s0 a2) :
    Keeps s0 (keepTails a1 a2) := by
  induction a1 generalizing a2 with
  | nil =>
    unfold keepTails
    repeat' first
      | with_reducible exact ha2
  | cons x xs ih =>
    unfold keepTails
    repeat' first
      | with_reducible exact ha2
      | with_reducible exact ih
      | with_reducible assumption
      | (intro _)
      | with_reducible apply ih
      | with_reducible apply State.setEntry_keeps
      | (with_reducible apply Keeps.ite) <;> intro _

theorem holdRows_keeps {s0 : State} {a1 : List BatchRow} {a2 : State} (ha2 : Keeps s0 a2) :
    Keeps s0 (holdRows a1 a2) := by
  induction a1 generalizing a2 with
  | nil =>
    unfold holdRows
    repeat' first
      | with_reducible exact ha2
  | cons x xs ih =>
    unfold holdRows
    repeat' first
      | with_reducible exact ha2
      | with_reducible exact ih
      | with_reducible assumption
      | (intro _)
      | with_reducible apply ih
      | with_reducible apply State.event_keeps
      | with_reducible apply State.setEntry_keeps
      | (with_reducible apply Keeps.ite) <;> intro _
      | split

theorem endEntries_keeps {s0 : State} {a1 : List Nat} {a2 : State} (ha2 : Keeps s0 a2) :
    Keeps s0 (endEntries a1 a2) := by
  induction a1 generalizing a2 with
  | nil =>
    unfold endEntries
    repeat' first
      | with_reducible exact ha2
  | cons x xs ih =>
    unfold endEntries
    repeat' first
      | with_reducible exact ha2
      | with_reducible exact ih
      | with_reducible assumption
      | (intro _)
      | with_reducible apply ih
      | with_reducible apply State.event_keeps
      | with_reducible apply State.setEntry_keeps
      | with_reducible apply State.abortSeal_keeps
      | (with_reducible apply Keeps.ite) <;> intro _
      | split
      | fail_if_no_progress ((with_reducible refine Keeps.upd ?_ ?_ ?_ ?_ ?_) <;> [skip; rfl; rfl; rfl; rfl])

theorem pauseEntries_keeps {s0 : State} {at_ : Nat} {a2 : List Nat} {a3 : State} (ha3 : Keeps s0 a3) :
    Keeps s0 (pauseEntries at_ a2 a3) := by
  induction a2 generalizing a3 with
  | nil =>
    unfold pauseEntries
    repeat' first
      | with_reducible exact ha3
  | cons x xs ih =>
    unfold pauseEntries
    repeat' first
      | with_reducible exact ha3
      | with_reducible exact ih
      | with_reducible assumption
      | (intro _)
      | with_reducible apply ih
      | with_reducible apply hintPages_keeps
      | with_reducible apply State.event_keeps
      | with_reducible apply State.setEntry_keeps
      | (with_reducible apply Keeps.ite) <;> intro _

theorem sealEntries_keeps {s0 : State} {at_ : Nat} {a2 : List Nat} {a3 : State} (ha3 : Keeps s0 a3) :
    Keeps s0 (sealEntries at_ a2 a3) := by
  induction a2 generalizing a3 with
  | nil =>
    unfold sealEntries
    repeat' first
      | with_reducible exact ha3
  | cons x xs ih =>
    unfold sealEntries
    repeat' first
      | with_reducible exact ha3
      | with_reducible exact ih
      | with_reducible assumption
      | (intro _)
      | with_reducible apply ih
      | with_reducible apply State.setEntry_keeps
      | (with_reducible apply Keeps.ite) <;> intro _
      | split
      | fail_if_no_progress ((with_reducible refine Keeps.upd ?_ ?_ ?_ ?_ ?_) <;> [skip; rfl; rfl; rfl; rfl])

theorem endBundles_keeps {s0 : State} {a1 : List Nat} {a2 : State} (ha2 : Keeps s0 a2) :
    Keeps s0 (endBundles a1 a2) := by
  induction a1 generalizing a2 with
  | nil =>
    unfold endBundles
    repeat' first
      | with_reducible exact ha2
  | cons x xs ih =>
    unfold endBundles
    repeat' first
      | with_reducible exact ha2
      | with_reducible exact ih
      | with_reducible assumption
      | (intro _)
      | with_reducible apply ih
      | with_reducible apply State.bump_keeps
      | with_reducible apply State.event_keeps
      | with_reducible apply State.setEntry_keeps
      | with_reducible apply State.dropSeal_keeps
      | with_reducible apply step_keeps
      | with_reducible apply State.noteLate_keeps
      | (with_reducible apply Keeps.ite) <;> intro _
      | split
      | fail_if_no_progress ((with_reducible refine Keeps.upd ?_ ?_ ?_ ?_ ?_) <;> [skip; rfl; rfl; rfl; rfl])

theorem dropRefs_keeps {s0 : State} {a1 : List Nat} {a2 : State} (ha2 : Keeps s0 a2) :
    Keeps s0 (dropRefs a1 a2) := by
  induction a1 generalizing a2 with
  | nil =>
    unfold dropRefs
    repeat' first
      | with_reducible exact ha2
  | cons x xs ih =>
    unfold dropRefs
    repeat' first
      | with_reducible exact ha2
      | with_reducible exact ih
      | with_reducible assumption
      | (intro _)
      | with_reducible apply ih
      | with_reducible apply State.dropRef_keeps

theorem releaseEntries_keeps {s0 : State} {a1 : List Nat} {a2 : Nat} {a3 : State} (ha3 : Keeps s0 a3) :
    Keeps s0 (releaseEntries a1 a2 a3) := by
  induction a1 generalizing a2 a3 with
  | nil =>
    unfold releaseEntries
    repeat' first
      | with_reducible exact ha3
  | cons x xs ih =>
    unfold releaseEntries
    repeat' first
      | with_reducible exact ha3
      | with_reducible exact ih
      | with_reducible assumption
      | (intro _)
      | with_reducible apply ih
      | with_reducible apply State.unpin_keeps
      | with_reducible apply State.setEntry_keeps
      | with_reducible apply dropRefs_keeps
      | (with_reducible apply Keeps.ite) <;> intro _

theorem releaseHolds_keeps {s0 : State} {low : Nat} {a2 : Nat} {a3 : List (Nat × Nat × Nat)} {a4 : State} (ha4 : Keeps s0 a4) :
    Keeps s0 (releaseHolds low a2 a3 a4) := by
  induction a3 generalizing a2 a4 with
  | nil =>
    unfold releaseHolds
    repeat' first
      | with_reducible exact ha4
  | cons x xs ih =>
    unfold releaseHolds
    repeat' first
      | with_reducible exact ha4
      | with_reducible exact ih
      | with_reducible assumption
      | (intro _)
      | with_reducible apply ih
      | with_reducible apply State.setPte_keeps
      | (with_reducible apply Keeps.ite) <;> intro _

theorem State.releaseCoppice_keeps {s0 : State} {s : State} (hs : Keeps s0 s) :
    Keeps s0 (State.releaseCoppice s) := by
  unfold State.releaseCoppice
  repeat' first
    | with_reducible exact hs
    | with_reducible assumption
    | (intro _)
    | with_reducible apply releaseHolds_keeps
    | (with_reducible apply Keeps.ite) <;> intro _

theorem dropPages_keeps {s0 : State} {a1 : List Nat} {a2 : State} (ha2 : Keeps s0 a2) :
    Keeps s0 (dropPages a1 a2) := by
  induction a1 generalizing a2 with
  | nil =>
    unfold dropPages
    repeat' first
      | with_reducible exact ha2
  | cons x xs ih =>
    unfold dropPages
    repeat' first
      | with_reducible exact ha2
      | with_reducible exact ih
      | with_reducible assumption
      | (intro _)
      | with_reducible apply ih
      | with_reducible apply State.bump_keeps
      | with_reducible apply State.setPte_keeps
      | with_reducible apply State.unmapPage_keeps
      | with_reducible apply State.dropRecord_keeps
      | (with_reducible apply Keeps.ite) <;> intro _

theorem State.reclaim_keeps {s0 s : State} (hs : Keeps s0 s) : Keeps s0 (State.reclaim s) := by
  unfold State.reclaim
  refine Keeps.updTables (dropPages_keeps hs) (fun q => ⟨q.1, q.2.1, ?_⟩) rfl rfl rfl rfl
  exact mwfFrom_mapFilter (f := fun x : Grove => { x with canopy := x.canopy.forget _ }) q.2.2

theorem selectTokens_keeps {s0 : State} {a1 : List BatchRow} {a2 : State} (ha2 : Keeps s0 a2) :
    Keeps s0 (selectTokens a1 a2).2 := by
  induction a1 generalizing a2 with
  | nil =>
    unfold selectTokens
    repeat' first
      | with_reducible exact ha2
  | cons x xs ih =>
    unfold selectTokens
    repeat' first
      | with_reducible exact ha2
      | with_reducible exact ih
      | with_reducible assumption
      | (intro _)
      | with_reducible apply ih
      | with_reducible apply State.draw_keeps
      | refine State.draw_keeps_pair (by assumption) ?_
      | with_reducible apply State.drawBool_keeps

theorem selectTokens_keeps_pair {s0 : State} {a1 : List BatchRow} {a2 : State} {o0 : List (BatchRow × Word)} {t0 : State}
    (e : selectTokens a1 a2 = (o0, t0)) (ha2 : Keeps s0 a2) :
    Keeps s0 t0 := by
  have h := selectTokens_keeps (s0 := s0) (a1 := a1) (a2 := a2) ha2
  rw [e] at h
  exact h

theorem State.sendEvents_keeps {s0 : State} {s : State} (hs : Keeps s0 s) :
    Keeps s0 (State.sendEvents s) := by
  unfold State.sendEvents
  repeat' first
    | with_reducible exact hs
    | with_reducible assumption
    | (intro _)
    | with_reducible apply State.hostSend_keeps
    | (with_reducible apply Keeps.ite) <;> intro _
    | split
    | fail_if_no_progress ((with_reducible refine Keeps.upd ?_ ?_ ?_ ?_ ?_) <;> [skip; rfl; rfl; rfl; rfl])

theorem State.sendTokens_keeps {s0 : State} {s : State} {toks : List (BatchRow × Word)} {capped : List Nat} (hs : Keeps s0 s) :
    Keeps s0 (State.sendTokens s toks capped) := by
  unfold State.sendTokens
  repeat' first
    | with_reducible exact hs
    | with_reducible assumption
    | (intro _)
    | with_reducible apply State.hostSend_keeps
    | (with_reducible apply Keeps.ite) <;> intro _

theorem applyCounts_keeps {s0 : State} {a1 : List PendCount} {a2 : State} (ha2 : Keeps s0 a2) :
    Keeps s0 (applyCounts a1 a2) := by
  induction a1 generalizing a2 with
  | nil =>
    unfold applyCounts
    repeat' first
      | with_reducible exact ha2
  | cons x xs ih =>
    unfold applyCounts
    repeat' first
      | with_reducible exact ha2
      | with_reducible exact ih
      | with_reducible assumption
      | (intro _)
      | with_reducible apply ih
      | with_reducible apply State.bump_keeps
      | with_reducible apply State.setReg64_keeps
      | (with_reducible apply Keeps.ite) <;> intro _

theorem writeLayers_keeps {s0 : State} {a1 : List (Nat × LayerTotal)} {a2 : State} (ha2 : Keeps s0 a2) :
    Keeps s0 (writeLayers a1 a2) := by
  induction a1 generalizing a2 with
  | nil =>
    unfold writeLayers
    repeat' first
      | with_reducible exact ha2
  | cons x xs ih =>
    unfold writeLayers
    repeat' first
      | with_reducible exact ha2
      | with_reducible exact ih
      | with_reducible assumption
      | (intro _)
      | with_reducible apply ih
      | with_reducible apply State.devWrite_keeps
      | with_reducible apply step_keeps
      | (with_reducible apply Keeps.ite) <;> intro _

theorem State.clearCounts_keeps {s0 : State} {s : State} (hs : Keeps s0 s) :
    Keeps s0 (State.clearCounts s) := by
  unfold State.clearCounts
  repeat' first
    | with_reducible exact hs
    | with_reducible assumption
    | (intro _)
    | with_reducible apply applyCounts_keeps
    | with_reducible apply State.bump_keeps
    | with_reducible apply writeLayers_keeps
    | (with_reducible apply Keeps.ite) <;> intro _
    | split
    | fail_if_no_progress ((with_reducible refine Keeps.upd ?_ ?_ ?_ ?_ ?_) <;> [skip; rfl; rfl; rfl; rfl])

theorem addLoads_keeps {s0 : State} {layer : Nat} {a2 : List Nat} {a3 : State} (ha3 : Keeps s0 a3) :
    Keeps s0 (addLoads layer a2 a3) := by
  induction a2 generalizing a3 with
  | nil =>
    unfold addLoads
    repeat' first
      | with_reducible exact ha3
  | cons x xs ih =>
    unfold addLoads
    repeat' first
      | with_reducible exact ha3
      | with_reducible exact ih
      | with_reducible assumption
      | (intro _)
      | with_reducible apply ih
      | with_reducible apply State.devWrite_keeps

theorem countLoads_keeps {s0 : State} {a1 : List RouteLayer} {a2 : State} (ha2 : Keeps s0 a2) :
    Keeps s0 (countLoads a1 a2) := by
  induction a1 generalizing a2 with
  | nil =>
    unfold countLoads
    repeat' first
      | with_reducible exact ha2
  | cons x xs ih =>
    unfold countLoads
    repeat' first
      | with_reducible exact ha2
      | with_reducible exact ih
      | with_reducible assumption
      | (intro _)
      | with_reducible apply ih
      | with_reducible apply addLoads_keeps
      | (with_reducible apply Keeps.ite) <;> intro _
      | split
      | fail_if_no_progress ((with_reducible refine Keeps.upd ?_ ?_ ?_ ?_ ?_) <;> [skip; rfl; rfl; rfl; rfl])

theorem biasExperts_keeps {s0 : State} {layer : Nat} {ne : Nat} {total : Nat} {loads : List Nat} {a5 : List Nat} {a6 : State} (ha6 : Keeps s0 a6) :
    Keeps s0 (biasExperts layer ne total loads a5 a6) := by
  induction a5 generalizing a6 with
  | nil =>
    unfold biasExperts
    repeat' first
      | with_reducible exact ha6
  | cons x xs ih =>
    unfold biasExperts
    repeat' first
      | with_reducible exact ha6
      | with_reducible exact ih
      | with_reducible assumption
      | (intro _)
      | with_reducible apply ih
      | with_reducible apply State.devWrite_keeps

theorem biasLayers_keeps {s0 : State} {a1 : List BiasDue} {a2 : State} (ha2 : Keeps s0 a2) :
    Keeps s0 (biasLayers a1 a2) := by
  induction a1 generalizing a2 with
  | nil =>
    unfold biasLayers
    repeat' first
      | with_reducible exact ha2
  | cons x xs ih =>
    unfold biasLayers
    repeat' first
      | with_reducible exact ha2
      | with_reducible exact ih
      | with_reducible assumption
      | (intro _)
      | with_reducible apply ih
      | with_reducible apply State.bump_keeps
      | with_reducible apply biasExperts_keeps
      | (with_reducible apply Keeps.ite) <;> intro _

theorem State.biasLoop_keeps {s0 : State} {s : State} (hs : Keeps s0 s) :
    Keeps s0 (State.biasLoop s) := by
  unfold State.biasLoop
  repeat' first
    | with_reducible exact hs
    | with_reducible assumption
    | (intro _)
    | with_reducible apply biasLayers_keeps
    | (with_reducible apply Keeps.ite) <;> intro _
    | split
    | fail_if_no_progress ((with_reducible refine Keeps.upd ?_ ?_ ?_ ?_ ?_) <;> [skip; rfl; rfl; rfl; rfl])

theorem addMarks_keeps {s0 : State} {a1 : List AuditMark} {a2 : State} (ha2 : Keeps s0 a2) :
    Keeps s0 (addMarks a1 a2) := by
  induction a1 generalizing a2 with
  | nil =>
    unfold addMarks
    repeat' first
      | with_reducible exact ha2
  | cons x xs ih =>
    unfold addMarks
    repeat' first
      | with_reducible exact ha2
      | with_reducible exact ih
      | with_reducible assumption
      | (intro _)
      | with_reducible apply ih
      | with_reducible apply State.devWrite_keeps

theorem State.clearRouting_keeps {s0 : State} {s : State} (hs : Keeps s0 s) :
    Keeps s0 (State.clearRouting s) := by
  unfold State.clearRouting
  repeat' first
    | with_reducible exact hs
    | with_reducible assumption
    | (intro _)
    | with_reducible apply countLoads_keeps
    | with_reducible apply State.biasLoop_keeps
    | with_reducible apply addMarks_keeps
    | split
    | fail_if_no_progress ((with_reducible refine Keeps.upd ?_ ?_ ?_ ?_ ?_) <;> [skip; rfl; rfl; rfl; rfl])

theorem State.clearMaps_keeps {s0 : State} {s : State} (hs : Keeps s0 s) :
    Keeps s0 (State.clearMaps s) := by
  unfold State.clearMaps
  repeat' first
    | with_reducible exact hs
    | with_reducible assumption
    | (intro _)
    | split
    | fail_if_no_progress ((with_reducible refine Keeps.upd ?_ ?_ ?_ ?_ ?_) <;> [skip; rfl; rfl; rfl; rfl])

theorem finishPlots_keeps {s0 : State} {a1 : List Nat} {a2 : State} (ha2 : Keeps s0 a2) :
    Keeps s0 (finishPlots a1 a2) := by
  induction a1 generalizing a2 with
  | nil =>
    unfold finishPlots
    repeat' first
      | with_reducible exact ha2
  | cons x xs ih =>
    unfold finishPlots
    repeat' first
      | with_reducible exact ha2
      | with_reducible exact ih
      | with_reducible assumption
      | (intro _)
      | with_reducible apply ih
      | with_reducible apply State.bump_keeps
      | with_reducible apply mapGlades_keeps
      | with_reducible apply State.setPlot_keeps
      | (with_reducible apply Keeps.ite) <;> intro _
      | split
      | fail_if_no_progress ((with_reducible refine Keeps.upd ?_ ?_ ?_ ?_ ?_) <;> [skip; rfl; rfl; rfl; rfl])

theorem State.clearEntries_keeps {s0 : State} {s : State} {at_ : Nat} {rows : List BatchRow} (hs : Keeps s0 s) :
    Keeps s0 (State.clearEntries s at_ rows) := by
  unfold State.clearEntries
  repeat' first
    | with_reducible exact hs
    | with_reducible assumption
    | (intro _)
    | with_reducible apply State.freeSlots_keeps
    | with_reducible apply advanceRows_keeps
    | with_reducible apply fillRows_keeps
    | refine fillRows_keeps_pair (by assumption) ?_
    | with_reducible apply validDigests_keeps
    | with_reducible apply holdRows_keeps
    | with_reducible apply keepTails_keeps
    | with_reducible apply insertPages_keeps
    | with_reducible apply endEntries_keeps
    | with_reducible apply pauseEntries_keeps
    | with_reducible apply sealEntries_keeps
    | with_reducible apply endBundles_keeps

theorem State.clearPages_keeps {s0 : State} {s : State} (hs : Keeps s0 s) :
    Keeps s0 (State.clearPages s) := by
  unfold State.clearPages
  repeat' first
    | with_reducible exact hs
    | with_reducible assumption
    | (intro _)
    | with_reducible apply State.reclaim_keeps
    | with_reducible apply State.clearGrafts_keeps
    | with_reducible apply State.releaseCoppice_keeps
    | with_reducible apply releaseEntries_keeps

theorem State.clearOutput_keeps {s0 : State} {s : State} {toks : List (BatchRow × Word)} {capped : List Nat} (hs : Keeps s0 s) :
    Keeps s0 (State.clearOutput s toks capped) := by
  unfold State.clearOutput
  repeat' first
    | with_reducible exact hs
    | with_reducible assumption
    | (intro _)
    | with_reducible apply State.sendEvents_keeps
    | with_reducible apply State.sendTokens_keeps
    | with_reducible apply State.bump_keeps
    | with_reducible apply State.clearMaps_keeps
    | with_reducible apply State.clearRouting_keeps
    | with_reducible apply State.clearCounts_keeps
    | with_reducible apply finishPlots_keeps
    | (with_reducible apply Keeps.ite) <;> intro _
    | split
    | fail_if_no_progress ((with_reducible refine Keeps.upd ?_ ?_ ?_ ?_ ?_) <;> [skip; rfl; rfl; rfl; rfl])

theorem execClearing_keeps {s0 : State} {s : State} (hs : Keeps s0 s) :
    KeepsOut s0 (execClearing s) := by
  unfold execClearing
  repeat' first
    | with_reducible exact hs
    | with_reducible assumption
    | (intro _)
    | with_reducible apply KeepsOut.next
    | with_reducible exact KeepsOut.fault
    | with_reducible exact KeepsOut.refused
    | with_reducible apply State.whenReadable_keeps
    | with_reducible apply State.applyDue_keeps
    | with_reducible apply State.drainInbox_keeps
    | with_reducible apply State.applyAtClearing_keeps
    | with_reducible apply State.clearEntries_keeps
    | with_reducible apply selectTokens_keeps
    | refine selectTokens_keeps_pair (by assumption) ?_
    | with_reducible apply State.clearOutput_keeps
    | with_reducible apply State.clearPages_keeps
    | (with_reducible apply KeepsOut.ite) <;> intro _
    | split
    | fail_if_no_progress ((with_reducible refine Keeps.upd ?_ ?_ ?_ ?_ ?_) <;> [skip; rfl; rfl; rfl; rfl])

end Sys2Proof.Machine
end

