-- ==== Sys2Proof/Laws/KeepsMigrate.lean ====
section
/-!
SUPPORT. What the operations of Machine/Migrate.lean keep: one lemma for each that gives a state.
-/

namespace Sys2Proof.Machine

theorem State.startMove_keeps {s0 : State} {s : State} {k : Nat} {r : Region} {i : Nat} {toUnder : Bool} (hs : Keeps s0 s) :
    Keeps s0 (State.startMove s k r i toUnder) := by
  unfold State.startMove
  repeat' first
    | with_reducible exact hs
    | with_reducible assumption
    | (intro _)
    | refine State.pickSlot_keeps (by assumption) ?_
    | refine State.pickSlot_keeps_pair (by assumption) ?_
    | (with_reducible apply Keeps.ite) <;> intro _
    | split
    | fail_if_no_progress ((with_reducible refine Keeps.upd ?_ ?_ ?_ ?_ ?_) <;> [skip; rfl; rfl; rfl; rfl])

theorem State.visit_keeps {s0 : State} {s : State} {k : Nat} {r : Region} {i : Nat} (hs : Keeps s0 s) :
    Keeps s0 (State.visit s k r i) := by
  unfold State.visit
  repeat' first
    | with_reducible exact hs
    | with_reducible assumption
    | (intro _)
    | with_reducible apply State.bump_keeps
    | with_reducible apply State.startMove_keeps
    | (with_reducible apply Keeps.ite) <;> intro _

theorem execMigrationVisit_keeps {s0 : State} {s : State} (hs : Keeps s0 s) :
    KeepsOut s0 (execMigrationVisit s) := by
  unfold execMigrationVisit
  repeat' first
    | with_reducible exact hs
    | with_reducible assumption
    | (intro _)
    | with_reducible apply KeepsOut.next
    | with_reducible exact KeepsOut.fault
    | with_reducible exact KeepsOut.refused
    | with_reducible apply State.visit_keeps
    | (with_reducible apply KeepsOut.ite) <;> intro _
    | split
    | fail_if_no_progress ((with_reducible refine Keeps.upd ?_ ?_ ?_ ?_ ?_) <;> [skip; rfl; rfl; rfl; rfl])
    | dsimp only

/-- Changing listed glades leaves the memory tiers as they are. -/
theorem mapGlades_mem {f : Glade → Glade} : ∀ {gs : List Nat} {s : State}, (mapGlades f gs s).mem = s.mem
  | [], _ => rfl
  | _ :: gs, _ => mapGlades_mem (gs := gs)

theorem State.keepSlots_mem (s : State) (r : Region) (h : SlotHold) : (s.keepSlots r h).mem = s.mem := mapGlades_mem

theorem State.keepSlots_keeps {s0 s : State} {r : Region} {h : SlotHold} (hs : Keeps s0 s) : Keeps s0 (State.keepSlots s r h) := by
  unfold State.keepSlots
  exact Keeps.updTables (mapGlades_keeps hs) (fun q => ⟨q.1, q.2.1, mwfFrom_mapFilter (f := fun x : Grove =>
    { x with canopy := x.canopy.keepSlot r h (fun p y => s.sliceAddr (attDesc y.desc) p) (fun _ _ => sliceSize s.kvForm) }) q.2.2⟩)
    rfl rfl rfl rfl

/-- Copying a slot keeps the canonical form. -/
theorem copySlot_wf {r : Region} {x y : Bool} {a b : Nat} {m : SMap Byte} (h : mwf 0 m = true) :
    mwf 0 (copySlot r x a y b m) = true := mwf_foldl (fun _ _ k => mwf_mset k) h

theorem execMigrationCopyComplete_keeps {s0 s : State} {k : Nat} (hs : Keeps s0 s) :
    KeepsOut s0 (execMigrationCopyComplete k s) := by
  unfold execMigrationCopyComplete
  split
  · exact KeepsOut.next hs
  · split
    · exact KeepsOut.next (Keeps.upd hs rfl rfl rfl rfl)
    · refine KeepsOut.ite (fun _ => KeepsOut.next hs) (fun _ => ?_)
      dsimp only
      refine KeepsOut.ite (fun _ => KeepsOut.next (State.bump_keeps (Keeps.upd hs rfl rfl rfl rfl))) (fun _ => ?_)
      exact KeepsOut.next (State.bump_keeps (State.setMem_keeps (State.keepSlots_keeps hs)
        (fun h => copySlot_wf (by rw [State.keepSlots_mem] at h; exact h))))

theorem execCountHalvingTick_keeps {s0 : State} {s : State} (hs : Keeps s0 s) :
    KeepsOut s0 (execCountHalvingTick s) := by
  unfold execCountHalvingTick
  repeat' first
    | with_reducible exact hs
    | with_reducible assumption
    | (intro _)
    | with_reducible apply KeepsOut.next
    | with_reducible exact KeepsOut.fault
    | with_reducible exact KeepsOut.refused
    | (with_reducible apply KeepsOut.ite) <;> intro _
    | split
    | fail_if_no_progress ((with_reducible refine Keeps.upd ?_ ?_ ?_ ?_ ?_) <;> [skip; rfl; rfl; rfl; rfl])

theorem execHintLapse_keeps {s0 : State} {granule : BitVec 28} {s : State} (hs : Keeps s0 s) :
    KeepsOut s0 (execHintLapse granule s) := by
  unfold execHintLapse
  repeat' first
    | with_reducible exact hs
    | with_reducible assumption
    | (intro _)
    | with_reducible apply KeepsOut.next
    | with_reducible exact KeepsOut.fault
    | with_reducible exact KeepsOut.refused
    | (with_reducible apply KeepsOut.ite) <;> intro _
    | split
    | fail_if_no_progress ((with_reducible refine Keeps.upd ?_ ?_ ?_ ?_ ?_) <;> [skip; rfl; rfl; rfl; rfl])

end Sys2Proof.Machine
end

