-- ==== Sys2Proof/Laws/KeepsPower.lean ====
section
/-!
SUPPORT. What the operations of Machine/Power.lean keep: one lemma for each that gives a state.
-/

namespace Sys2Proof.Machine

theorem State.setPower_keeps {s0 : State} {s : State} {p : Power} (hs : Keeps s0 s) :
    Keeps s0 (State.setPower s p) := by
  unfold State.setPower
  repeat' first
    | with_reducible exact hs
    | with_reducible assumption
    | (intro _)
    | split
    | fail_if_no_progress ((with_reducible refine Keeps.upd ?_ ?_ ?_ ?_ ?_) <;> [skip; rfl; rfl; rfl; rfl])

theorem State.setGpower_keeps {s0 : State} {s : State} {gv : Nat} {x : GrovePower} (hs : Keeps s0 s) :
    Keeps s0 (State.setGpower s gv x) := by
  unfold State.setGpower
  repeat' first
    | with_reducible exact hs
    | with_reducible assumption
    | (intro _)
    | with_reducible apply State.setPower_keeps

theorem State.latchReports_keeps {s0 : State} {s : State} {r : WardenReport} (hs : Keeps s0 s) :
    Keeps s0 (State.latchReports s r) := by
  unfold State.latchReports
  repeat' first
    | with_reducible exact hs
    | with_reducible assumption
    | (intro _)
    | with_reducible apply State.setPower_keeps
    | with_reducible apply State.bump_keeps
    | with_reducible apply State.setStatus_keeps
    | (with_reducible apply Keeps.ite) <;> intro _

theorem State.countEnergy_keeps {s0 : State} {s : State} {pin : BitVec 16} (hs : Keeps s0 s) :
    Keeps s0 (State.countEnergy s pin) := by
  unfold State.countEnergy
  repeat' first
    | with_reducible exact hs
    | with_reducible assumption
    | (intro _)
    | with_reducible apply State.setBoard_keeps
    | with_reducible apply State.setLife_keeps

theorem State.takeTemps_keeps {s0 : State} {s : State} {r : WardenReport} (hs : Keeps s0 s) :
    Keeps s0 (State.takeTemps s r) := by
  unfold State.takeTemps
  repeat' first
    | with_reducible exact hs
    | with_reducible assumption
    | (intro _)
    | with_reducible apply State.setPower_keeps
    | with_reducible apply State.setBoard_keeps
    | with_reducible apply State.setLife_keeps
    | (with_reducible apply Keeps.ite) <;> intro _

theorem State.takeHints_keeps {s0 : State} {s : State} (hs : Keeps s0 s) :
    Keeps s0 (State.takeHints s) := by
  unfold State.takeHints
  repeat' first
    | with_reducible exact hs
    | with_reducible assumption
    | (intro _)
    | with_reducible apply State.setPower_keeps

theorem wardenGroves_keeps {s0 : State} {pool : Nat} {all : List Bool} {a3 : List Nat} {a4 : State} (ha4 : Keeps s0 a4) :
    Keeps s0 (wardenGroves pool all a3 a4) := by
  induction a3 generalizing a4 with
  | nil =>
    unfold wardenGroves
    repeat' first
      | with_reducible exact ha4
  | cons x xs ih =>
    unfold wardenGroves
    repeat' first
      | with_reducible exact ha4
      | with_reducible exact ih
      | with_reducible assumption
      | (intro _)
      | with_reducible apply ih
      | with_reducible apply State.setGpower_keeps

theorem State.laneErrors_keeps {s0 : State} {s : State} {st : Nat} {pc : Nat} {lane : Nat} {n : Nat} (hs : Keeps s0 s) :
    Keeps s0 (State.laneErrors s st pc lane n) := by
  unfold State.laneErrors
  repeat' first
    | with_reducible exact hs
    | with_reducible assumption
    | (intro _)
    | (with_reducible refine State.setMem_keeps ?_ ?_) <;> [skip; exact id]
    | with_reducible apply State.history_keeps
    | with_reducible apply State.setLife_keeps
    | (with_reducible apply Keeps.ite) <;> intro _

theorem countCorrected_keeps {s0 : State} {a1 : List CeCount} {a2 : State} (ha2 : Keeps s0 a2) :
    Keeps s0 (countCorrected a1 a2) := by
  induction a1 generalizing a2 with
  | nil =>
    unfold countCorrected
    repeat' first
      | with_reducible exact ha2
  | cons x xs ih =>
    unfold countCorrected
    repeat' first
      | with_reducible exact ha2
      | with_reducible exact ih
      | with_reducible assumption
      | (intro _)
      | with_reducible apply ih
      | with_reducible apply State.bump_keeps
      | with_reducible apply State.setLife_keeps
      | with_reducible apply State.laneErrors_keeps
      | (with_reducible apply Keeps.ite) <;> intro _

theorem execWardenPeriod_keeps {s0 : State} {report : WardenReport} {s : State} (hs : Keeps s0 s) :
    KeepsOut s0 (execWardenPeriod report s) := by
  unfold execWardenPeriod
  repeat' first
    | with_reducible exact hs
    | with_reducible assumption
    | (intro _)
    | with_reducible apply KeepsOut.next
    | with_reducible exact KeepsOut.fault
    | with_reducible exact KeepsOut.refused
    | with_reducible apply State.setBoard_keeps
    | with_reducible apply State.latchReports_keeps
    | with_reducible apply countCorrected_keeps
    | with_reducible apply State.takeTemps_keeps
    | with_reducible apply State.countEnergy_keeps
    | with_reducible apply State.takeHints_keeps
    | with_reducible apply State.setPower_keeps
    | with_reducible apply wardenGroves_keeps
    | with_reducible apply State.bump_keeps
    | (with_reducible apply Keeps.ite) <;> intro _
    | (with_reducible apply KeepsOut.ite) <;> intro _

theorem execRailSettled_keeps {s0 : State} {grove : BitVec 4} {s : State} (hs : Keeps s0 s) :
    KeepsOut s0 (execRailSettled grove s) := by
  unfold execRailSettled
  repeat' first
    | with_reducible exact hs
    | with_reducible assumption
    | (intro _)
    | with_reducible apply KeepsOut.next
    | with_reducible exact KeepsOut.fault
    | with_reducible exact KeepsOut.refused
    | with_reducible apply State.setGpower_keeps
    | (with_reducible apply KeepsOut.ite) <;> intro _

theorem execDroopDetect_keeps {s0 : State} {grove : BitVec 4} {s : State} (hs : Keeps s0 s) :
    KeepsOut s0 (execDroopDetect grove s) := by
  unfold execDroopDetect
  repeat' first
    | with_reducible exact hs
    | with_reducible assumption
    | (intro _)
    | with_reducible apply KeepsOut.next
    | with_reducible exact KeepsOut.fault
    | with_reducible exact KeepsOut.refused
    | with_reducible apply State.setGpower_keeps
    | (with_reducible apply KeepsOut.ite) <;> intro _

theorem execDroopRecovery_keeps {s0 : State} {grove : BitVec 4} {cycles : Nat} {s : State} (hs : Keeps s0 s) :
    KeepsOut s0 (execDroopRecovery grove cycles s) := by
  unfold execDroopRecovery
  repeat' first
    | with_reducible exact hs
    | with_reducible assumption
    | (intro _)
    | with_reducible apply KeepsOut.next
    | with_reducible exact KeepsOut.fault
    | with_reducible exact KeepsOut.refused
    | with_reducible apply State.bump_keeps
    | with_reducible apply State.setGpower_keeps
    | (with_reducible apply KeepsOut.ite) <;> intro _

theorem State.becomeMarginal_keeps {s0 : State} {s : State} {ph : Nat} {cur : Nat} (hs : Keeps s0 s) :
    Keeps s0 (State.becomeMarginal s ph cur) := by
  unfold State.becomeMarginal
  repeat' first
    | with_reducible exact hs
    | with_reducible assumption
    | (intro _)
    | with_reducible apply State.setPhys_keeps
    | with_reducible apply State.setCause_keeps
    | with_reducible apply State.raise_keeps

theorem State.checkMarginal_keeps {s0 : State} {s : State} {ph : Nat} {cur : Nat} (hs : Keeps s0 s) :
    Keeps s0 (State.checkMarginal s ph cur) := by
  unfold State.checkMarginal
  repeat' first
    | with_reducible exact hs
    | with_reducible assumption
    | (intro _)
    | with_reducible apply State.becomeMarginal_keeps
    | with_reducible apply State.setPhys_keeps
    | (with_reducible apply Keeps.ite) <;> intro _

theorem execAgeingReport_keeps {s0 : State} {phys : BitVec 11} {mhz : BitVec 11} {s : State} (hs : Keeps s0 s) :
    KeepsOut s0 (execAgeingReport phys mhz s) := by
  unfold execAgeingReport
  repeat' first
    | with_reducible exact hs
    | with_reducible assumption
    | (intro _)
    | with_reducible apply KeepsOut.next
    | with_reducible exact KeepsOut.fault
    | with_reducible exact KeepsOut.refused
    | with_reducible apply State.setPhys_keeps
    | with_reducible apply State.checkOffer_keeps
    | with_reducible apply State.checkMarginal_keeps
    | (with_reducible apply KeepsOut.ite) <;> intro _

theorem execMarginalGraceExpiry_keeps {s0 : State} {phys : BitVec 11} {s : State} (hs : Keeps s0 s) :
    KeepsOut s0 (execMarginalGraceExpiry phys s) := by
  unfold execMarginalGraceExpiry
  repeat' first
    | with_reducible exact hs
    | with_reducible assumption
    | (intro _)
    | with_reducible apply KeepsOut.next
    | with_reducible exact KeepsOut.fault
    | with_reducible exact KeepsOut.refused
    | with_reducible apply State.setPhys_keeps
    | with_reducible apply State.checkOffer_keeps
    | (with_reducible apply KeepsOut.ite) <;> intro _
    | split
    | dsimp only

theorem portsDown_keeps {s0 : State} {a1 : List Nat} {a2 : State} (ha2 : Keeps s0 a2) :
    Keeps s0 (portsDown a1 a2) := by
  induction a1 generalizing a2 with
  | nil =>
    unfold portsDown
    repeat' first
      | with_reducible exact ha2
  | cons x xs ih =>
    unfold portsDown
    repeat' first
      | with_reducible exact ha2
      | with_reducible exact ih
      | with_reducible assumption
      | (intro _)
      | with_reducible apply ih
      | with_reducible apply State.setPort_keeps

theorem State.enterIdle_keeps {s0 s : State} {k : Nat} (hs : Keeps s0 s) : Keeps s0 (State.enterIdle s k) := by
  unfold State.enterIdle
  dsimp only
  refine Keeps.ite (fun _ => ?_) (fun _ => Keeps.ite (fun _ => ?_) (fun _ => Keeps.ite (fun _ => ?_) (fun _ => ?_)))
  · exact State.bump_keeps (State.setPower_keeps (State.setBoard_keeps hs))
  · exact Keeps.updTables (mapGlades_keeps (State.bump_keeps (State.setPower_keeps (State.setBoard_keeps hs))))
      (fun q => ⟨q.1, q.2.1, rfl⟩) rfl rfl rfl rfl
  · exact State.setPower_keeps (Keeps.updTables (mapGlades_keeps (State.bump_keeps (State.setPower_keeps (State.setBoard_keeps hs))))
      (fun q => ⟨q.1, q.2.1, rfl⟩) rfl rfl rfl rfl)
  · exact Keeps.upd (State.ohmipDown_keeps (portsDown_keeps (State.broadcastItem_keeps (State.setPower_keeps
      (Keeps.updTables (mapGlades_keeps (State.bump_keeps (State.setPower_keeps (State.setBoard_keeps hs))))
      (fun q => ⟨q.1, q.2.1, rfl⟩) rfl rfl rfl rfl))))) rfl rfl rfl rfl

theorem execIdleEntry_keeps {s0 : State} {s : State} (hs : Keeps s0 s) :
    KeepsOut s0 (execIdleEntry s) := by
  unfold execIdleEntry
  repeat' first
    | with_reducible exact hs
    | with_reducible assumption
    | (intro _)
    | with_reducible apply KeepsOut.next
    | with_reducible exact KeepsOut.fault
    | with_reducible exact KeepsOut.refused
    | with_reducible apply State.enterIdle_keeps
    | (with_reducible apply KeepsOut.ite) <;> intro _

theorem risenGroves_keeps {s0 : State} {a1 : List Nat} {a2 : State} (ha2 : Keeps s0 a2) :
    Keeps s0 (risenGroves a1 a2) := by
  induction a1 generalizing a2 with
  | nil =>
    unfold risenGroves
    repeat' first
      | with_reducible exact ha2
  | cons x xs ih =>
    unfold risenGroves
    repeat' first
      | with_reducible exact ha2
      | with_reducible exact ih
      | with_reducible assumption
      | (intro _)
      | with_reducible apply ih
      | with_reducible apply State.groveRises_keeps

theorem State.reloadGlade_keeps {s0 : State} {s : State} {g : Nat} (hs : Keeps s0 s) :
    Keeps s0 (State.reloadGlade s g) := by
  unfold State.reloadGlade
  repeat' first
    | with_reducible exact hs
    | with_reducible assumption
    | (intro _)
    | with_reducible apply State.drawBytes_keeps
    | refine State.drawBytes_keeps_pair (by assumption) ?_
    | with_reducible apply refillGlades_keeps
    | with_reducible apply State.setGlade_keeps

theorem reloadAll_keeps {s0 : State} {a1 : List Nat} {a2 : State} (ha2 : Keeps s0 a2) :
    Keeps s0 (reloadAll a1 a2) := by
  induction a1 generalizing a2 with
  | nil =>
    unfold reloadAll
    repeat' first
      | with_reducible exact ha2
  | cons x xs ih =>
    unfold reloadAll
    repeat' first
      | with_reducible exact ha2
      | with_reducible exact ih
      | with_reducible assumption
      | (intro _)
      | with_reducible apply ih
      | with_reducible apply State.reloadGlade_keeps

theorem State.exitIdle_keeps {s0 : State} {s : State} (hs : Keeps s0 s) :
    Keeps s0 (State.exitIdle s) := by
  unfold State.exitIdle
  repeat' first
    | with_reducible exact hs
    | with_reducible assumption
    | (intro _)
    | with_reducible apply State.setBoard_keeps
    | with_reducible apply State.setPower_keeps
    | with_reducible apply reloadAll_keeps
    | with_reducible apply risenGroves_keeps
    | with_reducible apply State.drainData_keeps
    | with_reducible apply State.drainInbox_keeps
    | (with_reducible apply Keeps.ite) <;> intro _
    | split
    | fail_if_no_progress ((with_reducible refine Keeps.upd ?_ ?_ ?_ ?_ ?_) <;> [skip; rfl; rfl; rfl; rfl])

theorem State.leaveFor_keeps {s0 : State} {s : State} {k : Nat} (hs : Keeps s0 s) :
    Keeps s0 (State.leaveFor s k) := by
  unfold State.leaveFor
  repeat' first
    | with_reducible exact hs
    | with_reducible assumption
    | (intro _)
    | with_reducible apply State.exitIdle_keeps
    | with_reducible apply State.enterIdle_keeps
    | (with_reducible apply Keeps.ite) <;> intro _

theorem State.checkExit_keeps {s0 : State} {s : State} (hs : Keeps s0 s) :
    Keeps s0 (State.checkExit s) := by
  unfold State.checkExit
  repeat' first
    | with_reducible exact hs
    | with_reducible assumption
    | (intro _)
    | with_reducible apply State.leaveFor_keeps
    | (with_reducible apply Keeps.ite) <;> intro _

theorem execIdleExit_keeps {s0 : State} {s : State} (hs : Keeps s0 s) :
    KeepsOut s0 (execIdleExit s) := by
  unfold execIdleExit
  repeat' first
    | with_reducible exact hs
    | with_reducible assumption
    | (intro _)
    | with_reducible apply KeepsOut.next
    | with_reducible exact KeepsOut.fault
    | with_reducible exact KeepsOut.refused
    | with_reducible apply State.checkExit_keeps

theorem execS1Exit_keeps {s0 : State} {s : State} (hs : Keeps s0 s) :
    KeepsOut s0 (execS1Exit s) := by
  unfold execS1Exit
  repeat' first
    | with_reducible exact hs
    | with_reducible assumption
    | (intro _)
    | with_reducible apply KeepsOut.next
    | with_reducible exact KeepsOut.fault
    | with_reducible exact KeepsOut.refused
    | with_reducible apply State.leaveS1_keeps
    | (with_reducible apply KeepsOut.ite) <;> intro _

theorem execWake_keeps {s0 : State} {s : State} (hs : Keeps s0 s) :
    KeepsOut s0 (execWake s) := by
  unfold execWake
  repeat' first
    | with_reducible exact hs
    | with_reducible assumption
    | (intro _)
    | with_reducible apply KeepsOut.next
    | with_reducible exact KeepsOut.fault
    | with_reducible exact KeepsOut.refused
    | with_reducible apply State.setPower_keeps
    | (with_reducible apply KeepsOut.ite) <;> intro _
    | split
    | fail_if_no_progress ((with_reducible refine Keeps.upd ?_ ?_ ?_ ?_ ?_) <;> [skip; rfl; rfl; rfl; rfl])

theorem State.writeLtr_keeps {s0 : State} {s : State} {data : Word} (hs : Keeps s0 s) :
    Keeps s0 (State.writeLtr s data) := by
  unfold State.writeLtr
  repeat' first
    | with_reducible exact hs
    | with_reducible assumption
    | (intro _)
    | with_reducible apply State.checkExit_keeps
    | with_reducible apply State.storeReg_keeps

theorem execLatencyToleranceWrite_keeps {s0 : State} {data : BitVec 32} {s : State} (hs : Keeps s0 s) :
    KeepsOut s0 (execLatencyToleranceWrite data s) := by
  unfold execLatencyToleranceWrite
  repeat' first
    | with_reducible exact hs
    | with_reducible assumption
    | (intro _)
    | with_reducible apply KeepsOut.next
    | with_reducible exact KeepsOut.fault
    | with_reducible exact KeepsOut.refused
    | with_reducible apply State.writeLtr_keeps
    | (with_reducible apply KeepsOut.ite) <;> intro _

theorem State.writeSusp_keeps {s0 : State} {s : State} {data : Word} (hs : Keeps s0 s) :
    Keeps s0 (State.writeSusp s data) := by
  unfold State.writeSusp
  repeat' first
    | with_reducible exact hs
    | with_reducible assumption
    | (intro _)
    | with_reducible apply State.setReg_keeps
    | with_reducible apply State.setReg64_keeps
    | with_reducible apply State.setPower_keeps
    | (with_reducible apply Keeps.ite) <;> intro _

theorem execSuspendArm_keeps {s0 : State} {data : BitVec 32} {s : State} (hs : Keeps s0 s) :
    KeepsOut s0 (execSuspendArm data s) := by
  unfold execSuspendArm
  repeat' first
    | with_reducible exact hs
    | with_reducible assumption
    | (intro _)
    | with_reducible apply KeepsOut.next
    | with_reducible exact KeepsOut.fault
    | with_reducible exact KeepsOut.refused
    | with_reducible apply State.writeSusp_keeps
    | (with_reducible apply KeepsOut.ite) <;> intro _

theorem State.writeRes_keeps {s0 : State} {s : State} {data : Word} (hs : Keeps s0 s) :
    Keeps s0 (State.writeRes s data) := by
  unfold State.writeRes
  repeat' first
    | with_reducible exact hs
    | with_reducible assumption
    | (intro _)
    | with_reducible apply State.setReg_keeps
    | with_reducible apply State.setPower_keeps

theorem execResumeArm_keeps {s0 : State} {data : BitVec 32} {s : State} (hs : Keeps s0 s) :
    KeepsOut s0 (execResumeArm data s) := by
  unfold execResumeArm
  repeat' first
    | with_reducible exact hs
    | with_reducible assumption
    | (intro _)
    | with_reducible apply KeepsOut.next
    | with_reducible exact KeepsOut.fault
    | with_reducible exact KeepsOut.refused
    | with_reducible apply State.writeRes_keeps
    | (with_reducible apply KeepsOut.ite) <;> intro _

theorem execAlaporRestart_keeps {s0 : State} {s : State} (hs : Keeps s0 s) :
    KeepsOut s0 (execAlaporRestart s) := by
  unfold execAlaporRestart
  repeat' first
    | with_reducible exact hs
    | with_reducible assumption
    | (intro _)
    | with_reducible apply KeepsOut.next
    | with_reducible exact KeepsOut.fault
    | with_reducible exact KeepsOut.refused
    | with_reducible apply State.restart3_keeps
    | (with_reducible apply KeepsOut.ite) <;> intro _

theorem execAlaporFullRestart_keeps {s0 : State} {s : State} (hs : Keeps s0 s) :
    KeepsOut s0 (execAlaporFullRestart s) := by
  unfold execAlaporFullRestart
  repeat' first
    | with_reducible exact hs
    | with_reducible assumption
    | (intro _)
    | with_reducible apply KeepsOut.next
    | with_reducible exact KeepsOut.fault
    | with_reducible exact KeepsOut.refused
    | with_reducible apply State.restart1_keeps
    | (with_reducible apply KeepsOut.ite) <;> intro _

end Sys2Proof.Machine
end

