-- ==== Sys2Proof/Laws/KeepsSecurity.lean ====
section
/-!
SUPPORT. What the operations of Machine/Security.lean keep: one lemma for each that gives a state.
-/

namespace Sys2Proof.Machine

theorem State.setSec_keeps {s0 s : State} {x : Security} (hs : Keeps s0 s) (hv : x.minSvn = s.security.minSvn) :
    Keeps s0 (State.setSec s x) := Keeps.upd hs rfl rfl rfl hv

theorem putWords_keeps {s0 : State} {a1 : Nat} {a2 : List Byte} {a3 : Nat} {a4 : State} (ha4 : Keeps s0 a4) :
    Keeps s0 (putWords a1 a2 a3 a4) := by
  induction a1 generalizing a2 a3 a4 with
  | zero =>
    unfold putWords
    repeat' first
      | with_reducible exact ha4
  | succ k ih =>
    unfold putWords
    repeat' first
      | with_reducible exact ha4
      | with_reducible exact ih
      | with_reducible assumption
      | (intro _)
      | with_reducible apply ih
      | with_reducible apply State.setReg_keeps

theorem State.putReply_keeps {s0 : State} {s : State} {bs : List Byte} (hs : Keeps s0 s) :
    Keeps s0 (State.putReply s bs) := by
  unfold State.putReply
  repeat' first
    | with_reducible exact hs
    | with_reducible assumption
    | (intro _)
    | with_reducible apply putWords_keeps

theorem State.mboxEnd_keeps {s0 : State} {s : State} {status : Byte} {reply : List Byte} (hs : Keeps s0 s) :
    Keeps s0 (State.mboxEnd s status reply) := by
  unfold State.mboxEnd
  repeat' first
    | with_reducible exact hs
    | with_reducible assumption
    | (intro _)
    | with_reducible apply State.putReply_keeps
    | with_reducible apply State.setCause_keeps
    | (with_reducible refine State.setSec_keeps ?_ ?_) <;> [skip; rfl]

theorem mboxStart_keeps {s0 : State} {smb : Bool} {code : Byte} {len : BitVec 13} {s : State} {k : List Byte → State → State × Byte × List Byte} (hs : Keeps s0 s) (hk : ∀ x0 x1, Keeps s0 x1 → Keeps s0 (k x0 x1).1) :
    KeepsOut s0 (mboxStart smb code len s k) := by
  unfold mboxStart
  repeat' first
    | with_reducible exact hs
    | with_reducible exact hk
    | with_reducible apply hk
    | with_reducible assumption
    | (intro _)
    | with_reducible apply KeepsOut.next
    | with_reducible exact KeepsOut.fault
    | with_reducible exact KeepsOut.refused
    | (with_reducible refine State.setSec_keeps ?_ ?_) <;> [skip; rfl]
    | with_reducible apply State.mboxEnd_keeps
    | (with_reducible apply KeepsOut.ite) <;> intro _

theorem answer_keeps {s0 : State} {s : State} {status : Byte} (hs : Keeps s0 s) :
    Keeps s0 (answer s status).1 := by
  unfold answer
  repeat' first
    | with_reducible exact hs

theorem State.putRegion0_keeps {s0 : State} {s : State} {subs : List Nat} {head : List Byte} (hs : Keeps s0 s) :
    Keeps s0 (State.putRegion0 s subs head) := by
  unfold State.putRegion0
  repeat' first
    | with_reducible exact hs
    | with_reducible assumption
    | (intro _)
    | with_reducible apply State.drawBytes_keeps
    | refine State.drawBytes_keeps_pair (by assumption) ?_
    | with_reducible apply State.norWrite_keeps
    | with_reducible apply State.norErase_keeps
    | with_reducible apply Keeps.foldl

theorem State.putDescriptor_keeps {s0 : State} {s : State} (hs : Keeps s0 s) :
    Keeps s0 (State.putDescriptor s) := by
  unfold State.putDescriptor
  repeat' first
    | with_reducible exact hs
    | with_reducible assumption
    | (intro _)
    | with_reducible apply State.putRegion0_keeps

theorem State.putKeyTable_keeps {s0 : State} {s : State} (hs : Keeps s0 s) :
    Keeps s0 (State.putKeyTable s) := by
  unfold State.putKeyTable
  repeat' first
    | with_reducible exact hs
    | with_reducible assumption
    | (intro _)
    | with_reducible apply State.putRegion0_keeps

theorem State.putFirmware_keeps {s0 : State} {s : State} {b : Bool} {img : List Byte} (hs : Keeps s0 s) :
    Keeps s0 (State.putFirmware s b img) := by
  unfold State.putFirmware
  repeat' first
    | with_reducible exact hs
    | with_reducible assumption
    | (intro _)
    | with_reducible apply State.norWrite_keeps
    | with_reducible apply State.norErase_keeps
    | with_reducible apply State.putDescriptor_keeps
    | (with_reducible refine State.setSec_keeps ?_ ?_) <;> [skip; rfl]

theorem State.putOperators_keeps {s0 : State} {s : State} {ks : List OperatorKey} {erase : Bool} (hs : Keeps s0 s) :
    Keeps s0 (State.putOperators s ks erase) := by
  unfold State.putOperators
  repeat' first
    | with_reducible exact hs
    | with_reducible assumption
    | (intro _)
    | with_reducible apply State.putKeyTable_keeps
    | (with_reducible refine State.setSec_keeps ?_ ?_) <;> [skip; rfl]

theorem State.norJob_keeps {s0 : State} {s : State} (hs : Keeps s0 s) :
    Keeps s0 (State.norJob s) := by
  unfold State.norJob
  repeat' first
    | with_reducible exact hs
    | with_reducible assumption
    | (intro _)
    | (with_reducible refine State.setSec_keeps ?_ ?_) <;> [skip; rfl]
    | with_reducible apply State.putFirmware_keeps
    | with_reducible apply State.putOperators_keeps
    | split

theorem execMailboxCommandComplete_keeps {s0 : State} {s : State} (hs : Keeps s0 s) :
    KeepsOut s0 (execMailboxCommandComplete s) := by
  unfold execMailboxCommandComplete
  repeat' first
    | with_reducible exact hs
    | with_reducible assumption
    | (intro _)
    | with_reducible apply KeepsOut.next
    | with_reducible exact KeepsOut.fault
    | with_reducible exact KeepsOut.refused
    | with_reducible apply State.mboxEnd_keeps
    | with_reducible apply State.norJob_keeps
    | (with_reducible apply KeepsOut.ite) <;> intro _
    | split

theorem execMailboxUnknownCode_keeps {s0 : State} {smb : Bool} {code : Byte} {_len : BitVec 13} {s : State} (hs : Keeps s0 s) :
    KeepsOut s0 (execMailboxUnknownCode smb code _len s) := by
  unfold execMailboxUnknownCode
  repeat' first
    | with_reducible exact hs
    | with_reducible assumption
    | (intro _)
    | with_reducible apply KeepsOut.next
    | with_reducible exact KeepsOut.fault
    | with_reducible exact KeepsOut.refused
    | (with_reducible refine State.setSec_keeps ?_ ?_) <;> [skip; rfl]
    | with_reducible apply State.mboxEnd_keeps
    | (with_reducible apply KeepsOut.ite) <;> intro _

theorem signFail_keeps {s0 : State} {s : State} {status : Byte} (hs : Keeps s0 s) :
    Keeps s0 (signFail s status).1 := by
  unfold signFail
  repeat' first
    | with_reducible exact hs
    | with_reducible assumption
    | (intro _)
    | with_reducible apply answer_keeps
    | with_reducible apply State.verifyFailed_keeps

theorem State.certRead_keeps {s0 : State} {s : State} {req : List Byte} (hs : Keeps s0 s) :
    Keeps s0 (State.certRead s req).1 := by
  unfold State.certRead
  repeat' first
    | with_reducible exact hs
    | with_reducible assumption
    | (intro _)
    | with_reducible apply answer_keeps
    | split
    | fail_if_no_progress ((with_reducible refine Keeps.upd ?_ ?_ ?_ ?_ ?_) <;> [skip; rfl; rfl; rfl; rfl])
    | dsimp only

theorem execCertRead_keeps {s0 : State} {smb : Bool} {len : BitVec 13} {s : State} (hs : Keeps s0 s) :
    KeepsOut s0 (execCertRead smb len s) := by
  unfold execCertRead
  repeat' first
    | with_reducible exact hs
    | with_reducible assumption
    | (intro _)
    | with_reducible apply KeepsOut.next
    | with_reducible exact KeepsOut.fault
    | with_reducible exact KeepsOut.refused
    | with_reducible apply mboxStart_keeps
    | with_reducible apply State.certRead_keeps

theorem State.quote_keeps {s0 : State} {s : State} {req : List Byte} (hs : Keeps s0 s) :
    Keeps s0 (State.quote s req).1 := by
  unfold State.quote
  repeat' first
    | with_reducible exact hs
    | with_reducible assumption
    | (intro _)
    | with_reducible apply answer_keeps
    | (with_reducible refine State.setSec_keeps ?_ ?_) <;> [skip; rfl]
    | split
    | fail_if_no_progress ((with_reducible refine Keeps.upd ?_ ?_ ?_ ?_ ?_) <;> [skip; rfl; rfl; rfl; rfl])
    | dsimp only

theorem execQuote_keeps {s0 : State} {smb : Bool} {len : BitVec 13} {s : State} (hs : Keeps s0 s) :
    KeepsOut s0 (execQuote smb len s) := by
  unfold execQuote
  repeat' first
    | with_reducible exact hs
    | with_reducible assumption
    | (intro _)
    | with_reducible apply KeepsOut.next
    | with_reducible exact KeepsOut.fault
    | with_reducible exact KeepsOut.refused
    | with_reducible apply mboxStart_keeps
    | with_reducible apply State.quote_keeps

theorem State.setOperators_keeps {s0 : State} {s : State} {ks : List OperatorKey} {erase : Bool} (hs : Keeps s0 s) :
    Keeps s0 (State.setOperators s ks erase) := by
  unfold State.setOperators
  repeat' first
    | with_reducible exact hs
    | with_reducible assumption
    | (intro _)
    | (with_reducible refine State.setSec_keeps ?_ ?_) <;> [skip; rfl]

theorem State.addOperator_keeps {s0 : State} {s : State} {pub : List Byte} (hs : Keeps s0 s) :
    Keeps s0 (State.addOperator s pub).1 := by
  unfold State.addOperator
  repeat' first
    | with_reducible exact hs
    | with_reducible assumption
    | (intro _)
    | with_reducible apply answer_keeps
    | with_reducible apply State.setOperators_keeps
    | split
    | fail_if_no_progress ((with_reducible refine Keeps.upd ?_ ?_ ?_ ?_ ?_) <;> [skip; rfl; rfl; rfl; rfl])
    | dsimp only

theorem State.removeOperator_keeps {s0 : State} {s : State} {pub : List Byte} (hs : Keeps s0 s) :
    Keeps s0 (State.removeOperator s pub).1 := by
  unfold State.removeOperator
  repeat' first
    | with_reducible exact hs
    | with_reducible assumption
    | (intro _)
    | with_reducible apply answer_keeps
    | with_reducible apply State.setOperators_keeps
    | split
    | fail_if_no_progress ((with_reducible refine Keeps.upd ?_ ?_ ?_ ?_ ?_) <;> [skip; rfl; rfl; rfl; rfl])
    | dsimp only

theorem State.opEnroll_keeps {s0 : State} {s : State} {req : List Byte} (hs : Keeps s0 s) :
    Keeps s0 (State.opEnroll s req).1 := by
  unfold State.opEnroll
  repeat' first
    | with_reducible exact hs
    | with_reducible assumption
    | (intro _)
    | with_reducible apply State.addOperator_keeps
    | with_reducible apply State.removeOperator_keeps
    | with_reducible apply answer_keeps
    | with_reducible apply signFail_keeps
    | split
    | fail_if_no_progress ((with_reducible refine Keeps.upd ?_ ?_ ?_ ?_ ?_) <;> [skip; rfl; rfl; rfl; rfl])
    | dsimp only

theorem execOpEnroll_keeps {s0 : State} {smb : Bool} {len : BitVec 13} {s : State} (hs : Keeps s0 s) :
    KeepsOut s0 (execOpEnroll smb len s) := by
  unfold execOpEnroll
  repeat' first
    | with_reducible exact hs
    | with_reducible assumption
    | (intro _)
    | with_reducible apply KeepsOut.next
    | with_reducible exact KeepsOut.fault
    | with_reducible exact KeepsOut.refused
    | with_reducible apply mboxStart_keeps
    | with_reducible apply State.opEnroll_keeps

theorem State.putBundleKey.install_keeps {s0 : State} {t : BitVec 12} {v : BitVec 32} {key : List Byte} {s : State} {ks : List BundleKey} (hs : Keeps s0 s) :
    Keeps s0 (State.putBundleKey.install t v key s ks) := by
  unfold State.putBundleKey.install
  repeat' first
    | with_reducible exact hs
    | with_reducible assumption
    | (intro _)
    | with_reducible apply State.drawRandom_keeps
    | refine State.drawRandom_keeps_pair (by assumption) ?_
    | (with_reducible refine State.setSec_keeps ?_ ?_) <;> [skip; rfl]

theorem State.putTenant_keeps {s0 : State} {s : State} {t : BitVec 12} {pub : List Byte} (hs : Keeps s0 s) :
    Keeps s0 (State.putTenant s t pub).1 := by
  unfold State.putTenant
  repeat' first
    | with_reducible exact hs
    | with_reducible assumption
    | (intro _)
    | with_reducible apply answer_keeps
    | (with_reducible refine State.setSec_keeps ?_ ?_) <;> [skip; rfl]
    | split
    | fail_if_no_progress ((with_reducible refine Keeps.upd ?_ ?_ ?_ ?_ ?_) <;> [skip; rfl; rfl; rfl; rfl])
    | dsimp only

theorem State.tenEnroll_keeps {s0 : State} {s : State} {req : List Byte} (hs : Keeps s0 s) :
    Keeps s0 (State.tenEnroll s req).1 := by
  unfold State.tenEnroll
  repeat' first
    | with_reducible exact hs
    | with_reducible assumption
    | (intro _)
    | with_reducible apply answer_keeps
    | with_reducible apply signFail_keeps
    | with_reducible apply State.putTenant_keeps
    | split
    | fail_if_no_progress ((with_reducible refine Keeps.upd ?_ ?_ ?_ ?_ ?_) <;> [skip; rfl; rfl; rfl; rfl])
    | dsimp only

theorem execTenEnroll_keeps {s0 : State} {smb : Bool} {len : BitVec 13} {s : State} (hs : Keeps s0 s) :
    KeepsOut s0 (execTenEnroll smb len s) := by
  unfold execTenEnroll
  repeat' first
    | with_reducible exact hs
    | with_reducible assumption
    | (intro _)
    | with_reducible apply KeepsOut.next
    | with_reducible exact KeepsOut.fault
    | with_reducible exact KeepsOut.refused
    | with_reducible apply mboxStart_keeps
    | with_reducible apply State.tenEnroll_keeps

theorem State.putBundleKey_keeps {s0 : State} {s : State} {t : BitVec 12} {v : BitVec 32} {key : List Byte} (hs : Keeps s0 s) :
    Keeps s0 (State.putBundleKey s t v key).1 := by
  unfold State.putBundleKey
  repeat' first
    | with_reducible exact hs
    | with_reducible assumption
    | (intro _)
    | with_reducible apply answer_keeps
    | with_reducible apply State.putBundleKey.install_keeps
    | split
    | fail_if_no_progress ((with_reducible refine Keeps.upd ?_ ?_ ?_ ?_ ?_) <;> [skip; rfl; rfl; rfl; rfl])
    | dsimp only

theorem State.tenKey_keeps {s0 : State} {s : State} {req : List Byte} (hs : Keeps s0 s) :
    Keeps s0 (State.tenKey s req).1 := by
  unfold State.tenKey
  repeat' first
    | with_reducible exact hs
    | with_reducible assumption
    | (intro _)
    | with_reducible apply answer_keeps
    | with_reducible apply signFail_keeps
    | with_reducible apply State.putBundleKey_keeps
    | split
    | fail_if_no_progress ((with_reducible refine Keeps.upd ?_ ?_ ?_ ?_ ?_) <;> [skip; rfl; rfl; rfl; rfl])
    | dsimp only

theorem execTenKey_keeps {s0 : State} {smb : Bool} {len : BitVec 13} {s : State} (hs : Keeps s0 s) :
    KeepsOut s0 (execTenKey smb len s) := by
  unfold execTenKey
  repeat' first
    | with_reducible exact hs
    | with_reducible assumption
    | (intro _)
    | with_reducible apply KeepsOut.next
    | with_reducible exact KeepsOut.fault
    | with_reducible exact KeepsOut.refused
    | with_reducible apply mboxStart_keeps
    | with_reducible apply State.tenKey_keeps

theorem State.tenDrop_keeps {s0 : State} {s : State} {req : List Byte} (hs : Keeps s0 s) :
    Keeps s0 (State.tenDrop s req).1 := by
  unfold State.tenDrop
  repeat' first
    | with_reducible exact hs
    | with_reducible assumption
    | (intro _)
    | with_reducible apply answer_keeps
    | (with_reducible refine State.setSec_keeps ?_ ?_) <;> [skip; rfl]
    | split
    | fail_if_no_progress ((with_reducible refine Keeps.upd ?_ ?_ ?_ ?_ ?_) <;> [skip; rfl; rfl; rfl; rfl])
    | dsimp only

theorem execTenDrop_keeps {s0 : State} {smb : Bool} {len : BitVec 13} {s : State} (hs : Keeps s0 s) :
    KeepsOut s0 (execTenDrop smb len s) := by
  unfold execTenDrop
  repeat' first
    | with_reducible exact hs
    | with_reducible assumption
    | (intro _)
    | with_reducible apply KeepsOut.next
    | with_reducible exact KeepsOut.fault
    | with_reducible exact KeepsOut.refused
    | with_reducible apply mboxStart_keeps
    | with_reducible apply State.tenDrop_keeps

theorem State.dbgChal_keeps {s0 : State} {s : State} {req : List Byte} (hs : Keeps s0 s) :
    Keeps s0 (State.dbgChal s req).1 := by
  unfold State.dbgChal
  repeat' first
    | with_reducible exact hs
    | with_reducible assumption
    | (intro _)
    | with_reducible apply answer_keeps
    | with_reducible apply State.drawRandom_keeps
    | refine State.drawRandom_keeps_pair (by assumption) ?_
    | (with_reducible refine State.setSec_keeps ?_ ?_) <;> [skip; rfl]
    | split

theorem execDbgChal_keeps {s0 : State} {smb : Bool} {len : BitVec 13} {s : State} (hs : Keeps s0 s) :
    KeepsOut s0 (execDbgChal smb len s) := by
  unfold execDbgChal
  repeat' first
    | with_reducible exact hs
    | with_reducible assumption
    | (intro _)
    | with_reducible apply KeepsOut.next
    | with_reducible exact KeepsOut.fault
    | with_reducible exact KeepsOut.refused
    | with_reducible apply mboxStart_keeps
    | with_reducible apply State.dbgChal_keeps

theorem State.dbgAuth_keeps {s0 : State} {s : State} {req : List Byte} (hs : Keeps s0 s) :
    Keeps s0 (State.dbgAuth s req).1 := by
  unfold State.dbgAuth
  repeat' first
    | with_reducible exact hs
    | with_reducible assumption
    | (intro _)
    | (with_reducible refine State.setSec_keeps ?_ ?_) <;> [skip; rfl]
    | with_reducible apply answer_keeps
    | with_reducible apply signFail_keeps
    | split

theorem execDbgAuth_keeps {s0 : State} {smb : Bool} {len : BitVec 13} {s : State} (hs : Keeps s0 s) :
    KeepsOut s0 (execDbgAuth smb len s) := by
  unfold execDbgAuth
  repeat' first
    | with_reducible exact hs
    | with_reducible assumption
    | (intro _)
    | with_reducible apply KeepsOut.next
    | with_reducible exact KeepsOut.fault
    | with_reducible exact KeepsOut.refused
    | with_reducible apply mboxStart_keeps
    | with_reducible apply State.dbgAuth_keeps

theorem State.fwStore_keeps {s0 : State} {s : State} {req : List Byte} (hs : Keeps s0 s) :
    Keeps s0 (State.fwStore s req).1 := by
  unfold State.fwStore
  repeat' first
    | with_reducible exact hs
    | with_reducible assumption
    | (intro _)
    | with_reducible apply answer_keeps
    | with_reducible apply signFail_keeps
    | (with_reducible refine State.setSec_keeps ?_ ?_) <;> [skip; rfl]
    | split
    | fail_if_no_progress ((with_reducible refine Keeps.upd ?_ ?_ ?_ ?_ ?_) <;> [skip; rfl; rfl; rfl; rfl])
    | dsimp only

theorem execFwStore_keeps {s0 : State} {smb : Bool} {len : BitVec 13} {s : State} (hs : Keeps s0 s) :
    KeepsOut s0 (execFwStore smb len s) := by
  unfold execFwStore
  repeat' first
    | with_reducible exact hs
    | with_reducible assumption
    | (intro _)
    | with_reducible apply KeepsOut.next
    | with_reducible exact KeepsOut.fault
    | with_reducible exact KeepsOut.refused
    | with_reducible apply mboxStart_keeps
    | with_reducible apply State.fwStore_keeps

theorem State.svnCommit_keeps {s0 s : State} {req : List Byte} (hs : Keeps s0 s) :
    Keeps s0 (State.svnCommit s req).1 := by
  unfold State.svnCommit
  dsimp only
  split
  · exact hs
  · split
    · refine hs.trans ⟨rfl, id, id, id, ?_⟩
      show s.security.minSvn.toNat ≤ (if _ then _ else _ : BitVec 16).toNat
      split
      · assumption
      · exact le_rfl
    · exact hs

theorem execSvnCommit_keeps {s0 : State} {smb : Bool} {len : BitVec 13} {s : State} (hs : Keeps s0 s) :
    KeepsOut s0 (execSvnCommit smb len s) := by
  unfold execSvnCommit
  repeat' first
    | with_reducible exact hs
    | with_reducible assumption
    | (intro _)
    | with_reducible apply KeepsOut.next
    | with_reducible exact KeepsOut.fault
    | with_reducible exact KeepsOut.refused
    | with_reducible apply mboxStart_keeps
    | with_reducible apply State.svnCommit_keeps

end Sys2Proof.Machine
end

