-- ==== Sys2Proof/Laws/KeepsRegisters.lean ====
section
/-!
SUPPORT. What the operations of Machine/Registers.lean keep: one lemma for each that gives a state.
-/

namespace Sys2Proof.Machine

theorem State.latchFault_keeps {s0 s : State} (hs : Keeps s0 s) : Keeps s0 (State.latchFault s) := by
  unfold State.latchFault
  split
  · exact hs
  · rename_i e
    exact Keeps.updQueue hs (fun q => ⟨q.1, fun _ h => by rw [h] at e; cases e⟩) rfl rfl

theorem State.clearRead_keeps {s0 : State} {s : State} {a : Nat} {rc : Word} {taken : Word} (hs : Keeps s0 s) :
    Keeps s0 (State.clearRead s a rc taken) := by
  unfold State.clearRead
  repeat' first
    | with_reducible exact hs
    | with_reducible assumption
    | (intro _)
    | with_reducible apply State.setTg_keeps
    | with_reducible apply State.setReg_keeps
    | (with_reducible apply Keeps.ite) <;> intro _

theorem State.readReg_keeps1 {s0 : State} {s : State} {base : State} {latches : SMap Word} {a : Nat} (hs : Keeps s0 s) (hbase : Keeps s0 base) :
    Keeps s0 (State.readReg s base latches a).after := by
  unfold State.readReg
  repeat' first
    | with_reducible exact hs
    | with_reducible exact hbase
    | with_reducible assumption
    | (intro _)
    | with_reducible apply State.latchFault_keeps
    | with_reducible apply State.clearRead_keeps
    | split

theorem State.readReg_keeps2 {s0 : State} {s : State} {base : State} {latches : SMap Word} {a : Nat} (hs : Keeps s0 s) (hbase : Keeps s0 base) :
    Keeps s0 (State.readReg s base latches a).base := by
  unfold State.readReg
  repeat' first
    | with_reducible exact hs
    | with_reducible exact hbase
    | with_reducible assumption
    | (intro _)
    | with_reducible apply State.latchFault_keeps
    | with_reducible apply State.clearRead_keeps
    | split

theorem nextOf_keeps {s0 s : State} {o : Out} (hs : Keeps s0 s) (ho : KeepsOut s0 o) : Keeps s0 (nextOf s o) := by
  cases o with
  | next t => exact ho.keeps t rfl
  | fault _ => exact hs
  | refused _ => exact hs

theorem State.popFault_keeps {s0 s : State} {w : Word} (hs : Keeps s0 s) : Keeps s0 (State.popFault s w) := by
  unfold State.popFault
  split
  · rename_i r rs e
    refine Keeps.ite (fun _ => ?_) (fun _ => Keeps.upd hs rfl rfl rfl rfl)
    refine Keeps.updQueue hs (fun q => ⟨?_, fun h => by cases h⟩) rfl rfl
    have := q.1
    rw [e, List.length_cons] at this
    dsimp only
    omega
  · exact Keeps.upd hs rfl rfl rfl rfl

theorem State.writeMbx_keeps {s0 : State} {s : State} {smb : Bool} {w : Word} (hs : Keeps s0 s) :
    Keeps s0 (State.writeMbx s smb w) := by
  unfold State.writeMbx
  repeat' first
    | with_reducible exact hs
    | with_reducible assumption
    | (intro _)
    | with_reducible apply nextOf_keeps
    | with_reducible apply KeepsOut.next
    | with_reducible exact KeepsOut.fault
    | with_reducible exact KeepsOut.refused
    | with_reducible apply nextOf_keeps
    | with_reducible apply execCertRead_keeps
    | with_reducible apply execQuote_keeps
    | with_reducible apply execOpEnroll_keeps
    | with_reducible apply execTenEnroll_keeps
    | with_reducible apply execTenKey_keeps
    | with_reducible apply execTenDrop_keeps
    | with_reducible apply execDbgChal_keeps
    | with_reducible apply execDbgAuth_keeps
    | with_reducible apply execFwStore_keeps
    | with_reducible apply execSvnCommit_keeps
    | with_reducible apply execMailboxUnknownCode_keeps
    | split

theorem State.writeImg_keeps {s0 : State} {s : State} {w : Word} (hs : Keeps s0 s) :
    Keeps s0 (State.writeImg s w) := by
  unfold State.writeImg
  repeat' first
    | with_reducible exact hs
    | with_reducible assumption
    | (intro _)
    | with_reducible apply nextOf_keeps
    | with_reducible apply KeepsOut.next
    | with_reducible exact KeepsOut.fault
    | with_reducible exact KeepsOut.refused
    | with_reducible apply nextOf_keeps
    | with_reducible apply execVerifyImage_keeps
    | with_reducible apply execStoreImage_keeps
    | with_reducible apply execStageImage_keeps
    | with_reducible apply execApplyImage_keeps
    | with_reducible apply State.drawBool_keeps
    | refine State.drawBool_keeps_pair (by assumption) ?_
    | with_reducible apply execRollback_keeps
    | with_reducible apply execReload_keeps
    | with_reducible apply execImageCancel_keeps
    | with_reducible apply execBootSlot_keeps
    | split

theorem State.writeTg_keeps {s0 : State} {s : State} {a : Nat} {w : Word} (hs : Keeps s0 s) :
    Keeps s0 (State.writeTg s a w) := by
  unfold State.writeTg
  repeat' first
    | with_reducible exact hs
    | with_reducible assumption
    | (intro _)
    | with_reducible apply State.storeReg_keeps
    | with_reducible apply State.tgWrite_keeps
    | with_reducible apply State.setTg_keeps
    | (with_reducible apply Keeps.ite) <;> intro _

theorem State.writeMbxData_keeps {s0 : State} {s : State} {a : Nat} {w : Word} (hs : Keeps s0 s) :
    Keeps s0 (State.writeMbxData s a w) := by
  unfold State.writeMbxData
  repeat' first
    | with_reducible exact hs
    | with_reducible assumption
    | (intro _)
    | (with_reducible refine State.setSec_keeps ?_ ?_) <;> [skip; rfl]
    | with_reducible apply State.setReg_keeps
    | (with_reducible apply Keeps.ite) <;> intro _

theorem State.clearCauses_keeps {s0 : State} {s : State} {w : Word} (hs : Keeps s0 s) :
    Keeps s0 (State.clearCauses s w) := by
  unfold State.clearCauses
  repeat' first
    | with_reducible exact hs
    | with_reducible assumption
    | (intro _)
    | with_reducible apply State.setReg_keeps

theorem State.writeLife_keeps {s0 : State} {s : State} {w : Word} (hs : Keeps s0 s) :
    Keeps s0 (State.writeLife s w) := by
  unfold State.writeLife
  repeat' first
    | with_reducible exact hs
    | with_reducible assumption
    | (intro _)
    | with_reducible apply State.drawBool_keeps
    | refine State.drawBool_keeps_pair (by assumption) ?_
    | with_reducible apply State.flushLife_keeps

theorem State.checkWrite_keeps {s0 : State} {s : State} {a : Nat} {w : Word} {before : List Nat} (hs : Keeps s0 s) :
    Keeps s0 (State.checkWrite s a w before) := by
  unfold State.checkWrite
  repeat' first
    | with_reducible exact hs
    | with_reducible assumption
    | (intro _)
    | with_reducible apply raiseConfig_keeps

theorem State.afterWrite_keeps {s0 : State} {s : State} {a : Nat} (hs : Keeps s0 s) :
    Keeps s0 (State.afterWrite s a) := by
  unfold State.afterWrite
  repeat' first
    | with_reducible exact hs
    | with_reducible assumption
    | (intro _)
    | with_reducible apply State.checkOffer_keeps
    | with_reducible apply State.drainInbox_keeps
    | (with_reducible apply Keeps.ite) <;> intro _

theorem State.writePlain_keeps {s0 : State} {s : State} {r : RegSpec} {a : Nat} {w : Word} (hs : Keeps s0 s) :
    Keeps s0 (State.writePlain s r a w).2 := by
  unfold State.writePlain
  repeat' first
    | with_reducible exact hs
    | with_reducible assumption
    | (intro _)
    | with_reducible apply State.setCause_keeps
    | with_reducible apply State.setReg_keeps
    | with_reducible apply State.afterWrite_keeps
    | with_reducible apply State.checkWrite_keeps
    | with_reducible apply State.storeReg_keeps
    | (with_reducible apply Keeps.iteSnd) <;> intro _

theorem State.writePlain_keeps_pair {s0 : State} {s : State} {r : RegSpec} {a : Nat} {w : Word} {o0 : Bool} {t0 : State}
    (e : State.writePlain s r a w = (o0, t0)) (hs : Keeps s0 s) :
    Keeps s0 t0 := by
  have h := State.writePlain_keeps (s0 := s0) (s := s) (r := r) (a := a) (w := w) hs
  rw [e] at h
  exact h

theorem State.writeStep_keeps {s0 : State} {s : State} {a : Nat} {w : Word} (hs : Keeps s0 s) :
    Keeps s0 (State.writeStep s a w).2 := by
  unfold State.writeStep
  repeat' first
    | with_reducible exact hs
    | with_reducible assumption
    | (intro _)
    | with_reducible apply nextOf_keeps
    | with_reducible apply KeepsOut.next
    | with_reducible exact KeepsOut.fault
    | with_reducible exact KeepsOut.refused
    | with_reducible apply nextOf_keeps
    | with_reducible apply execStepPeriodWrite_keeps
    | with_reducible apply execNumLrecBaseWrite_keeps
    | with_reducible apply execStepBaseWrite_keeps
    | (with_reducible apply KeepsOut.ite) <;> intro _

theorem State.writeStep_keeps_pair {s0 : State} {s : State} {a : Nat} {w : Word} {o0 : Bool} {t0 : State}
    (e : State.writeStep s a w = (o0, t0)) (hs : Keeps s0 s) :
    Keeps s0 t0 := by
  have h := State.writeStep_keeps (s0 := s0) (s := s) (a := a) (w := w) hs
  rw [e] at h
  exact h

theorem State.writeOwn_keeps {s0 : State} {s : State} {smb : Bool} {a : Nat} {w : Word} (hs : Keeps s0 s) :
    Keeps s0 (State.writeOwn s smb a w).2 := by
  unfold State.writeOwn
  repeat' first
    | with_reducible exact hs
    | with_reducible assumption
    | (intro _)
    | with_reducible apply nextOf_keeps
    | with_reducible apply KeepsOut.next
    | with_reducible exact KeepsOut.fault
    | with_reducible exact KeepsOut.refused
    | with_reducible apply State.writeStep_keeps
    | refine State.writeStep_keeps_pair (by assumption) ?_
    | with_reducible apply nextOf_keeps
    | with_reducible apply execMemRetrain_keeps
    | with_reducible apply State.writeTg_keeps
    | with_reducible apply execRingLoadArm_keeps
    | with_reducible apply State.writeLtr_keeps
    | with_reducible apply State.writeSusp_keeps
    | with_reducible apply State.writeRes_keeps
    | with_reducible apply execLeaseRevoke_keeps
    | with_reducible apply execLeaseRevokePlot_keeps
    | with_reducible apply State.writeLife_keeps
    | with_reducible apply execCalendarCommit_keeps
    | with_reducible apply State.popFault_keeps
    | with_reducible apply State.writeMbx_keeps
    | with_reducible apply State.writeImg_keeps
    | (with_reducible apply Keeps.ite) <;> intro _
    | (with_reducible apply Keeps.iteSnd) <;> intro _

theorem State.writeOwn_keeps_pair {s0 : State} {s : State} {smb : Bool} {a : Nat} {w : Word} {o0 : Bool} {t0 : State}
    (e : State.writeOwn s smb a w = (o0, t0)) (hs : Keeps s0 s) :
    Keeps s0 t0 := by
  have h := State.writeOwn_keeps (s0 := s0) (s := s) (smb := smb) (a := a) (w := w) hs
  rw [e] at h
  exact h

theorem State.writeUp_keeps {s0 : State} {s : State} {smb : Bool} {r : RegSpec} {a : Nat} {w : Word} (hs : Keeps s0 s) :
    Keeps s0 (State.writeUp s smb r a w).2 := by
  unfold State.writeUp
  repeat' first
    | with_reducible exact hs
    | with_reducible assumption
    | (intro _)
    | with_reducible apply State.writeOwn_keeps
    | refine State.writeOwn_keeps_pair (by assumption) ?_
    | with_reducible apply State.writeTg_keeps
    | with_reducible apply State.clearCauses_keeps
    | with_reducible apply State.writeMbxData_keeps
    | with_reducible apply State.writePlain_keeps
    | refine State.writePlain_keeps_pair (by assumption) ?_
    | (with_reducible apply Keeps.iteSnd) <;> intro _

theorem State.writeUp_keeps_pair {s0 : State} {s : State} {smb : Bool} {r : RegSpec} {a : Nat} {w : Word} {o0 : Bool} {t0 : State}
    (e : State.writeUp s smb r a w = (o0, t0)) (hs : Keeps s0 s) :
    Keeps s0 t0 := by
  have h := State.writeUp_keeps (s0 := s0) (s := s) (smb := smb) (r := r) (a := a) (w := w) hs
  rw [e] at h
  exact h

theorem State.writeReg_keeps {s0 : State} {s : State} {smb : Bool} {a : Nat} {w : Word} (hs : Keeps s0 s) :
    Keeps s0 (State.writeReg s smb a w).2 := by
  unfold State.writeReg
  repeat' first
    | with_reducible exact hs
    | with_reducible assumption
    | (intro _)
    | with_reducible apply State.writeUp_keeps
    | refine State.writeUp_keeps_pair (by assumption) ?_
    | (with_reducible apply Keeps.iteSnd) <;> intro _
    | split

theorem State.writeReg_keeps_pair {s0 : State} {s : State} {smb : Bool} {a : Nat} {w : Word} {o0 : Nat} {t0 : State}
    (e : State.writeReg s smb a w = (o0, t0)) (hs : Keeps s0 s) :
    Keeps s0 t0 := by
  have h := State.writeReg_keeps (s0 := s0) (s := s) (smb := smb) (a := a) (w := w) hs
  rw [e] at h
  exact h

theorem State.show_keeps {s0 : State} {s : State} {word : Word} {status : Nat} (hs : Keeps s0 s) :
    Keeps s0 (State.show s word status) := by
  unfold State.show
  repeat' first
    | with_reducible exact hs
    | with_reducible assumption
    | (intro _)
    | split
    | fail_if_no_progress ((with_reducible refine Keeps.upd ?_ ?_ ?_ ?_ ?_) <;> [skip; rfl; rfl; rfl; rfl])

theorem State.newFrame_keeps {s0 : State} {s : State} (hs : Keeps s0 s) :
    Keeps s0 (State.newFrame s) := by
  unfold State.newFrame
  repeat' first
    | with_reducible exact hs
    | with_reducible assumption
    | (intro _)
    | split
    | fail_if_no_progress ((with_reducible refine Keeps.upd ?_ ?_ ?_ ?_ ?_) <;> [skip; rfl; rfl; rfl; rfl])

theorem State.bankLosses_keeps {s0 : State} {s : State} (hs : Keeps s0 s) :
    Keeps s0 (State.bankLosses s) := by
  unfold State.bankLosses
  repeat' first
    | with_reducible exact hs
    | with_reducible assumption
    | (intro _)
    | with_reducible apply State.draw_keeps
    | refine State.draw_keeps_pair (by assumption) ?_
    | with_reducible apply State.bump_keeps

theorem State.readShown_keeps {s0 : State} {s : State} {a : Nat} (hs : Keeps s0 s) :
    Keeps s0 (State.readShown s a) := by
  unfold State.readShown
  repeat' first
    | with_reducible exact hs
    | with_reducible assumption
    | (intro _)
    | with_reducible apply State.bankLosses_keeps
    | with_reducible apply State.readReg_keeps1
    | with_reducible apply State.readReg_keeps2
    | with_reducible apply State.show_keeps
    | split
    | fail_if_no_progress ((with_reducible refine Keeps.upd ?_ ?_ ?_ ?_ ?_) <;> [skip; rfl; rfl; rfl; rfl])

theorem execLowWordReadLatch_keeps {s0 : State} {addr : BitVec 32} {s : State} (hs : Keeps s0 s) :
    KeepsOut s0 (execLowWordReadLatch addr s) := by
  unfold execLowWordReadLatch
  repeat' first
    | with_reducible exact hs
    | with_reducible assumption
    | (intro _)
    | with_reducible apply KeepsOut.next
    | with_reducible exact KeepsOut.fault
    | with_reducible exact KeepsOut.refused
    | with_reducible apply State.readShown_keeps
    | (with_reducible apply KeepsOut.ite) <;> intro _

theorem execReadClearRead_keeps {s0 : State} {addr : BitVec 32} {s : State} (hs : Keeps s0 s) :
    KeepsOut s0 (execReadClearRead addr s) := by
  unfold execReadClearRead
  repeat' first
    | with_reducible exact hs
    | with_reducible assumption
    | (intro _)
    | with_reducible apply KeepsOut.next
    | with_reducible exact KeepsOut.fault
    | with_reducible exact KeepsOut.refused
    | with_reducible apply State.readShown_keeps
    | (with_reducible apply KeepsOut.ite) <;> intro _
    | split

theorem execRegisterWrite_keeps {s0 : State} {addr : BitVec 32} {data : BitVec 32} {s : State} (hs : Keeps s0 s) :
    KeepsOut s0 (execRegisterWrite addr data s) := by
  unfold execRegisterWrite
  repeat' first
    | with_reducible exact hs
    | with_reducible assumption
    | (intro _)
    | with_reducible apply KeepsOut.next
    | with_reducible exact KeepsOut.fault
    | with_reducible exact KeepsOut.refused
    | with_reducible apply State.writeReg_keeps
    | refine State.writeReg_keeps_pair (by assumption) ?_
    | with_reducible apply State.newFrame_keeps
    | with_reducible apply State.show_keeps
    | (with_reducible apply KeepsOut.ite) <;> intro _

theorem execFaultWindowLatch_keeps {s0 : State} {s : State} (hs : Keeps s0 s) :
    KeepsOut s0 (execFaultWindowLatch s) := by
  unfold execFaultWindowLatch
  repeat' first
    | with_reducible exact hs
    | with_reducible assumption
    | (intro _)
    | with_reducible apply KeepsOut.next
    | with_reducible exact KeepsOut.fault
    | with_reducible exact KeepsOut.refused
    | with_reducible apply State.readShown_keeps
    | (with_reducible apply KeepsOut.ite) <;> intro _

theorem execFaultPop_keeps {s0 : State} {data : BitVec 32} {s : State} (hs : Keeps s0 s) :
    KeepsOut s0 (execFaultPop data s) := by
  unfold execFaultPop
  repeat' first
    | with_reducible exact hs
    | with_reducible assumption
    | (intro _)
    | with_reducible apply KeepsOut.next
    | with_reducible exact KeepsOut.fault
    | with_reducible exact KeepsOut.refused
    | with_reducible apply State.popFault_keeps
    | (with_reducible apply KeepsOut.ite) <;> intro _

theorem windowPut_keeps {s0 : State} {a1 : Nat} {a2 : List Byte} {a3 : Nat} {a4 : State} (ha4 : Keeps s0 a4) :
    Keeps s0 (windowPut a1 a2 a3 a4) := by
  induction a1 generalizing a2 a3 a4 with
  | zero =>
    unfold windowPut
    repeat' first
      | with_reducible exact ha4
  | succ k ih =>
    unfold windowPut
    repeat' first
      | with_reducible exact ha4
      | with_reducible exact ih
      | with_reducible assumption
      | (intro _)
      | with_reducible apply ih
      | with_reducible apply State.newFrame_keeps
      | with_reducible apply State.writeReg_keeps
      | refine State.writeReg_keeps_pair (by assumption) ?_
      | (with_reducible apply Keeps.ite) <;> intro _

theorem windowGet_keeps {s0 : State} {a1 : Nat} {a2 : Nat} {a3 : State} (ha3 : Keeps s0 a3) :
    Keeps s0 (windowGet a1 a2 a3).2 := by
  induction a1 generalizing a2 a3 with
  | zero =>
    unfold windowGet
    repeat' first
      | with_reducible exact ha3
  | succ k ih =>
    unfold windowGet
    repeat' first
      | with_reducible exact ha3
      | with_reducible exact ih
      | with_reducible assumption
      | (intro _)
      | with_reducible apply ih
      | with_reducible apply State.setBoard_keeps
      | with_reducible apply State.readReg_keeps1
      | with_reducible apply State.readReg_keeps2
      | (with_reducible apply Keeps.iteSnd) <;> intro _

theorem windowGet_keeps_pair {s0 : State} {a1 : Nat} {a2 : Nat} {a3 : State} {o0 : List Byte} {t0 : State}
    (e : windowGet a1 a2 a3 = (o0, t0)) (ha3 : Keeps s0 a3) :
    Keeps s0 t0 := by
  have h := windowGet_keeps (s0 := s0) (a1 := a1) (a2 := a2) (a3 := a3) ha3
  rw [e] at h
  exact h

theorem execSmbusWindowWrite_keeps {s0 : State} {bytes : List Byte} {s : State} (hs : Keeps s0 s) :
    KeepsOut s0 (execSmbusWindowWrite bytes s) := by
  unfold execSmbusWindowWrite
  repeat' first
    | with_reducible exact hs
    | with_reducible assumption
    | (intro _)
    | with_reducible apply KeepsOut.next
    | with_reducible exact KeepsOut.fault
    | with_reducible exact KeepsOut.refused
    | with_reducible apply State.setBoard_keeps
    | with_reducible apply windowPut_keeps
    | (with_reducible apply KeepsOut.ite) <;> intro _

theorem execSmbusWindowRead_keeps {s0 : State} {n : Nat} {s : State} (hs : Keeps s0 s) :
    KeepsOut s0 (execSmbusWindowRead n s) := by
  unfold execSmbusWindowRead
  repeat' first
    | with_reducible exact hs
    | with_reducible assumption
    | (intro _)
    | with_reducible apply KeepsOut.next
    | with_reducible exact KeepsOut.fault
    | with_reducible exact KeepsOut.refused
    | with_reducible apply windowGet_keeps
    | refine windowGet_keeps_pair (by assumption) ?_
    | with_reducible apply State.setBoard_keeps
    | (with_reducible apply KeepsOut.ite) <;> intro _

theorem State.alaporOp_keeps1 {s0 : State} {s : State} {base : State} {b : List Byte} (hs : Keeps s0 s) (hbase : Keeps s0 base) :
    Keeps s0 (State.alaporOp s base b).2.1 := by
  unfold State.alaporOp
  repeat' first
    | with_reducible exact hs
    | with_reducible exact hbase
    | with_reducible assumption
    | (intro _)
    | with_reducible apply State.bumpField_keeps
    | with_reducible apply State.readReg_keeps1
    | with_reducible apply State.readReg_keeps2
    | with_reducible apply State.writeReg_keeps
    | refine State.writeReg_keeps_pair (by assumption) ?_
    | split
    | fail_if_no_progress ((with_reducible refine Keeps.upd ?_ ?_ ?_ ?_ ?_) <;> [skip; rfl; rfl; rfl; rfl])
    | dsimp only

theorem State.alaporOp_keeps2 {s0 : State} {s : State} {base : State} {b : List Byte} (hs : Keeps s0 s) (hbase : Keeps s0 base) :
    Keeps s0 (State.alaporOp s base b).2.2 := by
  unfold State.alaporOp
  repeat' first
    | with_reducible exact hs
    | with_reducible exact hbase
    | with_reducible assumption
    | (intro _)
    | with_reducible apply State.bumpField_keeps
    | with_reducible apply State.readReg_keeps1
    | with_reducible apply State.readReg_keeps2
    | with_reducible apply State.writeReg_keeps
    | refine State.writeReg_keeps_pair (by assumption) ?_
    | split
    | fail_if_no_progress ((with_reducible refine Keeps.upd ?_ ?_ ?_ ?_ ?_) <;> [skip; rfl; rfl; rfl; rfl])
    | dsimp only

theorem alaporOps_keeps {s0 : State} {f : List Byte} {carried : Nat} {a3 : List Nat} {a4 : State} {a5 : State} (ha4 : Keeps s0 a4) (ha5 : Keeps s0 a5) :
    Keeps s0 (alaporOps f carried a3 a4 a5).2 := by
  induction a3 generalizing a4 a5 with
  | nil =>
    unfold alaporOps
    repeat' first
      | with_reducible exact ha4
      | with_reducible exact ha5
  | cons x xs ih =>
    unfold alaporOps
    repeat' first
      | with_reducible exact ha4
      | with_reducible exact ha5
      | with_reducible exact ih
      | with_reducible assumption
      | (intro _)
      | with_reducible apply ih
      | with_reducible apply State.alaporOp_keeps1
      | with_reducible apply State.alaporOp_keeps2
      | split

theorem alaporOps_keeps_pair {s0 : State} {f : List Byte} {carried : Nat} {a3 : List Nat} {a4 : State} {a5 : State} {o0 : List Byte} {t0 : State}
    (e : alaporOps f carried a3 a4 a5 = (o0, t0)) (ha4 : Keeps s0 a4) (ha5 : Keeps s0 a5) :
    Keeps s0 t0 := by
  have h := alaporOps_keeps (s0 := s0) (f := f) (carried := carried) (a3 := a3) (a4 := a4) (a5 := a5) ha4 ha5
  rw [e] at h
  exact h

theorem State.badFrame_keeps {s0 : State} {s : State} (hs : Keeps s0 s) :
    Keeps s0 (State.badFrame s) := by
  unfold State.badFrame
  repeat' first
    | with_reducible exact hs
    | with_reducible assumption
    | (intro _)
    | with_reducible apply State.alaporDown_keeps
    | (with_reducible apply Keeps.ite) <;> intro _
    | split
    | fail_if_no_progress ((with_reducible refine Keeps.upd ?_ ?_ ?_ ?_ ?_) <;> [skip; rfl; rfl; rfl; rfl])

theorem State.frameEnd_keeps {s0 : State} {s : State} {f : List Byte} (hs : Keeps s0 s) :
    Keeps s0 (State.frameEnd s f) := by
  unfold State.frameEnd
  repeat' first
    | with_reducible exact hs
    | with_reducible assumption
    | (intro _)
    | with_reducible apply State.badFrame_keeps
    | with_reducible apply State.bumpField_keeps
    | (with_reducible apply Keeps.ite) <;> intro _
    | split
    | fail_if_no_progress ((with_reducible refine Keeps.upd ?_ ?_ ?_ ?_ ?_) <;> [skip; rfl; rfl; rfl; rfl])

theorem State.hostFrame_keeps {s0 : State} {s : State} {f : List Byte} (hs : Keeps s0 s) :
    Keeps s0 (State.hostFrame s f) := by
  unfold State.hostFrame
  repeat' first
    | with_reducible exact hs
    | with_reducible assumption
    | (intro _)
    | with_reducible apply State.alaporUp_keeps
    | with_reducible apply State.bankLosses_keeps
    | with_reducible apply State.newFrame_keeps
    | with_reducible apply alaporOps_keeps
    | refine alaporOps_keeps_pair (by assumption) ?_
    | with_reducible apply State.frameEnd_keeps
    | (with_reducible apply Keeps.ite) <;> intro _
    | split
    | fail_if_no_progress ((with_reducible refine Keeps.upd ?_ ?_ ?_ ?_ ?_) <;> [skip; rfl; rfl; rfl; rfl])

theorem State.hostFrames_keeps {s0 : State} {a1 : List (List Byte)} {a2 : State} (ha2 : Keeps s0 a2) :
    Keeps s0 (State.hostFrames a1 a2) := by
  induction a1 generalizing a2 with
  | nil =>
    unfold State.hostFrames
    repeat' first
      | with_reducible exact ha2
  | cons x xs ih =>
    unfold State.hostFrames
    repeat' first
      | with_reducible exact ha2
      | with_reducible exact ih
      | with_reducible assumption
      | (intro _)
      | with_reducible apply ih
      | with_reducible apply State.hostFrame_keeps

theorem execAlaporFrame_keeps {s0 : State} {frame : List Byte} {s : State} (hs : Keeps s0 s) :
    KeepsOut s0 (execAlaporFrame frame s) := by
  unfold execAlaporFrame
  repeat' first
    | with_reducible exact hs
    | with_reducible assumption
    | (intro _)
    | with_reducible apply KeepsOut.next
    | with_reducible exact KeepsOut.fault
    | with_reducible exact KeepsOut.refused
    | with_reducible apply State.hostFrame_keeps

theorem execAlaporTraining_keeps {s0 : State} {frames : List (List Byte)} {s : State} (hs : Keeps s0 s) :
    KeepsOut s0 (execAlaporTraining frames s) := by
  unfold execAlaporTraining
  repeat' first
    | with_reducible exact hs
    | with_reducible assumption
    | (intro _)
    | with_reducible apply KeepsOut.next
    | with_reducible exact KeepsOut.fault
    | with_reducible exact KeepsOut.refused
    | with_reducible apply State.hostFrames_keeps
    | (with_reducible apply KeepsOut.ite) <;> intro _

theorem execAlaporLinkDown_keeps {s0 : State} {frames : List (List Byte)} {s : State} (hs : Keeps s0 s) :
    KeepsOut s0 (execAlaporLinkDown frames s) := by
  unfold execAlaporLinkDown
  repeat' first
    | with_reducible exact hs
    | with_reducible assumption
    | (intro _)
    | with_reducible apply KeepsOut.next
    | with_reducible exact KeepsOut.fault
    | with_reducible exact KeepsOut.refused
    | with_reducible apply State.hostFrames_keeps
    | (with_reducible apply KeepsOut.ite) <;> intro _

end Sys2Proof.Machine
end

