-- ==== Sys2Proof/Laws/KeepsRouting.lean ====
section
/-!
SUPPORT. What the operations of Machine/Routing.lean keep: one lemma for each that gives a state.
-/

namespace Sys2Proof.Machine

theorem issueRoute_keeps {s0 : State} {s : State} {g : BitVec 10} {op : Nat} {rsv : List (Nat × Nat)} {ctrHi : Nat} {ctrLo : Nat} {size : Nat} {score : Bool} (hs : Keeps s0 s) :
    KeepsOut s0 (issueRoute s g op rsv ctrHi ctrLo size score) := by
  unfold issueRoute
  repeat' first
    | with_reducible exact hs
    | with_reducible assumption
    | (intro _)
    | with_reducible apply KeepsOut.next
    | with_reducible exact KeepsOut.fault
    | with_reducible exact KeepsOut.refused
    | with_reducible apply atEngine_keeps
    | with_reducible apply State.checks_keeps
    | with_reducible apply State.toQueue_keeps

theorem execRoutingInstructionAccept_keeps {s0 : State} {g : BitVec 10} {s : State} (hs : Keeps s0 s) :
    KeepsOut s0 (execRoutingInstructionAccept g s) := by
  unfold execRoutingInstructionAccept
  repeat' first
    | with_reducible exact hs
    | with_reducible assumption
    | (intro _)
    | with_reducible apply KeepsOut.next
    | with_reducible exact KeepsOut.fault
    | with_reducible exact KeepsOut.refused
    | with_reducible apply State.setGlade_keeps
    | with_reducible apply State.instrFault_keeps
    | with_reducible apply State.leaseFault_keeps
    | with_reducible apply drainQueue_keeps
    | (with_reducible apply KeepsOut.ite) <;> intro _
    | split
    | fail_if_no_progress ((with_reducible refine Keeps.upd ?_ ?_ ?_ ?_ ?_) <;> [skip; rfl; rfl; rfl; rfl])
    | dsimp only

theorem runRoute_keeps {s0 : State} {s : State} {g : BitVec 10} {op : Nat} {poison : Option (Nat × Bool)} {es : RouteInstr → State → List (Nat × Nat)} {k : RouteInstr → State → State} (hs : Keeps s0 s) (hk : ∀ x0 x1, Keeps s0 x1 → Keeps s0 (k x0 x1)) :
    KeepsOut s0 (runRoute s g op poison es k) := by
  unfold runRoute
  repeat' first
    | with_reducible exact hs
    | with_reducible exact hk
    | with_reducible apply hk
    | with_reducible assumption
    | (intro _)
    | with_reducible apply KeepsOut.next
    | with_reducible exact KeepsOut.fault
    | with_reducible exact KeepsOut.refused
    | with_reducible apply State.whenReadable_keeps
    | with_reducible apply State.engineReads_keeps
    | (with_reducible apply KeepsOut.ite) <;> intro _
    | split
    | fail_if_no_progress ((with_reducible refine Keeps.upd ?_ ?_ ?_ ?_ ?_) <;> [skip; rfl; rfl; rfl; rfl])

theorem State.setLayer_keeps {s0 : State} {s : State} {l : RouteLayer} (hs : Keeps s0 s) :
    Keeps s0 (State.setLayer s l) := by
  unfold State.setLayer
  repeat' first
    | with_reducible exact hs
    | with_reducible assumption
    | (intro _)
    | split
    | fail_if_no_progress ((with_reducible refine Keeps.upd ?_ ?_ ?_ ?_ ?_) <;> [skip; rfl; rfl; rfl; rfl])

theorem State.writeSlot_keeps {s0 : State} {s : State} {slot : Nat} {hdr : List Byte} {state : Nat} (hs : Keeps s0 s) :
    Keeps s0 (State.writeSlot s slot hdr state) := by
  unfold State.writeSlot
  repeat' first
    | with_reducible exact hs
    | with_reducible assumption
    | (intro _)
    | with_reducible apply State.devWrite_keeps

theorem State.takeCopy_keeps {s0 : State} {s : State} {port : Nat} {l : RouteLayer} {item : List Byte} (hs : Keeps s0 s) :
    Keeps s0 (State.takeCopy s port l item) := by
  unfold State.takeCopy
  repeat' first
    | with_reducible exact hs
    | with_reducible assumption
    | (intro _)
    | with_reducible apply State.linkFault_keeps
    | with_reducible apply State.bump_keeps
    | with_reducible apply State.setLayer_keeps
    | with_reducible apply State.writeSlot_keeps
    | with_reducible apply State.devWrite_keeps
    | (with_reducible apply Keeps.ite) <;> intro _

theorem State.takeEnd_keeps {s0 : State} {s : State} {l : RouteLayer} {item : List Byte} (hs : Keeps s0 s) :
    Keeps s0 (State.takeEnd s l item) := by
  unfold State.takeEnd
  repeat' first
    | with_reducible exact hs
    | with_reducible assumption
    | (intro _)
    | with_reducible apply State.setLayer_keeps

theorem State.takeEarly_keeps {s0 : State} {s : State} {port : Nat} {item : List Byte} (hs : Keeps s0 s) :
    Keeps s0 (State.takeEarly s port item) := by
  unfold State.takeEarly
  repeat' first
    | with_reducible exact hs
    | with_reducible assumption
    | (intro _)
    | with_reducible apply State.bump_keeps
    | with_reducible apply State.takeEnd_keeps
    | with_reducible apply State.takeCopy_keeps
    | (with_reducible apply Keeps.ite) <;> intro _
    | split
    | fail_if_no_progress ((with_reducible refine Keeps.upd ?_ ?_ ?_ ?_ ?_) <;> [skip; rfl; rfl; rfl; rfl])

theorem State.sendDone_keeps {s0 : State} {s : State} {l : RouteLayer} (hs : Keeps s0 s) :
    Keeps s0 (State.sendDone s l) := by
  unfold State.sendDone
  repeat' first
    | with_reducible exact hs
    | with_reducible assumption
    | (intro _)
    | with_reducible apply State.countUp_keeps
    | with_reducible apply State.setLayer_keeps
    | (with_reducible apply Keeps.ite) <;> intro _

theorem State.takeAnswer_keeps {s0 : State} {s : State} {port : Nat} {item : List Byte} (hs : Keeps s0 s) :
    Keeps s0 (State.takeAnswer s port item) := by
  unfold State.takeAnswer
  repeat' first
    | with_reducible exact hs
    | with_reducible assumption
    | (intro _)
    | with_reducible apply State.bump_keeps
    | with_reducible apply State.linkFault_keeps
    | with_reducible apply State.whenReadable_keeps
    | with_reducible apply State.devWrite_keeps
    | with_reducible apply State.sendDone_keeps
    | (with_reducible apply Keeps.ite) <;> intro _
    | split
    | fail_if_no_progress ((with_reducible refine Keeps.upd ?_ ?_ ?_ ?_ ?_) <;> [skip; rfl; rfl; rfl; rfl])
    | dsimp only

theorem State.takeRoute_keeps {s0 : State} {s : State} {port : Nat} {item : List Byte} (hs : Keeps s0 s) :
    Keeps s0 (State.takeRoute s port item) := by
  unfold State.takeRoute
  repeat' first
    | with_reducible exact hs
    | with_reducible assumption
    | (intro _)
    | with_reducible apply State.takeEarly_keeps
    | with_reducible apply State.takeAnswer_keeps
    | (with_reducible apply Keeps.ite) <;> intro _

theorem routeArrival_keeps {s0 : State} {name : String} {p : BitVec 3} {item : List Byte} {kinds : List Nat} {s : State} (hs : Keeps s0 s) :
    KeepsOut s0 (routeArrival name p item kinds s) := by
  unfold routeArrival
  repeat' first
    | with_reducible exact hs
    | with_reducible assumption
    | (intro _)
    | with_reducible apply KeepsOut.next
    | with_reducible exact KeepsOut.fault
    | with_reducible exact KeepsOut.refused
    | with_reducible apply onItem_keeps
    | with_reducible apply State.setPort_keeps
    | with_reducible apply State.fireBreak_keeps
    | with_reducible apply State.forward_keeps
    | with_reducible apply State.takeRoute_keeps
    | (with_reducible apply Keeps.ite) <;> intro _

theorem execRouteCopyArrival_keeps {s0 : State} {p : BitVec 3} {item : List Byte} {s : State} (hs : Keeps s0 s) :
    KeepsOut s0 (execRouteCopyArrival p item s) := by
  unfold execRouteCopyArrival
  repeat' first
    | with_reducible exact hs
    | with_reducible assumption
    | (intro _)
    | with_reducible apply KeepsOut.next
    | with_reducible exact KeepsOut.fault
    | with_reducible exact KeepsOut.refused
    | with_reducible apply routeArrival_keeps

theorem execEndMarkArrival_keeps {s0 : State} {p : BitVec 3} {item : List Byte} {s : State} (hs : Keeps s0 s) :
    KeepsOut s0 (execEndMarkArrival p item s) := by
  unfold execEndMarkArrival
  repeat' first
    | with_reducible exact hs
    | with_reducible assumption
    | (intro _)
    | with_reducible apply KeepsOut.next
    | with_reducible exact KeepsOut.fault
    | with_reducible exact KeepsOut.refused
    | with_reducible apply routeArrival_keeps

theorem execRouteAnswerArrival_keeps {s0 : State} {p : BitVec 3} {item : List Byte} {s : State} (hs : Keeps s0 s) :
    KeepsOut s0 (execRouteAnswerArrival p item s) := by
  unfold execRouteAnswerArrival
  repeat' first
    | with_reducible exact hs
    | with_reducible assumption
    | (intro _)
    | with_reducible apply KeepsOut.next
    | with_reducible exact KeepsOut.fault
    | with_reducible exact KeepsOut.refused
    | with_reducible apply routeArrival_keeps

theorem State.sendRoute_keeps {s0 : State} {s : State} {p : Nat} {g : Nat} {dst : BitVec 24} {h : RouteHdr} {payload : List Byte} (hs : Keeps s0 s) :
    Keeps s0 (State.sendRoute s p g dst h payload) := by
  unfold State.sendRoute
  repeat' first
    | with_reducible exact hs
    | with_reducible assumption
    | (intro _)
    | with_reducible apply State.routeFault_keeps
    | with_reducible apply State.sendItem_keeps
    | with_reducible apply State.takeRoute_keeps
    | split

theorem takeHeld_keeps {s0 : State} {layer : Nat} {a2 : List HeldItem} {a3 : State} (ha3 : Keeps s0 a3) :
    Keeps s0 (takeHeld layer a2 a3) := by
  induction a2 generalizing a3 with
  | nil =>
    unfold takeHeld
    repeat' first
      | with_reducible exact ha3
  | cons x xs ih =>
    unfold takeHeld
    repeat' first
      | with_reducible exact ha3
      | with_reducible exact ih
      | with_reducible assumption
      | (intro _)
      | with_reducible apply ih
      | with_reducible apply State.takeEarly_keeps
      | with_reducible apply step_keeps
      | (with_reducible apply Keeps.ite) <;> intro _
      | split
      | fail_if_no_progress ((with_reducible refine Keeps.upd ?_ ?_ ?_ ?_ ?_) <;> [skip; rfl; rfl; rfl; rfl])

theorem State.runRteRoute_keeps {s0 : State} {i : RouteInstr} {s : State} (hs : Keeps s0 s) :
    Keeps s0 (State.runRteRoute i s) := by
  unfold State.runRteRoute
  repeat' first
    | with_reducible exact hs
    | with_reducible assumption
    | (intro _)
    | with_reducible apply State.instrFault_keeps
    | with_reducible apply State.bump_keeps
    | with_reducible apply State.setLayer_keeps
    | with_reducible apply State.pendCount_keeps
    | with_reducible apply takeHeld_keeps
    | (with_reducible apply Keeps.ite) <;> intro _
    | split
    | fail_if_no_progress ((with_reducible refine Keeps.upd ?_ ?_ ?_ ?_ ?_) <;> [skip; rfl; rfl; rfl; rfl])

theorem execRteRoute_keeps {s0 : State} {stage : Stage} {g : BitVec 10} {s : State} (hs : Keeps s0 s) :
    KeepsOut s0 (execRteRoute stage g s) := by
  unfold execRteRoute
  repeat' first
    | with_reducible exact hs
    | with_reducible assumption
    | (intro _)
    | with_reducible apply KeepsOut.next
    | with_reducible exact KeepsOut.fault
    | with_reducible exact KeepsOut.refused
    | with_reducible apply issueRoute_keeps
    | with_reducible apply runRoute_keeps
    | with_reducible apply State.runRteRoute_keeps
    | split

theorem writeLists_keeps {s0 : State} {l : RouteLayer} {a2 : List Nat} {a3 : Nat} {a4 : State} (ha4 : Keeps s0 a4) :
    Keeps s0 (writeLists l a2 a3 a4) := by
  induction a2 generalizing a3 a4 with
  | nil =>
    unfold writeLists
    repeat' first
      | with_reducible exact ha4
  | cons x xs ih =>
    unfold writeLists
    repeat' first
      | with_reducible exact ha4
      | with_reducible exact ih
      | with_reducible assumption
      | (intro _)
      | with_reducible apply ih
      | with_reducible apply State.devWrite_keeps
      | with_reducible apply State.setShape_keeps

theorem execLayerFinalise_keeps {s0 : State} {plot : BitVec 6} {layer : BitVec 10} {s : State} (hs : Keeps s0 s) :
    KeepsOut s0 (execLayerFinalise plot layer s) := by
  unfold execLayerFinalise
  repeat' first
    | with_reducible exact hs
    | with_reducible assumption
    | (intro _)
    | with_reducible apply KeepsOut.next
    | with_reducible exact KeepsOut.fault
    | with_reducible exact KeepsOut.refused
    | with_reducible apply writeLists_keeps
    | with_reducible apply State.setLayer_keeps
    | with_reducible apply State.setShape_keeps
    | with_reducible apply State.whenReadable_keeps
    | with_reducible apply State.countUp_keeps
    | (with_reducible apply KeepsOut.ite) <;> intro _
    | split

theorem sendCopies_keeps {s0 : State} {i : RouteInstr} {d : RouteDesc} {ptab : List Byte} {a4 : List CopyOut} {a5 : State} (ha5 : Keeps s0 a5) :
    Keeps s0 (sendCopies i d ptab a4 a5) := by
  induction a4 generalizing a5 with
  | nil =>
    unfold sendCopies
    repeat' first
      | with_reducible exact ha5
  | cons x xs ih =>
    unfold sendCopies
    repeat' first
      | with_reducible exact ha5
      | with_reducible exact ih
      | with_reducible assumption
      | (intro _)
      | with_reducible apply ih
      | with_reducible apply State.bump_keeps
      | with_reducible apply State.sendRoute_keeps
      | with_reducible apply State.writeSlot_keeps
      | with_reducible apply State.setLayer_keeps
      | (with_reducible apply Keeps.ite) <;> intro _
      | split

theorem sendPeers_keeps {s0 : State} {i : RouteInstr} {d : RouteDesc} {ptab : List Byte} {copies : List CopyOut} {a5 : List Nat} {a6 : State} (ha6 : Keeps s0 a6) :
    Keeps s0 (sendPeers i d ptab copies a5 a6) := by
  induction a5 generalizing a6 with
  | nil =>
    unfold sendPeers
    repeat' first
      | with_reducible exact ha6
  | cons x xs ih =>
    unfold sendPeers
    repeat' first
      | with_reducible exact ha6
      | with_reducible exact ih
      | with_reducible assumption
      | (intro _)
      | with_reducible apply ih
      | with_reducible apply sendCopies_keeps
      | with_reducible apply State.sendRoute_keeps

theorem State.runRteSend_keeps {s0 : State} {i : RouteInstr} {s : State} (hs : Keeps s0 s) :
    Keeps s0 (State.runRteSend i s) := by
  unfold State.runRteSend
  repeat' first
    | with_reducible exact hs
    | with_reducible assumption
    | (intro _)
    | with_reducible apply State.countUp_keeps
    | with_reducible apply sendPeers_keeps
    | with_reducible apply State.setLayer_keeps
    | with_reducible apply State.sendDone_keeps
    | split
    | fail_if_no_progress ((with_reducible refine Keeps.upd ?_ ?_ ?_ ?_ ?_) <;> [skip; rfl; rfl; rfl; rfl])
    | dsimp only

theorem execRteSend_keeps {s0 : State} {stage : Stage} {g : BitVec 10} {s : State} (hs : Keeps s0 s) :
    KeepsOut s0 (execRteSend stage g s) := by
  unfold execRteSend
  repeat' first
    | with_reducible exact hs
    | with_reducible assumption
    | (intro _)
    | with_reducible apply KeepsOut.next
    | with_reducible exact KeepsOut.fault
    | with_reducible exact KeepsOut.refused
    | with_reducible apply issueRoute_keeps
    | with_reducible apply runRoute_keeps
    | with_reducible apply State.runRteSend_keeps
    | split

theorem sendAnswers_keeps {s0 : State} {i : RouteInstr} {d : RouteDesc} {ptab : List Byte} {l : RouteLayer} {peer : Nat} {a6 : List Nat} {a7 : State} (ha7 : Keeps s0 a7) :
    Keeps s0 (sendAnswers i d ptab l peer a6 a7) := by
  induction a6 generalizing a7 with
  | nil =>
    unfold sendAnswers
    repeat' first
      | with_reducible exact ha7
  | cons x xs ih =>
    unfold sendAnswers
    repeat' first
      | with_reducible exact ha7
      | with_reducible exact ih
      | with_reducible assumption
      | (intro _)
      | with_reducible apply ih
      | with_reducible apply State.sendRoute_keeps
      | split

theorem answerPeers_keeps {s0 : State} {i : RouteInstr} {d : RouteDesc} {ptab : List Byte} {l : RouteLayer} {a5 : List Nat} {a6 : State} (ha6 : Keeps s0 a6) :
    Keeps s0 (answerPeers i d ptab l a5 a6) := by
  induction a5 generalizing a6 with
  | nil =>
    unfold answerPeers
    repeat' first
      | with_reducible exact ha6
  | cons x xs ih =>
    unfold answerPeers
    repeat' first
      | with_reducible exact ha6
      | with_reducible exact ih
      | with_reducible assumption
      | (intro _)
      | with_reducible apply ih
      | with_reducible apply sendAnswers_keeps

theorem State.runRteRet_keeps {s0 : State} {i : RouteInstr} {s : State} (hs : Keeps s0 s) :
    Keeps s0 (State.runRteRet i s) := by
  unfold State.runRteRet
  repeat' first
    | with_reducible exact hs
    | with_reducible assumption
    | (intro _)
    | with_reducible apply answerPeers_keeps
    | with_reducible apply State.countUp_keeps
    | split

theorem execRteRet_keeps {s0 : State} {stage : Stage} {g : BitVec 10} {s : State} (hs : Keeps s0 s) :
    KeepsOut s0 (execRteRet stage g s) := by
  unfold execRteRet
  repeat' first
    | with_reducible exact hs
    | with_reducible assumption
    | (intro _)
    | with_reducible apply KeepsOut.next
    | with_reducible exact KeepsOut.fault
    | with_reducible exact KeepsOut.refused
    | with_reducible apply issueRoute_keeps
    | with_reducible apply runRoute_keeps
    | with_reducible apply State.runRteRet_keeps
    | split

end Sys2Proof.Machine
end

