-- ==== Sys2Proof/Laws/KeepsScout.lean ====
section
/-!
SUPPORT. What the operations of Machine/Scout.lean keep: one lemma for each that gives a state.
-/

namespace Sys2Proof.Machine

theorem writeGroups_keeps {s0 : State} {d : ScoutDesc} {listed : List (List Bool)} {a3 : List Nat} {a4 : Nat} {a5 : State} (ha5 : Keeps s0 a5) :
    Keeps s0 (writeGroups d listed a3 a4 a5) := by
  induction a3 generalizing a4 a5 with
  | nil =>
    unfold writeGroups
    repeat' first
      | with_reducible exact ha5
  | cons x xs ih =>
    unfold writeGroups
    repeat' first
      | with_reducible exact ha5
      | with_reducible exact ih
      | with_reducible assumption
      | (intro _)
      | with_reducible apply ih
      | with_reducible apply State.devWrite_keeps
      | with_reducible apply State.setShape_keeps

theorem State.runSctMask_keeps {s0 : State} {i : RouteInstr} {s : State} (hs : Keeps s0 s) :
    Keeps s0 (State.runSctMask i s) := by
  unfold State.runSctMask
  repeat' first
    | with_reducible exact hs
    | with_reducible assumption
    | (intro _)
    | with_reducible apply writeGroups_keeps
    | with_reducible apply State.pendCount_keeps
    | with_reducible apply State.setShape_keeps
    | with_reducible apply State.countUp_keeps
    | split
    | fail_if_no_progress ((with_reducible refine Keeps.upd ?_ ?_ ?_ ?_ ?_) <;> [skip; rfl; rfl; rfl; rfl])

theorem execSctMask_keeps {s0 : State} {stage : Stage} {g : BitVec 10} {s : State} (hs : Keeps s0 s) :
    KeepsOut s0 (execSctMask stage g s) := by
  unfold execSctMask
  repeat' first
    | with_reducible exact hs
    | with_reducible assumption
    | (intro _)
    | with_reducible apply KeepsOut.next
    | with_reducible exact KeepsOut.fault
    | with_reducible exact KeepsOut.refused
    | with_reducible apply issueRoute_keeps
    | with_reducible apply runRoute_keeps
    | with_reducible apply State.runSctMask_keeps
    | split

theorem State.auditForm_keeps {s0 : State} {s : State} {d : ScoutDesc} {lexp : Nat} (hs : Keeps s0 s) :
    Keeps s0 (State.auditForm s d lexp).2 := by
  unfold State.auditForm
  repeat' first
    | with_reducible exact hs
    | with_reducible assumption
    | (intro _)
    | with_reducible apply State.draw_keeps
    | refine State.draw_keeps_pair (by assumption) ?_
    | split

theorem State.auditForm_keeps_pair {s0 : State} {s : State} {d : ScoutDesc} {lexp : Nat} {o0 : Nat} {t0 : State}
    (e : State.auditForm s d lexp = (o0, t0)) (hs : Keeps s0 s) :
    Keeps s0 t0 := by
  have h := State.auditForm_keeps (s0 := s0) (s := s) (d := d) (lexp := lexp) hs
  rw [e] at h
  exact h

theorem State.runSctAud_keeps {s0 s : State} {i : RouteInstr} (hs : Keeps s0 s) : Keeps s0 (State.runSctAud i s) := by
  unfold State.runSctAud
  extract_lets gl d p lexp count act marks f pairs s1 s2
  have h1 : Keeps s0 s1 :=
    Keeps.ite (fun _ => State.pendCount_keeps (State.pendCount_keeps (State.auditForm_keeps hs))) (fun _ => hs)
  exact State.countUp_keeps (Keeps.upd h1 rfl rfl rfl rfl)

theorem execSctAud_keeps {s0 : State} {stage : Stage} {g : BitVec 10} {s : State} (hs : Keeps s0 s) :
    KeepsOut s0 (execSctAud stage g s) := by
  unfold execSctAud
  repeat' first
    | with_reducible exact hs
    | with_reducible assumption
    | (intro _)
    | with_reducible apply KeepsOut.next
    | with_reducible exact KeepsOut.fault
    | with_reducible exact KeepsOut.refused
    | with_reducible apply issueRoute_keeps
    | with_reducible apply runRoute_keeps
    | with_reducible apply State.runSctAud_keeps
    | split

end Sys2Proof.Machine
end

