-- ==== Sys2Proof/Tests/Slice0.lean ====
section
/-!
SUPPORT. Tests: the well-formedness checks refuse ill-formed terms, the worked examples of the spec, and, for every statement with
hypotheses, states and operands that meet them (theorems `witness_<statement>`; one conjunct for each clause).
-/

open Sys2Proof Sys2Proof.Machine

namespace Sys2Proof.Tests

set_option maxRecDepth 8000
set_option Elab.async false

/-! ### Small states -/

/-- A plot of attempt 0 in a step. -/
def plotOn : Plot := { Plot.init with defined := true, isa := 2, run := .running }

/-- A glade of plot 0 that runs a program. -/
def gladeOn (program : List Word) : Glade := { Glade.init with inService := true, mode := .running, program }

/-- Everything powered and the sequence ended; plot 0 is in a step. -/
def lab : State := { State.reset with
  board := { Board.init with on := 0x3FFFFFFF, seq := .idle }
  plots := [(0, plotOn)] }

/-- The laboratory with a glade 0. -/
def withGlade (g : Glade) : State := { lab with glades := [(0, g)] }

/-- Glade 0 stands at the first word of a program. -/
def at_ (program : List Word) : State := withGlade (gladeOn program)

/-- An instruction of `n` words from its fields: lowest bit and value of each (Table 7.3). -/
def ins (n : Nat) (fields : List (Nat × Nat)) : List Word :=
  let x := (fields.map fun f => f.2 * 2 ^ f.1).sum
  (List.range n).map fun k => BitVec.ofNat 32 (x / 2 ^ (32 * k))

/-- Whether an outcome is a next state. -/
def isNext : Out → Bool
  | .next _ => true
  | _ => false

/-- The state that a command leads to; the state itself where it leads to none. -/
def after (c : Instr) (s : State) : State :=
  match exec c s with
  | .next t => t
  | _ => s

/-- A region of 64 KiB of stack memory at the bottom of the device range, open to plot 0. -/
def region0 : Region :=
  { base := 0, size := 16, kind := 0, place := 0, ro := false, mirror := false, hrep := false, leaseWr := false, gran := 0, plots := 1
    smask := 0xFF, umask := 0, sOff := 0, sLen := 2, uOff := 0, uLen := 0, mOff := 0, gt0 := 0 }

/-- A state whose memory has the region. -/
def withRegion (s : State) : State := { s with mem := { s.mem with regions := (0, region0) :: s.mem.regions } }

/-! ### The block -/

theorem witness_StepRunsFrontCommand : State.reset.pending = [] ∧ isNext (step { State.reset with pending := [.orefReturn] }) := by
  decide

theorem witness_CommandsLeaveQueue : isNext (exec (.faultPop 7) { State.reset with pending := [.orefLoss] }) := by decide

theorem witness_StepKeepsFaultQueueBound : isNext (step { at_ [0xFFFFFFFF] with pending := [.nop 0] })
    ∧ (at_ [0xFFFFFFFF]).faultQueueOk := by decide

theorem witness_StepKeepsCanonicalForms : isNext (step { at_ [0] with pending := [.nop 0] })
    ∧ (at_ [0]).mem.wf ∧ (at_ [0]).tablesOk := by decide

theorem witness_MinimumVersionNeverFalls : isNext (step { State.reset with pending := [.orefReturn] }) := by decide

theorem witness_NoCommandStopsTheBlock :
    (Instr.faultPop 7).wf = true
    ∧ (∀ d0 d1 d2 d3 r, Instr.faultPop 7 = .jtagInstruction d0 d1 d2 d3 r → ∀ x ∈ [d0, d1, d2, d3, r], otherCode x = none)
    ∧ State.reset.faultQueueOk ∧ State.reset.mem.wf ∧ State.reset.tablesOk :=
  ⟨by decide, fun _ _ _ _ _ h => Instr.noConfusion h, by decide⟩

/-! ### The glade's control instructions -/

theorem witness_ScalarInstructionsCompute :
    (∀ op ∈ [0x01, 0x02, 0x03, 0x04, 0x05, 0x06, 0x07, 0x08, 0x09, 0x0A],
      let s := at_ (ins 1 [(0, op), (8, 31), (13, 31), (18, 31)])
      s.issues 0 op ∧ (s.issueOf 0).f 31 23 = 0)
    ∧ (at_ [0]).issues 0 0x00 ∧ ((at_ [0]).issueOf 0).f 31 8 = 0
    ∧ (at_ (ins 1 [(0, 0x0B), (18, 0x2000)])).issues 0 0x0B
    ∧ (let s := at_ (ins 2 [(0, 0x80), (8, 31), (63, 1)]); s.issues 0 0x80 ∧ (s.issueOf 0).f 15 13 = 0)
    ∧ mwf 0 [(31, (5 : DWord))] = true := by decide

/-- A load or store through gp1. -/
def mem1 (op : Nat) (addr : DWord) : State :=
  withGlade { gladeOn (ins 1 [(0, op), (8, 2), (13, 1)]) with gp := [(1, addr), (2, 9)] }

theorem witness_ScratchpadLoadsAndStores :
    (∀ c ∈ [(0x10, 8), (0x12, 4), (0x11, 8), (0x13, 4)],
      let s := mem1 c.1 (BitVec.ofNat 64 (524288 - c.2))
      s.issues 0 c.1 ∧ (s.issueOf 0).ea % c.2 = 0 ∧ (s.issueOf 0).ea + c.2 ≤ 524288 ∧ s.tablesOk
      ∧ (s.issueOf 0).gl.hides (s.issueOf 0).ea c.2 = false)
    ∧ (∀ c ∈ [(0x10, 8), (0x12, 4)], let s := withGlade { gladeOn (ins 1 [(0, c.1), (8, 2), (13, 1)]) with
        gp := [(1, 64)], unseen := [{ queue := some 0, ctr := none, lo := 64, hi := 65 }] }
      s.issues 0 c.1 ∧ (s.issueOf 0).ea = 64 ∧ (s.issueOf 0).gl.hides 64 c.2 = true)
    ∧ (∀ c ∈ [(0x10, 8), (0x12, 4), (0x11, 8), (0x13, 4)],
      (mem1 c.1 2).issues 0 c.1 ∧ ((mem1 c.1 2).issueOf 0).ea % c.2 ≠ 0
      ∧ (mem1 c.1 524288).issues 0 c.1 ∧ ((mem1 c.1 524288).issueOf 0).ea + c.2 > 524288) := by decide

/-- A branch or jump by `imm` words, d = gp1 and a = gp2. -/
def branch (op imm : Nat) (d a : DWord) : State :=
  withGlade { gladeOn (ins 1 [(0, op), (8, 1), (13, 2), (18, imm)]) with gp := [(1, d), (2, a)] }

/-- Where the branch would go. -/
def goal (s : State) : Int := ((s.issueOf 0).pc : Int) + 4 * (s.issueOf 0).imm

theorem witness_BranchesAndJumps :
    (∀ c ∈ [(0x18, 5, 5, 6), (0x19, 5, 6, 5), (0x1A, -1, 0, -1), (0x1B, 0, 0, -1)],
      let taken := branch c.1 8191 (BitVec.ofInt 64 c.2.1) (BitVec.ofInt 64 c.2.2.1)
      let bad := branch c.1 0x3FFF (BitVec.ofInt 64 c.2.1) (BitVec.ofInt 64 c.2.2.1)
      let passed := branch c.1 1 (BitVec.ofInt 64 (if c.1 = 0x1B then -1 else c.2.1))
        (BitVec.ofInt 64 (if c.1 = 0x1B then 0 else c.2.2.2))
      taken.issues 0 c.1 ∧ bad.issues 0 c.1 ∧ passed.issues 0 c.1
      ∧ (taken.issueOf 0).gl.badTarget (goal taken) = false ∧ (bad.issueOf 0).gl.badTarget (goal bad) = true)
    ∧ (branch 0x1C 8191 0 0).issues 0 0x1C ∧ ((branch 0x1C 8191 0 0).issueOf 0).gl.badTarget (goal (branch 0x1C 8191 0 0)) = false
    ∧ (branch 0x1D 0 0 32764).issues 0 0x1D ∧ ((branch 0x1D 0 0 32764).issueOf 0).f 31 23 = 0
    ∧ ((branch 0x1D 0 0 32764).issueOf 0).gl.badTarget (((branch 0x1D 0 0 32764).issueOf 0).ra.toNat : Int) = false := by decide

theorem witness_SpecialRegisterAccess :
    (∀ op ∈ [0x20, 0x21], ∀ sr ∈ [0x00, 0x01, 0x08, 0x09, 0x0A, 0x0B, 0xFF],
      let s := at_ (ins 1 [(0, op), (8, 1), (13, sr)])
      s.issues 0 op ∧ (s.issueOf 0).f 31 21 = 0 ∧ (s.issueOf 0).f 20 13 = sr) := by decide

/-- Glade 0 with counter 5 at 7, waiting or at an instruction. -/
def counting (mode : CpuMode) (program : List Word) : State :=
  withGlade { gladeOn program with mode, counters := [(5, 7)], gp := [(1, 50)] }

/-- A transfer instruction in the queue. -/
def transfer0 : QueuedInstr := { pc := 0, op := 0x68, words := 0, args := [] }

/-- Glade 0 at an ENG.FENCE of a mask, with a transfer queue. -/
def fenced (mask : Nat) (queue : List QueuedInstr) : State :=
  withGlade { gladeOn (ins 1 [(0, 0x28), (8, mask)]) with queue }

theorem witness_ArrivalCountersAndWaits :
    (let s := counting .running (ins 1 [(0, 0x25), (13, 63)]); s.issues 0 0x25 ∧ (s.issueOf 0).f 31 19 = 0)
    ∧ (let s := counting .running (ins 1 [(0, 0x26), (8, 61), (14, 65535)])
      s.issues 0 0x26 ∧ (s.issueOf 0).f 31 30 = 0 ∧ (s.issueOf 0).f 13 8 < 62)
    ∧ (∀ n ∈ [7, 8], let s := counting .running (ins 1 [(0, 0x24), (8, 5), (14, n)])
      s.issues 0 0x24 ∧ (s.issueOf 0).f 31 30 = 0 ∧ (s.issueOf 0).f 29 14 = n ∧ ((s.issueOf 0).gl.ctr 5).toNat = 7)
    ∧ (∀ late, let s := counting (.waitCtr 5 7 late) []; (s.glade 0).mode = .waitCtr 5 7 late ∧ 7 ≤ ((s.glade 0).ctr 5).toNat)
    ∧ (∀ n ∈ [7, 8], let s := counting .running (ins 1 [(0, 0x27), (8, 5), (14, n), (27, 1)])
      s.issues 0 0x27 ∧ s.rt < ((s.issueOf 0).gl.gpr 1).toNat)
    ∧ (∀ n ∈ [7, 8], let s := counting .running (ins 1 [(0, 0x27), (8, 5), (14, n), (27, 2)])
      s.issues 0 0x27 ∧ ((s.issueOf 0).gl.gpr 2).toNat ≤ s.rt)
    ∧ (let s := counting (.waitTime 0 5 7) []; (s.glade 0).mode = .waitTime 0 5 7 ∧ (0 : Nat) ≤ s.rt)
    ∧ (let s := counting (.waitTime 0 5 8) []; (s.glade 0).mode = .waitTime 0 5 8 ∧ (0 : Nat) ≤ s.rt)
    ∧ (((counting .running []).glade 0).ctr 5).toNat + 65528 ≤ 65535 ∧ 65535 < (((counting .running []).glade 0).ctr 5).toNat + 65529
    ∧ (∀ m ∈ [CpuMode.waitCtr 5 8 false, .waitTime 50 5 7], let s := counting m []
      s.deadline (s.glade 0) ≤ s.rt ∧ s.readHeld 0 = false ∧ s.rt < 50 ∧ ((s.glade 0).ctr 5).toNat < 8)
    ∧ (fenced 4 [transfer0]).issues 0 0x28 ∧ ((fenced 4 [transfer0]).issueOf 0).f 31 12 = 0
    ∧ ((fenced 4 [transfer0]).issueOf 0).gl.fenceWaits 4 = true
    ∧ (fenced 4 [transfer0]).deadline ((fenced 4 [transfer0]).glade 0) ≤ (fenced 4 [transfer0]).rt := by decide

theorem witness_FenceCountAndStepEnd :
    (∀ mask ∈ [0, 4, 11, 15], let s := fenced mask []
      s.issues 0 0x28 ∧ (s.issueOf 0).f 31 12 = 0 ∧ ∀ q < 4, (s.issueOf 0).gl.queueBusy q = false)
    ∧ (let s := fenced 4 [transfer0]
      s.issues 0 0x28 ∧ (s.issueOf 0).f 31 12 = 0 ∧ bitOf ((s.issueOf 0).f 11 8) 2 = true ∧ (s.issueOf 0).gl.queueBusy 2 = true)
    ∧ (∀ n ∈ [256, 257], let s := withGlade { gladeOn (ins 1 [(0, 0x32), (13, 1)]) with gp := [(1, BitVec.ofNat 64 n)] }
      s.issues 0 0x32 ∧ (s.issueOf 0).f 31 23 = 0 ∧ (s.issueOf 0).ra.toNat % 65536 = n)
    ∧ (let s := at_ [0x30]; s.issues 0 0x30 ∧ (s.issueOf 0).f 31 8 = 0) := by decide

theorem witness_InstructionFaultsStopTheGlade :
    ((at_ [0xFF]).plot 0).run ≠ .abandoned ∧ (at_ [0xFF]).gladeRuns 0 = true
    ∧ ((at_ [0xFF]).issueOf 0).gl.badTarget ((at_ [0xFF]).issueOf 0).pc = false ∧ opDefined ((at_ [0xFF]).issueOf 0).op = false
    ∧ (let s := withGlade { gladeOn [0] with pc := 2 }; s.gladeRuns 0 = true ∧ (s.issueOf 0).gl.badTarget (s.issueOf 0).pc = true) := by
  decide

/-! ### The engines -/

/-- An OPEN tile of activation form 0. -/
def openTile0 : Tile := { Tile.init with mode := .opened }

/-- Glade 0 at an instruction, with tile 0 OPEN and bytes in its scratchpad. -/
def tiled (program : List Word) (spad : List (Nat × Byte)) : State :=
  withGlade { gladeOn program with tiles := [(0, openTile0)], spad }

/-- A scratchpad that holds bytes from an address on. -/
def bytesAt (a : Nat) (bs : List Byte) : List (Nat × Byte) := mwrite 0 [] a bs

theorem read_zeros {gl : Glade} (h : gl.spad = []) {a n : Nat} {b : Byte} (hb : b ∈ gl.read a n) : b = 0 := by
  simp only [Glade.read, h, mread, mget, List.mem_map] at hb
  exact hb.elim fun _ h => h.2.symm

theorem leAt_zeros {bs : List Byte} (h : ∀ b ∈ bs, b = 0) : ∀ i n, leAt bs i n = 0 := by
  have key : ∀ l : List Byte, (∀ b ∈ l, b = 0) → leNat l = 0 := by
    intro l
    induction l with
    | nil => intro _; rfl
    | cons b bs ih =>
      intro hl
      simp only [leNat, hl b (List.mem_cons_self ..), ih fun c hc => hl c (List.mem_cons_of_mem _ hc)]
      rfl
  intro i n
  refine key _ ?_
  intro b hb
  simp only [sliceBytes, List.mem_map, List.getD_eq_getElem?_getD] at hb
  obtain ⟨k, -, rfl⟩ := hb
  cases hk : bs[i + k]? with
  | none => rfl
  | some c => exact h c (List.mem_of_getElem? hk)

/-- A zero scratchpad holds a TP5 tile and a TS tile anywhere. -/
theorem zero_tiles {gl : Glade} (h : gl.spad = []) (a n d : Nat) :
    (∃ ds, tp5Tile (gl.read a n) d = .inr ds) ∧ ∃ gs, tsTile (gl.read a n) = .inr gs := by
  constructor
  · have : (gl.read a n).findIdx? (fun b => decide (b.toNat > 242)) = none :=
      List.findIdx?_eq_none_iff.mpr fun b hb => by rw [read_zeros h hb]; rfl
    refine ⟨(((tp5All (gl.read a n)).getD []).drop d |>.take 16384 |>.map (BitVec.ofNat 2)), ?_⟩
    unfold tp5Tile
    rw [this]
  · have : (tsGroups (gl.read a n) 2048).findIdx? (fun g => (tsFault g).isSome) = none :=
      List.findIdx?_eq_none_iff.mpr fun g hg => by
        simp only [tsGroups, List.mem_map] at hg
        obtain ⟨k, -, rfl⟩ := hg
        rw [leAt_zeros fun _ hb => read_zeros h hb]
        decide
    refine ⟨tsGroups (gl.read a n) 2048, ?_⟩
    unfold tsTile
    generalize tsGroups (gl.read a n) 2048 = gs at this ⊢
    simp only [this]

theorem witness_WeightLoadFillsShadow :
    (let s := at_ (ins 4 [(0, 0x40)])
    let i := s.issueOf 0
    s.issuesEngine 0 0x40 ∧ (s.glade 0).engN = none ∧ i.gl.spad = [] ∧ i.gl.shadowLoaded = false ∧ i.f 33 32 = 0 ∧ i.f 82 64 = 0
    ∧ i.zeros [(31, 27), (39, 38), (63, 59), (127, 83), (15, 8), (23, 16), (24, 24)] = true)
    ∧ (withGlade { gladeOn (ins 4 [(0, 0x40)]) with shadowLoaded := true }).issuesEngine 0 0x40
    ∧ (let s := at_ (ins 4 [(0, 0x40), (32, 1), (40, 512000)])
    let i := s.issueOf 0
    s.issuesEngine 0 0x40 ∧ s.isaOne i.p = false ∧ i.f 33 32 = 1 ∧ i.f 58 40 + 12288 = 524288 ∧ i.gl.spad = []
    ∧ i.zeros [(31, 27), (39, 38), (63, 59), (127, 83), (15, 8), (23, 16), (24, 24)] = true) := by decide +kernel

/-- A codebook record of one entry at 4,096, and seven coded blocks of its code at 0: their non-zero bytes. -/
def codedTile : List (Nat × Byte) :=
  ((List.range 7).flatMap fun k => (136 * k, (128 : Byte)) :: ((List.range 4).map fun j => (136 * k + 4 + j, BitVec.ofNat 8 (2833995248 / 256 ^ j))))
  ++ [(4096, 4), (4097, 1)] ++ ((List.range 4).map fun j => (4100 + j, BitVec.ofNat 8 (3842712792 / 256 ^ j))) ++ [(4104, 121), (4105, 121)]

theorem witness_WeightLoadFillsShadow_coded :
    let s := withGlade { gladeOn (ins 4 [(0, 0x40), (32, 2), (64, 4096)]) with spad := codedTile }
    let i := s.issueOf 0
    s.issuesEngine 0 0x40 ∧ s.isaOne i.p = false ∧ i.f 33 32 = 2 ∧ i.f 82 64 = 4096 ∧ i.f 58 40 = 0
    ∧ i.zeros [(31, 27), (39, 38), (63, 59), (127, 83), (15, 8), (23, 16), (24, 24)] = true
    ∧ tvqCodebook (i.gl.read 4096 (tvqCodebookLen (i.gl.read 4096 8))) = .inr (4, [0x7979])
    ∧ (match tvqTile i.gl.read (4, [0x7979]) 7 0 none with
      | .inr r => decide (r.2.2 ≤ 524295)
      | .inl _ => false) = true := by decide +kernel

theorem witness_MatrixMultiplyAccumulates :
    (let s := tiled (ins 4 [(0, 0x41), (80, 4)]) []
    let i := (s.engineIssue 0).1
    s.issuesEngine 0 0x41 ∧ (s.engineIssue 0).2 = 1 ∧ i.zeros [(31, 27), (24, 24), (39, 35), (63, 59), (127, 116)] = true
    ∧ i.f 115 100 = 0 ∧ i.gl.active.isSparse = false ∧ i.gl.active.blocks = 4 ∧ i.gl.active.outs = 1 ∧ rowBytes 0 4 ≤ 524288
    ∧ i.gl.firstFault 0 1 (fun t => t.accFault 0) = none ∧ i.gl.anyWaits 0 1 = false)
    ∧ (let s := tiled (ins 4 [(0, 0x41), (32, 1), (80, 4)]) []
    s.issuesEngine 0 0x41 ∧ (s.engineIssue 0).1.gl.shadowLoaded = false)
    ∧ (let h : Hia := { first := 8, count := 4, tags := openTile0.tags, entries := [], spPtr := 0, spLim := 64 }
    let s := withGlade { gladeOn (ins 4 [(0, 0x41), (33, 1), (80, 4)]) with hia := some h }
    let i := (s.engineIssue 0).1
    s.issuesEngine 0 0x41 ∧ s.isaOne i.p = false ∧ i.f 115 100 = 0 ∧ i.gl.hia = some h
    ∧ (mmHia { form := 0, base := 0, stride := 0, nblk := 4, j0 := 0, keys := 0 } i.gl.active [0] i.gl 0 0).2.2.2 = false) := by
  decide +kernel

theorem witness_TilesOpenLoadSaveAndDrain :
    (∀ c ∈ [(0x44, [(31, 27), (24, 24), (127, 88)]), (0x45, [(31, 27), (24, 24), (63, 63), (127, 80)])],
      let s := at_ (ins 4 [(0, c.1), (8, 255)])
      let i := (s.engineIssue 0).1
      s.issuesEngine 0 c.1 ∧ (s.engineIssue 0).2 = 1 ∧ i.zeros c.2 = true ∧ i.t = 255 ∧ i.gl.firstFault 255 1 Tile.openFault = none)
    ∧ (let s := { at_ (ins 4 [(0, 0x44), (63, 1), (80, 1)]) with
        lease := { LeaseUnit.init with held := [{ res := 0x05000000, plot := 0, expiry := 1 }] } }
      s.issuesEngine 0 0x44 ∧ s.isaOne 0 = false ∧ s.holdsLease 0 5 0 = true ∧ (s.engineIssue 0).1.f 87 80 = 1)
    ∧ (let s := tiled (ins 4 [(0, 0x4E), (32, 65440)]) []
      let i := (s.engineIssue 0).1
      s.issuesEngine 0 0x4E ∧ i.zeros [(31, 27), (127, 48)] = true ∧ 8 * i.f 47 32 + 768 = 524288
      ∧ i.gl.firstFault 0 1 Tile.readFault = none ∧ i.gl.anyWaits 0 1 = false)
    ∧ (let s := at_ (ins 4 [(0, 0x4C), (8, 252), (80, 8)])
      let i := s.issueOf 0
      s.issuesEngine 0 0x4C ∧ i.gl.engN = none ∧ s.isaOne i.p = false ∧ i.zeros [(31, 27), (24, 24), (63, 63), (127, 96)] = true
      ∧ i.f 23 16 = 0 ∧ i.t + 4 = 256 ∧ i.gl.hia = none ∧ i.gl.firstFault 252 4 Tile.openFault = none)
    ∧ (let h : Hia := { first := 8, count := 4, tags := openTile0.tags, entries := [], spPtr := 0, spLim := 64 }
      let s := withGlade { gladeOn (ins 4 [(0, 0x4D)]) with hia := some h }
      let i := s.issueOf 0
      s.issuesEngine 0 0x4D ∧ i.gl.engN = none ∧ s.isaOne i.p = false
      ∧ i.zeros [(31, 27), (24, 24), (127, 32), (15, 8), (23, 16)] = true ∧ i.gl.hia = some h
      ∧ (drainHia h.spLim [] i.gl h.spPtr).2.2 = false)
    ∧ (let h : Hia := { first := 8, count := 4, tags := openTile0.tags, entries := [{ tile := 8, key := 1 }], spPtr := 0, spLim := 64 }
      let s := withGlade { gladeOn (ins 4 [(0, 0x4D)]) with hia := some h }
      s.issuesEngine 0 0x4D ∧ (drainHia h.spLim ((List.range h.count).filterMap fun k => h.entries.find? fun e => e.tile = h.first + k)
        (s.glade 0) h.spPtr).2.2 = true) := by decide +kernel

/-- A contribution from glade 0 to glade 1, whose receive windows are given. -/
def contributing (windows : List Window) : State :=
  { lab with
    glades := [(0, gladeOn []), (1, { gladeOn [] with windows })]
    mesh := [{ route := ({ dst := 1, addr := 0, ctr := 61, nflit := 12, kind := 1, src := 0, plot := 0, attempt := 0 } : Route).word
               bytes := zeroBytes 832, rank := none, extra := [] }] }

theorem witness_ChainsAndContributions :
    (∀ c ∈ [(0x48, [(31, 27), (24, 24), (127, 48)]), (0x49, [(31, 27), (127, 64)]), (0x4A, [(31, 27), (57, 42), (127, 72)])],
      let s := tiled (ins 4 ((0, c.1) :: if c.1 = 0x48 then [] else [(58, 61)])) []
      let i := (s.engineIssue 0).1
      s.issuesEngine 0 c.1 ∧ (s.engineIssue 0).2 = 1 ∧ i.zeros c.2 = true ∧ (c.1 = 0x48 ∨ i.f 63 58 = 61)
      ∧ i.gl.firstFault 0 1 (fun t => t.accFault i.aform) = none ∧ i.gl.firstFault 0 1 Tile.readFault = none
      ∧ i.gl.anyWaits 0 1 = false)
    ∧ (∀ ok, let s := contributing (if ok then [{ first := 0, last := 0xFFFF, plots := 1 }] else [])
      (s.takeMsg 0 1).any (fun x => let r := routeOf x.1.route
        r.kind == 1 && (x.2.plot r.plot).tag.toNat == r.attempt
        && (x.2.refusalCause r.dst ((x.2.glade r.dst).permits r.plot) r.ctr).isNone == ok) = true) := by decide +kernel

/-- An outflow descriptor for rows of 4 blocks. -/
def outBytes : List Byte := zeroBytes 14 ++ [4, 0] ++ zeroBytes 16

theorem witness_OutWritesRows :
    let s := tiled (ins 4 [(0, 0x50), (32, 128)]) (bytesAt 1024 outBytes)
    let i := (s.engineIssue 0).1
    let o := outDesc (i.gl.read 1024 32)
    s.issuesEngine 0 0x50 ∧ (s.engineIssue 0).2 = 1 ∧ i.zeros [(31, 27), (127, 56)] = true ∧ 8 * i.f 47 32 = 1024
    ∧ o.reserved = false ∧ o.fuse ≠ 3 ∧ o.remote = false ∧ o.j0 + 4 ≤ o.nblk
    ∧ 8 * (o.dstBase + 0 * o.dstStride) + rowBytes o.oform o.nblk ≤ 524288 ∧ 8 * o.rAddr + 256 ≤ 524288 ∧ o.fuse = 0
    ∧ i.gl.firstFault 0 1 Tile.readFault = none ∧ i.gl.anyWaits 0 1 = false := by decide +kernel

/-- A training descriptor of one unit: threshold 1, shadows at 2,048 and 4,096, ternary pairs at 6,144 and 8,192. -/
def grfBytes : List Byte := [0, 0, 1, 0, 0, 1, 0, 2, 0, 3, 0, 4, 1, 0] ++ zeroBytes 18

theorem witness_GraftUpdateTrainsOrHolds :
    ∀ hold : Bool, let s := tiled (ins 4 [(0, 0x52), (32, 128), (64, if hold then 1 else 0)]) (bytesAt 1024 grfBytes)
      let i := (s.engineIssue 0).1
      let d := grfDesc (i.gl.read 1024 32)
      s.issuesEngine 0 0x52 ∧ (s.engineIssue 0).2 = 1 ∧ s.isaOne i.p = false ∧ i.zeros [(31, 25), (127, 65)] = true
      ∧ d.reserved = false ∧ d.gform ≤ 1 ∧ d.kLr ≤ 47 ∧ d.theta ≠ 0 ∧ i.f 63 48 + 1 ≤ d.units
      ∧ (∀ k ∈ [0, 1], d.shadow k + (d.ends 1).1 ≤ 524288 ∧ d.tern k + (d.ends 1).2 ≤ 524288) ∧ bitOf i.w 64 = hold
      ∧ i.t = 0 ∧ i.close = false ∧ i.gl.firstFault 0 1 Tile.readFault = none ∧ i.gl.anyWaits 0 1 = false
      ∧ (grfUnits d (s.currentCopy i.p) 0 (fun _ l => (i.gl.tile 0).lane l) hold [0] i.gl).isRight = true := by decide +kernel

/-- A layer descriptor of rows of 16 blocks on both sides. -/
def layerBytes : List Byte := zeroBytes 10 ++ [16, 0, 16, 0] ++ zeroBytes 18

theorem witness_ScalarProductsAccumulate :
    ∀ op ∈ [0x58, 0x59, 0x5A],
      let s := withGlade { gladeOn (ins 4 [(0, op), (32, 128), (109, if op = 0x5A then 512 else 0)]) with
        tiles := (List.range 8).map fun k => (k, openTile0), spad := bytesAt 1024 layerBytes }
      let i := (s.engineIssue 0).1
      s.issuesEngine 0 op ∧ (s.engineIssue 0).2 = 1 ∧ spuReady i i.spuDesc 1 255 255 ∧ (op = 0x5A ∨ i.f 124 109 = 0) ∧ s.isaOne i.p = false
      ∧ i.gl.firstFault 0 8 (fun t => t.accFault i.aform) = none ∧ i.gl.anyWaits 0 8 = false
      ∧ (op ≠ 0x5A ∨ (gmMasks i.gl.read 4096).isRight = true) := by decide +kernel

/-- Glade 0, the bole master of grove 0 or not, at a bole instruction, with a bole whose rows 0 is OPEN. -/
def boling (master : Bool) (program : List Word) (spad : List (Nat × Byte)) : State :=
  { withGlade { gladeOn program with spad } with
    regs := { State.reset.regs with vals := if master then [(Reg.boleMaster, 0)] else [] }
    groves := [(0, { Grove.init with bole := { Bole.init with
      rows := [(0, some { tags := { layer := 0, eLo := 0, bw := 0, b := 0 }, lanes := [], satFlag := false, satCnt := 0, zeroCnt := 0 })] } })] }

/-- An outflow descriptor for rows of 8 blocks. -/
def boleOutBytes : List Byte := zeroBytes 14 ++ [8, 0] ++ zeroBytes 16

theorem witness_BoleInstructionsRun :
    (let s := boling true (ins 4 [(0, 0x60)]) []
    let t := { s with groves := [(0, { s.grove 0 with bole := { (s.grove 0).bole with shadowLoaded := true } })] }
    t.issuesEngine 0 0x60 ∧ t.boleMaster 0 = some 0 ∧ (t.glade 0).engN = none ∧ (t.grove 0).bole.shadowLoaded = true) ∧
    (∀ c ∈ [(0x61, [(127, 96)]), (0x62, [(127, 119)]), (0x63, [(26, 25), (127, 65)]), (0x64, [(26, 25), (127, 60)])],
      let s := boling false (ins 4 [(0, c.1)]) []
      s.issuesEngine 0 c.1 ∧ s.boleMaster 0 ≠ some 0 ∧ (s.engineIssue 0).2 ≠ 0
      ∧ (s.engineIssue 0).1.zeros ([(15, 8), (24, 24), (31, 27)] ++ c.2) = true)
    ∧ (∀ c ∈ [(0x60, [(23, 16), (26, 25), (127, 95)]), (0x61, [(127, 96)]), (0x62, [(127, 119)]), (0x63, [(26, 25), (127, 65)]),
        (0x64, [(26, 25), (127, 60)])],
      let fields := if c.1 = 0x61 then [(80, 128), (33, 1)] else if c.1 = 0x62 then [(102, 128), (101, 1)] else if c.1 = 0x63 then [(41, 128)] else []
      let s := boling true (ins 4 ((0, c.1) :: fields)) (bytesAt 1024 (if c.1 = 0x63 then boleOutBytes else layerBytes))
      let i := (s.engineIssue 0).1
      let d := layerDesc (i.gl.read 1024 32)
      let o := outDesc (i.gl.read 1024 32)
      s.issuesEngine 0 c.1 ∧ s.boleMaster 0 = some 0 ∧ (s.engineIssue 0).2 = 1 ∧ i.zeros ([(15, 8), (24, 24), (31, 27)] ++ c.2) = true
      ∧ (s.grove 0).bole.shadowLoaded = false ∧ (c.1 = 0x63 ∨ ((∀ f ∈ d.faults, f.1 = false) ∧ i.aform = d.xform ∧ 8 ≤ d.xNblk
        ∧ 8 ≤ d.yNblk ∧ rowBytes d.xform d.xNblk ≤ 524288 ∧ (s.grove 0).bole.firstFault d.boleTags true 0 1 = none))
      ∧ (c.1 ≠ 0x63 ∨ (o.reserved = false ∧ o.fuse = 0 ∧ o.remote = false ∧ o.j0 + 8 ≤ o.nblk ∧ 8 * o.rAddr + 512 ≤ 524288
        ∧ 8 * o.dstBase + rowBytes o.oform o.nblk ≤ 524288 ∧ ((s.grove 0).bole.row 0).isSome = true))) := by decide +kernel

/-! ### Leases -/

/-- Glade 0 at a lease instruction for the exchange resource of class 2 and index 0 (gp1), gp2 its duration; plot 0 may have the class
or not. -/
def leasing (op : Nat) (may : Bool) (held : List Lease) (waiting : List LeaseWait) : State :=
  { withGlade { gladeOn (ins 1 [(0, op), (8, 3), (13, 1), (18, 2)]) with gp := [(1, 0x02000000), (2, 100)] } with
    plots := [(0, { plotOn with leases := if may then 2 else 0 })]
    lease := { LeaseUnit.init with held, waiting } }

/-- The lease of a plot on the resource. -/
def heldBy (plot : BitVec 6) : Lease := { res := 0x02000000, plot, expiry := 1 }

/-- A request for it. -/
def asked : LeaseWait := { glade := 0, plot := 0, res := 0x02000000, dur := 5, deadline := 0 }

/-- What the statements ask of a lease instruction. -/
def leaseReady (s : State) (op : Nat) (may : Bool) : Prop :=
  let i := s.issueOf 0
  let u := s.expireFirst i.res
  s.issues 0 op ∧ u.gladeRuns 0 = true ∧ i.f 31 23 = 0 ∧ (u.classPermitted i.p i.res && u.slotPermitted i.p i.res) = may

theorem witness_LeasesAreAskedGrantedAndEnded :
    leaseReady (leasing 0x2C false [] []) 0x2C false
    ∧ (let s := leasing 0x2C true (List.replicate 256 { res := 0x02000001, plot := 0, expiry := 1 }) []
      leaseReady s 0x2C true ∧ (s.expireFirst 0x02000000).lease.held.length = 256
      ∧ (s.expireFirst 0x02000000).lease.find 0x02000000 = none)
    ∧ (let s := leasing 0x2C true [] [asked]; leaseReady s 0x2C true
      ∧ (s.expireFirst 0x02000000).lease.find 0x02000000 = none ∧ ∃ w ∈ (s.expireFirst 0x02000000).lease.waiting, w.res = 0x02000000)
    ∧ (∀ op ∈ [0x2C, 0x2D, 0x2E], ∀ mine : Bool,
      let s := leasing op true [heldBy (if mine then 0 else 1)] []
      leaseReady s op true ∧ (s.expireFirst 0x02000000).lease.find 0x02000000 = some (heldBy (if mine then 0 else 1)))
    ∧ (∀ op ∈ [0x2C, 0x2D, 0x2E], let s := leasing op true [] [];
      leaseReady s op true ∧ (s.expireFirst 0x02000000).lease.find 0x02000000 = none)
    ∧ (let s := { leasing 0x2C true [] [asked] with glades := [(0, { gladeOn [] with mode := .waitLease 3 })] }
      s.lease.find 0x02000000 = none ∧ s.lease.waiting.find? (fun w => w.res = 0x02000000) = some asked
      ∧ s.lease.waiting.find? (fun w => w.glade = 0) = some asked ∧ asked.deadline.toNat ≤ s.rt ∧ (s.glade 0).mode = .waitLease 3)
    ∧ (let s := leasing 0x2C true [{ heldBy 1 with expiry := 0 }] []
      s.lease.find 0x02000000 = some { heldBy 1 with expiry := 0 } ∧ (0 : Nat) ≤ s.rt
      ∧ s.lease.held.filter (fun l => l.plot.toNat = 65 % 64) = [{ heldBy 1 with expiry := 0 }]) := by
  unfold leaseReady
  decide +kernel

/-! ### Transfers and messages -/

/-- A fabric descriptor of 64 bytes to the module itself. -/
def fabBytes : List Byte := zeroBytes 22 ++ [64, 0] ++ zeroBytes 8

/-- A fabric descriptor of 64 bytes from the scratchpad or the device range to the module itself. -/
def fabFrom (dsrc : Nat) : List Byte := fabBytes.set 3 (BitVec.ofNat 8 (64 * dsrc))

/-- A state in a stand of one module, with its address in slice 0, the exchange slot 0 leased. -/
def stand (s : State) : State :=
  { s with
    image := { s.image with setup := { s.image.setup with moduleMap := [(0, 0, 0)] } }
    regs := { s.regs with vals := [(Reg.fabAddr, 0)] }
    lease := { LeaseUnit.init with held := [{ res := 0x04000000, plot := 0, expiry := 1 }] } }

theorem witness_TransferInstructionsStart :
    (let s := at_ (ins 2 [(0, 0x84), (34, 61), (48, 65528)])
      let i := s.issueOf 0
      s.issues 0 0x84 ∧ s.tablesOk ∧ i.gl.queue = [] ∧ i.f 39 34 < 62 ∧ 8 * i.f 63 48 + 64 * (i.f 47 40 + 1) = 524288)
    ∧ (∀ op ∈ [0x88, 0x89], ∀ chk ∈ [0, 1],
      let s := withRegion (withGlade { gladeOn (ins 2 [(0, op), (8, 65528), (37, 61), (43, chk), (50, 2 * chk)]) with gp := [(2, 4096)] })
      let i := s.issueOf 0
      s.issues 0 op ∧ s.tablesOk ∧ i.gl.queue = [] ∧ i.f 63 55 = 0 ∧ i.f 42 37 = 61 ∧ i.f 44 43 = chk
      ∧ 8 * i.f 23 8 + 64 * (i.f 36 24 + 1) = 524288 ∧ s.isaOne i.p = false ∧ s.mayRead i.p 0 64 = true ∧ s.mayRead i.p 4096 4 = true
      ∧ s.mayWrite i.p 0 64 = true ∧ s.mayWrite i.p 4096 4 = true ∧ s.leaseMissing i.p 0 64 = none
      ∧ s.leaseMissing i.p 4096 4 = none)
    ∧ (let s := stand (withGlade { gladeOn (ins 2 [(0, 0x8C), (8, 128)]) with spad := mwrite 0 [] 1024 fabBytes })
      let i := s.issueOf 0
      let d := fabDesc (i.gl.read 1024 32)
      s.issues 0 0x8C ∧ s.tablesOk ∧ i.gl.queue = [] ∧ i.f 63 30 = 0 ∧ i.f 29 24 < 62 ∧ d.reserved = false ∧ d.cls = 0 ∧ d.plen = 64
      ∧ d.dctr < 62 ∧ s.holdsLease i.p 4 d.xslot = true ∧ d.dsrc = false ∧ d.elided = false ∧ d.chk = 0
      ∧ s.routeTo d.dst = .inr none)
    ∧ (let s := withRegion (stand (withGlade { gladeOn (ins 2 [(0, 0x8C), (8, 128)]) with spad := mwrite 0 [] 1024 (fabFrom 1) }))
      let i := s.issueOf 0
      let d := fabDesc (i.gl.read 1024 32)
      s.issues 0 0x8C ∧ d.reserved = false ∧ d.cls = 0 ∧ d.plen = 64 ∧ d.dctr < 62 ∧ s.holdsLease i.p 4 d.xslot = true
      ∧ d.dsrc = true ∧ d.elided = false ∧ s.mayRead i.p d.saddr d.plen = true ∧ s.routeTo d.dst = .inr none) := by decide +kernel

/-- A canopy instruction in the transfer queue. -/
def queued : QueuedInstr := { pc := 0, op := 0x68, words := 0, args := [1] }

/-- Glade 0 at an instruction behind `n` canopy instructions. -/
def behind (n : Nat) (program : List Word) : State := withGlade { gladeOn program with queue := List.replicate n queued }

/-- Glade 0 at an engine instruction on tile 0, its thicket queue holding `n` weight loads that wait for a loaded shadow buffer. -/
def engineBehind (n : Nat) (program : List Word) : State :=
  withGlade { gladeOn program with
    tiles := [(0, openTile0)], shadowLoaded := true
    engine := List.replicate n { pc := 0, op := 0x40, words := 0x40, args := [1] } }

/-- What the statement of the engine queues asks of an instruction. -/
def enginesAt (s : State) (op : Nat) : Bool × Bool × Bool :=
  let x := s.engineIssue 0
  (x.1.gl.engine.any (s.waitsFor x.1 x.2), (engineOp op x.1 x.2 s).isNone, queueFull x.1.gl op)

theorem witness_TransferQueueKeepsOrder_engines :
    (let s := engineBehind 0 (ins 4 [(0, 0x40)]);
      s.issues 0 0x40 ∧ (s.glade 0).engN = none ∧ (s.engineIssue 0).2 ≠ 0 ∧ enginesAt s 0x40 = (false, true, false))
    ∧ (∀ n ∈ [1, 31, 32], let s := engineBehind n (ins 4 [(0, 0x40)]);
      s.issues 0 0x40 ∧ (enginesAt s 0x40).1 = true ∧ (enginesAt s 0x40).2.2 = decide (n = 32))
    ∧ (let s := engineBehind 1 (ins 4 [(0, 0x4E), (32, 65440)]);
      s.issues 0 0x4E ∧ countOp 0x4E = true ∧ enginesAt s 0x4E = (false, false, false))
    ∧ (∀ hold : Bool, let s := engineBehind 0 (ins 4 [(0, 0x52), (64, if hold then 1 else 0)]);
      s.issues 0 0x52 ∧ countOp 0x52 = true ∧ bitOf (s.engineIssue 0).1.w 64 = hold)
    ∧ (engineBehind 0 []).glade 0 = { (engineBehind 0 []).glade 0 with engine := [] }
    ∧ (∀ loaded : Bool, let q : QueuedInstr := { pc := 0, op := 0x40, words := 0x40, args := [1] }
      let s := withGlade { gladeOn [] with engine := [q], shadowLoaded := loaded }
      let t := s.setGlade 0 { s.glade 0 with engine := [] }
      let i := t.requeue 0 q
      (engineOp i.op i (q.arg 0) t).isNone = loaded
      ∧ (loaded = true ∨ (engineOp i.op i (q.arg 0) t).any (fun u => decide ((u.glade 0).mode ≠ .stopped)) = true)) := by
  decide +kernel

theorem witness_TransferQueueKeepsOrder :
    (∀ n ∈ [1, 15, 16], ∀ op ∈ [0x84, 0x8C],
      let s := behind n (ins 2 [(0, op)])
      let i := s.issueOf 0
      s.issues 0 op ∧ s.tablesOk ∧ i.gl.queue.length = n ∧ outsideOp queued.op = true ∧ (i.gl.queue.head? = some queued)
      ∧ (op = 0x8C ∨ i.f 39 34 < 62) ∧ (op = 0x84 ∨ i.f 63 30 = 0))
    ∧ (∀ n ∈ [0, 15], ∀ op ∈ [0x68, 0x69],
      let s := behind n (ins 4 [(0, op), (122, if op = 0x68 then 61 else 0)])
      let i := (s.engineIssue 0).1
      s.issues 0 op ∧ s.tablesOk ∧ (s.engineIssue 0).2 = 1 ∧ i.gl.queue.length = n ∧ i.zeros [(31, 27), (15, 8), (24, 24)] = true
      ∧ (op = 0x69 ∨ (i.f 26 25 = 0 ∧ i.f 127 122 = 61 ∧ s.bcast + 32 + 24 * (i.f 121 108 + 1) ≤ 524288))
      ∧ (op = 0x68 ∨ (i.f 127 94 = 0 ∧ s.bcast + 32 + 24 * (i.f 93 80 + 1) ≤ 524288)))
    ∧ (∀ n ∈ [0, 15], ∀ op ∈ [0x6C, 0x6D, 0x6E, 0x70, 0x71],
      let s := behind n (ins 4 [(0, op)])
      let i := s.issueOf 0
      s.issues 0 op ∧ i.gl.engN = none ∧ i.gl.queue.length = n ∧ i.zeros [(15, 8), (23, 16), (24, 24), (31, 27)] = true
      ∧ i.f 127 48 = 0 ∧ i.f 26 25 = 0) := by decide +kernel

/-- A transfer of 64 bytes at the bottom of the region, its table at 4,096. -/
def transfer (write : Bool) (chk : BitVec 2) : Transfer :=
  { write, spa := 0, len := 64, ctr := 61, chk, addr := 0, table := 4096, data := zeroBytes 64, pc := 0, good := [], waiting := [],
    send := none, slots := [] }

/-- Glade 0 with the transfer; the table holds the check value of 64 zero bytes. -/
def transferring (write : Bool) (chk : BitVec 2) : State :=
  (withRegion (withGlade { gladeOn [] with transfers := [transfer write chk] })).devWrite 4096 (leBytes 4 (crc32c (zeroBytes 64)))

/-- A block under repair at the bottom of the region. -/
def retrying : RepairEntry :=
  { region := 0, off := 0, len := 64, chk := .patrol, step := .retry, asked := 0, mirrorBad := false, cause := 0, told := []
    ofMirror := false }

/-- A send that a transfer reads for. -/
def sending : KeptSend :=
  { dst := 0, desc := fabFrom 1, xslot := 0, mslot := 0, tstep := 0, glade := 0, plot := 0, resent := false, seq := 0, shape := none }

theorem witness_TransfersComplete :
    (let s := { transferring false 0 with mem := { (transferring false 0).mem with regions := [(0, { region0 with place := 2, gran := 1 })] } };
      s.tablesOk ∧ (s.glade 0).transfers[0]? = some (transfer false 0) ∧ s.joinsFor (transfer false 0) = []
      ∧ s.unmappedUnit 0 64 = some 0)
    ∧ (let s := transferring false 0;
      s.tablesOk ∧ (s.glade 0).transfers[0]? = some (transfer false 0) ∧ s.joinsFor (transfer false 0) = [] ∧ s.unmappedUnit 0 64 = none
      ∧ (∀ j ∈ [1, 2], 64 ≤ 64 * j) ∧ List.filter (fun j => List.contains [0] j && decide (64 * j < 64)) [0] = [0])
    ∧ (let s := transferring false 1;
      s.tablesOk ∧ (s.glade 0).transfers[0]? = some (transfer false 1) ∧ s.joinsFor (transfer false 1) = [] ∧ s.unmappedUnit 0 64 = none
      ∧ s.mem.regionOf 0 64 = some (0, region0) ∧ region0.kind = 0 ∧ ∀ b ∈ s.blocksFor (transfer false 1), s.failsFor (transfer false 1) b = false)
    ∧ (∀ chk ∈ [0, 1], let t := { transfer false (BitVec.ofNat 2 chk) with send := some sending, len := 64 }
      let s := (withRegion (withGlade { gladeOn [] with transfers := [t] })).devWrite 60 (leBytes 4 (crc32c (zeroBytes 60)));
      (s.glade 0).transfers[0]? = some t ∧ s.joinsFor t = [] ∧ s.unmappedUnit 0 64 = none
      ∧ (chk = 0 ∨ ∀ b ∈ s.blocksFor t, s.failsFor t b = false))
    ∧ (let s := transferring true 1;
      s.tablesOk ∧ (s.glade 0).transfers[0]? = some (transfer true 1) ∧ s.mem.repairsOn 0 64 = [] ∧ s.mem.repairsOn 4096 4 = [])
    ∧ (let s := { transferring true 0 with mem := { (transferring true 0).mem with repairs := [retrying] } };
      s.mem.repairsOn 0 64 = [retrying] ∧ s.replaces (transfer true 0) retrying = false) := by decide +kernel

/-- A message of a kind and attempt from glade 0 to glade 1, whose receive windows are given. -/
def messaging (kind attempt : Nat) (windows : List Window) : State :=
  { lab with
    glades := [(0, gladeOn []), (1, { gladeOn [] with windows })]
    mesh := [{ route := ({ dst := 1, addr := 0, ctr := 61, nflit := 0, kind, src := 0, plot := 0, attempt } : Route).word
               bytes := zeroBytes 64, rank := none, extra := [] }] }

theorem witness_MessagesArrive :
    (∀ kind ∈ [0, 2], ∀ attempt ∈ [0, 1], ∀ ok : Bool,
      let s := messaging kind attempt (if ok then [{ first := 0, last := 7, plots := 1 }] else [])
      (s.takeMsg 0 1).any (fun x => let r := routeOf x.1.route
        r.kind == kind && ((s.plot r.plot).tag.toNat == r.attempt) == (attempt == 0)
        && (x.2.refusalCause 1 ((x.2.glade 1).admits r.plot (x.1.addrs r)) r.ctr).isNone == ok) = true) := by decide +kernel

/-! ### Attention -/

/-- Glade 0 with a canopy instruction at the head of its queue; the pages are of one layer, one KV head, 64 KiB; plot 0 holds grove
0's lease or not. -/
def attending (op : Byte) (holds : Bool) (spad : List (Nat × Byte)) : State :=
  withRegion { withGlade { gladeOn [] with
      queue := [{ pc := 0, op, words := BitVec.ofNat 128 (128 * 2 ^ 32 + 132 * 2 ^ 48 + 136 * 2 ^ 64), args := [1] }], spad } with
    regs := { State.reset.regs with vals := [(Reg.cnpPgeom, 0x00100101), (Reg.srvPageCnt, 1), (Reg.memDig, 64)] }
    lease := { LeaseUnit.init with held := if holds then [{ res := 0x01000000, plot := 0, expiry := 1 }] else [] } }

/-- Rows of 4 blocks for one head and an outflow of 4 blocks. -/
def attSpad : List (Nat × Byte) := [(1024 + 26, 4), (1088 + 14, 4)]

theorem witness_CanopyAcceptsAndRuns :
    (∀ op ∈ [0x68, 0x69], ∀ holds : Bool,
      let s := attending (BitVec.ofNat 8 op) holds attSpad
      let gl := s.glade 0
      let i := s.requeue 0 ((gl.queue.head?).getD { pc := 0, op := 0, words := 0, args := [] })
      gl.queue.length = 1 ∧ i.op = op ∧ s.groveRuns 0 = true ∧ s.holdsLease i.p 1 0 = holds ∧ s.canopyReady = true ∧ s.twin 0 = none
      ∧ (s.canopy 0).queue.length < 16 ∧ (op = 0x69 ∨ (attDesc (gl.attBytes i.w)).outOfRange s = false)
      ∧ (op = 0x68 ∨ ∀ f ∈ attFaults s i, f.1 = false))
    ∧ (∀ op ∈ [0x68, 0x69],
      let i : CanopyInstr := { glade := 0, plot := 0, attempt := 0, q := { pc := 0, op := BitVec.ofNat 8 op, words := 0, args := [1] } }
      let s := (attending 0 true []).setCanopy 0 { Canopy.init with queue := [i] }
      s.groveRuns 0 = true ∧ (s.canopy 0).run = none ∧ (s.canopy 0).queue = [i] ∧ s.newTokens (s.glade 0) i = 0
      ∧ s.mem.blocked (s.canopyReads i) = false ∧ (0 - 1) * 0 + kvRow s.kvForm ≤ 524288) := by decide +kernel

/-- A round that waits for its slice, issued at ring count 0. -/
def waiting (late : Bool) : Round := { row := 0, query := 0, pos := 0, len := 0, index := 0, kind := .visit 0 0 (some 0) none late, slots := [] }

/-- Grove 0 with a CNP.ATT whose round waits; pages of the KV form 0, plot 0 exact or not, late pages allowed or not. -/
def sliced (exact may : Bool) (lc : DWord) : State :=
  let run : AttRun := { instr := { glade := 0, plot := 0, attempt := 0, q := queued0 }, desc := [], rounds := [waiting false], cur := none }
  let s := attending 0 true []
  { s.setCanopy 0 { Canopy.init with run := some run } with
    plots := [(0, { plotOn with exact })]
    ring := { Ring.init with lc }
    regs := { s.regs with vals := [(Reg.cnpPgeom, 0x00100101), (Reg.cnpLate, if may then 0x10001 else 1), (Reg.srvPageCnt, 1), (Reg.memDigBaseLo, 8192), (Reg.memDig, 64)] } }
where
  /-- The instruction. -/
  queued0 : QueuedInstr := { pc := 0, op := 0x69, words := 0, args := [1] }

/-- A block under repair at the bottom of region 0. -/
def retrying0 : RepairEntry :=
  { region := 0, off := 0, len := 64, chk := .patrol, step := .retry, asked := 0, mirrorBad := false, cause := 0, told := []
    ofMirror := false }

theorem witness_SlicesArriveOrAreReplaced :
    (let s := sliced false false 0; (s.canopy 0).run.any (fun r => r.rounds == [waiting false]) = true
      ∧ ((List.range 16).filter fun x => decide (16 * 0 + x < (waiting false).len)).all (slotGood s.kvForm []) = true
      ∧ s.mem.blocked [(s.sliceAddr (attDesc []) 0, sliceSize s.kvForm)] = false)
    ∧ (let s := sliced false false 0
      let t := { s with mem := { s.mem with repairs := [retrying0] } }
      (t.canopy 0).run = (s.canopy 0).run ∧ t.mem.blocked [(t.sliceAddr (attDesc []) 0, sliceSize t.kvForm)] = true)
    ∧ (∀ exact may : Bool, let s := sliced exact may 2; (s.canopy 0).run.any (fun r => r.rounds == [waiting false]) = true ∧ 0 + s.field Reg.cnpLate 15 0 < s.rt
      ∧ s.mem.blocked [(s.pteAddr 0, 16), (s.digestAddr 0 + s.sliceNo (attDesc []) * digestSize s.kvForm, digestSize s.kvForm)] = false
      ∧ (s.plot 0).exact = exact ∧ decide (s.field Reg.cnpLate 16 16 = 1 ∧ s.image.standSize ≤ 1024) = may)
    ∧ (let s := (sliced true true 2).devWrite 0 [8]
      bitOf (s.pte 0) 3 = true ∧ s.field Reg.cnpLate 16 16 = 1 ∧ (s.dev (s.digestAddr 0) (digestSize s.kvForm)).length = digestSize s.kvForm)
    ∧ bitOf ((sliced false true 2).pte 0) 3 = false
    ∧ (let s := (sliced false true 2).devWrite 0 [8]
      let n := 2 * kvRow s.kvForm
      let t := s.devWrite (s.digestAddr 0 + n) (leBytes 4 (crc32c (zeroBytes n)))
      bitOf (t.pte 0) 3 = true ∧ (t.canopy 0).run = (s.canopy 0).run ∧ digestGood t.kvForm (t.dev (t.digestAddr 0) (digestSize t.kvForm)) = true) := by decide +kernel

/-! ### Routing -/

/-- A routing descriptor at 1,024 of one expert and one selection, without peers, of layer 3. -/
def routeSpad : List (Nat × Byte) := [(1024, 3), (1027, 1)]

/-- A scout descriptor at 1,024, whose routing descriptor stands at 2,048. -/
def scoutSpad : List (Nat × Byte) := [(1053, 1), (2048, 3), (2051, 1)]

/-- The instruction that names it. -/
def routing (op : Byte) : RouteInstr := { glade := 0, plot := 0, pc := 0, op, words := BitVec.ofNat 128 (128 * 2 ^ 32) }

/-- What the engine keeps of layer 3 in step 0. -/
def layer3 : RouteLayer :=
  { layer := 3, plot := 0, step := 0, routed := true, glade := 0, ctr := 0, desc := [3, 0, 0, 1] ++ zeroBytes 60, ptab := [], own := []
    copies := [], gotten := [], ends := [], finalised := false, sendGlade := 0, sendCtr := 0, sending := false, sent := [], answered := []
    picks := [] }

/-- Glade 0 with the instruction queued at the glade or at the engine, whose layers are given; the shape words and exchange slot 0 leased. -/
def routed (op : Byte) (accepted : Bool) (layers : List RouteLayer) : State :=
  let gl := { gladeOn [] with
    spad := if op = 0x70 ∨ op = 0x71 then scoutSpad else routeSpad
    queue := [{ pc := 0, op, words := (routing op).words, args := [] }] }
  { withRegion (withGlade gl) with
    regs := { State.reset.regs with vals := [(Reg.rteShp, 512)] }
    lease := { LeaseUnit.init with held := [{ res := 0x03000000, plot := 0, expiry := 1 }, { res := 0x04000000, plot := 0, expiry := 1 }] }
    routing := { Routing.init with queue := if accepted then [routing op] else [], layers } }

/-- What the engine's instruction reads of the device range. -/
def engineReads (s : State) (op : Nat) : List (Nat × Nat) :=
  let i := routing (BitVec.ofNat 8 op)
  if op = 0x6C then State.routeReads i s else if op = 0x6D then State.sendReads i s else if op = 0x6E then State.retReads i s
  else if op = 0x70 then State.maskReads i s else State.audReads i s

theorem witness_RoutingEngineAcceptsAndRuns :
    (∀ op ∈ [0x6C, 0x6D, 0x6E, 0x70, 0x71],
      let s := routed (BitVec.ofNat 8 op) false []
      (s.glade 0).queue.length = 1 ∧ s.routing.ok = true ∧ s.routing.queue.length < 16
      ∧ s.routeRefusal (s.glade 0) (routing (BitVec.ofNat 8 op)) = none)
    ∧ (∀ op ∈ [0x6C, 0x6D, 0x6E], let s := routed (BitVec.ofNat 8 op) true [layer3]
      s.routing.queue = [routing (BitVec.ofNat 8 op)] ∧ s.mem.blocked (engineReads s op) = false
      ∧ (∀ e ∈ engineReads s op, s.unmappedUnit e.1 e.2 = none) ∧ s.routeLayer 3 = some layer3 ∧ layer3.routed = true
      ∧ (routeDesc ((s.glade 0).read 1024 64)).layer = 3)
    ∧ (∀ op ∈ [0x6C, 0x6D, 0x70, 0x71], let s := routed (BitVec.ofNat 8 op) true []
      s.routing.queue = [routing (BitVec.ofNat 8 op)] ∧ s.mem.blocked (engineReads s op) = false
      ∧ (∀ e ∈ engineReads s op, s.unmappedUnit e.1 e.2 = none) ∧ s.routeLayer 3 = none
      ∧ (op = 0x6D ∨ (engineReads s op).any (fun e => decide (e.1 ≤ 0 ∧ 0 < e.1 + e.2)) = true)) := by decide +kernel

/-- A ROUTE message without payload from peer 1 for layer 3. -/
def routeMsg (kind step : Nat) : Item :=
  routeItem 0 0 { row := 0, index := 0, epoch := 0, step, layer := 3, kind, sender := 1, n := 0, gexp := 0, lexp := zeroBytes 8, gate := zeroBytes 8 } []

/-- Port 5 live, layer 3 routed. -/
def hearing : State :=
  { lab with
    fabric := { Fabric.init with ports := List.replicate 6 { Port.init with live := true } }
    regs := { State.reset.regs with vals := [(Reg.fabCtl, 1)] }
    routing := { Routing.init with layers := [layer3] } }

theorem witness_RoutedItemsArriveAndFinalise :
    (∀ kind ∈ [0, 1, 2, 3], ∀ step ∈ [0, 1, 2],
      let m := fabMsg (routeMsg kind step)
      (hearing.port 5).live = true ∧ hearing.fireBroken 5 = false ∧ wf (BitVec.ofNat 64 (leAt (routeMsg kind step) 0 8)) 3 0 = 1 ∧ m.cls = 2 ∧ (itemHdr (routeMsg kind step)).kind = kind
      ∧ m.slice = hearing.slice ∧ m.dst = hearing.torus ∧ hearing.field Reg.fabCtl 0 0 = 1 ∧ (itemHdr (routeMsg kind step)).step = step
      ∧ heldBytes [{ port := 5, item := routeMsg kind step }] ≤ 8388608 ∧ hearing.step16 = 0 ∧ hearing.routeLayer 3 = some layer3
      ∧ (itemHdr (routeMsg kind step)).layer = 3)
    ∧ hearing.routeLayer 3 = some layer3 ∧ layer3.plot = 0 ∧ layer3.finalised = false ∧ hearing.mem.blocked layer3.headers = false ∧ (routeDesc layer3.desc).npeer = 0 := by
  decide +kernel

/-- Glade 0 at a shape or hint instruction with gp1 = x and gp2 = y; 512 shape words at 0, leased or not; the region migrates or not. -/
def shaping (op : Nat) (x y : DWord) (leased : Bool) (place : BitVec 2) (repairs : List RepairEntry) : State :=
  let s := withGlade { gladeOn (ins 1 [(0, op), (8, 3), (13, 1), (18, if op = 0x31 then 0 else 2)]) with gp := [(1, x), (2, y)] }
  { s with
    regs := { State.reset.regs with vals := [(Reg.rteShp, 512)] }
    mem := { s.mem with regions := [(0, { region0 with place, gran := 1 })], repairs }
    lease := { LeaseUnit.init with held := if leased then
      [{ res := 0x03000000, plot := 0, expiry := 1 }, { res := 0x02000000, plot := 0, expiry := 1 }] else [] } }

/-- A block under repair at the bottom of the region. -/
def underRepair0 : RepairEntry :=
  { region := 0, off := 0, len := 64, chk := .patrol, step := .retry, asked := 0, mirrorBad := false, cause := 0, told := []
    ofMirror := false }

theorem witness_ShapeWordsAndHints :
    (∀ bad : Bool, let s := shaping 0x31 0 0 false 0 (if bad then [underRepair0] else [])
      s.issues 0 0x31 ∧ (s.issueOf 0).ea < s.field Reg.rteShp 16 0 ∧ s.mem.underRepair (s.base48 Reg.rteShpBaseLo) 8 = bad
      ∧ s.unmappedUnit (s.base48 Reg.rteShpBaseLo) 8 = none)
    ∧ (let s := shaping 0x31 0 0 false 2 []
      s.issues 0 0x31 ∧ s.mem.underRepair (s.base48 Reg.rteShpBaseLo) 8 = false ∧ s.unmappedUnit (s.base48 Reg.rteShpBaseLo) 8 = some 0)
    ∧ (let s := shaping 0x31 512 0 false 0 []
      s.issues 0 0x31 ∧ s.field Reg.rteShp 16 0 ≤ (s.issueOf 0).ea)
    ∧ (∀ bad leased : Bool, let s := shaping 0x33 0 0 leased 0 (if bad then [underRepair0] else [])
      s.issues 0 0x33 ∧ (s.issueOf 0).f 31 23 = 0 ∧ (s.issueOf 0).ra.toNat < s.field Reg.rteShp 16 0 ∧ s.holdsLease 0 3 0 = leased
      ∧ s.mem.underRepair (s.base48 Reg.rteShpBaseLo) 8 = bad)
    ∧ (let s := shaping 0x33 512 0 true 0 []
      s.issues 0 0x33 ∧ s.field Reg.rteShp 16 0 ≤ (s.issueOf 0).ra.toNat)
    ∧ (let s := shaping 0x34 0 3 true 0 []
      s.issues 0 0x34 ∧ (s.issueOf 0).f 31 23 = 0 ∧ bitsOf (s.issueOf 0).rb.toNat 1 0 = 3)
    ∧ (let s := shaping 0x34 65536 2 true 0 []
      s.issues 0 0x34 ∧ bitsOf (s.issueOf 0).rb.toNat 1 0 ≠ 3 ∧ s.mem.regionOf (s.issueOf 0).ra.toNat 1 = none)
    ∧ (∀ place ∈ [0, 2], let s := shaping 0x34 65535 6 true (BitVec.ofNat 2 place) []
      s.issues 0 0x34 ∧ bitsOf (s.issueOf 0).rb.toNat 1 0 ≠ 3
      ∧ s.mem.regionOf (s.issueOf 0).ra.toNat 1 = some (0, { region0 with place := BitVec.ofNat 2 place, gran := 1 })
      ∧ region0.plots.getLsbD 0 = true ∧ s.holdsLease 0 2 0 = true) := by decide +kernel

/-! ### Failures and steps -/

/-- Glade 0 in service or not; spares 0 and 1 of grove 0 with the map's word, a known fmax, failed or not. -/
def failing (inService : Bool) (map : Word) (failed : Bool) : State :=
  { withGlade { gladeOn [] with inService } with
    regs := { State.reset.regs with vals := [(Reg.gldMap, map)] }
    power := { Power.init with phys := [(64, { PhysGlade.init with cur := some 2047, failed }), (65, { PhysGlade.init with cur := some 2047, failed })] } }

/-- The state that the statement names `v` after a failure of physical glade 0. -/
def afterFailure (s : State) : State :=
  let t := (s.setPhys 0 { s.physGlade 0 with failed := true }).history 0x06 0 0
  let u := { t with dep := { t.dep with life := { s.dep.life with gfail := addCnt32 s.dep.life.gfail 1 } } }
  let record : FaultArgs := { cls := 0x13, cause := 0, detail := leBytes 2 0 }
  let w := ((u.loseSpare 0).failSlow 0 0).failSlow 0 1
  let lost := !(List.range 2).any fun k => w.spareFit 0 k
  ((if (s.glade 0).inService then u.abandonFault (s.glade 0).plot.toNat { record with glade := some 0, halted := lost } true
    else u.raise record).loseSpare 0)

theorem witness_GladesFailAndRefill :
    (∀ inService : Bool, let s := failing inService 0x7F7F false
      (s.physGlade 0).failed = false ∧ s.board.on.getLsbD (0 / 66) = true ∧ s.servedBy 0 = some 0 ∧ (s.glade 0).inService = inService
      ∧ (s.physGlade 65).failed = false ∧ s.servedBy 65 = none ∧ s.step.active = false
      ∧ (afterFailure s).step.active = false)
    ∧ (let s := { failing false 0x7F7F false with step := { StepState.init with active := true } };
      ((afterFailure s).plot 0).run ≠ .abandoned ∧ (afterFailure s).step.active = true)
    ∧ (∀ failed : Bool, let s := failing true 0x7F7F failed
      let u := (s.failSlow 0 0).failSlow 0 1
      (List.range 2).find? (fun k => u.spareFit 0 k) = (if failed then none else some 0) ∧ (s.glade 0).inService = true)
    ∧ (let s := { failing true 0x7F7F false with dep := { Depend.init with refills := [0] }, image := { Image.init with refills := [1] } }
      (0 : BitVec 10) ∈ s.dep.refills ∧ (1 : BitVec 10) ∉ s.dep.refills ∧ (1 : BitVec 10) ∈ s.image.refills) := by decide +kernel

/-- An applied image, period 1,000, the ring count at `rt`. -/
def stepping (mode : RingMode) (rt : DWord) (step : StepState) (power : Power) : State :=
  { lab with
    regs := { State.reset.regs with vals := [(Reg.stepPeriod, 1000)] }
    image := { Image.init with state := 1 }
    ring := { Ring.init with mode, lc := rt }
    step, power }

theorem witness_StepsBeginAtBoundaries :
    (stepping .aligned 3000 .init { Power.init with suspended := true }).boundary? = some 3
    ∧ (stepping .aligned 3000 { StepState.init with stopAsked := true } .init).boundary? = some 3
    ∧ (∀ m ∈ [RingMode.aligned, .holdover], let s := stepping m 0 .init .init
      s.boundary? = some 0 ∧ s.ring.mode = m ∧ s.step.active = false ∧ s.dep.refills = [] ∧ s.power.state.toNat ≤ 1
      ∧ s.servingHeld = false ∧ s.power.suspArmed = none ∧ s.power.suspended = false ∧ s.step.stopAsked = false)
    ∧ (stepping .fault 3000 .init .init).boundary? = some 3
    ∧ (stepping .aligned 3000 { StepState.init with active := true } .init).boundary? = some 3
    ∧ ({ stepping .aligned 3000 .init .init with dep := { Depend.init with refills := [0] } }).boundary? = some 3
    ∧ (stepping .aligned 3000 .init { Power.init with state := 2 }).boundary? = some 3 := by decide +kernel

theorem witness_StepRegistersAreWritten :
    ({ lab with image := { Image.init with phase := 1 } }).applying = true ∧ lab.applying = false ∧ lab.period = 0
    ∧ (∀ a ∈ [Reg.stepPeriod, Reg.stepBaseLo, Reg.numLrecBaseLo], lab.regUp a = true ∧ (stepping .aligned 0 .init .init).regUp a = true)
    ∧ (stepping .aligned 0 .init .init).applying = false ∧ (stepping .aligned 0 .init .init).period ≠ 0
    ∧ 1000 ≤ (1000 : BitVec 32).toNat ∧ (999 : BitVec 32).toNat < 1000 ∧ (999 : BitVec 32) ≠ 0 := by decide +kernel

/-- A batch without rows. -/
def batch0 : Batch := { step := 0, group := 0, epoch := 0, rows := [], tokens := [], bytes := zeroBytes 32, released := false }

theorem witness_BatchIsReleasedAndLands :
    (let s := { lab with serving := { Serving.init with batch := some batch0 }, step := { StepState.init with active := true } };
      s.serving.batch = some batch0 ∧ batch0.released = false ∧ s.step.active = true ∧ s.step.clearing = false ∧ s.servingHeld = false)
    ∧ (∀ dest ∈ [none, some 0],
      let s := { lab with serving := { Serving.init with batch := some batch0 }, step := { StepState.init with bcasts := [(0, dest)] } }
      s.serving.batch = some batch0 ∧ s.step.bcasts = [(0, dest)]) := by decide +kernel

theorem witness_ClearingEndsOrReplaysTheStep :
    (let s := { withGlade { gladeOn [] with mode := .ended } with step := { StepState.init with active := true } };
      s.step.active = true ∧ s.step.clearing = false ∧ s.stepDone = true ∧ s.servingHeld = false)
    ∧ (let s := { lab with step := { StepState.init with clearing := true }, ring := { Ring.init with lc := 100000 } }
      s.step.clearing = true ∧ s.step.clearAt.toNat + s.field Reg.srvClr 15 0 ≤ s.rt ∧ s.outBytes ≤ 4194304)
    ∧ (let s := { lab with plots := [(0, { plotOn with run := .abandoned })] }
      (s.plot 0).run = .abandoned ∧ (s.plot 0).replayFrom.toNat ≤ s.rt ∧ s.inMesh 0 = false ∧ s.ring.faulted = false
      ∧ ∀ g ∈ s.dep.refills, s.plotOf g.toNat ≠ 0) := by decide +kernel

/-! ### Host records -/

/-- A record of `n` bytes from its kind, sequence and fields: first byte and value of each (Table 13.8). -/
def hostRec (kind seq n : Nat) (fields : List (Nat × Nat)) : List Byte :=
  let bs := leBytes n ((fields.map fun f => f.2 * 256 ^ f.1).sum + (kind * 16 + 1) + n * 256 ^ 4 + seq * 256 ^ 8)
  patchBytes bs 12 (leBytes 4 (crc32c bs))

/-- Both inbound channels with their last accepted sequence and the one that failed; the stream is up; the serving block works or not. -/
def listening (accepted failed : Option (BitVec 32)) (on : Nat) : State :=
  { lab with
    ohmip := { Ohmip.init with up := true, ver := 2, chans := List.replicate 2 { accepted, failed, nak := false, dirty := false } }
    regs := { State.reset.regs with vals := [(Reg.srvCtl, BitVec.ofNat 32 on), (Reg.srvIn, 4), (Reg.srvCpc, 10)] } }

/-- A command record of each kind, intact, of sequence 5. -/
def command (kind : Nat) : List Byte := hostRec kind 5 96 []

theorem witness_HostCommandsAreTaken_records :
    (∀ kind ∈ [1, 2, 3, 4, 5, 6, 7, 8],
      recIntact 0 (command kind) = true ∧ recKind (command kind) = kind) ∧ recIntact 0 (patchBytes (command 1) 12 [0]) = false
    := by decide +kernel

theorem witness_HostCommandsAreTaken : recIntact 0 (hostRec 6 5 96 [(17, 128)]) = true
    ∧ (listening none none 1).ohmip.reserved (leAt [0x15] 0 1 % 16) = true ∧ recIntact 0 [0x15] = false
    ∧ (listening none none 1).ohmip.reserved (leAt (command 1) 0 1 % 16) = false
    ∧ ((listening (some 2) (some 3) 1).inChan 0).failed = some 3 ∧ ((listening (some 2) (some 3) 1).inChan 0).accepted = some 2
    ∧ (∀ q ∈ [4, 5], let s := listening (some (BitVec.ofNat 32 q)) none 1;
      s.ohmip.up = true ∧ (s.inChan 0).failed = none ∧ (s.inChan 0).accepted = some (BitVec.ofNat 32 q))
    ∧ ((listening (some 4) (some 5) 1).inChan 0).failed = some 5 ∧ BitVec.ofNat 32 (leAt (command 1) 8 4) = 5
    ∧ (listening none none 1).servingOn = true ∧ (listening none none 0).servingOn = false
    ∧ (listening none none 1).ohmip.inbox = [] := by decide +kernel

/-- Entry 0 in a state, graft slot 1 in another, for tenant 1. -/
def serving (state : EntryState) (graft : BitVec 3) : State :=
  let s := listening none none 1
  { s with serving := { Serving.init with
      ledger := [(0, { LedgerEntry.init with state, tenant := 1, epoch := 1 })]
      grafts := [(1, { GraftSlot.init with state := graft })] } }

theorem witness_CommandsAreAcceptedOrRefused :
    (let bs := hostRec 1 0 144 [(64, 1), (72, 1)];
      recKind bs = 1 ∧ ((serving .live 0).returnCredit 0 bs).admitCause bs = some 0x01
      ∧ ((serving .free 0).returnCredit 0 bs).admitCause bs = some 0x06
      ∧ ((serving .free 0).returnCredit 0 (hostRec 1 0 144 [(44, 1), (72, 17)])).admitCause (hostRec 1 0 144 [(44, 1), (72, 17)]) = some 0x06
      ∧ ((serving .free 0).returnCredit 0 (hostRec 1 0 144 [(44, 1), (72, 16)])).admitCause (hostRec 1 0 144 [(44, 1), (72, 16)]) = some 0x08
      ∧ ((serving .free 0).returnCredit 0 (hostRec 1 0 144 [(16, 16384)])).admitCause (hostRec 1 0 144 [(16, 16384)]) = some 0x01)
    ∧ (∀ n ∈ [0, 16], let bs := hostRec 1 0 144 [(44, 1), (64, 1), (72, n)];
      let s := serving .free 0;
      leAt bs 16 2 < 16384 ∧ (s.entry (leAt bs 16 2)).state = .free ∧ s.waits (leAt bs 16 2) 1 = false ∧ leAt bs 44 2 % 4096 ≠ 0
      ∧ bitOf (leAt bs 32 1) 7 = false ∧ leAt bs 72 4 ≤ s.ringCap ∧ ceilDiv (leAt bs 72 4) 16 ≤ leAt bs 64 4 % 16777216)
    ∧ (∀ kind ∈ [3, 4], ∀ state ∈ [EntryState.live, .held], let bs := hostRec kind 0 96 [(18, 1)];
      recKind bs = kind ∧ ((serving state 0).entry (leAt bs 16 2)).epoch.toNat = leAt bs 18 2)
    ∧ (let bs := hostRec 5 0 96 [(32, 1)];
      recKind bs = 5 ∧ bitOf (leAt bs 32 1) 0 = true ∧ (serving .free 0).ohmip.ver ≠ 1 ∧ (serving .free 0).waits 0 1 = false)
    ∧ (∀ kind ∈ [2, 3, 4], let bs := hostRec kind 0 96 [(18, 2)];
      recKind bs = kind ∧ ((serving .live 0).entry (leAt bs 16 2)).epoch.toNat ≠ leAt bs 18 2)
    ∧ (∀ k ∈ [0, 1], ∀ abort ∈ [0, 128], let bs := hostRec 6 0 96 [(16, k), (17, abort)];
      recKind bs = 6 ∧ bitOf (leAt bs 17 1) 7 = (abort == 128) ∧ leAt bs 16 1 = k)
    ∧ (∀ g ∈ [0, 1], ((serving .free g).graft 1).state = g)
    ∧ (let bs := hostRec 7 0 96 [(40, 1), (44, 1)];
      recKind bs = 7 ∧ (∀ g ∈ grovesIn (leAt bs 44 2), (serving .free 0).groveBatch g = false)
      ∧ (serving .free 0).rt < leAt bs 32 8 + leAt bs 40 4 ∧ (serving .free 0).power.hints.length < 64) := by decide +kernel

/-- R373: the check value of the nine bytes "123456789" is the CRC-32C's published one. -/
theorem test_crc32c_check : crc32c [0x31, 0x32, 0x33, 0x34, 0x35, 0x36, 0x37, 0x38, 0x39] = 0xE3069283 := by decide +kernel

/-! ### Host data -/

/-- The channels have accepted sequence 4; the step period runs and the bias table lies at 0x1000, or neither; the power state is given. -/
def loading (power : Nat) (period : Word) (kind : BitVec 2) (g : GraftSlot) : State :=
  let s := listening (some 4) none 1
  { s with
    regs := { State.reset.regs with vals := [(Reg.stepPeriod, period), (Reg.rteBiasBaseLo, if period = 0 then 0 else 0x1000)] }
    power := { Power.init with state := BitVec.ofNat 3 power }
    mem := { s.mem with regions := (0, { region0 with kind }) :: s.mem.regions }
    serving := { Serving.init with grafts := [(1, g)] } }

/-- A data record of each kind for graft slot 1, of sequence 5. -/
def datum (kind : Nat) : List Byte := hostRec kind 5 40 (if kind = 0x23 then [(28, 8)] else if kind = 0x21 then [(16, 1)] else [])

theorem witness_HostDataIsApplied_records :
    ∀ kind ∈ [0x20, 0x21, 0x22, 0x23], recIntact 1 (datum kind) = true ∧ recKind (datum kind) = kind
      ∧ (listening none none 1).ohmip.reserved (leAt (datum kind) 0 1 % 16) = false := by decide +kernel

theorem witness_HostDataIsApplied : (∀ power ∈ [0, 2, 3, 4], let s := loading power 0 0 .init;
      s.ohmip.up = true ∧ s.ohmip.dataIn = [] ∧ (s.inChan 1).failed = none ∧ (s.inChan 1).accepted = some 4 ∧ s.power.state.toNat = power)
    ∧ (∀ period ∈ [0, 1000], ∀ kind ∈ [0, 1], let s := loading 0 (BitVec.ofNat 32 period) (BitVec.ofNat 2 kind) .init;
      let bs := datum 0x20;
      leAt bs 16 6 % 8 = 0 ∧ (s.guarded (leAt bs 16 6) (bs.drop 32).length).1 = false
      ∧ s.mem.regionOf (leAt bs 16 6) (bs.drop 32).length = some (0, { region0 with kind := BitVec.ofNat 2 kind }) ∧ kind ≠ 2)
    ∧ (let g := (loading 0 0 0 { GraftSlot.init with state := 1, size := 1 }).graft 1;
      g.state = 1 ∧ g.closed = false ∧ g.aborted = false ∧ g.timedOut = false ∧ 0 + 8 ≤ 4096 * g.size.toNat ∧ leAt (datum 0x21) 16 1 = 1)
    ∧ leAt (datum 0x23) 17 1 = 0 ∧ leAt (datum 0x23) 28 4 = 8 := by decide +kernel

/-- A bundle key of version 1. -/
def key1 : BundleKey := { version := 1, key := zeroBytes 32, iv := zeroBytes 8, count := 0 }

/-- Entry 0 of tenant 1 being sealed, before and after its start; slot 1 loading, closed or not. -/
def engines (started closed : Bool) : State :=
  let s := listening none none 1
  { s with
    ring := { Ring.init with lc := 0xFFFFFFFF }
    ohmip := { s.ohmip with chans := List.replicate 2 { accepted := some 4, failed := none, nak := false, dirty := true } }
    security := { Security.init with tenants := [{ tenant := 1, pub := [], bundles := [key1] }] }
    serving := { Serving.init with
      ledger := [(0, { LedgerEntry.init with state := .sealing, tenant := 1 })]
      grafts := [(1, { GraftSlot.init with state := 1, closed })]
      sealRuns := [{
        index := 0, version := if started then some 1 else none, blockedKey := false, blockedLink := false
        start := if started then some { version := 1, iv := zeroBytes 8, ident := 0, epoch := 0, step := 0, entry := zeroBytes 64 } else none
        segs := 0, sent := 0, content := 0, done := false }] } }

theorem witness_HostEnginesWork :
    (let r : OutRecord := { chan := 0, cls := 1, seq := 3, bytes := [] }
      let rec_ := hostRec 0xF 5 32 [(24, 2)]
      leAt rec_ 24 4 ≠ 0xFFFFFFFF ∧ recIntact 0 rec_ = true ∧ recKind rec_ = 0xF ∧ leAt rec_ 28 1 = 0 ∧ leAt rec_ 24 4 ≤ r.seq.toNat
      ∧ (ackList 1 (leAt rec_ 20 4) (ackList 0 (leAt rec_ 16 4) [r])).find? (fun r => decide (r.chan = leAt rec_ 28 1) && decide (leAt rec_ 24 4 ≤ r.seq.toNat)) = some r) ∧
    (let bs := hostRec 0xF 5 32 [(24, 0xFFFFFFFF)];
      recIntact 0 bs = true ∧ recKind bs = 0xF ∧ (listening (some 4) none 0).ohmip.up = true ∧ ((listening (some 4) none 0).inChan 0).accepted = some 4)
    ∧ (let s := engines false false;
      s.ohmip.up = true ∧ (s.inChan 0).dirty = true ∧ (s.inChan 0).nak = false ∧ (s.inChan 1).nak = false)
    ∧ (∀ closed, let g := (engines false closed).graft 1;
      g.state = 1 ∧ (engines false closed).mem.blocked [(g.addr.toNat, g.received)] = false ∧ g.aborted = false ∧ g.timedOut = false ∧ g.closed = closed ∧ g.verified = false
      ∧ g.lastData.toNat + (engines false closed).regN Reg.srvGtmo ≤ (engines false closed).rt)
    ∧ (∀ started, let s := engines started false;
      ∃ r, s.sealRun 0 = some r ∧ (s.entry 0).state = .sealing ∧ r.done = false ∧ s.deviceUp = true ∧ s.ohmip.ver ≠ 1
        ∧ s.mem.blocked ((s.listAddr (s.entry 0) 0, 4 * (s.entry 0).npages.toNat)
          :: (s.listPages (s.entry 0)).map fun p => (s.pageAddr p, s.pageBytes)) = false
        ∧ (s.bundleKeys 1).head? = some key1 ∧ (started = false → r.version = none ∧ r.start = none)
        ∧ (started = true → r.version = some 1 ∧ s.bundleKey 1 1 = some key1 ∧ r.start.isSome = true)) := by
  refine ⟨by decide +kernel, by decide +kernel, by decide +kernel, by decide +kernel, ?_⟩
  intro started
  exact ⟨_, rfl, by revert started; decide +kernel⟩
/-! ### Memory -/

/-- Training asked for; the sweep of step 7 asked for; an image applied or not; stack 0 with its weak blocks. -/
def training (image : BitVec 3) (weak : BitVec 16) : State :=
  { lab with
    regs := { State.reset.regs with vals := [(Reg.memTrn, 0x4D0001), (Reg.memTgSel, 143)] }
    image := { Image.init with state := image }
    mem := { lab.mem with retrain := true }
    dep := { Depend.init with life := { LifeCounts.zero with stkWeak := [weak] } } }

theorem witness_MemoryTrains :
    (training 0 0).regUp Reg.memTrn = true
    ∧ (0x80000000 : BitVec 32).getLsbD 31 = true ∧ (0x7FFFFFFF : BitVec 32).getLsbD 31 = false
    ∧ (training 0 0).imageApplied = false ∧ (training 1 0).imageApplied = true ∧ (training 0 0).mem.retrain = true
    ∧ 256 ≤ ((training 0 256).dep.life.stkWeak.getD 0 0).toNat ∧ ((training 0 255).dep.life.stkWeak.getD 0 0).toNat < 256
    ∧ (∀ err, (training 0 255).stackPasses 0 [] err = !err)
    ∧ (training 0 0).chanPasses [(255, 255)] false = true ∧ (training 0 0).chanPasses [(0, 255)] false = false := by
  decide +kernel

/-- Generator 143 in a state. -/
def generating (busy stopping : Bool) (image : BitVec 3) : State :=
  let s := training image 0
  { s with mem := { s.mem with tg := [(143, { TgUnit.init with busy, stopping, len := 1, mode := 2 })] } }

/-- Channel 15 of the understory degraded. -/
def degraded : State :=
  { generating false false 0 with mem := { (generating false false 0).mem with uch := List.replicate 16 3 } }

theorem witness_TrafficGeneratorsRun :
    (training 0 0).regUp Reg.memTgCtl = true ∧ (training 0 0).field Reg.memTgSel 7 0 = 143
    ∧ (let s := { lab with regs := { State.reset.regs with vals := [(Reg.memTgSel, 144)] } }
      s.regUp Reg.memTgCtl = true ∧ 144 ≤ s.field Reg.memTgSel 7 0)
    ∧ (∀ mode ∈ [1, 2, 3, 4], bitOf (BitVec.ofNat 32 (256 + mode)).toNat 8 = true ∧ bitsOf (BitVec.ofNat 32 (256 + mode)).toNat 2 0 = mode)
    ∧ (∀ mode ∈ [0, 5, 7], bitsOf (BitVec.ofNat 32 (256 + mode)).toNat 2 0 = mode) ∧ bitOf (0 : BitVec 32).toNat 8 = false
    ∧ (∀ busy stopping, let u := (generating busy stopping 1).tgUnit 143
      u.busy = busy ∧ u.stopping = stopping ∧ u.passes ≠ 0xFFFF)
    ∧ (training 1 0).imageApplied = true ∧ (training 1 0).tgDegraded 143 = false ∧ (training 0 0).imageApplied = false
    ∧ degraded.regUp Reg.memTgCtl = true ∧ degraded.tgDegraded 143 = true ∧ (degraded.tgUnit 143).busy = false := by decide +kernel

/-- Region 0 migrates: 16 granules, two stack slots; granule 0 as given, granule 1 in the stack slots' way or not; the ring count is
2,048; the engine runs. -/
def migrating (g : Granule) (full : Bool) : State :=
  { lab with
    ring := { Ring.init with lc := 2048 }
    regs := { State.reset.regs with vals := [(Reg.memMigCtl, 1 + 4 * 10), (Reg.memMigThr, 5), (Reg.memMigBw, 1)] }
    mem := { lab.mem with
      regions := [(0, { region0 with place := 2, gran := 1, smask := 1, umask := 1, sLen := if full then 0 else 2, uLen := 16 })]
      granules := [(0, g)]
      moves := [{ region := 0, gran := 0, toUnder := false, slot := 0 }] } }

/-- A mapped granule. -/
def gran0 : Granule := { Granule.init with valid := true }

/-- Its granule 0 holds a block under repair, or is being written. -/
def held (repair writing : Bool) : State :=
  let s := migrating gran0 false
  { s with
    mem := { s.mem with repairs := if repair then [{ region := 0, off := 0, len := 16, chk := .patrol, ofMirror := false, step := .retry, asked := 0, mirrorBad := false, cause := 0, told := [] }] else [] }
    glades := if writing then [(0, { gladeOn [] with transfers := [{ write := true, spa := 0, len := 16, ctr := 0, chk := 0, addr := 0, table := 0, data := [], pc := 0, good := [], waiting := [], send := none, slots := [] }] })] else [] }

theorem witness_MigrationMovesGranules :
    (∀ full, let s := migrating gran0 full
      s.field Reg.memMigCtl 0 0 = 1 ∧ s.mem.visits = [] ∧ s.mem.round.head? = some (0, 0) ∧ (s.mem.region 0).isSome = true
      ∧ s.power.state.toNat < 3 ∧ s.mem.underRepair (region0.base.toNat + 0) 4096 = false)
    ∧ (∀ moving valid, (migrating { gran0 with moving, valid } false).mem.gran region0 0 = { gran0 with moving, valid })
    ∧ (∀ full, let s := migrating { gran0 with under := true, count := 5 } full
      s.field Reg.memMigThr 15 0 ≤ (s.mem.gran region0 0).count.toNat
      ∧ ∃ r, s.mem.region 0 = some r ∧ (s.openSlots 0 r false = [] ↔ full = true))
    ∧ (∀ hint : BitVec 2, ((migrating { gran0 with under := true, hint, count := 4 } false).mem.gran region0 0).hint = hint)
    ∧ (∀ dirty, let s := migrating { gran0 with dirty } false
      s.mem.moves[0]? = some { region := 0, gran := 0, toUnder := false, slot := 0 } ∧ (s.mem.gran region0 0).dirty = dirty)
    ∧ (∀ b, ∃ r, (held b false).mem.region 0 = some r
      ∧ (held b false).mem.underRepair (r.base.toNat + 0 * r.granBytes) r.granBytes = b ∧ (held false b).writesTo r 0 = b)
    ∧ (migrating gran0 false).mem.halved / 2 ^ (migrating gran0 false).field Reg.memMigCtl 7 2
        < (migrating gran0 false).rt / 2 ^ (migrating gran0 false).field Reg.memMigCtl 7 2
    ∧ lab.rt / 2 ^ lab.field Reg.memMigCtl 7 2 ≤ lab.mem.halved / 2 ^ lab.field Reg.memMigCtl 7 2
    ∧ mwf Granule.init [(0, gran0)] = true
    ∧ (let g := mget Granule.init (migrating { gran0 with hint := 1, hexp := 2048 } false).mem.granules 0
      g.hint ≠ 0 ∧ g.hexp ≠ 0 ∧ g.hexp.toNat ≤ (migrating gran0 false).rt)
    ∧ (mget Granule.init (migrating gran0 false).mem.granules 0).hint = 0 := by
  refine ⟨by decide +kernel, by decide +kernel, ?_, by decide +kernel, by decide +kernel, ?_, by decide +kernel, by decide +kernel, by decide +kernel, by decide +kernel, by decide +kernel⟩
  · intro full
    exact ⟨by revert full; decide +kernel, _, rfl, by revert full; decide +kernel⟩
  · intro b
    exact ⟨_, rfl, by revert b; decide +kernel, by revert b; decide +kernel⟩

/-- Region 0 holds weights; a block of 16 bytes at its start is under repair; patrol runs each 10 rt. -/
def repairing (mirror : Bool) (chk : BlockCheck) (step : RepairStep) (due : DWord) : State :=
  { lab with
    ring := { Ring.init with lc := 0xFFFFFFFF }
    regs := { State.reset.regs with vals := [(Reg.memPatrol, 0x1000A)] }
    mem := { lab.mem with
      regions := [(0, { region0 with kind := 1, mirror, mOff := 2 })]
      repairs := [{ region := 0, off := 0, len := 16, chk, ofMirror := false, step, asked := 0, mirrorBad := false, cause := 0, told := [] }]
      patrolDue := due } }

/-- The check value of 16 zero bytes, or another. -/
def zeroCheck (good : Bool) : BlockCheck := .value (if good then BitVec.ofNat 32 (crc32c (zeroBytes 16)) else 0)

/-- A repair table of 64 entries. -/
def repairsFull : State :=
  let s := repairing false .patrol .host 0
  { s with mem := { s.mem with repairs := (List.replicate 64 s.mem.repairs).flatten } }

theorem witness_BlocksAreRepaired :
    (∀ good, let s := repairing false (zeroCheck good) .retry 0
      ∃ e, s.mem.repairs[0]? = some e ∧ e.step = .retry ∧ s.repairGood e = good)
    ∧ (∀ mirror, let s := repairing mirror .patrol .mirror 0
      ∃ r, s.mem.region 0 = some r ∧ r.mirror = mirror)
    ∧ (∀ good, let s := repairing true (zeroCheck good) .mirror 0
      ∃ e r, s.mem.repairs[0]? = some e ∧ s.mem.region e.region = some r ∧ e.step = .mirror ∧ e.chk.good (s.repairBytes e true) = good)
    ∧ (∀ good h, let s := repairing true (zeroCheck good) (.verify h) 0
      ∃ e, s.mem.repairs[0]? = some e ∧ e.step = .verify h ∧ s.repairGood e = good)
    ∧ (let s := repairing false .patrol .host 0
      ∃ e, s.mem.repairs[0]? = some e ∧ e.step = .host ∧ e.asked.toNat + s.regN Reg.memRepTmo ≤ s.rt)
    ∧ ({ lab with regs := { State.reset.regs with vals := [(Reg.memPatrol, 0)] } }).field Reg.memPatrol 16 16 = 0
    ∧ (repairing false .patrol .host 0x100000000).rt < (repairing false .patrol .host 0x100000000).mem.patrolDue.toNat
    ∧ (let s := repairing false .patrol .host 0xFFFFFFFF
      s.field Reg.memPatrol 16 16 = 1 ∧ s.mem.patrolDue.toNat ≤ s.rt ∧ s.power.state.toNat < 3 ∧ s.patrolNext.isSome = true ∧ s.mem.repairs.length < 64)
    ∧ (let s := repairsFull
      s.field Reg.memPatrol 16 16 = 1 ∧ s.mem.patrolDue.toNat ≤ s.rt ∧ s.power.state.toNat < 3 ∧ s.patrolNext.isSome = true ∧ 64 ≤ s.mem.repairs.length)
    ∧ 3 ≤ ({ lab with power := { Power.init with state := 3 } }).power.state.toNat := by
  refine ⟨fun good => ⟨_, rfl, rfl, by revert good; decide +kernel⟩, fun mirror => ⟨_, rfl, rfl⟩,
    fun good => ⟨_, _, rfl, rfl, rfl, by revert good; decide +kernel⟩, fun good h => ⟨_, rfl, rfl, by revert good h; decide +kernel⟩,
    ⟨_, rfl, rfl, by decide +kernel⟩, by decide +kernel, by decide +kernel, by decide +kernel, by decide +kernel⟩
/-! ### Fabric and ports -/

/-- Ports 0 to 5 alike; module 0 of a stand of two along x. -/
def porting (x : Port) : State :=
  { lab with
    fabric := { Fabric.init with ports := List.replicate 6 x }
    regs := { State.reset.regs with vals := [(Reg.fabAddr, 0), (Reg.fabDim, 0x010102), (Reg.fabCtl, 7), (Reg.skCfg, 0), (Reg.skCfg + 4, 0)] }
    image := { Image.init with setup := { Setup.none with moduleMap := [(0, 0, 0), (1, 0, 0)] } } }

/-- A live port. -/
def port0 : Port := { Port.init with live := true, ver := 2 }

theorem witness_SkajorPortsWork :
    (∀ p : Fin 6, ((porting port0).port p.val).live = true)
    ∧ (∀ kind ∈ [2, 3, 8, 9, 15], wf (BitVec.ofNat 64 kind) 3 0 = kind) ∧ wf (18 : BitVec 64) 3 0 = 2 ∧ wf (18 : BitVec 64) 4 4 = 1
    ∧ (∀ discarding, ((porting { port0 with discarding }).port 0).discarding = discarding)
    ∧ (keepRecent 7 [4, 5]).length < 3 ∧ 3 ≤ (keepRecent 7 [4, 5, 6]).length
    ∧ (setAt port0.laneDown 1 true).all id = false ∧ (setAt [true, false] 1 true).all id = true
    ∧ (∀ spareBad, ((porting { port0 with spareBad }).port 0).spareBad = spareBad)
    ∧ (∀ lane, ((porting { port0 with retraining := some lane }).port 0).retraining = some lane)
    ∧ (∀ b : Bool, ((if b then porting port0 else ({ lab with board := { lab.board with on := 0 } }))).board.on.getLsbD 27 = b)
    ∧ (porting port0).board.on.getLsbD 25 = true
    ∧ (let s := porting Port.init;
      s.portDir 0 < 6 ∧ 1 < s.dim (s.portDir 0 / 2) ∧ s.nextTo (s.portDir 0) = 1)
    ∧ 0 < (porting port0).fabric.ports.length ∧ port0.rxSince + 63 < 64 := by
  decide +kernel

/-- A send of class 0 to module 1, kept. -/
def kept1 : KeptSend :=
  { dst := 1, desc := [1], xslot := 0, mslot := 0, tstep := 0, glade := 0, plot := 0, resent := false, seq := 0, shape := none }

/-- A message of 8 bytes to glade 0. -/
def msg0 : FabMsg :=
  { cls := 0, plen := 8, dst := 0, slice := 0, src := 1, xslot := 0, mslot := 0, tstep := 0, glade := 0, ctr := 0, elided := false, chk := 0
    splot := 0, addr := 0, sglade := 0, payload := zeroBytes 8 }

/-- The step's number is 0; glade 0 of plot 0 is in service or not; message slot 0 has been delivered or not. -/
def meeting (x : Port) (inService : Bool) (delivered : List Delivered) : State :=
  let s := porting x
  { s with glades := [(0, { gladeOn [] with inService, windows := [{ first := 0, last := 0, plots := 1 }] })]
           fabric := { s.fabric with delivered, kept := [kept1] } }

theorem witness_FabricMessagesArrive :
    (∀ cls ∈ [0, 1, 3], (fabMsg ({ msg0 with cls }).item).cls = cls ∧ wf (BitVec.ofNat 64 (leAt ({ msg0 with cls }).item 0 8)) 3 0 = 1)
    ∧ (fabMsg msg0.item).slice = (meeting port0 true []).slice ∧ (fabMsg msg0.item).dst = (meeting port0 true []).torus
    ∧ (fabMsg msg0.item).tstep = 0
    ∧ (fabMsg ({ msg0 with slice := 1 }).item).slice ≠ (meeting port0 true []).slice
    ∧ (fabMsg ({ msg0 with dst := 1 }).item).dst ≠ (meeting port0 true []).torus
    ∧ (fabMsg ({ msg0 with tstep := 2 }).item).tstep = 2
    ∧ (∀ fbrk, (meeting { port0 with fbrk } true []).fireBroken 0 = fbrk)
    ∧ (let s := meeting port0 true [];
      (s.port 0).live = true ∧ s.field Reg.fabCtl 0 0 = 1
      ∧ s.step.num.toNat % 65536 = 0 ∧ s.fabRefused msg0 = false ∧ payloadGood msg0.chk msg0.payload = true)
    ∧ (meeting port0 false []).fabRefused msg0 = true
    ∧ payloadGood 1 (zeroBytes 8) = false
    ∧ ({ xslot := 0, tstep := 0, mslot := 0 } : Delivered) ∈ (meeting port0 true [{ xslot := 0, tstep := 0, mslot := 0 }]).fabric.delivered
    ∧ ({ xslot := 0, tstep := 0, mslot := 0 } : Delivered) ∉ (meeting port0 true []).fabric.delivered
    ∧ (let s := meeting port0 true [];
      let want := fun (w0 : BitVec 64) (k : KeptSend) => decide (k.xslot.toNat = wf w0 15 8 ∧ k.mslot.toNat = wf w0 27 16
        ∧ k.tstep.toNat = wf 0 15 0 ∧ k.dst = BitVec.ofNat 24 (wf w0 63 40))
      wf 7 3 0 = 7 ∧ s.fabric.kept.find? (want 7) = none ∧ wf 0x20000000007 3 0 = 7 ∧ s.fabric.kept.find? (want 0x20000000007) = none
      ∧ wf 0x10000000007 3 0 = 7 ∧ s.fabric.kept.find? (want 0x10000000007) = some kept1 ∧ kept1.resent = false
      ∧ (fabDesc kept1.desc).dsrc = false ∧ s.routeTo kept1.dst = .inr (some 0))
    ∧ BitVec.ofNat 24 (wf 7 63 40) = (meeting port0 true []).torus ∧ BitVec.ofNat 24 (wf 0x20000000007 63 40) ≠ (meeting port0 true []).torus
    ∧ (fabDesc [1, 0, 0, 0x40]).dsrc = true ∧ ({ kept1 with desc := [1, 0, 0, 0x40], resent := true }).resent = true := by
  decide +kernel

/-! ### The ring count -/

/-- The ring in a state. -/
def ringing (ring : Ring) : State := { porting port0 with ring }

theorem witness_RingCountAndPhase :
    (∀ marker rref, (ringing { Ring.init with marker, rref }).ring.marker = marker ∧ (ringing { Ring.init with marker, rref }).ring.rref = rref)
    ∧ (porting port0).board.on.getLsbD 29 = true ∧ ({ State.reset with board := { State.reset.board with on := 0 } }).board.on.getLsbD 29 = false
    ∧ (65536 : DWord).toNat % 65536 = 0 ∧ (65537 : DWord).toNat % 65536 ≠ 0
    ∧ (∀ mode ∈ [RingMode.free, .locl, .aligned, .holdover, .fault], (ringing { Ring.init with mode, rref := true }).ring.mode = mode)
    ∧ (let s := ringing { Ring.init with mode := .holdover, rref := false, lossAt := 1, lc := 1 };
      s.ring.lc.toNat - s.ring.lossAt.toNat ≤ 2 ^ s.field Reg.ringCfg 20 16 ∧ (64 : Int).natAbs ≤ 64 ∧ ¬(-65 : Int).natAbs ≤ 64)
    ∧ (let s := ringing { Ring.init with mode := .holdover, rref := false, lossAt := 0, lc := 0xFFFFFFFFFFFFFFFF };
      2 ^ s.field Reg.ringCfg 20 16 < s.ring.lc.toNat - s.ring.lossAt.toNat)
    ∧ (let s := ringing { Ring.init with mode := .locl, armed := true, lc := 16777216 };
      let root := { s with regs := { s.regs with vals := [(Reg.ringCfg, 7)] } }
      root.regUp Reg.ringLoadHi = true
      ∧ root.field Reg.ringCfg 2 0 = 7 ∧ root.ring.armed = true ∧ (∀ p < 6, (root.port p).live = false ∨ (root.port p).nalgn = false)
      ∧ root.ring.localAt.toNat + 16777216 ≤ root.ring.lc.toNat ∧ root.ring.lc.toNat % 65536 = 0 ∧ root.livePorts ≠ []
      ∧ ({ root with fabric := Fabric.init }).livePorts = [])
    ∧ (ringing { Ring.init with mode := .locl, lc := 1024 }).measureDue 0 port0 = true
    ∧ wf 4 3 0 = 4 ∧ wf 0x505 3 0 = 5
    ∧ (let a : PhaseAsk := { seq := 5, t1 := 0, hi := 0 }
      a.seq.toNat = wf 0x505 15 8 ∧ { port0 with ask := some a }.ask = some a)
    ∧ (porting { port0 with nalgn := true }).source = some 0 ∧ (porting port0).source ≠ some 0
    ∧ (let s := ringing { Ring.init with mode := .aligned, port := 0 };
      let slack := { s with regs := { s.regs with vals := [(Reg.ringCfg, 0xFF00)] } }
      let o := fun (t2 t3 t4 : DWord) => (stampDiff (fullStamp (s.rt / 2 ^ 56) t4) (fullStamp 0 t3) - stampDiff (fullStamp 0 t2) (fullStamp 0 0)) / 2
      s.ring.port = 0 ∧ (o 100 100 200).natAbs ≤ s.field Reg.ringCfg 15 8 ∧ (o 100 100 200).natAbs < 128
      ∧ (o 0 0 500).natAbs ≤ slack.field Reg.ringCfg 15 8 ∧ 128 ≤ (o 0 0 500).natAbs) := by decide +kernel

/-- ALIGNED, the rounds of the current period begun, the ring count at `rt`; four rounds each 2^21 rt; a lower value waits or not. -/
def agreeing (rt : DWord) (on : Bool) (fromRounds : Bool) (lowers : List LowerWait) : State :=
  let s := ringing { Ring.init with mode := .aligned, lc := rt, roundOn := on, pendFromRounds := fromRounds, pend := 800, pendAt := 5000, lowers }
  { s with regs := { s.regs with vals := [(Reg.freqCfg, 0x15040000)] } }

theorem witness_StandFrequencyIsAgreed :
    (let s := agreeing 0x200000 false false [];
      s.ring.mode = .aligned ∧ s.field Reg.freqCfg 28 24 = 21 ∧ s.field Reg.freqCfg 23 16 = 4 ∧ s.rt % 2 ^ 21 = 0)
    ∧ (∀ i ∈ [1, 3, 4], let s := agreeing (BitVec.ofNat 64 (1000 * i)) true false [];
      s.rt % 2 ^ 21 = 1000 * i ∧ s.ring.roundOn = true ∧ s.ring.roundA.toNat = s.rt / 2 ^ 21 * 2 ^ 21)
    ∧ (let s := agreeing 0 true true [];
      (s.port 0).live = true ∧ s.ring.roundA = 0 ∧ wf 0x00 5 4 = 0 ∧ wf 0x10 5 4 = 1 ∧ wf 0x20 5 4 = 2 ∧ wf 0x10 27 16 ≠ s.ring.roundV.toNat + 1
      ∧ wf 0x031F0020 27 16 < s.ring.pendingValue ∧ s.ring.pendingValue ≤ wf 0x03200020 27 16)
    ∧ (agreeing 0 true true []).ring.nextPend = some (800, 5000)
    ∧ (agreeing 0 true true [{ value := 900, at_ := 4999 }]).ring.nextPend = some (900, 4999)
    ∧ (agreeing 0 true false [{ value := 700, at_ := 6000 }]).ring.nextPend = some (700, 6000)
    ∧ (agreeing 0 true false []).ring.cur.toNat = 800 ∧ 5000 ≤ (agreeing 0 true true []).rt + 5000
    ∧ (agreeing 5000 true true []).ring.pendAt.toNat ≤ 5000 := by decide +kernel
/-! ### Host links -/

/-- The Alapor link up or down, with its restart code and bad frames; the Ohmip stream up, or trained and waiting for a hello. -/
def linking (up : Bool) (restart : BitVec 2) (badRun : Nat) (wakeAsked hello discarding : Bool) : State :=
  { lab with
    alapor := { Alapor.init with up, ver := if up then 3 else 0, restart, badRun, wakeAsked }
    ohmip := { Ohmip.init with up := up, ver := if up then 2 else 0, hello, discarding } }

/-- A frame of 80 bytes without operations, its marker and check value good, with byte 2 (version and type) and a version mask. -/
def frameOf (kind mask : Nat) : List Byte :=
  let bs := leBytes 2 0x5AC3 ++ [BitVec.ofNat 8 kind, 0, BitVec.ofNat 8 mask] ++ zeroBytes 75
  patchBytes bs 76 (leBytes 4 (crc32c (sliceBytes bs 2 2 ++ sliceBytes bs 52 24)))

/-- The link down, with its run of good and of bad frames and the version that training has found. -/
def trained (goodRun badRun trainVer : Nat) : State :=
  let s := linking false 0 0 false false false
  { s with alapor := { s.alapor with goodRun, badRun, trainVer, mask := 7 } }

theorem witness_HostLinksWork :
    (∀ badRun ∈ [0, 14, 15], let s := linking true 0 badRun false false false
      s.hostIo = true ∧ s.alapor.up = true ∧ (alaporOps (frameOf 3 0) 4 [0, 1, 2, 3] s s).2.alapor.up = true
      ∧ (alaporOps (frameOf 3 0) 4 [0, 1, 2, 3] s s).2.alapor.badRun = badRun)
    ∧ (let s := trained 32 0 3
      s.hostIo = true ∧ 32 ≤ s.alapor.goodRun ∧ s.alapor.trainVer ≠ 0 ∧ goodFrame (frameOf 3 0) = true
      ∧ bitsOf (leAt (frameOf 3 0) 2 1) 5 4 ≠ 1 ∧ leAt (frameOf 3 0) 2 1 % 16 = s.alapor.trainVer)
    ∧ goodFrame (zeroBytes 80) = false
    ∧ (∀ goodRun ∈ [0, 31], ∀ badRun ∈ [0, 14], let s := trained goodRun badRun 0
      s.hostIo = true ∧ s.alapor.up = false ∧ s.alapor.goodRun < 32 ∧ s.alapor.badRun < 15)
    ∧ goodFrame (frameOf 16 7) = true ∧ bitsOf (leAt (frameOf 16 7) 2 1) 5 4 = 1
    ∧ (∀ restart : BitVec 2, (linking true restart 16 true false false).alapor.restart = restart
      ∧ (linking true restart 16 true false false).alapor.wakeAsked = true)
    ∧ (let s := linking false 0 0 false false false
      s.ohmip.up = false ∧ s.hostIo = true ∧ s.ohmip.idle = false)
    ∧ (let s := linking false 0 0 false true false
      highestCommon 3 (wf 0x304 15 8) 2 = 2 ∧ highestCommon s.ohmip.vmask.toNat (wf 0x004 15 8) 2 = 0
      ∧ s.ohmip.hello = true ∧ wf 0x304 3 0 = 4 ∧ s.ohmip.sent = []
      ∧ ({ s with ohmip := { s.ohmip with vmask := 3 } }).ohmip.vmask.toNat = 3)
    ∧ (∀ discarding, (linking true 0 0 false false discarding).ohmip.discarding = discarding
      ∧ (linking true 0 0 false false discarding).ohmip.up = true)
    ∧ wf 2 3 0 = 2 ∧ wf 3 3 0 = 3 ∧ wf 5 3 0 = 5 := by decide +kernel

/-! ### Registers and faults -/

/-- A fault record of sequence 1. -/
def fault1 : FaultRec :=
  { cls := 1, cause := 0, flags := 0, attempt := 0, owner := 0, plot := 0, ring := 0, step := 0, glade := 0, rep := 1, seq := 1, index := 0
    epoch := 0, pc := 0, detail := zeroBytes 8 }

/-- An image operation in progress or none; a record in the queue. -/
def accessing (phase : Nat) : State :=
  { lab with
    image := { Image.init with phase, op := if phase = 0 then .none else .update }
    dep := { Depend.init with queue := [fault1] } }

theorem witness_RegistersAndFaultWindow :
    (accessing 0).rangerRuns = true ∧ (accessing 1).rangerRuns = true ∧ (accessing 0).applying = false ∧ (accessing 1).applying = true
    ∧ lab.alapor.hiLatch = []
    ∧ (∀ a ∈ [Reg.ringLo, Reg.calNowLo], ∃ r, regSpec? a = some r ∧ lab.regUp a = true ∧ a ∈ lowWords ∧ r.rc = 0)
    ∧ (∀ a ∈ [Reg.ohmCmd, Reg.numFmt, Reg.gldBank], ∃ r, regSpec? a = some r ∧ lab.regUp a = true ∧ a ∉ lowWords ∧ r.rc ≠ 0
        ∧ a ≠ Reg.fltWin ∧ a ≠ Reg.memTgErr)
    ∧ ((regSpec? Reg.memTgErr).isSome = true ∧ lab.regUp Reg.memTgErr = true ∧ lab.tgChan < 144)
    ∧ regSpec? 0xFFFFFFFC = none ∧ regSpec? 2 = none ∧ hasOwnRow 0xFFFFFFFC = false
    ∧ (∃ r, regSpec? Reg.memPatrol = some r ∧ ({ lab with board := { lab.board with on := 0 } }).regUp Reg.memPatrol = false
        ∧ hasOwnRow Reg.memPatrol = false)
    ∧ (∃ r, regSpec? Reg.calSetLo = some r ∧ hasOwnRow Reg.calSetLo = false ∧ lab.regUp Reg.calSetLo = true
        ∧ isTgReg Reg.calSetLo = false ∧ Reg.calSetLo ≠ Reg.gblStat ∧ ¬(Reg.mbxData ≤ Reg.calSetLo ∧ Reg.calSetLo < Reg.mbxData + 4096)
        ∧ r.lk = 0 ∧ r.rw ≠ 0)
    ∧ (∃ r, regSpec? Reg.ringLo = some r ∧ hasOwnRow Reg.ringLo = false ∧ r.lk = 0 ∧ r.rw = 0)
    ∧ (∃ r, regSpec? Reg.srvIn = some r ∧ hasOwnRow Reg.srvIn = false ∧ (accessing 1).regUp Reg.srvIn = true ∧ isTgReg Reg.srvIn = false
        ∧ Reg.srvIn ≠ Reg.gblStat ∧ ¬(Reg.mbxData ≤ Reg.srvIn ∧ Reg.srvIn < Reg.mbxData + 4096) ∧ r.lk ≠ 0)
    ∧ (∃ r, regSpec? Reg.memTgSel = some r ∧ hasOwnRow Reg.memTgSel = false ∧ lab.regUp Reg.memTgSel = true ∧ isTgReg Reg.memTgSel = true)
    ∧ (∃ r, regSpec? Reg.gblStat = some r ∧ hasOwnRow Reg.gblStat = false ∧ lab.regUp Reg.gblStat = true)
    ∧ (∃ r, regSpec? Reg.mbxData = some r ∧ hasOwnRow Reg.mbxData = false ∧ lab.regUp Reg.mbxData = true)
    ∧ (accessing 0).dep.queue = [fault1] ∧ (accessing 0).regUp Reg.fltWin = true ∧ lab.dep.queue = [] := by
  refine ⟨by decide +kernel, by decide +kernel, by decide +kernel, by decide +kernel, by decide +kernel, ?_, ?_, by decide +kernel,
    by decide +kernel, by decide +kernel, by decide +kernel,
    ⟨_, rfl, by decide +kernel⟩, ⟨_, rfl, by decide +kernel⟩, ⟨_, rfl, by decide +kernel⟩, ⟨_, rfl, by decide +kernel⟩,
    ⟨_, rfl, by decide +kernel⟩, ⟨_, rfl, by decide +kernel⟩, ⟨_, rfl, by decide +kernel⟩, by decide +kernel⟩ <;>
  · simp only [List.mem_cons, List.not_mem_nil, or_false, forall_eq_or_imp, forall_eq]
    repeat' constructor
    all_goals first | exact ⟨_, rfl, by decide +kernel⟩ | decide +kernel

/-! ### The stand image -/

/-- The image machinery in a state: trained memory; slot 0 with its boot flag, or both empty. -/
def imaging (image : Image) (boot : Bool) : State :=
  { lab with
    image
    mem := { lab.mem with stks := List.replicate 8 { StackState.init with state := 2 }, uch := List.replicate 16 3 }
    ring := { Ring.init with lc := 200000 }
    nor := if boot then mwrite 0xFF [] (slotStart 0) (slotHeader 1 0 true (zeroBytes 64)) else [] }

/-- A container that updates an image of identity 0: a module map with this module, a plot table and one phase (Tables 14.2, 14.3). -/
def update0 : List Byte :=
  leBytes 1440 ([(8, 2), (12, 2560), (52, 255), (53, 255), (54, 2), (56, 1344), (60, 1408), (1344, 1), (1346, 65535), (1352, 256), (1356, 8)
    , (1360, 8), (1376, 3), (1378, 65535), (1384, 320), (1388, 1024), (1392, 1024), (1408, 1), (1416, 1)].map
      fun f => f.2 * 256 ^ f.1).sum

theorem witness_ImageCommandsAndPhasesRun_update :
    (imaging { Image.init with state := 1, staged := update0, identity := zeroBytes 64 } false).updateCause update0 = 0 := by decide +kernel

theorem witness_ImageCommandsAndPhasesRun :
    (let run : ImageRun := { op := 1, slot := false, cause := 0, body := [] };
      (imaging { Image.init with run := some run } false).imageBusy = true)
    ∧ (imaging Image.init false).imageBusy = false
    ∧ (∀ stagedOk, (imaging { Image.init with stagedOk } false).image.stagedOk = stagedOk)
    ∧ (∀ k ∈ [0, 1], (imaging Image.init false).slotBoot k = false) ∧ (imaging Image.init true).slotBoot 0 = true
    ∧ (∀ state : BitVec 3, (imaging { Image.init with state, retained := [0] } false).image.state = state)
    ∧ (imaging Image.init false).security.idFail = false
    ∧ (imaging Image.init false).updateCause [] ≠ 0
    ∧ (imaging { Image.init with op := .rollback } false).image.op ≠ .none ∧ Image.init.phase = 0
    ∧ (∀ op ∈ [1, 2, 3, 8], (imaging { Image.init with run := some { op, slot := false, cause := 0, body := [] } } false).image.run
        = some { op, slot := false, cause := 0, body := [] })
    ∧ lab.board.norHold = false
    ∧ (let s := imaging Image.init false
      s.image.bootDue = true ∧ s.image.state = 0 ∧ s.image.run = none ∧ s.trained = true ∧ s.board.seq = .idle
      ∧ (List.range 2).find? s.slotBoot = none)
    ∧ (List.range 2).find? (imaging Image.init true).slotBoot = some 0
    ∧ (∀ drained, let s := imaging { Image.init with phase := 1, drained, phases := [{ num := 1, drain := 100000, hold := 0 }] } false
      s.image.phase ≠ 0 ∧ s.image.drained = drained ∧ s.image.beginRing.toNat + s.phaseInfo.drain ≤ s.rt)
    ∧ (∀ held, let s := { lab with plots := [(0, { plotOn with held })] }
      (s.plot 0).held = held ∧ (s.plot 0).run ≠ .none) := by decide +kernel;
/-! ### Power -/

/-- A regulator report without rails and with a sum of junction temperatures. -/
def report0 : WardenReport := { rails := [], pmbus := [], pin := 700, vin := 7200, dieTemp := [], stackTemp := [], ce := [] }

/-- Physical glade 0 with a current fmax, marginal or not, in service; grove 0 with its state; the stand frequency is 800. -/
def powering (x : GrovePower) (cur : BitVec 11) (marginal : Bool) (graceEnd : Option DWord) : State :=
  { withGlade (gladeOn []) with
    regs := { State.reset.regs with vals := [(Reg.pwrFcfg, 10), (Reg.wardenCap, 500)] }
    power := { Power.init with groves := [(0, x)], phys := [(0, { PhysGlade.init with cur := some cur, marginal, graceEnd })] } }

theorem witness_PowerFollowsItsBudget :
    (let s := powering .init 800 false none;
      s.rt % 2500 = 0 ∧ s.rangerRuns = true ∧ s.board.bootRom = false ∧ s.field Reg.wardenCap 13 0 < report0.pin.toNat
      ∧ (s.reg Reg.wardenOver).toNat < 2 ^ 32 - 1)
    ∧ lab.board.on.getLsbD 0 = true ∧ State.reset.board.on.getLsbD 0 = false
    ∧ ((powering { GrovePower.init with raising := some 1 } 800 false none).gpower 0).raising ≠ none
    ∧ (∀ stretched, let s := powering { GrovePower.init with stretched } 800 false none;
      s.groveRuns 0 = true ∧ (s.gpower 0).stretched = stretched)
    ∧ lab.field Reg.pwrDroop 15 8 ≤ 255 ∧ (0 : BitVec 11).toNat < 1056
    ∧ (∀ cur ∈ [800, 795, 790, 785], let s := powering .init (BitVec.ofNat 11 cur) false none;
      s.inServicePhys 0 = true ∧ s.groveRuns (0 / 66) = true ∧ s.curFmax 0 = cur ∧ s.ring.pendingValue = 800
      ∧ s.field Reg.pwrFcfg 7 0 = 10 ∧ (s.physGlade 0).marginal = false)
    ∧ ((powering .init 800 true (some 0)).physGlade 0).graceEnd = some 0 ∧ (0 : DWord).toNat ≤ lab.rt ∧ lab.rt < (1 : DWord).toNat := by
  decide +kernel

/-- Stepping suspended and every state allowed up to the tolerance; the idle state, a wake held or not. -/
def idling (state : BitVec 3) (ltr : Word) (wakeHeld suspended : Bool) (resArmed : Option DWord) : State :=
  { lab with
    regs := { State.reset.regs with vals := [(Reg.gblLtr, ltr), (Reg.stepPeriod, 1000)] }
    power := { Power.init with state, wakeHeld, suspended, resArmed } }

theorem witness_IdleStatesFollowTheTolerance :
    (∀ k ∈ [1, 2, 3, 4], let s := idling 0 (BitVec.ofNat 32 (exitRt k / 100)) false true none;
      k = 1 ∨ (s.power.state.toNat < k ∧ k ≤ 4 ∧ s.awakeHeld = false ∧ s.idleMeets k = true ∧ ∀ j < 5, k < j → s.idleMeets j = false))
    ∧ (let s := idling 0 1 false true none;
      s.idleMeets 1 = true ∧ ∀ j < 5, 1 < j → s.idleMeets j = false)
    ∧ (let s := idling 0 0 false true none;
      ∀ j < 5, s.power.state.toNat < j → s.idleMeets j = false)
    ∧ (∀ k ∈ [1, 2, 3, 4], ∀ wakeHeld, let s := idling (BitVec.ofNat 3 k) 0 wakeHeld true none;
      s.power.state ≠ 0 ∧ s.awakeHeld = wakeHeld ∧ s.tolRt < exitRt s.power.state.toNat ∧ s.toResume = none)
    ∧ (let s := idling 1 1 false true none;
      s.idleAllowed 1 = true ∧ exitRt 1 ≤ s.tolRt)
    ∧ (let s := idling 1 1 false false none;
      s.power.state = 1 ∧ s.power.suspended = false ∧ s.stepAt s.step.next ≤ s.rt + 50)
    ∧ (let s := { idling 1 1 false false none with step := { StepState.init with next := 1 } };
      s.rt + 50 < s.stepAt s.step.next)
    ∧ lab.board.on.getLsbD 29 = true
    ∧ (let s := idling 2 1000 false true none;
      (s.storeReg Reg.gblLtr 0).tolRt < exitRt s.power.state.toNat ∧ s.awakeHeld = false ∧ s.toResume = none) := by decide +kernel

/-- A late and an early suspension: S_0 is not later than the ring count, S_1 is. Boundary 0 may still be to come, or have come. -/
theorem witness_SuspensionArms :
    ∀ next ∈ [0, 1], let s := { idling 0 1 false false none with step := { StepState.init with next } };
      s.period ≠ 0 ∧ s.stepAt 0 ≤ s.rt ∧ s.rt < s.stepAt 1 ∧ s.stepAt ((s.setReg Reg.pwrSuspHi 0).reg64 Reg.pwrSuspLo) ≤ s.rt
      ∧ (s.rt < s.stepAt next ∨ s.rt = s.stepAt next ∧ s.step.next ≤ next)
      ∧ ∀ j, (s.rt < s.stepAt j ∨ s.rt = s.stepAt j ∧ s.step.next ≤ j) → next ≤ j := by
  intro next hn
  simp only [List.mem_cons, List.not_mem_nil, or_false] at hn
  rcases hn with rfl | rfl
  · exact ⟨by decide +kernel, by decide +kernel, by decide +kernel, by decide +kernel, by decide +kernel, fun j _ => Nat.zero_le j⟩
  · refine ⟨by decide +kernel, by decide +kernel, by decide +kernel, by decide +kernel, by decide +kernel, fun j hj => ?_⟩
    rcases hj with hj | hj
    · rcases j with _ | j
      · exact absurd hj (by decide +kernel)
      · omega
    · exact hj.2

/-! ### Supply, sequence and pins -/

/-- A board over the laboratory. -/
def boarded (board : Board) : State := { lab with board }

/-- The laboratory's board. -/
def board0 : Board := lab.board

theorem witness_SupplyLimitsAct :
    (∀ on ∈ [0, 0x3FFFFFFF], ∀ zone ∈ [InputZone.ok, .warned, .recovering, .under, .cutoff, .over],
      let s := boarded { board0 with on := BitVec.ofNat 30 on, zone };
      s.board.zone = zone ∧ s.rangerRuns = decide (on ≠ 0) ∧ s.board.on.getLsbD 29 = decide (on ≠ 0))
    ∧ (5699 : BitVec 16).toNat < 5700 ∧ 5850 < (5851 : BitVec 16).toNat ∧ (5599 : BitVec 16).toNat < 5600 ∧ (3999 : BitVec 16).toNat < 4000
    ∧ 8200 < (8201 : BitVec 16).toNat ∧ (8099 : BitVec 16).toNat < 8100 ∧ (5850 : BitVec 16).toNat ≤ 5850
    ∧ 4 ≤ (boarded { board0 with zone := .recovering, inRange := 4 }).board.inRange
    ∧ (boarded { board0 with zone := .recovering, inRange := 3 }).board.inRange < 4 := by decide +kernel

theorem witness_PowerSequenceRuns :
    (∀ n ∈ [1, 3], ∀ wet, let s := boarded { board0 with seq := .due n, wet };
      s.board.seq = .due n ∧ s.inputGood = true ∧ s.board.wet = wet ∧ s.board.bootRom = false)
    ∧ (let s := boarded { board0 with seq := .due 1, zone := .warned };
      s.board.seq = .due 1 ∧ s.inputGood = false)
    ∧ (∀ b : BitVec 8, (boarded { board0 with status := b, wet := true }).board.status.getLsbD 3 = b.getLsbD 3)
    ∧ (let s := { lab with security := { Security.init with images := List.replicate 2 { ok := true, svn := 1, digest := [] }, minSvn := 1 } };
      s.bootRom.board.bootRom = false)
    ∧ (let s := { lab with security := { Security.init with images := List.replicate 2 { ok := false, svn := 1, digest := [] }, minSvn := 1 } };
      s.bootRom.board.bootRom = true)
    ∧ (∀ n ∈ [3, 6, 7, 8], ∀ gv ∈ [0, 14, 15], (boarded { board0 with seq := .up n gv }).board.seq = .up n gv)
    ∧ (boarded { board0 with seq := .down }).board.seq = .down
    ∧ (∀ perstN svcHoldN, let s := boarded { board0 with perstN, svcHoldN };
      s.board.perstN = perstN ∧ s.board.svcHoldN = svcHoldN ∧ s.inputGood = true)
    ∧ (boarded { board0 with zone := .warned, perstN := false }).inputGood = false
    ∧ lab.rangerRuns = true ∧ (3 : BitVec 3).toNat < 4 ∧ 105 ≤ (105 : BitVec 8).toNat ∧ (127 : BitVec 8).toNat < 128
    ∧ 110 ≤ (110 : BitVec 8).toNat ∧ lab.board.wet = false ∧ lab.ring.oref = true
    ∧ (let s := { lab with board := { board0 with on := 0 }, ring := { Ring.init with oref := false } };
      s.rangerRuns = false ∧ s.ring.oref = false) := by decide +kernel

theorem witness_ManagementPortsAnswer :
    lab.rangerRuns = true ∧ lab.board.perstN = true
    ∧ (∀ st ∈ [1, 4, 8], (boarded { board0 with status := BitVec.ofNat 8 st }).board.status = BitVec.ofNat 8 st)
    ∧ (1 : Byte).getLsbD 2 = false ∧ (1 : Byte).getLsbD 3 = false ∧ (4 : Byte).getLsbD 2 = true ∧ (8 : Byte).getLsbD 3 = true
    ∧ (boarded { board0 with on := 0 }).rangerRuns = false ∧ (boarded { board0 with perstN := false }).board.perstN = false
    ∧ (∀ debug, ({ lab with security := { Security.init with debug } }).security.debug = debug)
    ∧ (∀ n ∈ [0, 4, 6, 8, 32, 36], (leBytes n 0x2000).length = n) ∧ leAt (leBytes 8 0x2003) 0 4 / 4 * 4 = 0x2000
    ∧ leAt (leBytes 8 0x1FFF) 0 4 / 4 * 4 < 0x2000
    ∧ (∀ p ∈ [Reg.ringLo, 0x1FFC, 0x2000], (boarded { board0 with winPtr := p }).board.winPtr = p)
    ∧ (boarded { board0 with winPtr := Reg.ringLo }).board.winLatch = []
    ∧ (∀ ir ∈ [JtagIr.bypass, .idcode, .extest], ∀ code < 8, ir ≠ .other code) := by decide +kernel

/-! ### Lifetime records and the mailbox -/

/-- A history entry waits; the calendar is known or not; the head of the log is at `histAt`, and what follows it is empty or full. -/
def living (isModule : Bool) (calState : BitVec 2) (full : Bool) : State :=
  { lab with
    nor := if full then (List.range 64).map fun i => (0x03C01000 + 4096 * i, 0) else []
    dep := { Depend.init with
      calState, histQueue := [{ isModule, kind := 7, unit := 0, ring := 0, cal := 0, detail := 0 }] } }

theorem witness_LifetimeRecordsAreKept :
    lab.norWritable = true ∧ lab.rt % 2 ^ 36 = 0 ∧ ({ lab with ring := { Ring.init with lc := 1 } }).rt % 2 ^ 36 ≠ 0
    ∧ lab.board.on.getLsbD 29 = true ∧ (1 : BitVec 32).getLsbD 0 = true ∧ (2 : BitVec 32).getLsbD 0 = false
    ∧ (∀ isModule full, ∃ e, (living isModule 0 full).dep.histQueue = [e] ∧ e.isModule = isModule)
    ∧ (boarded { board0 with zone := .warned }).norWritable = false
    ∧ (∀ calState : BitVec 2, (living false calState false).dep.calState = calState) := by
  refine ⟨by decide +kernel, by decide +kernel, by decide +kernel, by decide +kernel, by decide +kernel, by decide +kernel,
    fun _ _ => ⟨_, rfl, rfl⟩, by decide +kernel, by decide +kernel⟩

theorem witness_LifetimeRecordsAreKept_ahead :
    64 ≤ (living false 0 false).emptyAhead ∧ (living false 0 true).emptyAhead < 64 := by decide +kernel

/-- A mailbox command runs, with what it still writes, while a power-fail warning holds or not. -/
def mailing (run : Option MboxRun) (job : NorJob) (warned : Bool) : State :=
  { lab with
    board := { lab.board with zone := if warned then .warned else .ok }
    security := { Security.init with run, job } }

theorem witness_MailboxRunsOneCommand :
    lab.rangerRuns = true ∧ lab.board.bootRom = false ∧ lab.security.run = none
    ∧ (4096 : BitVec 13).toNat ≤ 4096 ∧ 4096 < (4097 : BitVec 13).toNat ∧ (0x1F : BitVec 8).toNat < 0x20 ∧ 0x29 < (0x2A : BitVec 8).toNat
    ∧ (∀ warned, let r : MboxRun := { smb := false, code := 0x28, status := 0, reply := [] };
      ∀ job ∈ [NorJob.none, .firmware true [], .operators [] true], let s := mailing (some r) job warned;
      s.rangerRuns = true ∧ s.board.bootRom = false ∧ s.security.run = some r ∧ s.security.job = job ∧ s.board.norHold = warned) := by
  decide +kernel

/-- Operator keys of the given public keys, a tenant 1 with a bundle key of version 1, a challenge given at 0. -/
def owned (pubs : List (List Byte)) (image : BitVec 3) (sealing : Bool) (debug idFail : Bool) : State :=
  { lab with
    image := { Image.init with state := image }
    serving := (engines sealing false).serving
    security := { Security.init with
      operators := pubs.map operatorKey, tenants := [{ tenant := 1, pub := [], bundles := [key1] }], debug, idFail
      images := List.replicate 2 { ok := true, svn := 2, digest := [] }, svn := 2, minSvn := 1, challenge := some ([], 0) } }

theorem witness_MailboxCommandsAct :
    (∀ debug idFail, (owned [] 0 false debug idFail).security.debug = debug ∧ (owned [] 0 false debug idFail).security.idFail = idFail)
    ∧ leAt (leBytes 4 8388608) 0 4 ≤ 8388608
    ∧ (∀ n ∈ [4, 6, 8, 66, 517, 1028, 1030, 1541, 1542], (zeroBytes n).length = n)
    ∧ leAt (zeroBytes 66) 64 2 ≤ 0xFFF ∧ (owned [] 0 false false false).security.operators = [] ∧ leAt (leBytes 1541 1) 0 1 ≤ 1
    ∧ leAt (leBytes 1030 65537) 0 2 ≤ 0xFFE ∧ leAt (leBytes 1030 65537) 2 4 ≠ 0 ∧ leAt (leBytes 6 65537) 0 2 = 1 ∧ leAt (leBytes 6 65537) 2 4 = 1
    ∧ (owned [] 0 false false false).bundleKey 1 1 = some key1 ∧ (owned [] 0 false false false).bundleKey 2 1 = none
    ∧ (owned [] 0 true false false).versionInUse 1 1 = true ∧ (owned [] 0 false false false).versionInUse 1 1 = false
    ∧ (∃ k, (owned [] 0 false false false).tenant 1 = some k) ∧ (owned [] 0 false false false).tenant 0 = none
    ∧ (owned [] 0 false false false).security.challenge = some ([], 0) ∧ lab.security.challenge = none
    ∧ (owned [] 0 false false false).rt < 2 ^ 32 ∧ (owned [] 0 false false false).imageApplied = false ∧ (owned [] 1 false false false).imageApplied = true
    ∧ (owned [] 0 false false false).imageBusy = false ∧ (owned [] 0 false false false).image.run = none
    ∧ (let x := (owned [] 0 false false false).security;
      (∀ b : Bool, x.fwOk b = true ∧ x.svn.toNat ≤ (x.fw b).svn.toNat) ∧ x.minSvn.toNat ≤ x.svn.toNat) := by
  refine ⟨by decide +kernel, by decide +kernel, by decide +kernel, by decide +kernel, rfl, by decide +kernel, by decide +kernel, by decide +kernel,
    by decide +kernel, by decide +kernel, by decide +kernel, by decide +kernel, by decide +kernel, by decide +kernel, ⟨_, rfl⟩,
    by decide +kernel, by decide +kernel, by decide +kernel, by decide +kernel, by decide +kernel, by decide +kernel, by decide +kernel,
    by decide +kernel, by decide +kernel⟩

theorem witness_MailboxCommandsAct_keys :
    (∀ n ∈ [1, 7, 8], ((owned (List.replicate n [0]) 0 false false false).security.operators).length = n)
    ∧ (∃ k ∈ (owned [[0]] 0 false false false).security.operators, k.pub = [0])
    ∧ (∀ k ∈ (owned [[0]] 0 false false false).security.operators, k.pub ≠ [1]) := by
  refine ⟨by intro n hn; simp [owned], ⟨operatorKey [0], by simp [owned], rfl⟩, by simp [owned, operatorKey]⟩
/-! ### Worked examples of the spec -/

/-- 03, "A worked byte": the trits (+1, 0, −1, −1, +1) are the byte 0x9A. -/
theorem test_worked_byte : tp5Digits 0x9A = some [1, 0, 2, 2, 1] ∧ ([1, 0, 2, 2, 1].map trit) = [1, 0, -1, -1, 1] := by decide

/-- Table 3.6: four blocks into one lane; the saturation takes the sign of the contribution. -/
theorem test_table_3_6 :
    (addLane (addLane (addLane 0 (.val 100)) (.val (-912))) (.val (-4161536))).toInt = -4162348
    ∧ addLane (BitVec.ofInt 48 (-4162348)) (.sat true) = satPos ∧ addLane satPos (.val (-5)) = satPos := by decide

/-- Table 3.7 and "Worked outflow": exponent 9, lane 0 is −95, lane 5 becomes 0 and counts. -/
theorem test_worked_outflow :
    outBlock 3 (-8 + 14 + 15) (-4) [.val (-4162348 * 24576), .val 73728000] = { b := { e := 9, m := [-95, 0] }, clamped := 0, zeroed := 1 } := by
  decide +kernel

/-- 04, "Worked example" of R88: the lower of two out-of-range inputs saturates the lane positively. -/
theorem test_worked_pass :
    passLane ((List.range 128).map fun k => if k = 40 then { m := -3, sh := 0, above := true } else if k = 99 then { m := 20, sh := 0, above := true }
      else { m := 0, sh := 0, above := false }) lowNibble [(40, 1), (99, -1)] = .sat true := by decide +kernel

/-- Table 4.7: a chain saturates; the same sums in another order do not. -/
theorem test_table_4_7 :
    addLane (addLane (BitVec.ofInt 48 60000000000000) (.val 90000000000000)) (.val (-80000000000000)) = satPos
    ∧ (addLane (addLane (BitVec.ofInt 48 90000000000000) (.val (-80000000000000))) (.val 60000000000000)).toInt = 70000000000000 := by decide

/-- 04, "Worked example" of R102: the key 0x00012A3F maps to set 4 of 16. -/
theorem test_worked_key : Hia.setOf { first := 0, count := 64, tags := tagsOf 0, entries := [], spPtr := 0, spLim := 0 } 0x00012A3F = 4 := by
  decide

/-- 05, "Worked group": its fields, and the fault of a group whose positions do not increase. -/
theorem test_worked_group :
    tsFault 0x3AC103 = none ∧ tsCount 0x3AC103 = 3 ∧ tsPos 0x3AC103 0 = 1 ∧ tsPos 0x3AC103 1 = 6 ∧ tsPos 0x3AC103 2 = 14
    ∧ tsSign 0x3AC103 0 = 1 ∧ tsSign 0x3AC103 1 = -1 ∧ tsSign 0x3AC103 2 = 1
    ∧ (tsFault (BitVec.ofNat 48 (3 + 1 * 2 ^ 8 + 17 * 2 ^ 13 + 14 * 2 ^ 18))).isSome = true := by decide +kernel

/-- Table 5.5: three positions of an update with theta = 1,024 and k_lr = 20. -/
theorem test_table_5_5 :
    let d := { grfDesc (zeroBytes 32) with kLr := 20, theta := 1024 }
    grfStep d 1573388288 1200 = (-300, 0, false, false)
    ∧ grfStep d (BitVec.ofInt 48 (-2097152)) (-3000) = (-2998, -1, false, false)
    ∧ grfStep d satPos 400 = (400, 0, true, false)
    ∧ tsGroupOf [(6, -1)] = 0x1601 := by decide +kernel

/-- 06, "Worked cell": −93 × 77 through quarter squares. -/
theorem test_worked_cell : boleCell (-93) 77 = -7161 ∧ quarterSquare 16 = 64 ∧ quarterSquare 170 = 7225 := by decide

/-- The attention example of Table 8.3. -/
def att83 : AttDesc := { attDesc (zeroBytes 32) with scR := 33428, scK := 20 }

/-- A slot whose V row is one value throughout. -/
def vSlot (v : Int) : KvSlot := { slot := 0, k := [], v := List.replicate 128 { m := v, e := 0 } }

/-- Table 8.3: scores, weights of the first page, rescaling by 5, and the normalisation of R209. -/
theorem test_table_8_3 :
    ((zOf att83 20000).1, (zOf att83 12000).1, (zOf att83 (BitVec.ofInt 48 (-60000))).1, (zOf att83 60000).1, (zOf att83 30000).1)
      = (638, 383, -1913, 1913, 956)
    ∧ headWeights .init ([638, 383] ++ List.replicate 14 (-1913)) = ([180, 90] ++ List.replicate 14 0, { m := some 2, l := 270, o := [] })
    ∧ (let h := (headWeights { m := some 2, l := 270, o := List.replicate 128 5400 } [1913, 956])
      h.1 = [178, 13] ∧ h.2.m = some 7 ∧ h.2.l = 199 ∧ h.2.o = List.replicate 128 169)
    ∧ (headValues att83 { m := some 7, l := 199, o := List.replicate 128 169 } [178, 13] [vSlot 10, vSlot 100]).1.o = List.replicate 128 3249
    ∧ normal 3249 199 = 534991 := by decide +kernel

/-- Table 10.4 and "Worked token": the ranking, and the gates 66, 65, 63 and 62 at exponent −8. -/
theorem test_worked_token :
    let zb := fun (x : Nat) => if x = 17 ∨ x = 40 then 352 else if x = 71 ∨ x = 99 ∨ x = 102 then 344 else if x = 5 then 340 else (0 : Int)
    ((rankExperts ((List.range 128).map zb)).take 4).map (·.1) = [17, 40, 71, 99]
    ∧ hasTie 4 (rankExperts ((List.range 128).map zb)) = true
    ∧ gates { routeDesc (zeroBytes 64) with gR := 4096, gK := 12, bG := 0, eLoG := -8 } [360, 352, 340, 336] = ([66, 65, 63, 62], -8) := by
  decide +kernel

/-- R363: the check value of "123456789" under the CRC-16 with polynomial 0x1021 and start value 0xFFFF is 0x29B1. -/
theorem test_crc16_check : crc16 [0x31, 0x32, 0x33, 0x34, 0x35, 0x36, 0x37, 0x38, 0x39] = 0x29B1 := by decide +kernel

/-- 13, "Worked record": an APPEND of one token, byte by byte. -/
theorem test_worked_record :
    let bs := hostRec 2 0 56 [(16, 300), (18, 41), (24, 0x989680), (40, 1), (48, 0x15A07)]
    recIntact 0 bs = true ∧ bs.length = 56 ∧ sliceBytes bs 0 2 = [0x21, 0x00] ∧ sliceBytes bs 4 2 = [0x38, 0x00]
    ∧ cmdIndex bs = 0x12C ∧ cmdEpoch bs = 0x29 ∧ sliceBytes bs 24 4 = [0x80, 0x96, 0x98, 0x00] ∧ sliceBytes bs 48 4 = [0x07, 0x5A, 0x01, 0x00] := by
  decide +kernel

/-- Table 18.5: the words of the glade failure's record in the fault window. -/
theorem test_table_18_5 :
    let r : FaultRec := { cls := 0x13, cause := 3, flags := 1, attempt := 0, owner := 0xFFF, plot := 0, ring := 3601002162000, step := 5000003
                          glade := 102, rep := 0, seq := 2591, index := 0xFFFF, epoch := 0, pc := 0, detail := [30, 0] ++ zeroBytes 22 }
    ((List.range 16).map fun k => leAt r.bytes (4 * k) 4) =
      [0x10313, 0xFFF, 0x6C746750, 0x346, 0x4C4B43, 0, 0x66, 0xA1F, 0xFFFF, 0, 0x1E, 0, 0, 0, 0, 0] := by decide +kernel

/-! ### Ill-formed commands -/

/-- A port, a physical glade, a channel, a die, a frame, a grove, a length: each check refuses a term just outside it. -/
theorem test_ill_formed :
    Instr.wf (.switchBlock 6) = false ∧ Instr.wf (.switchBlock 5) = true
    ∧ Instr.wf (.ageingReport 1056 0) = false ∧ Instr.wf (.ageingReport 1055 0) = true ∧ Instr.wf (.gladeFailure 1056 0) = false
    ∧ Instr.wf (.memTgRunComplete 144 [] []) = false ∧ Instr.wf (.memTgRunComplete 143 [] []) = true
    ∧ Instr.wf (.thermalTrip false 4 110) = false ∧ Instr.wf (.thermalTrip true 7 105) = true
    ∧ Instr.wf (.alaporTraining [[]]) = false ∧ Instr.wf (.cnpApp (.run none) 16) = false ∧ Instr.wf (.cnpAtt .issue 16) = true
    ∧ Instr.wf (.smbusWindowWrite []) = false ∧ Instr.wf (.smbusWindowRead 36) = false ∧ Instr.wf (.smbusWindowRead 6) = false
    ∧ Instr.wf (.smbusWindowRead 32) = true ∧ Instr.wf (.memoryTraining [] []) = false ∧ Instr.wf (.alaporFrame []) = false
    ∧ Instr.wf (.wardenPeriod report0) = false := by decide

/-! ### The table's words -/

/-- No row of the table has bits, so no word spells a command and none is put in front of the queue. -/
theorem test_no_words : (∀ n ∈ [8, 32, 128], ∀ w ∈ [0, 1, 0xFFFFFFFF], decodeTableWord n w = none) ∧ State.reset.withFetchWord 32 0 = State.reset :=
  ⟨by decide, rfl⟩
end Sys2Proof.Tests
end

/-!
# Writes of the step registers

The reads of the register table after a write, the first boundary after a ring count (R46), the outcomes of a write of an
LK register and of STEP_PERIOD, and from them the statement of the writes of STEP_PERIOD, STEP_BASE and NUM_LREC_BASE_LO.
-/

namespace Sys2Proof.Machine

/-! ### The register table -/

@[simp] theorem rget_nil {a : Nat} : rget [] a = regReset a := rfl

@[simp] theorem rget_cons {m : SMap Word} {k a : Nat} {v : Word} :
    rget ((k, v) :: m) a = if k = a then v else rget m a := by
  by_cases h : k = a <;> simp [rget, h]

theorem rget_mput_same {a : Nat} {w : Word} : ∀ m : SMap Word, rget (mput m a w) a = w
  | [] => by simp [mput]
  | (k, v) :: m => by
    rcases Nat.lt_trichotomy a k with hlt | rfl | hgt
    · simp [mput, hlt]
    · simp [mput]
    · have hlt : ¬ a < k := by omega
      have hne : ¬ a = k := by omega
      simp [mput, hlt, hne, Ne.symm hne, rget_mput_same m]

theorem rget_mput_other {a b : Nat} {w : Word} (h : b ≠ a) : ∀ m : SMap Word, rget (mput m a w) b = rget m b
  | [] => by simp [mput, h.symm]
  | (k, v) :: m => by
    rcases Nat.lt_trichotomy a k with hlt | rfl | hgt
    · simp [mput, hlt, h.symm]
    · simp [mput, h.symm]
    · have hlt : ¬ a < k := by omega
      have hne : ¬ a = k := by omega
      simp [mput, hlt, hne, rget_mput_other h m]

theorem rget_mdel_other {a b : Nat} (h : b ≠ a) : ∀ m : SMap Word, rget (mdel m a) b = rget m b
  | [] => rfl
  | (k, v) :: m => by
    by_cases hk : a = k
    · simp [mdel, hk, show ¬ k = b from hk ▸ h.symm]
    · simp [mdel, hk, rget_mdel_other h m]

/-- A word other than the reset value is read back, from a canonical table or not. -/
theorem State.reg_setReg_same {s : State} {a : Nat} {w : Word} (hw : w ≠ regReset a) : (s.setReg a w).reg a = w := by
  simp [State.reg, State.setReg, rset, hw, rget_mput_same]

theorem State.reg_setReg_other {s : State} {a b : Nat} {w : Word} (h : b ≠ a) : (s.setReg a w).reg b = s.reg b := by
  by_cases hw : w = regReset a
  · simp [State.reg, State.setReg, rset, hw, rget_mdel_other h]
  · simp [State.reg, State.setReg, rset, hw, rget_mput_other h]

/-! ### The first step -/

@[simp] theorem State.setReg_rt {s : State} {a : Nat} {w : Word} : (s.setReg a w).rt = s.rt := rfl

theorem State.period_setReg_stepPeriod {s : State} {w : Word} (hw : w ≠ 0) :
    (s.setReg Reg.stepPeriod w).period = w.toNat := by
  have hreset : regReset Reg.stepPeriod = 0 := by decide
  rw [State.period, State.regN, State.reg_setReg_same (hreset ▸ hw)]

@[simp] theorem State.s0_setReg_stepPeriod {s : State} {w : Word} : (s.setReg Reg.stepPeriod w).s0 = s.s0 := by
  have hlo : (s.setReg Reg.stepPeriod w).reg Reg.stepBaseLo = s.reg Reg.stepBaseLo := State.reg_setReg_other (by decide)
  have hhi : (s.setReg Reg.stepPeriod w).reg (Reg.stepBaseLo + 4) = s.reg (Reg.stepBaseLo + 4) :=
    State.reg_setReg_other (by decide)
  simp only [State.s0, State.reg64, State.regN, hlo, hhi]

/-- R46: the first step after a ring count is the least whose boundary lies after it. -/
theorem State.firstAfter_le_iff {s : State} {rt n : Nat} (hp : 0 < s.period) : s.firstAfter rt ≤ n ↔ rt < s.stepAt n := by
  unfold State.firstAfter State.stepAt
  by_cases hlt : rt < s.s0
  · simp only [hlt, if_true]
    omega
  · have hdiv : (rt - s.s0) / s.period < n ↔ rt - s.s0 < n * s.period := Nat.div_lt_iff_lt_mul hp
    simp only [hlt, if_false, hp.ne']
    omega

theorem State.startStepping_next {s : State} (hp : s.period ≠ 0) : s.startStepping.step.next = s.firstAfter s.rt := by
  simp only [State.startStepping, hp, if_false]

/-- R46: stepping that a written period starts begins with the first boundary after the ring count of the write. -/
theorem State.next_startStepping_setReg_le_iff {s : State} {w : Word} {n : Nat} (hw : w ≠ 0) :
    (s.setReg Reg.stepPeriod w).startStepping.step.next ≤ n ↔ s.rt < s.s0 + n * w.toNat := by
  have hp : (s.setReg Reg.stepPeriod w).period = w.toNat := State.period_setReg_stepPeriod hw
  have hpos : 0 < w.toNat := by bv_omega
  rw [State.startStepping_next (by omega), State.firstAfter_le_iff (by omega), State.stepAt, hp]
  simp

/-! ### A write of an LK register -/

theorem onReg_of_regUp {a : Nat} {s t : State} (h : s.regUp a = true) : onReg a s t = .next t := if_pos h

theorem State.lkWrite_of_applying {s : State} {k : State → State} (h : s.applying = true) : s.lkWrite k = s.setCause 8 :=
  if_pos h

theorem State.lkWrite_of_not_applying {s : State} {k : State → State} (h : s.applying = false) : s.lkWrite k = k s := by
  simp [State.lkWrite, h]

section Outcomes
variable {s : State} {w : Word}

theorem State.writePeriod_zero_of_stepping (hp : s.period ≠ 0) :
    s.writePeriod 0 = s.setStep { s.step with stopAsked := true } := by
  rw [State.writePeriod, if_pos hp, if_pos rfl]

theorem State.writePeriod_nonzero_of_stepping (hp : s.period ≠ 0) (hw : w ≠ 0) : s.writePeriod w = s := by
  rw [State.writePeriod, if_pos hp, if_neg hw]

theorem State.writePeriod_short (hp : s.period = 0) (hw : w ≠ 0) (hlt : w.toNat < 1000) :
    s.writePeriod w = s.configFault Reg.stepPeriod := by
  rw [State.writePeriod, if_neg (not_not_intro hp), if_neg hw, if_pos hlt]

theorem State.writePeriod_long (hp : s.period = 0) (hw : w ≠ 0) (hle : 1000 ≤ w.toNat) :
    s.writePeriod w = (s.setReg Reg.stepPeriod w).startStepping := by
  rw [State.writePeriod, if_neg (not_not_intro hp), if_neg hw, if_neg hle.not_gt]

/-! ### The commands, where their register answers -/

theorem exec_stepPeriodWrite (h : s.regUp Reg.stepPeriod = true) :
    exec (.stepPeriodWrite w) s = .next (s.lkWrite fun t => t.writePeriod w) := onReg_of_regUp h

theorem exec_stepStop (h : s.regUp Reg.stepPeriod = true) :
    exec .stepStop s = .next (s.lkWrite fun t => t.writePeriod 0) := onReg_of_regUp h

theorem exec_stepBaseWrite {hi : Bool} (h : s.regUp Reg.stepBaseLo = true) :
    exec (.stepBaseWrite hi w) s = .next (s.lkWrite fun t =>
      if t.period ≠ 0 then t else t.setReg (if hi then Reg.stepBaseHi else Reg.stepBaseLo) w) := onReg_of_regUp h

theorem exec_numLrecBaseWrite (h : s.regUp Reg.numLrecBaseLo = true) :
    exec (.numLrecBaseWrite w) s = .next (s.lkWrite fun t => t.storeRecord Reg.numLrecBaseLo w) := onReg_of_regUp h

/-! ### The parts of the statement -/

/-- R403: while an image is being applied each of the four writes is ignored, and cause 8 records it. -/
theorem exec_stepRegister_of_applying {hi : Bool} (hper : s.regUp Reg.stepPeriod = true)
    (hbase : s.regUp Reg.stepBaseLo = true) (hrec : s.regUp Reg.numLrecBaseLo = true) (happ : s.applying = true) :
    ∀ c ∈ [Instr.stepPeriodWrite w, .stepBaseWrite hi w, .stepStop, .numLrecBaseWrite w],
      exec c s = .next (s.setCause 8) := by
  simp only [List.forall_mem_cons, List.not_mem_nil, false_implies, implies_true, and_true]
  rw [exec_stepPeriodWrite hper, exec_stepBaseWrite hbase, exec_stepStop hper, exec_numLrecBaseWrite hrec]
  simp only [State.lkWrite_of_applying happ, and_self]

/-- R46: a period of 1,000 or more, written while STEP_PERIOD reads zero, starts stepping. -/
theorem exec_stepPeriodWrite_long (hper : s.regUp Reg.stepPeriod = true) (happ : s.applying = false) (hp : s.period = 0)
    (hle : 1000 ≤ w.toNat) :
    exec (.stepPeriodWrite w) s = .next (s.setReg Reg.stepPeriod w).startStepping
      ∧ ∀ m, s.rt < s.s0 + m * w.toNat ↔ (s.setReg Reg.stepPeriod w).startStepping.step.next ≤ m := by
  have hw : w ≠ 0 := by bv_omega
  refine ⟨?_, fun m => (State.next_startStepping_setReg_le_iff hw).symm⟩
  rw [exec_stepPeriodWrite hper, State.lkWrite_of_not_applying happ, State.writePeriod_long hp hw hle]

/-- R46: a period below 1,000 is a configuration fault. -/
theorem exec_stepPeriodWrite_short (hper : s.regUp Reg.stepPeriod = true) (happ : s.applying = false) (hp : s.period = 0)
    (hw : w ≠ 0) (hlt : w.toNat < 1000) : exec (.stepPeriodWrite w) s = .next (s.configFault Reg.stepPeriod) := by
  rw [exec_stepPeriodWrite hper, State.lkWrite_of_not_applying happ, State.writePeriod_short hp hw hlt]

/-- R46: while STEP_PERIOD reads non-zero, a change of it is ignored. -/
theorem exec_stepPeriodWrite_of_stepping (hper : s.regUp Reg.stepPeriod = true) (happ : s.applying = false)
    (hp : s.period ≠ 0) (hw : w ≠ 0) : exec (.stepPeriodWrite w) s = .next s := by
  rw [exec_stepPeriodWrite hper, State.lkWrite_of_not_applying happ, State.writePeriod_nonzero_of_stepping hp hw]

/-- R47: while STEP_PERIOD reads non-zero, zero asks for the stop. -/
theorem exec_stepPeriodWrite_zero_of_stepping (hper : s.regUp Reg.stepPeriod = true) (happ : s.applying = false)
    (hp : s.period ≠ 0) :
    exec (.stepPeriodWrite 0) s = .next { s with step := { s.step with stopAsked := true } } := by
  rw [exec_stepPeriodWrite hper, State.lkWrite_of_not_applying happ, State.writePeriod_zero_of_stepping hp]
  rfl

/-- The stop is the write of zero to STEP_PERIOD (R47). -/
theorem exec_stepStop_eq_stepPeriodWrite_zero : exec .stepStop s = exec (.stepPeriodWrite 0) s := rfl

/-- R46: STEP_BASE is taken while STEP_PERIOD reads zero. -/
theorem exec_stepBaseWrite_of_stopped {hi : Bool} (hbase : s.regUp Reg.stepBaseLo = true) (happ : s.applying = false)
    (hp : s.period = 0) :
    exec (.stepBaseWrite hi w) s = .next (s.setReg (if hi then Reg.stepBaseHi else Reg.stepBaseLo) w) := by
  rw [exec_stepBaseWrite hbase, State.lkWrite_of_not_applying happ, if_neg (not_not_intro hp)]

/-- R46: STEP_BASE is ignored while STEP_PERIOD reads non-zero. -/
theorem exec_stepBaseWrite_of_stepping {hi : Bool} (hbase : s.regUp Reg.stepBaseLo = true) (happ : s.applying = false)
    (hp : s.period ≠ 0) : exec (.stepBaseWrite hi w) s = .next s := by
  rw [exec_stepBaseWrite hbase, State.lkWrite_of_not_applying happ, if_pos hp]

/-- R80: a write of NUM_LREC_BASE_LO zeroes the layers' totals. -/
theorem exec_numLrecBaseWrite_of_not_applying (hrec : s.regUp Reg.numLrecBaseLo = true) (happ : s.applying = false) :
    exec (.numLrecBaseWrite w) s = .next { s.storeReg Reg.numLrecBaseLo w with
      layers := zeroTotals (s.storeReg Reg.numLrecBaseLo w).layers } := by
  rw [exec_numLrecBaseWrite hrec, State.lkWrite_of_not_applying happ, State.storeRecord, if_pos rfl]

end Outcomes

/-- Settles O35: each write by whether an image is being applied and whether STEP_PERIOD reads zero; the first step is the
least whose boundary lies after the ring count. -/
theorem stepRegistersAreWritten : Obligations.StepRegistersAreWritten := by
  intro s data hi hper hbase hrec
  refine ⟨exec_stepRegister_of_applying hper hbase hrec, fun happ => ⟨fun hp => ⟨?_, ?_, ?_⟩, fun hp => ⟨?_, ?_, ?_, ?_⟩, ?_⟩⟩
  · exact exec_stepPeriodWrite_long hper happ hp
  · exact exec_stepPeriodWrite_short hper happ hp
  · exact exec_stepBaseWrite_of_stopped hbase happ hp
  · exact exec_stepPeriodWrite_of_stepping hper happ hp
  · exact exec_stepPeriodWrite_zero_of_stepping hper happ hp
  · exact exec_stepStop_eq_stepPeriodWrite_zero.trans (exec_stepPeriodWrite_zero_of_stepping hper happ hp)
  · exact exec_stepBaseWrite_of_stepping hbase happ hp
  · exact exec_numLrecBaseWrite_of_not_applying hrec happ

end Sys2Proof.Machine

/-!
# Arrival counters and waits

The commands of a glade at an instruction with reserved bits, the outcomes of AC.WAIT and XC.WAIT by the count and the ring
count (R181, R183), the two cases of an arrival counter (R180), the expiry of a wait (R182), and from them the statement of
the arrival counters and waits.
-/

namespace Sys2Proof.Machine

/-! ### A glade at its instruction -/

section AtInstruction
variable {s : State} {g : BitVec 10}

/-- A glade that stands at the command's instruction, of a form whose reserved bits are zero, runs it. -/
theorem atInstr_form_of_issues {op lo : Nat} {k : Issue → State} (h : s.issues g op) (hop : opDefined op = true)
    (hz : (s.issueOf g.toNat).f 31 lo = 0) :
    atInstr s g op (fun i => s.form i lo (k i)) = .next (k (s.issueOf g.toNat)) := by
  rw [atInstr_of_issues h hop, State.form, if_pos hz]

theorem State.mode_of_gladeRuns {n : Nat} (h : s.gladeRuns n = true) : (s.glade n).mode = .running := by
  simp only [State.gladeRuns, Bool.and_eq_true, decide_eq_true_eq] at h
  obtain ⟨⟨⟨-, hmode⟩, -⟩, -⟩ := h
  exact hmode

end AtInstruction

/-! ### Counters -/

section Counters
variable {s : State} {g c n : Nat}

theorem State.countUp_of_le (h : ((s.glade g).ctr c).toNat + n ≤ 65535) :
    s.countUp g c n = s.setGlade g ((s.glade g).setCtr c (BitVec.ofNat 16 (((s.glade g).ctr c).toNat + n))) := if_pos h

theorem State.countUp_of_lt (h : 65535 < ((s.glade g).ctr c).toNat + n) :
    s.countUp g c n = ((s.setGlade g ((s.glade g).setCtr c 65535)).bump Reg.gldCtro 1).abandonFault (s.glade g).plot.toNat
      { cls := 0x07, cause := 0, glade := some g, detail := [BitVec.ofNat 8 c] } false := if_neg h.not_ge

end Counters

section Waits
variable {s : State} {g : BitVec 10}

/-! ### The meanings of the commands -/

theorem exec_acPoll : exec (.acPoll g) s = execAcPoll g s := rfl
theorem exec_acAdd : exec (.acAdd g) s = execAcAdd g s := rfl
theorem exec_acWait : exec (.acWait g) s = execAcWait g s := rfl
theorem exec_acWaitSatisfied : exec (.acWaitSatisfied g) s = execAcWaitSatisfied g s := rfl
theorem exec_xcWait : exec (.xcWait g) s = execXcWait g s := rfl
theorem exec_xcWaitTimeReached : exec (.xcWaitTimeReached g) s = execXcWaitTimeReached g s := rfl
theorem exec_waitExpiry : exec (.waitExpiry g) s = execWaitExpiry g s := rfl

/-! ### AC.POLL and AC.ADD -/

theorem exec_acPoll_of_issues (h : s.issues g 0x25) (hz : (s.issueOf g.toNat).f 31 19 = 0) :
    let i := s.issueOf g.toNat
    exec (.acPoll g) s = .next (s.put i (i.gl.setGpr i.d (BitVec.ofNat 64 (i.gl.ctr (i.f 18 13)).toNat))) := by
  rw [exec_acPoll, execAcPoll, atInstr_form_of_issues h rfl hz]

/-- Counters 62 and 63 are not a program's to count (R498). -/
theorem exec_acAdd_of_issues (h : s.issues g 0x26) (hz : (s.issueOf g.toNat).f 31 30 = 0)
    (hc : (s.issueOf g.toNat).f 13 8 < 62) :
    let i := s.issueOf g.toNat
    exec (.acAdd g) s = .next ((s.put i i.gl).countUp g.toNat (i.f 13 8) (i.f 29 14)) := by
  rw [exec_acAdd, execAcAdd, atInstr_form_of_issues h rfl hz, if_neg hc.not_ge]
  rfl

/-! ### AC.WAIT -/

theorem exec_acWait_of_reached (h : s.issues g 0x24) (hz : (s.issueOf g.toNat).f 31 30 = 0) :
    let i := s.issueOf g.toNat
    i.f 29 14 ≤ (i.gl.ctr (i.f 13 8)).toNat →
      exec (.acWait g) s = .next (s.setGlade g.toNat (i.gl.satisfied i (i.f 13 8) (i.f 29 14))) := by
  intro i hr
  rw [exec_acWait, execAcWait, atInstr_form_of_issues h rfl hz]
  exact congrArg _ (if_pos hr)

theorem exec_acWait_of_short (h : s.issues g 0x24) (hz : (s.issueOf g.toNat).f 31 30 = 0) :
    let i := s.issueOf g.toNat
    (i.gl.ctr (i.f 13 8)).toNat < i.f 29 14 → exec (.acWait g) s = .next (s.setGlade g.toNat
      { i.gl with mode := .waitCtr (BitVec.ofNat 6 (i.f 13 8)) (BitVec.ofNat 16 (i.f 29 14)) false }) := by
  intro i hr
  rw [exec_acWait, execAcWait, atInstr_form_of_issues h rfl hz]
  exact congrArg _ (if_neg hr.not_ge)

theorem exec_acWaitSatisfied_of_reached {c : BitVec 6} {t : BitVec 16} {late : Bool} :
    let i := s.issueOf g.toNat
    i.gl.mode = .waitCtr c t late → t.toNat ≤ (i.gl.ctr c.toNat).toNat →
      exec (.acWaitSatisfied g) s = .next ((s.lateXchg late).setGlade g.toNat (i.gl.satisfied i c.toNat t.toNat)) := by
  intro i hm hr
  rw [exec_acWaitSatisfied, execAcWaitSatisfied, hm]
  exact if_pos hr

/-! ### XC.WAIT -/

section
variable {i : Issue} {c t : Nat}

theorem State.xcArrived_of_reached (h : t ≤ (i.gl.ctr c).toNat) :
    s.xcArrived i c t = s.setGlade i.g (i.gl.satisfied i c t) := if_pos h

theorem State.xcArrived_of_short (h : (i.gl.ctr c).toNat < t) : s.xcArrived i c t = s.setGlade i.g
    { i.gl with mode := .waitCtr (BitVec.ofNat 6 c) (BitVec.ofNat 16 t) true } := if_neg h.not_ge

end

theorem exec_xcWait_of_early (h : s.issues g 0x27) :
    let i := s.issueOf g.toNat
    let till := i.gl.gpr (i.f 31 27)
    s.rt < till.toNat → exec (.xcWait g) s = .next (s.setGlade g.toNat
      { i.gl with mode := .waitTime till (BitVec.ofNat 6 (i.f 13 8)) (BitVec.ofNat 16 (i.f 26 14)) }) := by
  intro i till hr
  rw [exec_xcWait, execXcWait, atInstr_of_issues h rfl]
  exact congrArg _ (if_neg hr.not_ge)

theorem exec_xcWait_of_arrived (h : s.issues g 0x27) :
    let i := s.issueOf g.toNat
    (i.gl.gpr (i.f 31 27)).toNat ≤ s.rt → exec (.xcWait g) s = .next (s.xcArrived i (i.f 13 8) (i.f 26 14)) := by
  intro i hr
  rw [exec_xcWait, execXcWait, atInstr_of_issues h rfl]
  exact congrArg _ (if_pos hr)

theorem exec_xcWaitTimeReached_of_arrived {till : DWord} {c : BitVec 6} {t : BitVec 16} :
    let i := s.issueOf g.toNat
    i.gl.mode = .waitTime till c t → till.toNat ≤ s.rt →
      exec (.xcWaitTimeReached g) s = .next (s.xcArrived i c.toNat t.toNat) := by
  intro i hm hr
  rw [exec_xcWaitTimeReached, execXcWaitTimeReached, hm]
  exact if_pos hr

/-! ### The expiry -/

/-- A glade stopped at a wait that has expired, its step abandoned with a class 0x06 record (R182). -/
def State.expired (s : State) (i : Issue) (detail : List Byte) : State :=
  ((s.setGlade i.g { i.gl with mode := .stopped }).bump Reg.gldWexp 1).abandonFault i.p
    { cls := 0x06, cause := 0, glade := some i.g, pc := i.pc, detail } false

/-- A glade at an ENG.FENCE on busy queues waits there. -/
theorem State.atFence_of_issues (h : s.issues g 0x28) (hz : (s.issueOf g.toNat).f 31 12 = 0)
    (hw : (s.issueOf g.toNat).gl.fenceWaits ((s.issueOf g.toNat).f 11 8) = true) :
    s.atFence (s.issueOf g.toNat) = true := by
  obtain ⟨hrun, htarget, hop⟩ := h
  have hrun' : s.gladeRuns (s.issueOf g.toNat).g = true := hrun
  have htarget' : (s.issueOf g.toNat).gl.badTarget (s.issueOf g.toNat).pc = false := htarget
  simp [State.atFence, hrun', htarget', hop, hz, hw]

section Due
variable (hdue : s.deadline (s.glade g.toNat) ≤ s.rt) (hheld : s.readHeld (s.issueOf g.toNat).p = false)
include hdue hheld

/-- A wait is due at its deadline, while no read of its plot is held (R182, R324). -/
theorem waitExpiry_due :
    (decide (s.deadline (s.issueOf g.toNat).gl ≤ s.rt) && !s.readHeld (s.issueOf g.toNat).p) = true := by
  have hdue' : s.deadline (s.issueOf g.toNat).gl ≤ s.rt := hdue
  simp [hdue', hheld]

theorem exec_waitExpiry_of_waitCtr {c : BitVec 6} {t : BitVec 16} {late : Bool} :
    let i := s.issueOf g.toNat
    i.gl.mode = .waitCtr c t late → (i.gl.ctr c.toNat).toNat < t.toNat →
      exec (.waitExpiry g) s = .next (s.expired i (waitDetail c.toNat t.toNat (i.gl.ctr c.toNat).toNat)) := by
  intro i hm hr
  rw [exec_waitExpiry, execWaitExpiry]
  dsimp only
  rw [if_pos (waitExpiry_due hdue hheld), hm]
  exact if_neg hr.not_ge

theorem exec_waitExpiry_of_waitTime {till : DWord} {c : BitVec 6} {t : BitVec 16} :
    let i := s.issueOf g.toNat
    i.gl.mode = .waitTime till c t → s.rt < till.toNat →
      exec (.waitExpiry g) s = .next (s.expired i (waitDetail c.toNat t.toNat (i.gl.ctr c.toNat).toNat)) := by
  intro i hm hr
  rw [exec_waitExpiry, execWaitExpiry]
  dsimp only
  rw [if_pos (waitExpiry_due hdue hheld), hm]
  exact if_neg hr.not_ge

theorem exec_waitExpiry_of_fence (h : s.issues g 0x28) (hz : (s.issueOf g.toNat).f 31 12 = 0)
    (hw : (s.issueOf g.toNat).gl.fenceWaits ((s.issueOf g.toNat).f 11 8) = true) :
    exec (.waitExpiry g) s = .next (s.expired (s.issueOf g.toNat) (waitDetail 0 0 0)) := by
  have hm : (s.issueOf g.toNat).gl.mode = .running := State.mode_of_gladeRuns h.1
  rw [exec_waitExpiry, execWaitExpiry]
  dsimp only
  rw [if_pos (waitExpiry_due hdue hheld), hm]
  exact if_pos (State.atFence_of_issues h hz hw)

end Due
end Waits

theorem waitDetail_zero : waitDetail 0 0 0 = zeroBytes 8 := rfl

/-- Settles O12: each command by the count, the ring count and the deadline that its wait meets. -/
theorem arrivalCountersAndWaits : Obligations.ArrivalCountersAndWaits := by
  refine ⟨⟨fun s g => ⟨exec_acPoll_of_issues, exec_acAdd_of_issues, fun h hz => ⟨?_, ?_⟩, ?_, fun h => ⟨?_, ?_, ?_⟩, ?_⟩,
    fun s g c n => ⟨State.countUp_of_le, State.countUp_of_lt⟩⟩, fun s g hdue hheld => ⟨?_, ?_, ?_⟩⟩
  · exact exec_acWait_of_reached h hz
  · exact exec_acWait_of_short h hz
  · exact fun c t late => exec_acWaitSatisfied_of_reached
  · exact exec_xcWait_of_early h
  · exact fun htill hr => (exec_xcWait_of_arrived h htill).trans (congrArg _ (State.xcArrived_of_reached hr))
  · exact fun htill hr => (exec_xcWait_of_arrived h htill).trans (congrArg _ (State.xcArrived_of_short hr))
  · intro till c t hm htill
    rw [exec_xcWaitTimeReached_of_arrived hm htill]
    exact ⟨fun hr => congrArg _ (State.xcArrived_of_reached hr), fun hr => congrArg _ (State.xcArrived_of_short hr)⟩
  · exact fun c t late => exec_waitExpiry_of_waitCtr hdue hheld
  · exact fun till c t => exec_waitExpiry_of_waitTime hdue hheld
  · intro h hz hw
    rw [exec_waitExpiry_of_fence hdue hheld h hz hw, waitDetail_zero]
    rfl

end Sys2Proof.Machine

/-!
# Messages of the mesh

The message that a pair of glades takes off the mesh, what its arrival does by its kind, its attempt and the first cause of
refusal (R187 to R190), and from them the statement of the messages that arrive.
-/

namespace Sys2Proof.Machine

/-! ### Taking a message -/

theorem takeFirst_route {src dst : Nat} {m : MeshMsg} : ∀ {ms rest : List MeshMsg},
    takeFirst src dst ms = some (m, rest) → (routeOf m.route).src = src ∧ (routeOf m.route).dst = dst
  | [], _, h => by cases h
  | x :: xs, rest, h => by
    unfold takeFirst at h
    dsimp only at h
    split at h
    next hx =>
      cases h
      exact hx
    next =>
      split at h
      next => cases h
      next y hy =>
        cases h
        exact takeFirst_route hy

/-- A message taken off the mesh goes from the one glade to the other, and nothing but the mesh changes. -/
theorem State.takeMsg_cases {s s1 : State} {src dst : Nat} {m : MeshMsg} (h : s.takeMsg src dst = some (m, s1)) :
    (routeOf m.route).src = src ∧ (routeOf m.route).dst = dst ∧ ∃ ms, s1 = { s with mesh := ms } := by
  unfold State.takeMsg at h
  split at h
  next => cases h
  next x hx =>
    cases h
    obtain ⟨hsrc, hdst⟩ := takeFirst_route hx
    exact ⟨hsrc, hdst, x.2, rfl⟩

/-! ### Writing a message -/

@[simp] theorem Glade.writeMasked_accepted : ∀ {ws : List (Nat × Byte × Byte)} {gl : Glade},
    (gl.writeMasked ws).accepted = gl.accepted
  | [], _ => rfl
  | _ :: ws, _ => Glade.writeMasked_accepted (ws := ws)

@[simp] theorem Glade.writeFor_accepted {gl : Glade} {q : Option (BitVec 2)} {c : Option (BitVec 6)} {a : Nat}
    {bs : List Byte} : (gl.writeFor q c a bs).accepted = gl.accepted := rfl

@[simp] theorem Glade.maskFor_accepted {gl : Glade} {q : Option (BitVec 2)} {c : Option (BitVec 6)}
    {ws : List (Nat × Byte × Byte)} : (gl.maskFor q c ws).accepted = gl.accepted := Glade.writeMasked_accepted

/-- A message accepted adds its counter, plot and attempt to those that its glade has accepted (R442 step 5). -/
theorem State.acceptWrite_eq {s : State} {m : MeshMsg} {r : Route} :
    s.acceptWrite m r = (s.setGlade r.dst
      { ((s.glade r.dst).writeFor none (some (BitVec.ofNat 6 r.ctr)) (8 * r.addr) m.bytes).maskFor none
          (some (BitVec.ofNat 6 r.ctr)) m.extra with
        accepted := (BitVec.ofNat 6 r.ctr, BitVec.ofNat 6 r.plot, BitVec.ofNat 2 r.attempt) :: (s.glade r.dst).accepted }).countUp
      r.dst r.ctr 1 := by
  simp only [State.acceptWrite, Glade.maskFor_accepted, Glade.writeFor_accepted]

/-- What a write message meets at its glade: the refusal that a cause brings (R189), or its acceptance (R187). -/
def State.answer (s : State) (m : MeshMsg) : Option Nat → State
  | some c => s.refuse (routeOf m.route) m.route c
  | none => s.acceptWrite m (routeOf m.route)

@[simp] theorem State.answer_some {s : State} {m : MeshMsg} {c : Nat} :
    s.answer m (some c) = s.refuse (routeOf m.route) m.route c := rfl

@[simp] theorem State.answer_none {s : State} {m : MeshMsg} : s.answer m none = s.acceptWrite m (routeOf m.route) := rfl

/-! ### Latching a refusal -/

/-- A glade told of a refusal: SR_NACK and SR_NACKC keep an unread one (R190). -/
def Glade.told (gl : Glade) (w : DWord) (c : Nat) : Glade :=
  if gl.nack = 0 then { gl with nack := w, nackc := BitVec.ofNat 4 c } else gl

@[simp] theorem Glade.told_plot {gl : Glade} {w : DWord} {c : Nat} : (gl.told w c).plot = gl.plot := by
  unfold Glade.told
  split <;> rfl

/-! ### The arrivals -/

theorem exec_messageArrival {s : State} {src dst : BitVec 10} :
    exec (.messageArrival src dst) s = execMessageArrival src dst s := rfl

theorem exec_refusalArrival {s : State} {src dst : BitVec 10} :
    exec (.refusalArrival src dst) s = execRefusalArrival src dst s := rfl

section Arrivals
variable {s s1 : State} {src dst : BitVec 10} {m : MeshMsg} (hm : s.takeMsg src.toNat dst.toNat = some (m, s1))
include hm

theorem State.takeMsg_dst : (routeOf m.route).dst = dst.toNat := (State.takeMsg_cases hm).2.1

theorem State.takeMsg_plot {p : Nat} : s1.plot p = s.plot p := by
  obtain ⟨-, -, ms, rfl⟩ := State.takeMsg_cases hm
  rfl

/-- R188: a message of an older attempt is discarded. -/
theorem exec_messageArrival_of_older (hk : (routeOf m.route).kind = 0)
    (ha : (s.plot (routeOf m.route).plot).tag.toNat ≠ (routeOf m.route).attempt) :
    exec (.messageArrival src dst) s = .next s1 := by
  rw [← State.takeMsg_plot hm] at ha
  rw [exec_messageArrival, execMessageArrival, hm]
  dsimp only
  rw [if_neg (not_not_intro hk), if_pos ha]

/-- R187, R189: a message of the current attempt is answered by the first cause that refuses it. -/
theorem exec_messageArrival_of_current (hk : (routeOf m.route).kind = 0)
    (ha : (s.plot (routeOf m.route).plot).tag.toNat = (routeOf m.route).attempt) :
    let r := routeOf m.route
    exec (.messageArrival src dst) s =
      .next (s1.answer m (s1.refusalCause r.dst ((s1.glade r.dst).admits r.plot (m.addrs r)) r.ctr)) := by
  intro r
  rw [← State.takeMsg_plot hm] at ha
  rw [exec_messageArrival, execMessageArrival, hm]
  dsimp only
  rw [if_neg (not_not_intro hk), if_neg (not_not_intro ha)]
  cases s1.refusalCause r.dst ((s1.glade r.dst).admits r.plot (m.addrs r)) r.ctr <;> rfl

/-- R190: a refusal of the current attempt is latched, counted and recorded. -/
theorem exec_refusalArrival_of_current (hk : (routeOf m.route).kind = 2)
    (ha : (s.plot (s1.glade (routeOf m.route).dst).plot.toNat).tag.toNat = (routeOf m.route).attempt) :
    let g := (routeOf m.route).dst
    let gl := s1.glade g
    let w := BitVec.ofNat 64 (leAt m.bytes 0 8)
    let c := leAt m.bytes 8 1
    exec (.refusalArrival src dst) s = .next
      ((((s1.setGlade g (gl.told w c)).countUp g 63 1).bump Reg.gldNack 1).plotFault gl.plot.toNat
        { cls := 0x08, cause := c, glade := some g, detail := leBytes 8 w.toNat }) := by
  intro g gl w c
  rw [← State.takeMsg_plot hm] at ha
  rw [← Glade.told_plot (gl := gl) (w := w) (c := c)]
  rw [exec_refusalArrival, execRefusalArrival, hm]
  dsimp only
  rw [if_neg (not_not_intro hk), if_neg (not_not_intro ha)]
  rfl

end Arrivals

/-- Settles O27: the message taken is one for the named glade, and its kind, its attempt and the first cause of refusal say
what its arrival does. -/
theorem messagesArrive : Obligations.MessagesArrive := by
  intro s src dst m s1 hm
  rw [← State.takeMsg_dst hm]
  refine ⟨fun hk => ⟨exec_messageArrival_of_older hm hk, fun ha => ⟨?_, ?_⟩⟩, ?_⟩
  · intro hc
    rw [exec_messageArrival_of_current hm hk ha, hc, State.answer_none, State.acceptWrite_eq]
  · intro c hc
    rw [exec_messageArrival_of_current hm hk ha, hc, State.answer_some]
    rfl
  · exact exec_refusalArrival_of_current hm

end Sys2Proof.Machine

/-!
# Every command

What each command keeps, put together over the commands, gives the invariants of a step. That every command that names
existing units answers a next state follows from the operations that the commands share: each of them answers one.
-/

namespace Sys2Proof.Machine

/-! ### What a step keeps -/

/-- Whatever the command and the state, a next state keeps what `Keeps` says. -/
theorem exec_keeps (s : State) : ∀ c : Instr, KeepsOut s (exec c s)
  | .lowWordReadLatch _ => execLowWordReadLatch_keeps (.refl s)
  | .readClearRead _ => execReadClearRead_keeps (.refl s)
  | .registerWrite _ _ => execRegisterWrite_keeps (.refl s)
  | .powerFailWarning _ => execPowerFailWarning_keeps (.refl s)
  | .inputRecovery _ => execInputRecovery_keeps (.refl s)
  | .groveClockResume => execGroveClockResume_keeps (.refl s)
  | .underVoltageOff _ => execUnderVoltageOff_keeps (.refl s)
  | .rangerDomainCutoff _ => execRangerDomainCutoff_keeps (.refl s)
  | .inputReturn _ => execInputReturn_keeps (.refl s)
  | .overVoltageShutdown _ => execOverVoltageShutdown_keeps (.refl s)
  | .overVoltageRecovery _ => execOverVoltageRecovery_keeps (.refl s)
  | .powerOnSequence => execPowerOnSequence_keeps (.refl s)
  | .sequenceStepPowerGood => execSequenceStepPowerGood_keeps (.refl s)
  | .railPowerGoodMiss _ => execRailPowerGoodMiss_keeps (.refl s)
  | .powerDownSequence => execPowerDownSequence_keeps (.refl s)
  | .perstNFall => execPerstNFall_keeps (.refl s)
  | .perstNRise _ => execPerstNRise_keeps (.refl s)
  | .rackReferenceLoss => execRackReferenceLoss_keeps (.refl s)
  | .orefLoss => execOrefLoss_keeps (.refl s)
  | .orefReturn => execOrefReturn_keeps (.refl s)
  | .svcHoldAssert => execSvcHoldAssert_keeps (.refl s)
  | .svcHoldRelease => execSvcHoldRelease_keeps (.refl s)
  | .smbusPartNumber => execSmbusPartNumber_keeps (.refl s)
  | .smbusSerialNumber => execSmbusSerialNumber_keeps (.refl s)
  | .smbusInputVoltage => execSmbusInputVoltage_keeps (.refl s)
  | .smbusInputPower => execSmbusInputPower_keeps (.refl s)
  | .smbusJunctionTemp => execSmbusJunctionTemp_keeps (.refl s)
  | .smbusBoardStatus _ => execSmbusBoardStatus_keeps (.refl s)
  | .smbusRestart => execSmbusRestart_keeps (.refl s)
  | .smbusFullRestart => execSmbusFullRestart_keeps (.refl s)
  | .smbusAlertResponse => execSmbusAlertResponse_keeps (.refl s)
  | .smbusWindowWrite _ => execSmbusWindowWrite_keeps (.refl s)
  | .smbusWindowRead _ => execSmbusWindowRead_keeps (.refl s)
  | .thermalTrip _ _ _ => execThermalTrip_keeps (.refl s)
  | .leakDetect _ => execLeakDetect_keeps (.refl s)
  | .stepBoundary => execStepBoundary_keeps (.refl s)
  | .stepPeriodWrite _ => execStepPeriodWrite_keeps (.refl s)
  | .stepBaseWrite _ _ => execStepBaseWrite_keeps (.refl s)
  | .stepStop => execStepStop_keeps (.refl s)
  | .batchRelease => execBatchRelease_keeps (.refl s)
  | .broadcastArrival => execBroadcastArrival_keeps (.refl s)
  | .numLrecBaseWrite _ => execNumLrecBaseWrite_keeps (.refl s)
  | .thkLdw _ => execThkLdw_keeps (.refl s)
  | .thkMm _ => execThkMm_keeps (.refl s)
  | .accOpen _ => execAccOpen_keeps (.refl s)
  | .accLoad _ => execAccLoad_keeps (.refl s)
  | .accSave _ => execAccSave_keeps (.refl s)
  | .chainAdd _ => execChainAdd_keeps (.refl s)
  | .chainSend _ => execChainSend_keeps (.refl s)
  | .atomAdd _ => execAtomAdd_keeps (.refl s)
  | .atomicContributionArrival _ _ => execAtomicContributionArrival_keeps (.refl s)
  | .accHcfg _ => execAccHcfg_keeps (.refl s)
  | .accHdrn _ => execAccHdrn_keeps (.refl s)
  | .outTile _ => execOutTile_keeps (.refl s)
  | .grfUpd _ => execGrfUpd_keeps (.refl s)
  | .grfUpdHold _ => execGrfUpdHold_keeps (.refl s)
  | .spuEw _ => execSpuEw_keeps (.refl s)
  | .spuOp _ => execSpuOp_keeps (.refl s)
  | .spuGm _ => execSpuGm_keeps (.refl s)
  | .boleLdw _ => execBoleLdw_keeps (.refl s)
  | .boleMm _ => execBoleMm_keeps (.refl s)
  | .boleEw _ => execBoleEw_keeps (.refl s)
  | .boleOut _ => execBoleOut_keeps (.refl s)
  | .boleSelw _ => execBoleSelw_keeps (.refl s)
  | .nop _ => execNop_keeps (.refl s)
  | .addOp _ => execAddOp_keeps (.refl s)
  | .subOp _ => execSubOp_keeps (.refl s)
  | .andOp _ => execAndOp_keeps (.refl s)
  | .orOp _ => execOrOp_keeps (.refl s)
  | .xorOp _ => execXorOp_keeps (.refl s)
  | .shl _ => execShl_keeps (.refl s)
  | .shr _ => execShr_keeps (.refl s)
  | .sha _ => execSha_keeps (.refl s)
  | .slt _ => execSlt_keeps (.refl s)
  | .sltu _ => execSltu_keeps (.refl s)
  | .addi _ => execAddi_keeps (.refl s)
  | .ld _ => execLd_keeps (.refl s)
  | .st _ => execSt_keeps (.refl s)
  | .ld4 _ => execLd4_keeps (.refl s)
  | .st4 _ => execSt4_keeps (.refl s)
  | .beq _ => execBeq_keeps (.refl s)
  | .bne _ => execBne_keeps (.refl s)
  | .blt _ => execBlt_keeps (.refl s)
  | .bge _ => execBge_keeps (.refl s)
  | .jal _ => execJal_keeps (.refl s)
  | .jr _ => execJr_keeps (.refl s)
  | .srRd _ => execSrRd_keeps (.refl s)
  | .srWr _ => execSrWr_keeps (.refl s)
  | .acWait _ => execAcWait_keeps (.refl s)
  | .acWaitSatisfied _ => execAcWaitSatisfied_keeps (.refl s)
  | .acPoll _ => execAcPoll_keeps (.refl s)
  | .acAdd _ => execAcAdd_keeps (.refl s)
  | .xcWait _ => execXcWait_keeps (.refl s)
  | .xcWaitTimeReached _ => execXcWaitTimeReached_keeps (.refl s)
  | .waitExpiry _ => execWaitExpiry_keeps (.refl s)
  | .engFence _ => execEngFence_keeps (.refl s)
  | .lsAcq _ => execLsAcq_keeps (.refl s)
  | .lsRen _ => execLsRen_keeps (.refl s)
  | .lsRel _ => execLsRel_keeps (.refl s)
  | .leaseGrant _ => execLeaseGrant_keeps (.refl s)
  | .leaseRequestTimeout _ => execLeaseRequestTimeout_keeps (.refl s)
  | .leaseExpiry _ => execLeaseExpiry_keeps (.refl s)
  | .stepEnd _ => execStepEnd_keeps (.refl s)
  | .li _ => execLi_keeps (.refl s)
  | .msgSend _ => execMsgSend_keeps (.refl s)
  | .memRd _ => execMemRd_keeps (.refl s)
  | .memRdComplete _ _ _ _ => execMemRdComplete_keeps (.refl s)
  | .memWr _ => execMemWr_keeps (.refl s)
  | .memWrComplete _ _ => execMemWrComplete_keeps (.refl s)
  | .messageArrival _ _ => execMessageArrival_keeps (.refl s)
  | .refusalArrival _ _ => execRefusalArrival_keeps (.refl s)
  | .gladeFailure _ _ => execGladeFailure_keeps (.refl s)
  | .gladeRemapRefillDone _ => execGladeRemapRefillDone_keeps (.refl s)
  | .cnpApp _ _ => execCnpApp_keeps (.refl s)
  | .cnpAtt _ _ => execCnpAtt_keeps (.refl s)
  | .canopyInstructionAccept _ => execCanopyInstructionAccept_keeps (.refl s)
  | .sliceReadComplete _ _ _ _ => execSliceReadComplete_keeps (.refl s)
  | .latePage _ _ => execLatePage_keeps (.refl s)
  | .clearing => execClearing_keeps (.refl s)
  | .clearingComplete => execClearingComplete_keeps (.refl s)
  | .admitReq _ => execAdmitReq_keeps (.refl s)
  | .appendReq _ => execAppendReq_keeps (.refl s)
  | .cancelReq _ => execCancelReq_keeps (.refl s)
  | .pauseReq _ => execPauseReq_keeps (.refl s)
  | .resumeReq _ => execResumeReq_keeps (.refl s)
  | .loadGraft _ => execLoadGraft_keeps (.refl s)
  | .loadGraftAbort _ => execLoadGraftAbort_keeps (.refl s)
  | .graftData _ => execGraftData_keeps (.refl s)
  | .graftVerifyComplete _ => execGraftVerifyComplete_keeps (.refl s)
  | .graftLoadTimeout _ => execGraftLoadTimeout_keeps (.refl s)
  | .phaseHint _ => execPhaseHint_keeps (.refl s)
  | .opPoint _ => execOpPoint_keeps (.refl s)
  | .hostAck _ => execHostAck_keeps (.refl s)
  | .ohmipAckSend => execOhmipAckSend_keeps (.refl s)
  | .loadRec _ => execLoadRec_keeps (.refl s)
  | .bundleIn _ => execBundleIn_keeps (.refl s)
  | .repairRec _ => execRepairRec_keeps (.refl s)
  | .sealBundle _ => execSealBundle_keeps (.refl s)
  | .rteRoute _ _ => execRteRoute_keeps (.refl s)
  | .routingInstructionAccept _ => execRoutingInstructionAccept_keeps (.refl s)
  | .rteSend _ _ => execRteSend_keeps (.refl s)
  | .rteRet _ _ => execRteRet_keeps (.refl s)
  | .routeCopyArrival _ _ => execRouteCopyArrival_keeps (.refl s)
  | .endMarkArrival _ _ => execEndMarkArrival_keeps (.refl s)
  | .routeAnswerArrival _ _ => execRouteAnswerArrival_keeps (.refl s)
  | .layerFinalise _ _ => execLayerFinalise_keeps (.refl s)
  | .shpLd _ _ => execShpLd_keeps (.refl s)
  | .engN _ => execEngN_keeps (.refl s)
  | .shpSt _ => execShpSt_keeps (.refl s)
  | .sctMask _ _ => execSctMask_keeps (.refl s)
  | .sctAud _ _ => execSctAud_keeps (.refl s)
  | .memoryTraining _ _ => execMemoryTraining_keeps (.refl s)
  | .memRetrain _ => execMemRetrain_keeps (.refl s)
  | .memHint _ => execMemHint_keeps (.refl s)
  | .migrationVisit => execMigrationVisit_keeps (.refl s)
  | .migrationCopyComplete _ => execMigrationCopyComplete_keeps (.refl s)
  | .countHalvingTick => execCountHalvingTick_keeps (.refl s)
  | .hintLapse _ => execHintLapse_keeps (.refl s)
  | .repairRetryComplete _ _ => execRepairRetryComplete_keeps (.refl s)
  | .repairMirrorComplete _ _ => execRepairMirrorComplete_keeps (.refl s)
  | .writebackVerifyComplete _ _ => execWritebackVerifyComplete_keeps (.refl s)
  | .repairHostTimeout _ => execRepairHostTimeout_keeps (.refl s)
  | .patrolRead _ => execPatrolRead_keeps (.refl s)
  | .memTgStart _ => execMemTgStart_keeps (.refl s)
  | .memTgStop _ => execMemTgStop_keeps (.refl s)
  | .memTgRunComplete _ _ _ => execMemTgRunComplete_keeps (.refl s)
  | .understoryRetiming => execUnderstoryRetiming_keeps (.refl s)
  | .fabSend _ => execFabSend_keeps (.refl s)
  | .fabricMessageArrival _ _ => execFabricMessageArrival_keeps (.refl s)
  | .resendRequest _ _ _ => execResendRequest_keeps (.refl s)
  | .skajorLinkStatus _ _ _ => execSkajorLinkStatus_keeps (.refl s)
  | .skajorReplayRequest _ _ => execSkajorReplayRequest_keeps (.refl s)
  | .skajorUncorrectableBlock _ _ => execSkajorUncorrectableBlock_keeps (.refl s)
  | .switchBlock _ => execSwitchBlock_keeps (.refl s)
  | .laneLockLoss _ _ => execLaneLockLoss_keeps (.refl s)
  | .skajorPortTraining _ _ => execSkajorPortTraining_keeps (.refl s)
  | .downItem _ _ => execDownItem_keeps (.refl s)
  | .frameMarkerPulse => execFrameMarkerPulse_keeps (.refl s)
  | .phaseMeasurementTimer _ => execPhaseMeasurementTimer_keeps (.refl s)
  | .phaseRequest _ _ t1 => execPhaseRequest_keeps (_t1 := t1) (.refl s)
  | .phaseResponse _ _ _ _ _ => execPhaseResponse_keeps (.refl s)
  | .rootRingLoad => execRootRingLoad_keeps (.refl s)
  | .ringLoadArm _ => execRingLoadArm_keeps (.refl s)
  | .rackReferenceReturn _ => execRackReferenceReturn_keeps (.refl s)
  | .holdoverExpiry => execHoldoverExpiry_keeps (.refl s)
  | .freqRoundSend => execFreqRoundSend_keeps (.refl s)
  | .freqFinalSend => execFreqFinalSend_keeps (.refl s)
  | .freqRoundItem _ _ _ => execFreqRoundItem_keeps (.refl s)
  | .freqFinalItem _ _ _ => execFreqFinalItem_keeps (.refl s)
  | .freqLowerItem _ _ _ => execFreqLowerItem_keeps (.refl s)
  | .freqRailPreraise => execFreqRailPreraise_keeps (.refl s)
  | .freqApply => execFreqApply_keeps (.refl s)
  | .alaporFrame _ => execAlaporFrame_keeps (.refl s)
  | .wake => execWake_keeps (.refl s)
  | .alaporRestart => execAlaporRestart_keeps (.refl s)
  | .alaporFullRestart => execAlaporFullRestart_keeps (.refl s)
  | .alaporTraining _ => execAlaporTraining_keeps (.refl s)
  | .alaporLinkDown _ => execAlaporLinkDown_keeps (.refl s)
  | .ohmipTraining _ => execOhmipTraining_keeps (.refl s)
  | .hello _ _ _ => execHello_keeps (.refl s)
  | .ohmipLinkStatus _ _ => execOhmipLinkStatus_keeps (.refl s)
  | .ohmipReplayRequest _ => execOhmipReplayRequest_keeps (.refl s)
  | .ohmipUncorrectableBlock _ => execOhmipUncorrectableBlock_keeps (.refl s)
  | .ohmipLaneLoss lane => execOhmipLaneLoss_keeps (_lane := lane) (.refl s)
  | .verifyImage => execVerifyImage_keeps (.refl s)
  | .storeImage _ => execStoreImage_keeps (.refl s)
  | .stageImage _ => execStageImage_keeps (.refl s)
  | .applyImage _ => execApplyImage_keeps (.refl s)
  | .rollback => execRollback_keeps (.refl s)
  | .reload => execReload_keeps (.refl s)
  | .imageCancel => execImageCancel_keeps (.refl s)
  | .bootSlot _ => execBootSlot_keeps (.refl s)
  | .bootImageApply _ _ => execBootImageApply_keeps (.refl s)
  | .drainLimitExpiry => execDrainLimitExpiry_keeps (.refl s)
  | .wardenPeriod _ => execWardenPeriod_keeps (.refl s)
  | .railSettled _ => execRailSettled_keeps (.refl s)
  | .droopDetect _ => execDroopDetect_keeps (.refl s)
  | .droopRecovery _ _ => execDroopRecovery_keeps (.refl s)
  | .ageingReport _ _ => execAgeingReport_keeps (.refl s)
  | .marginalGraceExpiry _ => execMarginalGraceExpiry_keeps (.refl s)
  | .latencyToleranceWrite _ => execLatencyToleranceWrite_keeps (.refl s)
  | .suspendArm _ => execSuspendArm_keeps (.refl s)
  | .resumeArm _ => execResumeArm_keeps (.refl s)
  | .idleEntry => execIdleEntry_keeps (.refl s)
  | .s1Exit => execS1Exit_keeps (.refl s)
  | .idleExit => execIdleExit_keeps (.refl s)
  | .replayStart _ => execReplayStart_keeps (.refl s)
  | .leaseRevoke _ => execLeaseRevoke_keeps (.refl s)
  | .leaseRevokePlot _ => execLeaseRevokePlot_keeps (.refl s)
  | .lifetimeSnapshot _ _ => execLifetimeSnapshot_keeps (.refl s)
  | .lifeFlush _ _ _ => execLifeFlush_keeps (.refl s)
  | .historyEntryWrite => execHistoryEntryWrite_keeps (.refl s)
  | .calendarCommit _ => execCalendarCommit_keeps (.refl s)
  | .certRead _ _ => execCertRead_keeps (.refl s)
  | .quote _ _ => execQuote_keeps (.refl s)
  | .opEnroll _ _ => execOpEnroll_keeps (.refl s)
  | .tenEnroll _ _ => execTenEnroll_keeps (.refl s)
  | .tenKey _ _ => execTenKey_keeps (.refl s)
  | .tenDrop _ _ => execTenDrop_keeps (.refl s)
  | .dbgChal _ _ => execDbgChal_keeps (.refl s)
  | .dbgAuth _ _ => execDbgAuth_keeps (.refl s)
  | .fwStore _ _ => execFwStore_keeps (.refl s)
  | .svnCommit _ _ => execSvnCommit_keeps (.refl s)
  | .mailboxUnknownCode _ _ len => execMailboxUnknownCode_keeps (_len := len) (.refl s)
  | .faultWindowLatch => execFaultWindowLatch_keeps (.refl s)
  | .faultPop _ => execFaultPop_keeps (.refl s)
  | .jtagInstruction _ _ _ _ _ => execJtagInstruction_keeps (.refl s)
  | .frameMarkerAbsent => execFrameMarkerAbsent_keeps (.refl s)
  | .mailboxCommandComplete => execMailboxCommandComplete_keeps (.refl s)
  | .imageCommandComplete => execImageCommandComplete_keeps (.refl s)
  | .laneRetrainComplete _ _ => execLaneRetrainComplete_keeps (.refl s)

theorem keeps_of_exec {c : Instr} {s t : State} (h : exec c s = .next t) : Keeps s t := (exec_keeps s c).keeps t h

/-- A step keeps what `Keeps` says of the state without the command that it takes from the queue. -/
theorem keeps_of_step {s t : State} (h : step s = .next t) : ∃ cs, Keeps { s with pending := cs } t := by
  unfold step at h
  split at h
  next hp =>
    cases h
    exact ⟨s.pending, State.tick_keeps (.refl s)⟩
  next c cs hp => exact ⟨cs, keeps_of_exec h⟩

/-- Settles O1, by the definition of the step. -/
theorem stepRunsFrontCommand : Obligations.StepRunsFrontCommand := by
  refine ⟨fun c s => rfl, fun s hs => ?_⟩
  unfold step
  rw [hs]

/-- Settles O2: at reset every table is empty. -/
theorem resetMeetsInvariants : Obligations.ResetMeetsInvariants := by
  refine ⟨⟨?_, ?_⟩, rfl, ⟨rfl, rfl, rfl⟩, rfl⟩
  · exact Nat.zero_le 1024
  · intro h
    cases h

/-- Settles O3: each command keeps the queue. -/
theorem commandsLeaveQueue : Obligations.CommandsLeaveQueue := fun _ _ _ h => (keeps_of_exec h).pending

/-- Settles O4: the command or the tick that the step is keeps the bound. -/
theorem stepKeepsFaultQueueBound : Obligations.StepKeepsFaultQueueBound := by
  intro s t h
  obtain ⟨cs, hk⟩ := keeps_of_step h
  exact hk.queue

/-- Settles O5: the command or the tick that the step is keeps the forms. -/
theorem stepKeepsCanonicalForms : Obligations.StepKeepsCanonicalForms := by
  intro s t h
  obtain ⟨cs, hk⟩ := keeps_of_step h
  exact ⟨hk.memory, hk.tables⟩

/-- Settles O6: the command or the tick that the step is does not lower the fuse value. -/
theorem minimumVersionNeverFalls : Obligations.MinimumVersionNeverFalls := by
  intro s t h
  obtain ⟨cs, hk⟩ := keeps_of_step h
  exact hk.minSvn

/-! ### The shared operations answer a next state -/

section Answers
variable {s t : State} {g : BitVec 10}

theorem onReg_next {a : Nat} : ∃ u, onReg a s t = .next u := by
  unfold onReg
  split <;> exact ⟨_, rfl⟩

theorem atEngine_next {op : Nat} {hasCount : Bool} {k : Issue → Nat → State} :
    ∃ u, atEngine s g op hasCount k = .next u := by
  unfold atEngine
  exact atInstr_next

theorem atQueueIf_next {op : Nat} {ok : Issue → Bool} : ∃ u, atQueueIf s g op ok = .next u := by
  unfold atQueueIf
  exact atEngine_next

theorem issueCanopy_next {app : Bool} : ∃ u, issueCanopy s g app = .next u := by
  unfold issueCanopy
  exact atEngine_next

theorem issueRoute_next {op hi lo size : Nat} {rsv : List (Nat × Nat)} {score : Bool} :
    ∃ u, issueRoute s g op rsv hi lo size score = .next u := by
  unfold issueRoute
  exact atEngine_next

theorem runRoute_next {op : Nat} {poison : Option (Nat × Bool)} {es : RouteInstr → State → List (Nat × Nat)}
    {k : RouteInstr → State → State} : ∃ u, runRoute s g op poison es k = .next u := by
  unfold runRoute
  repeat' split
  all_goals exact ⟨_, rfl⟩

theorem runCanopy_next {app : Bool} (h : g.toNat < 16) : ∃ u, runCanopy s g app = .next u := by
  unfold runCanopy
  dsimp only
  rw [if_neg h.not_ge]
  repeat' split
  all_goals exact ⟨_, rfl⟩

theorem takeRecord_next {chan kind : Nat} {bs : List Byte} {k : State → State} :
    ∃ u, takeRecord chan kind bs s k = .next u := by
  unfold takeRecord
  dsimp only
  repeat' split
  all_goals exact ⟨_, rfl⟩

theorem imageCommand_next {k : State → State} : ∃ u, imageCommand s k = .next u := by
  unfold imageCommand
  repeat' split
  all_goals exact ⟨_, rfl⟩

theorem mboxStart_next {smb : Bool} {code : Byte} {len : BitVec 13}
    {k : List Byte → State → State × Byte × List Byte} : ∃ u, mboxStart smb code len s k = .next u := by
  unfold mboxStart
  dsimp only
  repeat' split
  all_goals exact ⟨_, rfl⟩

theorem onPort_next {name : String} {p : BitVec 3} {k : Port → State} (h : portOk p = true) :
    ∃ u, onPort name p s k = .next u := ⟨_, if_pos (of_decide_eq_true h)⟩

theorem onItem_next {name : String} {p : BitVec 3} {w0 : DWord} {k : Port → State} (h : portOk p = true) :
    ∃ u, onItem name p w0 s k = .next u := by
  unfold onItem
  exact onPort_next h

theorem routeArrival_next {name : String} {p : BitVec 3} {item : List Byte} {kinds : List Nat} (h : portOk p = true) :
    ∃ u, routeArrival name p item kinds s = .next u := by
  unfold routeArrival
  exact onItem_next h

/-! ### Commands that name a unit -/

theorem execThermalTrip_next {stack : Bool} {unit : BitVec 3} {temp : BitVec 8}
    (h : (stack || decide (unit.toNat < 4)) = true) : ∃ u, execThermalTrip stack unit temp s = .next u := by
  have hu : ¬ (!stack && decide (4 ≤ unit.toNat)) = true := by
    cases stack <;> simp_all
  unfold execThermalTrip
  rw [if_neg hu]
  repeat' split
  all_goals exact ⟨_, rfl⟩

theorem execGladeFailure_next {phys : BitVec 11} {cause : BitVec 8} (h : physOk phys = true) :
    ∃ u, execGladeFailure phys cause s = .next u := by
  have hp : phys.toNat < 1056 := of_decide_eq_true h
  unfold execGladeFailure
  dsimp only
  rw [if_neg hp.not_ge]
  repeat' split
  all_goals exact ⟨_, rfl⟩

theorem execAgeingReport_next {phys mhz : BitVec 11} (h : physOk phys = true) :
    ∃ u, execAgeingReport phys mhz s = .next u := by
  have hp : phys.toNat < 1056 := of_decide_eq_true h
  unfold execAgeingReport
  dsimp only
  rw [if_neg hp.not_ge]
  split <;> exact ⟨_, rfl⟩

theorem execMemTgRunComplete_next {chan : BitVec 8} {flips : List (Nat × Byte)} {poisoned : List Nat}
    (h : chan.toNat < 144) : ∃ u, execMemTgRunComplete chan flips poisoned s = .next u := by
  unfold execMemTgRunComplete
  dsimp only
  rw [if_neg h.not_ge]
  split <;> exact ⟨_, rfl⟩

/-- A chain of instructions that IEEE 1149.1 gives shifts, whatever the debug grant (R27). -/
theorem execJtagInstruction_next {d0 d1 d2 d3 r : JtagIr} (h : ∀ x ∈ [d0, d1, d2, d3, r], otherCode x = none) :
    ∃ u, execJtagInstruction d0 d1 d2 d3 r s = .next u := by
  simp only [List.forall_mem_cons, List.not_mem_nil, false_implies, implies_true, and_true] at h
  obtain ⟨h0, h1, h2, h3, hr⟩ := h
  unfold execJtagInstruction
  dsimp only
  rw [List.findSome?_eq_none_iff.mpr (by simp [h0, h1, h2, h3, hr])]
  exact ⟨_, rfl⟩

end Answers

/-- A command that names existing units answers a next state, but for a JTAG instruction beyond the four of R27. -/
theorem exec_next {c : Instr} {s : State} (hc : c.wf = true)
    (hj : ∀ d0 d1 d2 d3 r, c = .jtagInstruction d0 d1 d2 d3 r → ∀ x ∈ [d0, d1, d2, d3, r], otherCode x = none) :
    ∃ t, exec c s = .next t := by
  cases c
  case nop | addOp | subOp | andOp | orOp | xorOp | shl | shr | sha | slt | sltu | addi | ld | st | ld4 | st4 | beq |
      bne | blt | bge | jal | jr | srRd | srWr | acWait | acPoll | acAdd | xcWait | engFence | lsAcq | lsRen | lsRel |
      stepEnd | li | msgSend | memRd | memWr | shpLd | engN | shpSt | memHint | fabSend =>
    dsimp only [exec, execNop, execAddOp, execSubOp, execAndOp, execOrOp, execXorOp, execShl, execShr, execSha, execSlt,
      execSltu, execAddi, execLd, execSt, execLd4, execSt4, execBeq, execBne, execBlt, execBge, execJal, execJr,
      execSrRd, execSrWr, execAcWait, execAcPoll, execAcAdd, execXcWait, execEngFence, execLsAcq, execLsRen,
      execLsRel, execStepEnd, execLi, execMsgSend, execMemRd, execMemWr, execShpLd, execEngN, execShpSt,
      execMemHint, execFabSend]
    exact atInstr_next
  case thkLdw | thkMm | accOpen | accLoad | accSave | chainAdd | chainSend | atomAdd | accHcfg | accHdrn | outTile |
      spuEw | spuOp | spuGm | boleLdw | boleMm | boleEw | boleOut | boleSelw | grfUpd | grfUpdHold =>
    dsimp only [exec, execThkLdw, execThkMm, execAccOpen, execAccLoad, execAccSave, execChainAdd, execChainSend,
      execAtomAdd, execAccHcfg, execAccHdrn, execOutTile, execSpuEw, execSpuOp, execSpuGm, execBoleLdw,
      execBoleMm, execBoleEw, execBoleOut, execBoleSelw, execGrfUpd, execGrfUpdHold]
    exact atQueueIf_next
  case stepPeriodWrite | stepBaseWrite | stepStop | numLrecBaseWrite | memRetrain | memTgStart | memTgStop |
      ringLoadArm =>
    dsimp only [exec, execStepPeriodWrite, execStepBaseWrite, execStepStop, execNumLrecBaseWrite, execMemRetrain,
      execMemTgStart, execMemTgStop, execRingLoadArm]
    exact onReg_next
  case verifyImage | storeImage | stageImage | applyImage | rollback | reload | imageCancel | bootSlot =>
    dsimp only [exec, execVerifyImage, execStoreImage, execStageImage, execApplyImage, execRollback, execReload,
      execImageCancel, execBootSlot]
    exact imageCommand_next
  case certRead | quote | opEnroll | tenEnroll | tenKey | tenDrop | dbgChal | dbgAuth | fwStore | svnCommit =>
    dsimp only [exec, execCertRead, execQuote, execOpEnroll, execTenEnroll, execTenKey, execTenDrop, execDbgChal,
      execDbgAuth, execFwStore, execSvnCommit]
    exact mboxStart_next
  case admitReq | appendReq | cancelReq | pauseReq | resumeReq | phaseHint | opPoint | graftData | loadRec |
      bundleIn | repairRec | hostAck =>
    dsimp only [exec, execAdmitReq, execAppendReq, execCancelReq, execPauseReq, execResumeReq, execPhaseHint, execOpPoint,
      execGraftData, execLoadRec, execBundleIn, execRepairRec, execHostAck]
    exact takeRecord_next
  case loadGraft | loadGraftAbort =>
    dsimp only [exec, execLoadGraft, execLoadGraftAbort]
    split
    · exact ⟨_, rfl⟩
    · exact takeRecord_next
  case routeCopyArrival | endMarkArrival | routeAnswerArrival =>
    dsimp only [exec, execRouteCopyArrival, execEndMarkArrival, execRouteAnswerArrival]
    exact routeArrival_next hc
  case fabricMessageArrival | resendRequest | skajorLinkStatus | skajorReplayRequest | downItem | phaseRequest |
      phaseResponse | freqRoundItem | freqFinalItem | freqLowerItem =>
    dsimp only [exec, execFabricMessageArrival, execResendRequest, execSkajorLinkStatus, execSkajorReplayRequest,
      execDownItem, execPhaseRequest, execPhaseResponse, execFreqRoundItem, execFreqFinalItem, execFreqLowerItem]
    exact onItem_next hc
  case skajorUncorrectableBlock | switchBlock | laneLockLoss | skajorPortTraining | phaseMeasurementTimer |
      laneRetrainComplete =>
    dsimp only [exec, execSkajorUncorrectableBlock, execSwitchBlock, execLaneLockLoss, execSkajorPortTraining,
      execPhaseMeasurementTimer, execLaneRetrainComplete]
    exact onPort_next hc
  case cnpApp stage u | cnpAtt stage u =>
    dsimp only [exec, execCnpApp, execCnpAtt]
    cases stage with
    | issue => exact issueCanopy_next
    | run poison => exact runCanopy_next (of_decide_eq_true hc)
  case rteRoute stage g | rteSend stage g | rteRet stage g | sctMask stage g | sctAud stage g =>
    dsimp only [exec, execRteRoute, execRteSend, execRteRet, execSctMask, execSctAud]
    cases stage with
    | issue => exact issueRoute_next
    | run poison => exact runRoute_next
  case thermalTrip => exact execThermalTrip_next hc
  case gladeFailure => exact execGladeFailure_next hc
  case ageingReport => exact execAgeingReport_next hc
  case memTgRunComplete => exact execMemTgRunComplete_next (of_decide_eq_true hc)
  case jtagInstruction d0 d1 d2 d3 r => exact execJtagInstruction_next (hj d0 d1 d2 d3 r rfl)
  -- Each branch of the meanings that are left ends in a next state.
  all_goals
    dsimp only [exec, execLowWordReadLatch, execReadClearRead, execRegisterWrite, execPowerFailWarning, execInputRecovery,
      execGroveClockResume, execUnderVoltageOff, execRangerDomainCutoff, execInputReturn, execOverVoltageShutdown,
      execOverVoltageRecovery, execPowerOnSequence, execSequenceStepPowerGood, execRailPowerGoodMiss,
      execPowerDownSequence, execPerstNFall, execPerstNRise, execRackReferenceLoss, execOrefLoss, execOrefReturn,
      execSvcHoldAssert, execSvcHoldRelease, execSmbusPartNumber, execSmbusSerialNumber, execSmbusInputVoltage,
      execSmbusInputPower, execSmbusJunctionTemp, execSmbusBoardStatus, execSmbusRestart, execSmbusFullRestart,
      execSmbusAlertResponse, execSmbusWindowWrite, execSmbusWindowRead, execLeakDetect, execStepBoundary,
      execBatchRelease, execBroadcastArrival, execAtomicContributionArrival, execAcWaitSatisfied,
      execXcWaitTimeReached, execWaitExpiry, execLeaseGrant, execLeaseRequestTimeout, execLeaseExpiry,
      execMemRdComplete, execMemWrComplete, execMessageArrival, execRefusalArrival, execGladeRemapRefillDone,
      execCanopyInstructionAccept, execSliceReadComplete, execLatePage, execClearing, execClearingComplete,
      execGraftVerifyComplete, execGraftLoadTimeout, execOhmipAckSend, execSealBundle, execRoutingInstructionAccept,
      execLayerFinalise, execMemoryTraining, execMigrationVisit, execMigrationCopyComplete, execCountHalvingTick,
      execHintLapse, execRepairRetryComplete, execRepairMirrorComplete, execWritebackVerifyComplete,
      execRepairHostTimeout, execPatrolRead, execUnderstoryRetiming, execFrameMarkerPulse, execRootRingLoad,
      execRackReferenceReturn, execHoldoverExpiry, execFreqRoundSend, execFreqFinalSend, execFreqRailPreraise,
      execFreqApply, execAlaporFrame, execWake, execAlaporRestart, execAlaporFullRestart, execAlaporTraining,
      execAlaporLinkDown, execOhmipTraining, execHello, execOhmipLinkStatus, execOhmipReplayRequest,
      execOhmipUncorrectableBlock, execOhmipLaneLoss, execBootImageApply, execDrainLimitExpiry, execWardenPeriod,
      execRailSettled, execDroopDetect, execDroopRecovery, execMarginalGraceExpiry, execLatencyToleranceWrite,
      execSuspendArm, execResumeArm, execIdleEntry, execS1Exit, execIdleExit, execReplayStart, execLeaseRevoke,
      execLeaseRevokePlot, execLifetimeSnapshot, execLifeFlush, execHistoryEntryWrite, execCalendarCommit,
      execMailboxUnknownCode, execFaultWindowLatch, execFaultPop, execFrameMarkerAbsent, execMailboxCommandComplete,
      execImageCommandComplete, State.smbReply]
    repeat' split
    all_goals exact ⟨_, rfl⟩

/-- Settles O7: the command answers a next state, and that state keeps what `Keeps` says. -/
theorem noCommandStopsTheBlock : Obligations.NoCommandStopsTheBlock := by
  intro c s hc hj
  obtain ⟨t, ht⟩ := exec_next hc hj
  have hk := keeps_of_exec ht
  exact ⟨t, ht, hk.pending, hk.queue, hk.memory, hk.tables, hk.minSvn⟩

end Sys2Proof.Machine

/-!
# The glade's control instructions

The scalar instructions, scratchpad accesses, branches, special registers, ENG.FENCE, ENG.N and STEP.END of a glade that stands
at its instruction, and the instruction fault.
-/

namespace Sys2Proof.Machine

section Control
variable {s : State} {g : BitVec 10} {op : Nat}

/-! ### The word after an instruction -/

/-- A glade at a one-word instruction goes on at the next word (R171). -/
theorem State.next_of_issues (h : s.issues g op) (hop : op < 0x40) :
    (s.issueOf g.toNat).next = (s.issueOf g.toNat).pc + 4 := by
  obtain ⟨-, -, ho⟩ := h
  have ho' : (s.glade g.toNat).word (s.glade g.toNat).pc % 256 = op := ho
  show (s.glade g.toNat).pc + 4 * opLen ((s.glade g.toNat).word (s.glade g.toNat).pc % 256) = (s.glade g.toNat).pc + 4
  rw [ho', opLen, if_pos hop]

/-- A glade whose program counter is no fetch target faults, whichever command asks (R171). -/
theorem atInstr_of_badTarget {k : Issue → State} (hr : s.gladeRuns g.toNat = true)
    (hb : (s.issueOf g.toNat).gl.badTarget (s.issueOf g.toNat).pc = true) :
    atInstr s g op k = .next (s.instrFault (s.issueOf g.toNat) 0x06) := by
  unfold atInstr
  dsimp only
  rw [if_pos hr, if_pos hb]

/-- A glade at an undefined opcode faults, whichever command asks (R171). -/
theorem atInstr_of_undefined {k : Issue → State} (hr : s.gladeRuns g.toNat = true)
    (hb : (s.issueOf g.toNat).gl.badTarget (s.issueOf g.toNat).pc = false)
    (ho : opDefined (s.issueOf g.toNat).op = false) :
    atInstr s g op k = .next (s.instrFault (s.issueOf g.toNat) 0x01) := by
  unfold atInstr
  dsimp only
  rw [if_pos hr, if_neg (by simp [hb]), if_pos ho]

/-! ### Scalar registers -/

@[simp] theorem Glade.gpr_zero {gl : Glade} : gl.gpr 0 = 0 := rfl

@[simp] theorem Glade.setGpr_zero {gl : Glade} {v : DWord} : gl.setGpr 0 v = gl := rfl

theorem Glade.gpr_setGpr_same {gl : Glade} {r : Nat} {v : DWord} (hr : r ≠ 0) (h : mwf 0 gl.gp = true) :
    (gl.setGpr r v).gpr r = v := by
  rw [Glade.gpr, if_neg hr, Glade.setGpr, if_neg hr]
  exact mget_mset_same h

theorem Glade.gpr_setGpr_other {gl : Glade} {r k : Nat} {v : DWord} (hk : k ≠ r) : (gl.setGpr r v).gpr k = gl.gpr k := by
  unfold Glade.setGpr
  split
  · rfl
  · unfold Glade.gpr
    split
    · rfl
    · exact mget_mset_other hk

theorem flag64_slt {x y : DWord} : flag64 (x.slt y) = if x.toInt < y.toInt then 1 else 0 := by
  simp [flag64, BitVec.slt]

theorem flag64_ult {x y : DWord} : flag64 (x.ult y) = if x.toNat < y.toNat then 1 else 0 := by
  simp [flag64, BitVec.ult]

/-! ### Scalar instructions -/

theorem atInstr_alu_of_issues {v : Issue → DWord} (h : s.issues g op) (hop : opDefined op = true)
    (hz : (s.issueOf g.toNat).f 31 23 = 0) :
    let i := s.issueOf g.toNat
    atInstr s g op (fun i => s.alu i (v i)) = .next (s.put i (i.gl.setGpr i.d (v i))) :=
  atInstr_form_of_issues h hop hz

/-- Settles O8: the commands of form R are one operation with ten results. -/
theorem scalarInstructionsCompute : Obligations.ScalarInstructionsCompute := by
  intro s g i
  refine ⟨?_, ?_, ?_, ?_, fun gl r v => ⟨rfl, rfl, Glade.gpr_setGpr_same, fun k => Glade.gpr_setGpr_other⟩⟩
  · exact fun h hz => atInstr_form_of_issues (k := fun i => s.put i i.gl) h rfl hz
  · intro c op v hmem h hz
    rw [← flag64_slt, ← flag64_ult] at hmem
    simp only [List.mem_cons, List.not_mem_nil, or_false, Prod.mk.injEq] at hmem
    obtain ⟨rfl, rfl, rfl⟩ | ⟨rfl, rfl, rfl⟩ | ⟨rfl, rfl, rfl⟩ | ⟨rfl, rfl, rfl⟩ | ⟨rfl, rfl, rfl⟩ | ⟨rfl, rfl, rfl⟩ |
      ⟨rfl, rfl, rfl⟩ | ⟨rfl, rfl, rfl⟩ | ⟨rfl, rfl, rfl⟩ | ⟨rfl, rfl, rfl⟩ := hmem
    all_goals
      dsimp only [exec, execAddOp, execSubOp, execAndOp, execOrOp, execXorOp, execShl, execShr, execSha, execSlt, execSltu]
      exact atInstr_alu_of_issues h rfl hz
  · intro h
    dsimp only [exec, execAddi]
    exact atInstr_of_issues h rfl
  · intro h hz
    dsimp only [exec, execLi]
    exact (atInstr_of_issues h rfl).trans (congrArg _ (if_pos hz))

/-! ### Scratchpad accesses -/

@[simp] theorem leBytes_length : ∀ {n x : Nat}, (leBytes n x).length = n
  | 0, _ => rfl
  | _ + 1, _ => congrArg (· + 1) leBytes_length

@[simp] theorem Glade.step_gp {gl : Glade} {i : Issue} : (gl.step i).gp = gl.gp := rfl
@[simp] theorem Glade.step_spad {gl : Glade} {i : Issue} : (gl.step i).spad = gl.spad := rfl
@[simp] theorem Glade.step_pc {gl : Glade} {i : Issue} : (gl.step i).pc = i.next := rfl
@[simp] theorem Glade.write_gp {gl : Glade} {a : Nat} {bs : List Byte} : (gl.write a bs).gp = gl.gp := rfl
@[simp] theorem Glade.write_spad {gl : Glade} {a : Nat} {bs : List Byte} : (gl.write a bs).spad = mwrite 0 gl.spad a bs := rfl

theorem spadOk_iff {a n al : Nat} : spadOk a n al = true ↔ a % al = 0 ∧ a + n ≤ 524288 := by
  rw [spadOk, Bool.and_eq_true, decide_eq_true_eq, decide_eq_true_eq, spadSize]

section Access
variable {i : Issue} {n : Nat}

theorem State.loadN_of_bad (h : i.ea % n ≠ 0 ∨ i.ea + n > 524288) : s.loadN i n = s.instrFault i 0x06 := by
  rw [State.loadN, if_neg]
  rw [spadOk_iff]
  omega

theorem State.storeN_of_bad (h : i.ea % n ≠ 0 ∨ i.ea + n > 524288) : s.storeN i n = s.instrFault i 0x06 := by
  rw [State.storeN, if_neg]
  rw [spadOk_iff]
  omega

theorem State.loadN_of_seen (ha : i.ea % n = 0) (hn : i.ea + n ≤ 524288) (hh : i.gl.hides i.ea n = false) :
    s.loadN i n = s.put i (i.gl.setGpr i.d (BitVec.ofNat 64 (i.gl.readNat i.ea n))) := by
  rw [State.loadN, if_pos (spadOk_iff.mpr ⟨ha, hn⟩), if_neg (by simp [hh])]

/-- R168: what no fence or wait has made visible is read as a free value (log entry 6). -/
theorem State.loadN_of_hidden (ha : i.ea % n = 0) (hn : i.ea + n ≤ 524288) (hh : i.gl.hides i.ea n = true) :
    ∃ v : DWord, v.toNat < 2 ^ (8 * n) ∧
      s.loadN i n = State.put { s with fresh := s.fresh + 1 } i (i.gl.setGpr i.d v) := by
  refine ⟨(Config.freeBits (8 * n) s.fresh).setWidth 64, ?_, ?_⟩
  · rw [BitVec.toNat_setWidth]
    exact (Nat.mod_le _ _).trans_lt (BitVec.isLt _)
  · rw [State.loadN, if_pos (spadOk_iff.mpr ⟨ha, hn⟩), if_pos hh]
    rfl

theorem State.storeN_of_good (ha : i.ea % n = 0) (hn : i.ea + n ≤ 524288) :
    s.storeN i n = s.put i (i.gl.write i.ea (leBytes n i.rd.toNat)) := by
  rw [State.storeN, if_pos (spadOk_iff.mpr ⟨ha, hn⟩)]

end Access

/-- Settles O9: LD and LD4 are one load and ST and ST4 one store, of eight or four bytes. -/
theorem scratchpadLoadsAndStores : Obligations.ScratchpadLoadsAndStores := by
  intro s g i
  refine ⟨?_, ?_⟩
  · intro c op n hmem h
    have hexec : exec c s = .next (s.loadN i n) := by
      simp only [List.mem_cons, List.not_mem_nil, or_false, Prod.mk.injEq] at hmem
      obtain ⟨rfl, rfl, rfl⟩ | ⟨rfl, rfl, rfl⟩ := hmem
      · exact atInstr_of_issues (k := fun i => s.loadN i 8) h rfl
      · exact atInstr_of_issues (k := fun i => s.loadN i 4) h rfl
    rw [hexec]
    refine ⟨fun ha hn => ⟨fun hh => ?_, fun hh => ?_⟩, fun hb => ?_⟩
    · rw [State.loadN_of_seen ha hn hh]
    · obtain ⟨v, hv, hl⟩ := State.loadN_of_hidden (s := s) ha hn hh
      exact ⟨v, hv, congrArg _ hl⟩
    · rw [State.loadN_of_bad hb]
  · intro c op n hmem h
    obtain ⟨hexec, hop⟩ : exec c s = .next (s.storeN i n) ∧ op < 0x40 := by
      simp only [List.mem_cons, List.not_mem_nil, or_false, Prod.mk.injEq] at hmem
      obtain ⟨rfl, rfl, rfl⟩ | ⟨rfl, rfl, rfl⟩ := hmem
      · exact ⟨atInstr_of_issues (k := fun i => s.storeN i 8) h rfl, by decide⟩
      · exact ⟨atInstr_of_issues (k := fun i => s.storeN i 4) h rfl, by decide⟩
    rw [hexec]
    refine ⟨fun ha hn ⟨_, htables, _⟩ => ?_, fun hb => ?_⟩
    · have hg : (s.put i (i.gl.write i.ea (leBytes n i.rd.toNat))).glade g.toNat =
          (i.gl.write i.ea (leBytes n i.rd.toNat)).step i := State.glade_setGlade htables
      refine ⟨_, congrArg _ (State.storeN_of_good ha hn), fun k hk => State.glade_setGlade_ne hk, ?_⟩
      rw [hg]
      refine ⟨State.next_of_issues h hop, rfl, rfl, fun a hout => ?_⟩
      rw [Glade.step_spad, Glade.write_spad]
      exact mget_mwrite_other (by simpa using hout)
    · rw [State.storeN_of_bad hb]

/-! ### Branches and jumps -/

section Jumps
variable {i : Issue} {gl : Glade} {t : Int}

theorem State.jump_of_good (h : i.gl.badTarget t = false) : s.jump i gl t = s.setGlade i.g { gl with pc := t.toNat } := by
  simp [State.jump, h]

theorem State.jump_of_bad (h : i.gl.badTarget t = true) : s.jump i gl t = s.instrFault i 0x06 := if_pos h

@[simp] theorem State.branch_true : s.branch i true = s.jump i i.gl ((i.pc : Int) + 4 * i.imm) := rfl

@[simp] theorem State.branch_false : s.branch i false = s.put i i.gl := rfl

end Jumps

theorem sltNot_eq {x y : DWord} : (!x.slt y) = decide (y.toInt ≤ x.toInt) := by
  rw [BitVec.slt, ← decide_not]
  simp only [Int.not_lt]

/-- Settles O10: the four branches are one operation with four conditions. -/
theorem branchesAndJumps : Obligations.BranchesAndJumps := by
  intro s g i at_
  refine ⟨?_, ?_, ?_⟩
  · intro c op taken hmem h
    have hexec : exec c s = .next (s.branch i taken) := by
      rw [← sltNot_eq] at hmem
      simp only [List.mem_cons, List.not_mem_nil, or_false, Prod.mk.injEq] at hmem
      obtain ⟨rfl, rfl, rfl⟩ | ⟨rfl, rfl, rfl⟩ | ⟨rfl, rfl, rfl⟩ | ⟨rfl, rfl, rfl⟩ := hmem
      all_goals
        dsimp only [exec, execBeq, execBne, execBlt, execBge]
        exact atInstr_of_issues h rfl
    rw [hexec]
    refine ⟨?_, ?_, ?_⟩
    · rintro rfl
      rfl
    · rintro rfl hb
      rw [State.branch_true, State.jump_of_good hb]
      rfl
    · rintro rfl hb
      rw [State.branch_true, State.jump_of_bad hb]
  · intro h hb
    dsimp only [exec, execJal]
    exact (atInstr_of_issues h rfl).trans (congrArg _ (State.jump_of_good hb))
  · intro h hz hb
    exact (atInstr_form_of_issues (k := fun i => s.jump i i.gl (i.ra.toNat : Int)) h rfl hz).trans
      (congrArg _ (State.jump_of_good hb))

/-! ### Special registers -/

theorem exec_srRd_of_issues (h : s.issues g 0x20) (hz : (s.issueOf g.toNat).f 31 21 = 0) :
    let i := s.issueOf g.toNat
    exec (.srRd g) s = .next (match s.specialRead i (i.f 20 13) with
      | some r => s.put i (r.2.setGpr i.d r.1)
      | none => s.instrFault i 0x04) :=
  atInstr_form_of_issues (k := fun i => match s.specialRead i (i.f 20 13) with
      | some r => s.put i (r.2.setGpr i.d r.1)
      | none => s.instrFault i 0x04) h rfl hz

theorem State.specialRead_of_gt {i : Issue} {sr : Nat} (h : 0x0A < sr) : s.specialRead i sr = none := by
  unfold State.specialRead
  obtain ⟨n, rfl⟩ : ∃ n, sr = n + 11 := ⟨sr - 11, by omega⟩
  rfl

/-- Settles O11, code by code of Table 7.2. -/
theorem specialRegisterAccess : Obligations.SpecialRegisterAccess := by
  intro s g i pl
  refine ⟨fun h hz => ?_, fun h hz => ?_⟩
  · rw [exec_srRd_of_issues h hz]
    refine ⟨?_, ?_, ?_, ?_⟩
    · intro sr v hmem hsr
      simp only [List.mem_cons, List.not_mem_nil, or_false, Prod.mk.injEq] at hmem
      obtain ⟨rfl, rfl⟩ | ⟨rfl, rfl⟩ | ⟨rfl, rfl⟩ | ⟨rfl, rfl⟩ | ⟨rfl, rfl⟩ | ⟨rfl, rfl⟩ | ⟨rfl, rfl⟩ | ⟨rfl, rfl⟩ |
        ⟨rfl, rfl⟩ := hmem
      all_goals
        rw [hsr]
        rfl
    · intro hsr
      rw [hsr]
      rfl
    · intro hsr
      rw [hsr]
      rfl
    · intro hsr
      rw [State.specialRead_of_gt hsr]
  · have hexec : exec (.srWr g) s = .next (if i.f 20 13 = 0x08 then s.put i { i.gl with wdl := i.rd }
        else if i.f 20 13 ≤ 0x0A then s.instrFault i 0x0B else s.instrFault i 0x04) :=
      atInstr_form_of_issues (k := fun i => if i.f 20 13 = 0x08 then s.put i { i.gl with wdl := i.rd }
        else if i.f 20 13 ≤ 0x0A then s.instrFault i 0x0B else s.instrFault i 0x04) h rfl hz
    rw [hexec]
    refine ⟨fun hsr => ?_, fun hle hsr => ?_, fun hgt => ?_⟩
    · rw [if_pos hsr]
    · rw [if_neg hsr, if_pos hle]
    · rw [if_neg (by omega), if_neg (by omega)]

/-! ### ENG.FENCE, ENG.N and STEP.END -/

/-- An ENG.FENCE waits for a busy queue that its mask names (R174). -/
theorem Glade.fenceWaits_iff {gl : Glade} {mask : Nat} :
    gl.fenceWaits mask = true ↔ ∃ q, q < 4 ∧ bitOf mask q = true ∧ gl.queueBusy q = true := by
  simp [Glade.fenceWaits]

theorem exec_engFence_of_issues (h : s.issues g 0x28) (hz : (s.issueOf g.toNat).f 31 12 = 0) :
    let i := s.issueOf g.toNat
    exec (.engFence g) s = .next (if i.gl.fenceWaits (i.f 11 8) then s else s.put i (i.gl.fenced (i.f 11 8))) :=
  atInstr_form_of_issues (k := fun i => if i.gl.fenceWaits (i.f 11 8) then s else s.put i (i.gl.fenced (i.f 11 8))) h rfl hz

theorem exec_engN_of_issues (h : s.issues g 0x32) (hz : (s.issueOf g.toNat).f 31 23 = 0) :
    let i := s.issueOf g.toNat
    let c := i.ra.toNat % 65536
    exec (.engN g) s = .next (if c > 256 then s.instrFault i 0x04 else
      s.put i { i.gl with engN := some (BitVec.ofNat 16 c) }) :=
  atInstr_form_of_issues (k := fun i => if i.ra.toNat % 65536 > 256 then s.instrFault i 0x04 else
    s.put i { i.gl with engN := some (BitVec.ofNat 16 (i.ra.toNat % 65536)) }) h rfl hz

/-- Settles O13, by what the fence's mask names and the count of ENG.N. -/
theorem fenceCountAndStepEnd : Obligations.FenceCountAndStepEnd := by
  intro s g i
  refine ⟨fun h hz => ⟨fun hidle => ?_, fun q hq hm hbusy => ?_⟩, fun h hz hc => ?_, fun h hz hc => ?_, fun h hz => ?_⟩
  · rw [exec_engFence_of_issues h hz, if_neg]
    rw [Glade.fenceWaits_iff]
    rintro ⟨q, hq, hm, hbusy⟩
    exact absurd (hidle q hq hm) (by simp [i, hbusy])
  · rw [exec_engFence_of_issues h hz, if_pos (Glade.fenceWaits_iff.mpr ⟨q, hq, hm, hbusy⟩)]
  · rw [exec_engN_of_issues h hz, if_neg hc.not_gt]
  · rw [exec_engN_of_issues h hz, if_pos hc]
  · have hexec := atInstr_form_of_issues (k := fun i => s.setGlade i.g { i.gl.step i with mode := .ended }) h rfl hz
    rw [← State.next_of_issues h (by decide)]
    exact hexec

/-! ### The instruction fault -/

theorem State.haltFault_of_not_abandoned {p : Nat} {f : FaultArgs} (h : (s.plot p).run ≠ .abandoned) :
    s.haltFault p f = (s.raise { f with plot := some p, halted := true }).halt p := by
  unfold State.haltFault
  split
  next hr => exact absurd hr h
  next => rfl

end Control

/-- Settles O14: the fault halts a plot that is not abandoned already, and the eight commands are of glade instructions. -/
theorem instructionFaultsStopTheGlade : Obligations.InstructionFaultsStopTheGlade := by
  refine ⟨?_, ?_⟩
  · intro s i cause hrun t
    unfold State.instrFault State.stopFault
    dsimp only
    rw [State.haltFault_of_not_abandoned]
    · rfl
    · exact hrun
  · intro s g c hc hr i
    obtain ⟨op, k, hexec⟩ : ∃ op k, exec c s = atInstr s g op k := by
      simp only [List.mem_cons, List.not_mem_nil, or_false] at hc
      obtain rfl | rfl | rfl | rfl | rfl | rfl | rfl | rfl := hc
      all_goals
        dsimp only [exec, execNop, execAddOp, execLd, execJal, execSrRd, execAcWait, execLsAcq, execThkMm, atQueue, atQueueIf,
          atEngine]
        exact ⟨_, _, rfl⟩
    rw [hexec]
    exact ⟨atInstr_of_badTarget hr, atInstr_of_undefined hr⟩

end Sys2Proof.Machine

/-!
# The thicket engine and accumulation

An engine instruction whose tests pass, of a glade with nothing waiting in its engine queues, has its effect at once, or takes
an entry of its queue while it has to wait (R90, R172).
-/

namespace Sys2Proof.Machine

variable {s : State}

section Engines
variable {g : BitVec 10} {op : Nat}

/-- Tests that all pass let an engine instruction go on. -/
theorem State.tests_pass {i : Issue} {cs : List (Bool × Nat)} {k : Option State} (h : ∀ c ∈ cs, c.1 = false) :
    s.tests i cs k = k := by
  have hnone : cs.find? (fun c => c.1) = none := List.find?_eq_none.2 fun c hc => by simp [h c hc]
  rw [State.tests, hnone]

/-- Tiles without a fault, whose batches are not waited for, let an instruction over them go on. -/
theorem State.onTiles_pass {i : Issue} {n : Nat} {f : Tile → Option Nat} {waits : Bool} {k : Option State}
    (hf : i.gl.firstFault i.t n f = none) (hw : waits = false ∨ i.gl.anyWaits i.t n = false) : s.onTiles i n f waits k = k := by
  rw [State.onTiles, hf]
  rcases hw with h | h <;> simp [h]

/-- The count that ENG.N gives does not touch the glade's engine queues, opcode or words. -/
theorem State.engineIssue_engine : (s.engineIssue g).1.gl.engine = (s.glade g.toNat).engine := by
  unfold State.engineIssue
  dsimp only
  split <;> rfl

/-- The engines take the opcode that the glade stands at. -/
theorem State.engineIssue_op : (s.engineIssue g).1.op = (s.issueOf g.toNat).op := by
  unfold State.engineIssue
  dsimp only
  split <;> rfl

/-- The engines take the instruction of the glade that issues it. -/
theorem State.engineIssue_g : (s.engineIssue g).1.g = g.toNat := by
  unfold State.engineIssue
  dsimp only
  split <;> rfl

/-- Without an override of ENG.N the engines take the instruction as it stands, with the count of its n field (R282). -/
theorem State.engineIssue_of_none (h : (s.glade g.toNat).engN = none) :
    s.engineIssue g = (s.issueOf g.toNat, (s.issueOf g.toNat).f 23 16 + 1) := by
  have he : (s.issueOf g.toNat).gl.engN = none := h
  unfold State.engineIssue
  dsimp only
  rw [he]

/-- An engine instruction that need not wait has its effect at once when nothing waits before it (R90, R172). -/
theorem State.engine_of_empty_some {i : Issue} {n : Nat} {t : State} (hq : i.gl.engine = []) (h : engineOp i.op i n s = some t) :
    s.engine i n = t.engineOn i.g := by
  unfold State.engine
  simp [hq, h]

/-- An engine instruction that has to wait takes the first entry of the empty queues. -/
theorem State.engine_of_empty_none {i : Issue} {n : Nat} (hq : i.gl.engine = []) (h : engineOp i.op i n s = none) :
    s.engine i n = s.queued i n := by
  have hf : queueFull i.gl i.op = false := by
    rw [queueFull, hq]
    dsimp only [List.filter_nil, List.length_nil]
    split <;> rfl
  rw [engine_of_none hq h hf, hq]
  rfl

section Count
variable {ok : Issue → Bool} (h : s.issuesEngine g op) (hop : opDefined op = true)
  (hc : countOp op = true ∨ (s.glade g.toNat).engN = none) (hn : (s.engineIssue g).2 ≠ 0)
include h hop hc hn

/-- The command of an engine instruction that the test of its words passes has the instruction's effect at once. -/
theorem atQueueIf_of_some {t : State} (hok : ok (s.engineIssue g).1 = true)
    (ht : engineOp op (s.engineIssue g).1 (s.engineIssue g).2 s = some t) :
    atQueueIf s g op ok = .next (t.engineOn g.toNat) := by
  obtain ⟨hi, hq⟩ := h
  have hop' : (s.engineIssue g).1.op = op := State.engineIssue_op.trans hi.2.2
  rw [atQueueIf, atEngine_of_issues hi hop hc hn, if_pos hok,
    State.engine_of_empty_some (State.engineIssue_engine.trans hq) (by rw [hop']; exact ht), State.engineIssue_g]

/-- The command of an engine instruction whose words fail its test leaves everything as it is. -/
theorem atQueueIf_of_not (hok : ok (s.engineIssue g).1 = false) : atQueueIf s g op ok = .next s := by
  rw [atQueueIf, atEngine_of_issues h.1 hop hc hn, hok]
  rfl

/-- The command of an engine instruction has the instruction's effect at once. -/
theorem atQueue_of_some {t : State} (ht : engineOp op (s.engineIssue g).1 (s.engineIssue g).2 s = some t) :
    atQueue s g op = .next (t.engineOn g.toNat) := atQueueIf_of_some h hop hc hn rfl ht

/-- The command of an engine instruction that has to wait queues it. -/
theorem atQueue_of_none (ht : engineOp op (s.engineIssue g).1 (s.engineIssue g).2 s = none) :
    atQueue s g op = .next (s.queued (s.engineIssue g).1 (s.engineIssue g).2) := by
  obtain ⟨hi, hq⟩ := h
  have hop' : (s.engineIssue g).1.op = op := State.engineIssue_op.trans hi.2.2
  rw [atQueue, atQueueIf, atEngine_of_issues hi hop hc hn, if_pos rfl,
    State.engine_of_empty_none (State.engineIssue_engine.trans hq) (by rw [hop']; exact ht)]

end Count

section NoCount
variable (h : s.issuesEngine g op) (hop : opDefined op = true) (hc : (s.glade g.toNat).engN = none)
include h hop hc

/-- The command of an engine instruction with no count pending has the instruction's effect at once. -/
theorem atQueue_plain_of_some {t : State}
    (ht : engineOp op (s.issueOf g.toNat) ((s.issueOf g.toNat).f 23 16 + 1) s = some t) :
    atQueue s g op = .next (t.engineOn g.toNat) := by
  have he := State.engineIssue_of_none hc
  exact atQueue_of_some h hop (.inr hc) (by rw [he]; exact Nat.succ_ne_zero _) (by rw [he]; exact ht)

/-- The command of an engine instruction with no count pending that has to wait queues it. -/
theorem atQueue_plain_of_none (ht : engineOp op (s.issueOf g.toNat) ((s.issueOf g.toNat).f 23 16 + 1) s = none) :
    atQueue s g op = .next (s.queued (s.issueOf g.toNat) ((s.issueOf g.toNat).f 23 16 + 1)) := by
  have he := State.engineIssue_of_none hc
  have := atQueue_of_none h hop (.inr hc) (by rw [he]; exact Nat.succ_ne_zero _) (by rw [he]; exact ht)
  rwa [he] at this

end NoCount

/-- A range of bits that is among the zero ranges is zero. -/
theorem Issue.f_eq_zero_of_zeros {i : Issue} {rs : List (Nat × Nat)} {r : Nat × Nat} (h : i.zeros rs = true) (hr : r ∈ rs) :
    i.f r.1 r.2 = 0 := by
  have := List.all_eq_true.1 h r hr
  simpa using this

end Engines

/-- Settles O15: each form's tests pass, and its branch fills the shadow buffer, or waits while that is loaded. -/
theorem weightLoadFillsShadow : Obligations.WeightLoadFillsShadow := by
  intro s g h hc i digit src aux filled hz
  have hn : i.f 23 16 = 0 := Issue.f_eq_zero_of_zeros hz (r := (23, 16)) (by simp)
  have hl : i.f 37 35 + 16384 + 4 = i.f 37 35 + 16388 := by omega
  refine ⟨fun hf ha hd he => ⟨fun hs => ?_, fun ds hs ht => ?_⟩, fun hf hv hd ha he gs hs ht => ?_,
    fun hf hv hd h8 hs8 ha8 hs book tp raws e hb ht hend => ?_⟩
  · have hw : thkLdw i (i.f 23 16 + 1) s = none := by
      unfold thkLdw
      dsimp only
      rw [State.tests_pass (by simp_all [spadSize, i, digit, src, aux]), if_pos hs]
    have := atQueue_plain_of_none h (by decide) hc hw
    rw [hn] at this
    exact this
  · refine atQueue_plain_of_some h (by decide) hc ?_
    show thkLdw i (i.f 23 16 + 1) s = _
    unfold thkLdw
    dsimp only
    rw [State.tests_pass (by simp_all [spadSize, i, digit, src, aux]), if_neg (by simp [hs]), if_pos hf, hl, ht]
    rfl
  · refine atQueue_plain_of_some h (by decide) hc ?_
    show thkLdw i (i.f 23 16 + 1) s = _
    unfold thkLdw
    dsimp only
    rw [State.tests_pass (by simp_all [spadSize, i, digit, src, aux]), if_neg (by simp [hs]), if_neg (by simp [hf]), if_pos hf, ht]
    rfl
  · refine atQueue_plain_of_some h (by decide) hc ?_
    show thkLdw i (i.f 23 16 + 1) s = _
    unfold thkLdw
    dsimp only
    rw [State.tests_pass (by simp_all [spadSize, i, digit, src, aux]), if_neg (by simp [hs]), if_neg (by simp [hf]),
      if_neg (by simp [hf]), hb]
    dsimp only
    rw [ht]
    dsimp only
    rw [if_neg (by simpa [spadSize] using hend)]
    rfl

/-- A test that a hypothesis `b = false ∨ _` guards fails to hold. -/
theorem and_decide_gt_eq_false {b : Bool} {x y : Nat} (h : b = false ∨ x ≤ y) : (b && decide (x > y)) = false := by
  rcases h with h | h
  · simp [h]
  · simp [Nat.not_lt.2 h]

/-- Settles O16: the tests of the words and of the tile pass, and the instruction runs over tiles or under keys. -/
theorem matrixMultiplyAccumulates : Obligations.MatrixMultiplyAccumulates := by
  intro s g h hn i n swap dest sparse a w vecs gl hv hz hk ht hsp hb hr hka ho
  have hw : (if swap then i.gl.swapped else i.gl).active = w := by
    simp only [w]
    split <;> rfl
  have hgl : (if swap then i.gl.swapped else i.gl) = gl := rfl
  have h1 : ∀ c ∈ [(s.isaOne i.p && (sparse || dest), 0x01),
      (!i.zeros [(31, 27), (24, 24), (39, 35), (63, 59), (127, 116)] || (!dest && a.keys != 0), 0x02),
      (decide (i.t + n > 256), 0x03)], c.1 = false := by
    have hvv : (s.isaOne i.p && (sparse || dest)) = false := by
      rcases hv with h | ⟨h, h'⟩
      · rw [h, Bool.false_and]
      · rw [h, h', Bool.or_false, Bool.and_false]
    have hkk : (!dest && a.keys != 0) = false := by
      rcases hk with h | h
      · rw [h]; rfl
      · rw [h]; simp
    simp only [List.mem_cons, List.not_mem_nil, or_false]
    rintro c (rfl | rfl | rfl)
    · exact hvv
    · rw [hz, hkk]; rfl
    · exact decide_eq_false (Nat.not_lt.2 ht)
  have h2 : ∀ c ∈ [(w.isSparse != sparse, 0x04), (decide (a.j0 + w.blocks > a.nblk), 0x05),
      (decide (a.base + (vecs - 1) * a.stride + rowBytes a.form a.nblk > spadSize)
        || (dest && decide (8 * a.keys + 4 * vecs > spadSize)), 0x06), (w.outs == 2 && n % 2 == 1, 0x07)], c.1 = false := by
    simp only [List.mem_cons, List.not_mem_nil, or_false]
    rintro c (rfl | rfl | rfl | rfl)
    · simp [hsp]
    · exact decide_eq_false (Nat.not_lt.2 hb)
    · rw [Bool.or_eq_false_iff]
      exact ⟨decide_eq_false (Nat.not_lt.2 hr), and_decide_gt_eq_false hka⟩
    · rcases ho with h | h
      · simp [h]
      · simp [h]
  have hgo : (swap = false ∨ i.gl.shadowLoaded = true) → ¬ (swap && !i.gl.shadowLoaded) = true := by
    rintro (h | h) <;> simp [h]
  refine ⟨fun hs hl => ?_, fun hs hd hf hwt => ?_, fun hs hd hia hhia hform => ?_⟩
  · refine atQueue_of_none h (by decide) (.inl rfl) hn ?_
    show thkMm i n s = _
    unfold thkMm
    dsimp only
    rw [State.tests_pass h1, if_pos (by simp [hl]; exact hs)]
  · refine atQueue_of_some h (by decide) (.inl rfl) hn ?_
    show thkMm i n s = _
    unfold thkMm
    dsimp only
    rw [State.tests_pass h1, if_neg (hgo hs), hw, State.tests_pass h2, if_neg (by rw [Bool.not_eq_true]; exact hd),
      State.onTiles_pass hf (.inr hwt)]
    rfl
  · intro r hr'
    refine atQueue_of_some h (by decide) (.inl rfl) hn ?_
    show thkMm i n s = _
    unfold thkMm
    dsimp only
    rw [State.tests_pass h1, if_neg (hgo hs), hw, State.tests_pass h2, if_pos hd]
    have hm : s.mmHashed i a w vecs gl = ((s.put i r.1).pendLayer i.p hia.tags.layer.toNat 0 0 r.2.1).pendCount Reg.accSpill i.p
        r.2.2.1 := by
      unfold State.mmHashed
      rw [hhia]
      dsimp only
      rw [if_neg (not_not.2 hform), if_neg (by rw [Bool.not_eq_true]; exact hr')]
    exact congrArg some hm

/-- The tile that ACC.LOAD makes at place `j` (R91, R104). -/
def loadedTile (i : Issue) (j : Nat) (_ : Tile) : Tile :=
  let ls := lanesOf (i.gl.read (8 * i.f 79 64 + 768 * j) 768)
  let k := (ls.filter fun v => (laneSat v).isSome).length
  { Tile.init with mode := .opened, tags := i.tags, lanes := ls, satFlag := decide (k > 0), satCnt := addCnt 0 k }

/-- The tests of ACC.OPEN pass where its words, tiles and staging area are in order. -/
theorem accOpen_tests {i : Issue} {n stage e : Nat} {ordered : Bool} (hv : s.isaOne i.p = false ∨ ordered = false)
    (hz : i.zeros [(31, 27), (24, 24), (127, 88)] = true) (ho : ordered = true ∨ (stage = 0 ∧ e = 0)) (ht : i.t + n ≤ 256)
    (he : ordered = false ∨ e ≠ 0) (hr : ordered = false ∨ 8 * stage + n * e * 832 ≤ 524288) :
    ∀ c ∈ [(s.isaOne i.p && ordered, 0x01),
      (!i.zeros [(31, 27), (24, 24), (127, 88)] || (!ordered && (stage != 0 || e != 0)), 0x02),
      (decide (i.t + n > 256), 0x03), (ordered && e == 0, 0x04),
      (ordered && decide (8 * stage + n * e * 832 > spadSize), 0x06)], c.1 = false := by
  cases ordered with
  | false =>
    obtain ⟨rfl, rfl⟩ := ho.resolve_left Bool.false_ne_true
    simp [hz, ht]
  | true => simp_all [spadSize]

/-- Settles O17: each instruction's tests pass, no tile it names is at fault, and its effect follows. -/
theorem tilesOpenLoadSaveAndDrain : Obligations.TilesOpenLoadSaveAndDrain := by
  intro s g i n
  refine ⟨?_, ?_, ?_, ?_, ?_⟩
  · intro h hn ordered stage e hv hz ho ht he hr hl hf gl
    have hl' : ¬ (ordered && !s.holdsLease i.p 5 i.g) = true := by
      rcases hl with h | h <;> simp [h]
    refine atQueue_of_some h (by decide) (.inl rfl) hn ?_
    show accOpen i n s = _
    unfold accOpen
    dsimp only
    rw [State.tests_pass (accOpen_tests hv hz ho ht he hr), if_neg hl', hf]
  · intro h hn hz ht hr hf
    refine ⟨loadedTile i, fun j x => ⟨rfl, rfl, rfl⟩, atQueue_of_some h (by decide) (.inl rfl) hn ?_⟩
    show accLoad i n s = _
    unfold accLoad
    dsimp only
    rw [State.tests_pass (by simp_all [spadSize]), hf]
    rfl
  · intro h hn hz ht hr hf hw
    refine atQueue_of_some h (by decide) (.inl rfl) hn ?_
    show accSave i n s = _
    unfold accSave
    dsimp only
    rw [State.tests_pass (by simp_all [spadSize]), State.onTiles_pass hf hw]
  · intro h hc i k hv hz hk ht hd hh hf hia
    refine atQueue_plain_of_some h (by decide) hc ?_
    show accHcfg i (i.f 23 16 + 1) s = _
    unfold accHcfg
    dsimp only
    rw [State.tests_pass (by simp_all [i, k]), if_neg (by simp [hh]), hf]
  · intro h hc i hv hz hia hh r
    refine ⟨fun hr => ?_, fun hr => ?_⟩
    all_goals
      refine atQueue_plain_of_some h (by decide) hc ?_
      show accHdrn i (i.f 23 16 + 1) s = _
      unfold accHdrn
      dsimp only
      rw [State.tests_pass (by simp_all [i]), hh]
      dsimp only
    · rw [if_neg (by rw [Bool.not_eq_true]; exact hr)]
    · rw [if_pos hr]

/-- Settles O18: each instruction's tests pass and its tiles let it go on; an arriving contribution of the current attempt is
refused or taken. -/
theorem chainsAndContributions : Obligations.ChainsAndContributions := by
  intro s g i n
  refine ⟨fun h hn hz ht hr hf hw => ?_, fun h hn hz ht hc hr hf hw => ?_, fun h hn hz ht ht' hc hf hw => ?_,
    fun src m s1 hm => ?_⟩
  · refine atQueue_of_some h (by decide) (.inl rfl) hn ?_
    show chainAdd i n s = _
    unfold chainAdd
    dsimp only
    rw [State.tests_pass (by simp_all [spadSize]), State.onTiles_pass hf (.inr hw)]
  · refine atQueue_of_some h (by decide) (.inl rfl) hn ?_
    show chainSend i n s = _
    unfold chainSend
    dsimp only
    rw [State.tests_pass (by simp_all [spadSize]), State.onTiles_pass hf hw]
  · refine atQueue_of_some h (by decide) (.inl rfl) hn ?_
    show atomAdd i n s = _
    unfold atomAdd
    dsimp only
    rw [State.tests_pass (by simp_all), State.onTiles_pass hf hw]
  · intro r hk ha
    refine ⟨fun hc => ?_, fun c hc => ?_⟩
    all_goals
      show execAtomicContributionArrival src g s = _
      unfold execAtomicContributionArrival
      rw [hm]
      dsimp only
      rw [if_neg (not_not.2 hk), if_neg (not_not.2 ha), hc]

/-- The tests of OUT pass where its words, its descriptor and the rows that it names are in order. -/
theorem outOp_tests {i : Issue} {n desc lastDst lastOp : Nat} {o : OutDesc} (hz : i.zeros [(31, 27), (127, 56)] = true)
    (ht : i.t + n ≤ 256) (hd : desc + 32 ≤ 524288) (hres : o.reserved = false) (hfu : o.fuse ≠ 3)
    (hct : o.remote = false ∨ o.ctr < 62) (hj : o.j0 + 4 ≤ o.nblk) (hdst : lastDst ≤ 524288) (hr : 8 * o.rAddr + 256 ≤ 524288)
    (hop : o.fuse = 0 ∨ lastOp ≤ 524288) :
    ∀ c ∈ [(!i.zeros [(31, 27), (127, 56)], 0x02), (decide (i.t + n > 256), 0x03), (decide (desc + 32 > spadSize), 0x06),
      (o.reserved, 0x02), (o.fuse == 3, 0x04), (o.remote && decide (o.ctr ≥ 62), 0x04), (decide (o.j0 + 4 > o.nblk), 0x05),
      (decide (lastDst > spadSize) || decide (8 * o.rAddr + 256 > spadSize) || (o.fuse != 0 && decide (lastOp > spadSize)),
        0x06)], c.1 = false := by
  rcases hct with h | h <;> rcases hop with h' | h' <;> simp_all [spadSize]

/-- Settles O19: the descriptor's tests pass, and the rows leave the tiles. -/
theorem outWritesRows : Obligations.OutWritesRows := by
  intro s g h hn i n row0 o hz ht hd hres hfu hct hj hdst hr hop hf hw
  refine atQueue_of_some h (by decide) (.inl rfl) hn ?_
  show outOp i n s = _
  unfold outOp
  dsimp only
  rw [State.tests_pass (outOp_tests hz ht hd hres hfu hct hj hdst hr hop),
    State.onTiles_pass hf hw]

end Sys2Proof.Machine

/-!
# Graft updates and the serial product unit

GRF.UPD with and without its hold bit, and SPU.EW, SPU.OP and SPU.GM, of a glade with nothing waiting in its engine queues.
-/

namespace Sys2Proof.Machine

variable {s : State}

/-- The tests of GRF.UPD pass where its words, its descriptor and the units that it names are in order. -/
theorem grfUpd_tests {i : Issue} {n q0 desc : Nat} {hold : Bool} {d : GrfDesc} {e : Nat × Nat} (hv : s.isaOne i.p = false)
    (hz : i.zeros [(31, 25), (127, 65)] = true) (hh : hold = false ∨ (i.t = 0 ∧ i.close = false))
    (ht : hold = true ∨ i.t + n ≤ 256) (hd : desc + 32 ≤ 524288) (hres : d.reserved = false) (hg : d.gform ≤ 1)
    (hk : d.kLr ≤ 47) (hth : d.theta ≠ 0) (hq : q0 + n ≤ d.units)
    (he : ∀ k, k < 2 → d.shadow k + e.1 ≤ 524288 ∧ d.tern k + e.2 ≤ 524288) :
    ∀ c ∈ [(s.isaOne i.p, 0x01), (!i.zeros [(31, 25), (127, 65)] || (hold && (i.t != 0 || i.close)), 0x02),
      (!hold && decide (i.t + n > 256), 0x03), (decide (desc + 32 > spadSize), 0x06), (d.reserved, 0x02),
      (decide (d.gform > 1 ∨ d.kLr > 47 ∨ d.theta = 0), 0x04), (decide (q0 + n > d.units), 0x07),
      ((List.range 2).any fun k => decide (d.shadow k + e.1 > spadSize ∨ d.tern k + e.2 > spadSize), 0x06)], c.1 = false := by
  have he' : ((List.range 2).any fun k => decide (d.shadow k + e.1 > spadSize ∨ d.tern k + e.2 > spadSize)) = false := by
    rw [List.any_eq_false]
    intro k hk
    obtain ⟨h1, h2⟩ := he k (List.mem_range.1 hk)
    simp [spadSize, h1, h2]
  cases hold with
  | false => simp_all [spadSize]
  | true => simp_all [spadSize]

/-- Settles O20: the hold bit says which of the two commands runs the instruction; its tests pass and its units go through. -/
theorem graftUpdateTrainsOrHolds : Obligations.GraftUpdateTrainsOrHolds := by
  intro s g h hn i n q0 d e lane hv hz hd hres hg hk hth hq he
  refine ⟨fun hb => ⟨?_, fun ht hf hw r hr => ?_⟩, fun hb => ⟨?_, fun ht hcl r hr => ?_⟩⟩
  · exact atQueueIf_of_not (ok := fun i => bitOf i.w 64) h (by decide) (.inl rfl) hn hb
  · refine atQueueIf_of_some (ok := fun i => !bitOf i.w 64) h (by decide) (.inl rfl) hn (by simpa using hb) ?_
    show grfUpd i n s = _
    unfold grfUpd
    dsimp only
    rw [State.tests_pass (grfUpd_tests hv hz (.inl hb) (.inr ht) hd hres hg hk hth hq he), if_neg (by rw [hb]; exact Bool.false_ne_true),
      State.onTiles_pass hf hw, hb, hr]
    rfl
  · exact atQueueIf_of_not (ok := fun i => !bitOf i.w 64) h (by decide) (.inl rfl) hn (by simpa using hb)
  · refine atQueueIf_of_some (ok := fun i => bitOf i.w 64) h (by decide) (.inl rfl) hn hb ?_
    show grfUpd i n s = _
    unfold grfUpd
    dsimp only
    rw [State.tests_pass (grfUpd_tests hv hz (.inr ⟨ht, hcl⟩) (.inl hb) hd hres hg hk hth hq he), if_pos hb, hb, hr]
    rfl

/-- The tests that the serial product instructions share pass where the operands are in order. -/
theorem State.spuChecks_pass {i : Issue} {d : LayerDesc} {rows xEnd yEnd : Nat} {more : List (Bool × Nat)} {k : Option State}
    (h : spuReady i d rows xEnd yEnd) (hm : ∀ c ∈ more, c.1 = false) : s.spuChecks i d rows xEnd yEnd more k = k := by
  obtain ⟨hz, hd, hf, hx, hy, hlx, hly⟩ := h
  refine State.tests_pass fun c hc => ?_
  rw [List.mem_append, List.mem_append, List.mem_append] at hc
  rcases hc with ((hc | hc) | hc) | hc
  · simp only [List.mem_cons, List.not_mem_nil, or_false] at hc
    rcases hc with rfl | rfl
    · rw [hz]; rfl
    · exact decide_eq_false (Nat.not_lt.2 hd)
  · exact hf c hc
  · exact hm c hc
  · simp only [List.mem_cons, List.not_mem_nil, or_false] at hc
    rcases hc with rfl | rfl
    · exact decide_eq_false (not_or.2 ⟨Nat.not_le.2 hx, Nat.not_le.2 hy⟩)
    · exact decide_eq_false (not_or.2 ⟨Nat.not_lt.2 hlx, Nat.not_lt.2 hly⟩)

/-- Settles O21: the shared tests and each instruction's own pass, and the products enter the tiles. -/
theorem scalarProductsAccumulate : Obligations.ScalarProductsAccumulate := by
  intro s g hn i n d pset
  refine ⟨?_, fun ht hf hw => ?_⟩
  · intro h w hr hz hdiv ht hf hw r
    refine atQueue_of_some h (by decide) (.inl rfl) hn ?_
    show spuEw i n s = _
    unfold spuEw
    dsimp only
    rw [State.spuChecks_pass hr (by simp [hz, hdiv, ht, w]), State.onTiles_pass hf (.inr hw)]
  · intro out
    have houter : ∀ k, s.spuOuter i d n k = some (out k) := fun k => State.onTiles_pass hf (.inr hw)
    refine ⟨fun h hr hz => ?_, fun h hv hr hm ms hms => ?_⟩
    · refine atQueue_of_some h (by decide) (.inl rfl) hn ?_
      show spuOp i n s = _
      unfold spuOp
      dsimp only
      rw [State.spuChecks_pass hr (by simp [hz, ht]), houter]
    · refine atQueue_of_some h (by decide) (.inl rfl) hn ?_
      show spuGm i n s = _
      unfold spuGm
      dsimp only
      rw [State.spuChecks_pass hr (by simp [hv, ht, hm, spadSize]), hms]
      exact houter _

end Sys2Proof.Machine

/-!
# The bole unit's queue

A bole instruction of a glade that is not its grove's bole master takes an entry of its queue behind a bole instruction that
waits there, as any engine instruction does (R90, R172): its fault comes when it issues, not when its command does.
-/

namespace Sys2Proof.Machine

/-- A module in its powered state, whose glade 0 stands at BOLE.MM behind another BOLE.MM in the bole unit's queue; no glade is the
bole master of its grove. -/
def boleQueuedState : State := { State.reset with
  board := { Board.init with on := 0x3FFFFFFF, seq := .idle }
  plots := [(0, { Plot.init with defined := true, isa := 2, run := .running })]
  glades := [(0, { Glade.init with
    inService := true, mode := .running, program := [0x61, 0, 0, 0]
    engine := [{ pc := 0, op := 0x61, words := 0, args := [1] }] })] }

/-- The mode of glade 0 after an outcome. -/
def modeAfter : Out → Option CpuMode
  | .next t => some (t.glade 0).mode
  | _ => none

/-- The BOLE.MM that stands behind another one is queued, and its glade goes on. -/
theorem modeAfter_boleMm_queued : modeAfter (exec (.boleMm 0) boleQueuedState) = some .running := by decide

/-- An instruction fault of that BOLE.MM would have stopped the glade. -/
theorem modeAfter_boleMm_fault :
    modeAfter (.next (State.engineOn (boleQueuedState.instrFault (boleQueuedState.engineIssue 0).1 0x08) 0)) = some .stopped := by
  decide

/-- Refutes O22: the clause for a glade that is not the bole master does not ask for empty engine queues; behind a bole
instruction that waits, the instruction is queued without a fault. -/
theorem not_boleInstructionsRun : ¬ Obligations.BoleInstructionsRun := by
  intro h
  obtain ⟨hfault, -⟩ := h boleQueuedState 0 (by decide)
  have heq := hfault (by decide) (.boleMm 0) 0x61 [(127, 96)] (by simp) (by decide) (by decide)
  have hmode := modeAfter_boleMm_queued
  rw [heq] at hmode
  exact absurd (modeAfter_boleMm_fault.symm.trans hmode) (by decide)

end Sys2Proof.Machine

/-!
# Leases

LS.ACQ, LS.REN and LS.REL after the expiry of their resource's own lease, and what the lease unit does by itself.
-/

namespace Sys2Proof.Machine

variable {s : State} {g : BitVec 10}

/-- The answer to a glade that waits for a lease: its code, and the glade goes on. -/
theorem State.leaseAnswer_of_waitLease {w : LeaseWait} {code : Nat} {d : BitVec 5}
    (h : (s.glade w.glade.toNat).mode = .waitLease d) : s.leaseAnswer w code = s.leaseCode (s.issueOf w.glade.toNat) code := by
  have h' : (s.issueOf w.glade.toNat).gl.mode = .waitLease d := h
  unfold State.leaseAnswer
  dsimp only
  rw [h']

/-- Settles O23: each branch of the lease instructions and of the lease unit's own commands. -/
theorem leasesAreAskedGrantedAndEnded : Obligations.LeasesAreAskedGrantedAndEnded := by
  refine ⟨?_, ?_⟩
  · intro s g i u j answer may ask wait hr hz
    have hr' : (!u.gladeRuns g.toNat) = false := by rw [hr]; rfl
    have hg : (s.issueOf g.toNat).g = g.toNat := rfl
    have hacq : s.issues g 0x2C → exec (.lsAcq g) s = .next (if !may then u.leaseCode j 3 else
        match u.lease.find i.res with
        | some l => if l.plot.toNat = i.p then u.leaseCode j 0 else wait.bump Reg.leaseBusy 1
        | none =>
          if u.lease.held.length ≥ 256 then u.leaseCode j 2
          else if u.lease.waiting.any fun w => w.res = i.res then wait
          else { u with lease := u.lease.grant i.res i.gl.plot (u.ringCount + i.rb) }.leaseCode j 0) := by
      intro h
      show execLsAcq g s = _
      unfold execLsAcq
      rw [atInstr_form_of_issues (k := _) h (by decide) hz]
      dsimp only
      rw [hg, if_neg (by rw [hr']; exact Bool.false_ne_true)] <;> rfl
    have hren : s.issues g 0x2D → exec (.lsRen g) s = .next (match u.lease.find i.res with
        | some l =>
          if l.plot.toNat = i.p then
            { u with lease := { u.lease with
              held := u.lease.held.map fun (l : Lease) => if l.res = i.res then { l with expiry := u.ringCount + i.rb } else l } }.leaseCode j 0
          else u.leaseCode j 5
        | none =>
          match u.lease.last.find? fun l => l.res = i.res with
          | some l => u.leaseCode j (if l.plot.toNat = i.p && (l.lapsed || l.revoked) then 4 else 5)
          | none => u.leaseCode j 5) := by
      intro h
      show execLsRen g s = _
      unfold execLsRen
      rw [atInstr_form_of_issues (k := _) h (by decide) hz]
      dsimp only
      rw [hg, if_neg (by rw [hr']; exact Bool.false_ne_true)] <;> rfl
    have hrel : s.issues g 0x2E → exec (.lsRel g) s = .next (match u.lease.find i.res with
        | some l =>
          if l.plot.toNat = i.p then
            { u with lease := (u.lease.free i.res).remember i.res l.plot false false }.leaseCode j 0
          else u.leaseCode j 5
        | none => u.leaseCode j 5) := by
      intro h
      show execLsRel g s = _
      unfold execLsRel
      rw [atInstr_form_of_issues (k := _) h (by decide) hz]
      dsimp only
      rw [hg, if_neg (by rw [hr']; exact Bool.false_ne_true)] <;> rfl
    refine ⟨fun h => ?_, fun l hl => ⟨fun h hp => ?_, fun h hp => ?_, fun h hp => ?_, fun h hp => ?_⟩, fun hl => ⟨fun h => ?_, fun h => ?_⟩⟩
    · rw [hacq h]
      refine ⟨fun hm => ?_, fun hm hl => ⟨fun hh => ?_, fun hh hw => ?_, fun hh hw => ?_⟩, fun l hm hl => ⟨fun hp => ?_, fun hp => ?_⟩⟩
      · rw [hm]
        rfl
      · rw [hm, hl]
        dsimp only
        rw [if_pos hh]
        rfl
      · have hw' : (u.lease.waiting.any fun w => w.res = i.res) = true := by simpa using hw
        rw [hm, hl]
        dsimp only
        rw [if_neg (Nat.not_le.2 hh), hw']
        rfl
      · have hw' : (u.lease.waiting.any fun w => w.res = i.res) = false := by simpa using hw
        rw [hm, hl]
        dsimp only
        rw [if_neg (Nat.not_le.2 hh), hw']
        rfl
      · rw [hm, hl]
        dsimp only
        rw [if_pos hp]
        rfl
      · rw [hm, hl]
        dsimp only
        rw [if_neg hp]
        rfl
    · rw [hren h, hl]
      dsimp only
      rw [if_pos hp]
      rfl
    · rw [hren h, hl]
      dsimp only
      rw [if_neg hp]
      rfl
    · rw [hrel h, hl]
      dsimp only
      rw [if_pos hp]
      rfl
    · rw [hrel h, hl]
      dsimp only
      rw [if_neg hp]
      rfl
    · rw [hrel h, hl]
      rfl
    · rw [hren h, hl]
      dsimp only
      cases hf : u.lease.last.find? (fun l => l.res = i.res) with
      | none =>
        dsimp only
        rw [if_neg (by simp)]
        rfl
      | some l =>
        dsimp only
        by_cases hc : l.plot.toNat = i.p ∧ (l.lapsed ∨ l.revoked)
        · rw [if_pos (by simpa using hc), if_pos ⟨l, rfl, hc⟩]
          rfl
        · rw [if_neg (by simpa using hc), if_neg (by simpa using hc)]
          rfl
  · intro s go ended revoked
    refine ⟨?_, ?_, fun res l hl => ⟨fun he => ?_, ?_⟩, fun data => ⟨fun h => ?_, fun l ls h => ⟨_, ?_, rfl⟩⟩⟩
    · intro res w d hf hn hw hm t
      show execLeaseGrant res s = _
      unfold execLeaseGrant
      rw [hf]
      dsimp only
      rw [if_neg (Nat.not_le.2 hn), hw]
      dsimp only
      rw [State.leaseAnswer_of_waitLease (d := d)]
      · rfl
      · exact hm
    · intro g w d hw hd hm
      have hwg : w.glade = g := by simpa using List.find?_some hw
      show execLeaseRequestTimeout g s = _
      unfold execLeaseRequestTimeout
      rw [hw]
      dsimp only
      rw [if_pos hd, State.leaseAnswer_of_waitLease (d := d)]
      · rfl
      · rw [← hwg] at hm
        exact hm
    · show execLeaseExpiry res s = _
      unfold execLeaseExpiry
      rw [hl]
      dsimp only
      rw [if_pos he]
      rfl
    · show execLeaseRevoke res s = _
      unfold execLeaseRevoke
      rw [hl]
      rfl
    · show execLeaseRevokePlot data s = _
      unfold execLeaseRevokePlot
      dsimp only
      rw [State.leasesOf, h]
      rfl
    · show execLeaseRevokePlot data s = _
      unfold execLeaseRevokePlot
      dsimp only
      rw [State.leasesOf, h]
      rfl

end Sys2Proof.Machine

/-!
# The order of the queues

What an engine instruction does behind instructions that wait, what follows a change, and how an instruction enters the
transfer queue.
-/

namespace Sys2Proof.Machine

variable {s : State} {g : BitVec 10} {op : Nat}

/-- The command of an engine instruction whose words pass its test gives the instruction to its engines. -/
theorem atQueueIf_engine {ok : Issue → Bool} (h : s.issues g op) (hop : opDefined op = true)
    (hc : countOp op = true ∨ (s.glade g.toNat).engN = none) (hn : (s.engineIssue g).2 ≠ 0) (hok : ok (s.engineIssue g).1 = true) :
    atQueueIf s g op ok = .next (s.engine (s.engineIssue g).1 (s.engineIssue g).2) := by
  rw [atQueueIf, atEngine_of_issues h hop hc hn, if_pos hok]

/-- The count that ENG.N gives does not touch the glade's transfer queue. -/
theorem State.engineIssue_queue : (s.engineIssue g).1.gl.queue = (s.glade g.toNat).queue := by
  unfold State.engineIssue
  dsimp only
  split <;> rfl

/-- An engine instruction that has to wait takes an entry of its queue, or stalls while the queue is full (R90, R172). -/
theorem State.engine_of_waits {i : Issue} {n : Nat}
    (h : i.gl.engine.any (s.waitsFor i n) = true ∨ engineOp i.op i n s = none) :
    s.engine i n = if queueFull i.gl i.op then s else s.put i { i.gl with engine := i.gl.engine ++
      [{ pc := i.pc, op := BitVec.ofNat 8 i.op, words := BitVec.ofNat 128 i.w, args := [BitVec.ofNat 64 n] }] } := by
  unfold State.engine
  dsimp only
  by_cases hw : i.gl.engine.any (s.waitsFor i n) = true
  · rw [if_pos hw]
  · rw [if_neg hw, h.resolve_left hw]

/-- An engine instruction that nothing makes wait has its effect, and the engines go on. -/
theorem State.engine_of_goes {i : Issue} {n : Nat} {t : State} (h : i.gl.engine.any (s.waitsFor i n) = false)
    (ht : engineOp i.op i n s = some t) : s.engine i n = t.engineOn i.g := by
  unfold State.engine
  dsimp only
  rw [if_neg (by rw [h]; exact Bool.false_ne_true), ht]

/-- With one instruction waiting, a change lets it issue if it can. -/
theorem State.engineOn_single {g : Nat} {q : QueuedInstr} (h : (s.glade g).engine = [q]) :
    s.engineOn g = ((s.nextEngine g [] [q]).getD s) := by
  unfold State.engineOn
  rw [h]
  show drainEngine g 1 s = _
  unfold drainEngine
  rw [h]
  cases s.nextEngine g [] [q] with
  | none => rfl
  | some t => rfl

/-- The entry of the transfer queue for an instruction. -/
abbrev Issue.entry (i : Issue) (args : List DWord) : QueuedInstr :=
  { pc := i.pc, op := BitVec.ofNat 8 i.op, words := BitVec.ofNat 128 i.w, args }

/-- The only waiting instruction that cannot issue leaves its glade as it is. -/
theorem State.nextEngine_single_none {g : Nat} {q : QueuedInstr}
    (h : engineOp ((s.setGlade g { s.glade g with engine := [] }).requeue g q).op
      ((s.setGlade g { s.glade g with engine := [] }).requeue g q) (q.arg 0) (s.setGlade g { s.glade g with engine := [] }) = none) :
    s.nextEngine g [] [q] = none := by
  unfold State.nextEngine
  dsimp only [List.nil_append]
  rw [if_neg (by simp), h]
  rfl

/-- The only waiting instruction has its effect when it can issue and does not stop its glade. -/
theorem State.nextEngine_single_some {g : Nat} {q : QueuedInstr} {u : State}
    (h : engineOp ((s.setGlade g { s.glade g with engine := [] }).requeue g q).op
      ((s.setGlade g { s.glade g with engine := [] }).requeue g q) (q.arg 0) (s.setGlade g { s.glade g with engine := [] }) = some u)
    (hm : ¬ ((s.glade g).mode ≠ .stopped ∧ (u.glade g).mode = .stopped)) :
    s.nextEngine g [] [q] = some u := by
  unfold State.nextEngine
  dsimp only [List.nil_append]
  rw [if_neg (by simp), h]
  dsimp only
  rw [if_neg hm]

/-- An instruction enters the transfer queue and nothing starts while a unit outside has yet to accept the queue's head (R174). -/
theorem State.toQueue_of_outside {i : Issue} {args : List DWord} (ht : s.tablesOk) (hl : i.gl.queue.length < 16)
    (ho : ∀ q qs, i.gl.queue ++ [i.entry args] = q :: qs → outsideOp q.op = true) :
    s.toQueue i args = s.setGlade i.g { i.gl.step i with queue := i.gl.queue ++ [i.entry args] } := by
  obtain ⟨-, hg, -⟩ := ht
  unfold State.toQueue
  dsimp only
  rw [if_neg (Nat.not_le.2 hl)]
  unfold drainQueue
  rw [State.glade_setGlade hg]
  dsimp only
  split
  · rfl
  · rename_i q qs hq
    rw [if_pos (ho q qs hq)]
    rfl

/-- A full transfer queue stalls the instruction (R172). -/
theorem State.toQueue_of_full {i : Issue} {args : List DWord} (hl : 16 ≤ i.gl.queue.length) : s.toQueue i args = s := by
  unfold State.toQueue
  dsimp only
  rw [if_pos hl]

/-- The head of a queue with an entry added: the queue's own, or the entry where the queue was empty. -/
theorem head_append_outside {xs : List QueuedInstr} {e : QueuedInstr} (hx : ∀ q qs, xs = q :: qs → outsideOp q.op = true)
    (he : xs = [] → outsideOp e.op = true) : ∀ q qs, xs ++ [e] = q :: qs → outsideOp q.op = true := by
  intro q qs h
  cases xs with
  | nil =>
    obtain ⟨rfl, -⟩ := List.cons.inj h
    exact he rfl
  | cons x xs =>
    obtain ⟨rfl, -⟩ := List.cons.inj h
    exact hx x xs rfl

/-- A routing or scout instruction whose words pass enters the transfer queue (R261). -/
theorem issueRoute_enters {rsv : List (Nat × Nat)} {ctrHi ctrLo size : Nat} {score : Bool} (ht : s.tablesOk) (h : s.issues g op)
    (hop : opDefined op = true) (hout : outsideOp (BitVec.ofNat 8 op) = true) (hc : (s.glade g.toNat).engN = none)
    (hq : ∀ q qs, (s.glade g.toNat).queue = q :: qs → outsideOp q.op = true) (hl : (s.issueOf g.toNat).gl.queue.length < 16)
    (hz : (s.issueOf g.toNat).zeros ([(15, 8), (23, 16), (24, 24), (31, 27)] ++ (if score then [] else [(26, 25)]) ++ rsv) = true)
    (hctr : (s.issueOf g.toNat).f ctrHi ctrLo < 62) (hd : 8 * (s.issueOf g.toNat).f 47 32 + size ≤ 524288) :
    issueRoute s g op rsv ctrHi ctrLo size score = .next (s.setGlade g.toNat
      { (s.issueOf g.toNat).gl.step (s.issueOf g.toNat) with queue := (s.issueOf g.toNat).gl.queue ++
        [{ pc := (s.issueOf g.toNat).pc, op := BitVec.ofNat 8 op, words := BitVec.ofNat 128 (s.issueOf g.toNat).w, args := [] }] }) := by
  have hi := State.engineIssue_of_none hc
  obtain ⟨hr, hb, ho⟩ := h
  unfold issueRoute
  rw [atEngine_of_issues ⟨hr, hb, ho⟩ hop (.inr hc) (by rw [hi]; exact Nat.succ_ne_zero _), hi]
  dsimp only
  have ho' : (BitVec.ofNat 8 (s.issueOf g.toNat).op) = BitVec.ofNat 8 op := by rw [ho]
  have hcs : ∀ c ∈ [(!(s.issueOf g.toNat).zeros ([(15, 8), (23, 16), (24, 24), (31, 27)]
      ++ (if score then [] else [(26, 25)]) ++ rsv), 0x02), (decide ((s.issueOf g.toNat).f ctrHi ctrLo ≥ 62), 0x04),
      (decide (8 * (s.issueOf g.toNat).f 47 32 + size > spadSize), 0x06)], c.1 = false := by
    rw [hz]
    simp [hctr, hd, spadSize]
  rw [checks_pass hcs, State.toQueue_of_outside ht hl (head_append_outside hq fun _ => by rw [Issue.entry, ho']; exact hout), Issue.entry, ho']
  rfl

/-- Settles O25: how an engine instruction enters its engines, how they go on, and how an instruction enters the transfer
queue. -/
theorem transferQueueKeepsOrder : Obligations.TransferQueueKeepsOrder := by
  refine ⟨?_, ?_, ?_⟩
  · intro s g i n entry hn c op ok hmem hok h hc
    have hio : i.op = op := State.engineIssue_op.trans h.2.2
    obtain ⟨ok', hop, hq, hok'⟩ : ∃ ok' : Issue → Bool, opDefined op = true ∧ exec c s = atQueueIf s g op ok' ∧ ok' i = true := by
      simp only [List.mem_cons, List.not_mem_nil, or_false, Prod.mk.injEq] at hmem
      obtain ⟨rfl, rfl, rfl⟩ | ⟨rfl, rfl, rfl⟩ | ⟨rfl, rfl, rfl⟩ | ⟨rfl, rfl, rfl⟩ | ⟨rfl, rfl, rfl⟩ | ⟨rfl, rfl, rfl⟩
        | ⟨rfl, rfl, rfl⟩ | ⟨rfl, rfl, rfl⟩ | ⟨rfl, rfl, rfl⟩ | ⟨rfl, rfl, rfl⟩ | ⟨rfl, rfl, rfl⟩ | ⟨rfl, rfl, rfl⟩
        | ⟨rfl, rfl, rfl⟩ | ⟨rfl, rfl, rfl⟩ | ⟨rfl, rfl, rfl⟩ | ⟨rfl, rfl, rfl⟩ | ⟨rfl, rfl, rfl⟩ | ⟨rfl, rfl, rfl⟩
        | ⟨rfl, rfl, rfl⟩ | ⟨rfl, rfl, rfl⟩ | ⟨rfl, rfl, rfl⟩ := hmem
      iterate 11 exact ⟨fun _ => true, by decide, rfl, rfl⟩
      · exact ⟨fun i => !bitOf i.w 64, by decide, rfl, hok⟩
      · exact ⟨fun i => bitOf i.w 64, by decide, rfl, hok⟩
      iterate 8 exact ⟨fun _ => true, by decide, rfl, rfl⟩
    have hexec : exec c s = .next (s.engine i n) := hq.trans (atQueueIf_engine h hop hc hn hok')
    have hig : i.g = g.toNat := State.engineIssue_g
    refine ⟨fun hw => ⟨fun hf => ?_, fun hf => ?_⟩, fun t hw ht => ?_⟩
    · rw [hexec, State.engine_of_waits (by rw [hio]; exact hw), hio, if_neg (by rw [hf]; exact Bool.false_ne_true), ← hio]
    · rw [hexec, State.engine_of_waits (by rw [hio]; exact hw), hio, if_pos hf]
    · rw [hexec, State.engine_of_goes hw (by rw [hio]; exact ht), hig]
  · intro s g
    refine ⟨engineOn_of_empty, fun q hq => ?_⟩
    intro t i
    refine ⟨fun hn => ?_, fun u hu hm => ?_⟩
    · rw [State.engineOn_single hq, State.nextEngine_single_none hn]
      rfl
    · rw [State.engineOn_single hq, State.nextEngine_single_some hu fun hh => hm hh.2]
      rfl
  · intro s g ht enters
    refine ⟨fun q qs hq ho => ?_, fun hout => ⟨?_, ?_⟩⟩
    · have hout : ∀ q qs, (s.glade g.toNat).queue = q :: qs → outsideOp q.op = true := by
        intro q' qs' h
        rw [hq] at h
        obtain ⟨rfl, -⟩ := List.cons.inj h
        exact ho
      have hne : (s.glade g.toNat).queue ≠ [] := by rw [hq]; exact List.cons_ne_nil _ _
      intro i
      have hmsg : s.issues g 0x84 → i.f 39 34 < 62 → 8 * i.f 63 48 + 64 * (i.f 47 40 + 1) ≤ 524288 →
          exec (.msgSend g) s = .next (s.toQueue i []) := by
        intro h hc hb
        show execMsgSend g s = _
        unfold execMsgSend
        rw [atInstr_of_issues h (by decide), if_neg (Nat.not_le.2 hc)]
        exact congrArg _ (if_neg (Nat.not_lt.2 hb))
      have hfab : s.issues g 0x8C → i.f 63 30 = 0 → exec (.fabSend g) s = .next (s.toQueue i []) := by
        intro h hz
        show execFabSend g s = _
        unfold execFabSend
        rw [atInstr_of_issues h (by decide), if_neg (not_not.2 hz)]
      have henter : ∀ op, i.op = op → i.gl.queue.length < 16 → s.toQueue i [] = enters i op [] := by
        rintro op rfl hl
        exact State.toQueue_of_outside ht hl (head_append_outside hout fun h => absurd h hne)
      refine ⟨fun h hc hb => ⟨fun hl => ?_, fun hl => ?_⟩, fun h hz => ⟨fun hl => ?_, fun hl => ?_⟩⟩
      · rw [hmsg h hc hb, henter 0x84 h.2.2 hl]
      · rw [hmsg h hc hb, State.toQueue_of_full hl]
      · rw [hfab h hz, henter 0x8C h.2.2 hl]
      · rw [hfab h hz, State.toQueue_of_full hl]
    · intro i n hn hl hz hd
      have hqq : i.gl.queue = (s.glade g.toNat).queue := State.engineIssue_queue
      have hig : i.g = g.toNat := State.engineIssue_g
      have henter : ∀ op, i.op = op → outsideOp (BitVec.ofNat 8 op) = true →
          s.toQueue i [BitVec.ofNat 64 n] = enters i op [BitVec.ofNat 64 n] := by
        rintro op rfl ho
        rw [State.toQueue_of_outside ht hl (head_append_outside (by rw [hqq]; exact hout) fun _ => ho), hig]
      refine ⟨fun h ha hc hb => ?_, fun h hz' hx hy hb => ?_⟩
      · show issueCanopy s g true = _
        unfold issueCanopy
        rw [if_pos rfl, atEngine_of_issues h (by decide) (.inl rfl) hn]
        have haf : i.aform = 0 := ha
        rw [checks_pass (by simpa [spadSize] using And.intro hz ⟨haf, hc, Nat.le_sub_of_add_le hd, hb⟩),
          henter 0x68 (State.engineIssue_op.trans h.2.2) (by decide)]
      · show issueCanopy s g false = _
        unfold issueCanopy
        rw [if_neg Bool.false_ne_true, atEngine_of_issues h (by decide) (.inl rfl) hn]
        rw [checks_pass (by simpa [spadSize] using And.intro hz ⟨hz', ⟨⟨Nat.le_sub_of_add_le hd, Nat.le_sub_of_add_le hx⟩,
          Nat.le_sub_of_add_le hy⟩, hb⟩),
          henter 0x69 (State.engineIssue_op.trans h.2.2) (by decide)]
    · intro i hc hl hz
      have hzs : ∀ rsv, (∀ r ∈ rsv, i.f r.1 r.2 = 0) → i.zeros ([(15, 8), (23, 16), (24, 24), (31, 27)] ++ rsv) = true := by
        intro rsv h
        simp only [Issue.zeros, List.all_append, Bool.and_eq_true]
        exact ⟨hz, List.all_eq_true.2 fun r hr => by simp [h r hr]⟩
      refine ⟨fun hr hctr hd => ⟨fun h => ?_, fun ha hr' => ⟨fun h => ?_, fun h => ?_⟩⟩,
        fun hr hctr hd => ⟨fun h => ?_, fun ha h => ?_⟩⟩
      · exact issueRoute_enters (score := true) ht h (by decide) (by decide) hc hout hl (hzs _ (by simp [hr])) hctr hd
      · exact issueRoute_enters (score := false) ht h (by decide) (by decide) hc hout hl (hzs _ (by simp [hr, hr', ha])) hctr hd
      · exact issueRoute_enters (score := false) ht h (by decide) (by decide) hc hout hl (hzs _ (by simp [hr, hr', ha])) hctr hd
      · exact issueRoute_enters (score := true) ht h (by decide) (by decide) hc hout hl (hzs _ (by simp [hr])) hctr hd
      · exact issueRoute_enters (score := false) ht h (by decide) (by decide) hc hout hl (hzs _ (by simp [hr, ha])) hctr hd

end Sys2Proof.Machine

/-!
# Transfer instructions that start at once

With nothing in the transfer queue, an instruction of the transfer unit's own starts as it enters (R172, R174).
-/

namespace Sys2Proof.Machine

variable {s : State} {g : BitVec 10}

/-- `n` words of 32 bits lie below 2 to the 32·n. -/
theorem Glade.words_lt {gl : Glade} (pc n : Nat) : gl.words pc n < 2 ^ (32 * n) := by
  induction n generalizing pc with
  | zero => exact Nat.one_pos
  | succ n ih =>
    have h1 : gl.word pc < 2 ^ 32 := (gl.program.getD (pc / 4) 0xFFFFFFFF).isLt
    have h2 := ih (pc + 4)
    have h3 : 2 ^ (32 * (n + 1)) = 2 ^ 32 * 2 ^ (32 * n) := by rw [← pow_add]; congr 1; omega
    show gl.word pc + 2 ^ 32 * gl.words (pc + 4) n < _
    rw [h3]
    nlinarith

/-- An instruction has at most four words (R171). -/
theorem opLen_le (op : Nat) : opLen op ≤ 4 := by
  unfold opLen
  repeat' split
  all_goals decide

/-- The words of an instruction fit the 128 bits of a queue's entry. -/
theorem State.issueOf_w_lt {n : Nat} : (s.issueOf n).w < 2 ^ 128 :=
  lt_of_lt_of_le (Glade.words_lt _ _) (Nat.pow_le_pow_right (by decide) (Nat.mul_le_mul_left 32 (opLen_le _)))

/-- An opcode fits the 8 bits of a queue's entry. -/
theorem State.issueOf_op_lt {n : Nat} : (s.issueOf n).op < 2 ^ 8 := Nat.mod_lt _ (by decide)

/-- An instruction taken from its queue at once is the one that was issued, its glade having gone on. -/
theorem State.requeue_entry (ht : s.tablesOk) {args : List DWord} {n : Nat} :
    (s.setGlade n ((s.issueOf n).gl.step (s.issueOf n))).requeue n ((s.issueOf n).entry args)
      = { s.issueOf n with gl := (s.issueOf n).gl.step (s.issueOf n) } := by
  obtain ⟨-, hg, -⟩ := ht
  have hop : (BitVec.ofNat 8 (s.issueOf n).op).toNat = (s.issueOf n).op := by
    rw [BitVec.toNat_ofNat, Nat.mod_eq_of_lt State.issueOf_op_lt]
  have hw : (BitVec.ofNat 128 (s.issueOf n).w).toNat = (s.issueOf n).w := by
    rw [BitVec.toNat_ofNat, Nat.mod_eq_of_lt State.issueOf_w_lt]
  unfold State.requeue
  dsimp only
  rw [State.glade_setGlade hg, hop, hw]
  rfl

/-- Nothing starts from an empty transfer queue. -/
theorem drainQueue_of_empty {n k : Nat} (h : (s.glade n).queue = []) : drainQueue n k s = s := by
  cases k with
  | zero => rfl
  | succ k =>
    unfold drainQueue
    dsimp only
    rw [h]

/-- The head of the transfer queue, if it is the transfer unit's own, starts, and the rest goes on. -/
theorem drainQueue_cons {n k : Nat} {q : QueuedInstr} {rest : List QueuedInstr} (h : (s.glade n).queue = q :: rest)
    (ho : outsideOp q.op = false) :
    drainQueue n (k + 1) s = drainQueue n k ((s.setGlade n { s.glade n with queue := rest }).startTransfer n q) := by
  rw [drainQueue]
  dsimp only
  rw [h]
  dsimp only
  rw [if_neg (by rw [ho]; exact Bool.false_ne_true)]

/-- A glade replaced twice is as it was replaced last. -/
theorem State.setGlade_setGlade {n : Nat} {x y : Glade} (h : mwf Glade.init s.glades = true) :
    (s.setGlade n x).setGlade n y = s.setGlade n y := by
  have hm : mset Glade.init (mset Glade.init s.glades n x) n y = mset Glade.init s.glades n y := mset_mset h
  unfold State.setGlade
  dsimp only
  rw [hm]

/-- Emptying an empty transfer queue leaves a glade as it is. -/
theorem Glade.with_empty_queue {gl : Glade} (h : gl.queue = []) : { gl with queue := [] } = gl := by
  cases gl
  cases h
  rfl

/-- With nothing in the transfer queue, an instruction of the transfer unit's own starts as it enters (R172, R174). -/
theorem State.toQueue_of_empty {n : Nat} {args : List DWord} (ht : s.tablesOk) (hq : (s.issueOf n).gl.queue = [])
    (ho : outsideOp (BitVec.ofNat 8 (s.issueOf n).op) = false) :
    s.toQueue (s.issueOf n) args = drainQueue n 15
      ((s.setGlade n ((s.issueOf n).gl.step (s.issueOf n))).startTransfer n ((s.issueOf n).entry args)) := by
  obtain ⟨-, hg, -⟩ := ht
  have hqs : ((s.issueOf n).gl.step (s.issueOf n)).queue = [] := hq
  unfold State.toQueue
  dsimp only
  rw [if_neg (by rw [hq]; decide), hqs]
  have hgn : (s.issueOf n).g = n := rfl
  rw [hgn, drainQueue_cons (by rw [State.glade_setGlade hg]; rfl) ho, State.glade_setGlade hg, State.setGlade_setGlade hg]
  dsimp only
  rw [Glade.with_empty_queue hqs]

/-- The look-aside buffers and access counts leave the glades as they are. -/
theorem State.touchUnit_glades {die : Option Nat} {counts write : Bool} {u : Nat} :
    (s.touchUnit die counts write u).glades = s.glades := by
  have hlook : ∀ (t : State) (d i : Nat), (t.glbLookup d i).glades = t.glades := by
    intro t d i
    unfold State.glbLookup
    dsimp only
    split
    · rfl
    · split <;> rfl
  have hdie : ∀ t : State, (t.pickDie die).2.glades = t.glades := by
    intro t
    cases die <;> rfl
  unfold State.touchUnit
  dsimp only
  split
  · split
    · rw [hlook, hdie]
    · rfl
  · rfl

/-- The units of a request leave the glades as they are. -/
theorem touchUnits_glades {die : Option Nat} {counts write : Bool} (us : List Nat) (s : State) :
    (touchUnits die counts write us s).glades = s.glades := by
  induction us generalizing s with
  | nil => rfl
  | cons u us ih => exact (ih _).trans State.touchUnit_glades

/-- The reads of a die's requests leave the glades as they are. -/
@[simp] theorem State.touchReadOn_glades {die a n : Nat} : (s.touchReadOn die a n).glades = s.glades := touchUnits_glades _ _

section Starting
variable {n : Nat} {q : QueuedInstr}

/-- What starts for a MSG.SEND. -/
theorem State.startTransfer_send (h : q.op.toNat = 0x84) : s.startTransfer n q = s.startSend (s.requeue n q) := by
  unfold State.startTransfer
  rw [h]
  rfl

/-- What starts for a MEM.RD. -/
theorem State.startTransfer_read (h : q.op.toNat = 0x88) :
    s.startTransfer n q = s.startMem (s.requeue n q) false (q.arg 0) (q.arg 1) := by
  unfold State.startTransfer
  rw [h]
  rfl

/-- What starts for a MEM.WR. -/
theorem State.startTransfer_write (h : q.op.toNat = 0x89) :
    s.startTransfer n q = s.startMem (s.requeue n q) true (q.arg 0) (q.arg 1) := by
  unfold State.startTransfer
  rw [h]
  rfl

/-- What starts for a FAB.SEND. -/
theorem State.startTransfer_fab (h : q.op.toNat = 0x8C) : s.startTransfer n q = s.fabSend (s.requeue n q) := by
  unfold State.startTransfer
  rw [h]
  rfl

end Starting

/-- MEM.RD and MEM.WR go on when the tests that they share pass. -/
theorem State.memChecks_pass {i : Issue} {write : Bool} {k : Nat → Nat → State} (hz : i.f 63 55 = 0) (hc : i.f 42 37 < 62)
    (ha : 8 * i.f 23 8 % 64 = 0) (hs : 8 * i.f 23 8 + 64 * (i.f 36 24 + 1) ≤ 524288) (hd : (i.gl.gpr (i.f 49 45)).toNat % 64 = 0)
    (ht : i.f 44 43 = 1 ∨ i.f 44 43 = 2 ∨ i.f 54 50 = 0)
    (hw : if write then i.f 44 43 ≠ 3 else i.f 44 43 < 2 ∨ s.isaOne i.p = false)
    (hm : (if write then s.mayWrite i.p (i.gl.gpr (i.f 49 45)).toNat (64 * (i.f 36 24 + 1))
      else s.mayRead i.p (i.gl.gpr (i.f 49 45)).toNat (64 * (i.f 36 24 + 1))) = true)
    (hmt : tableBytes (64 * (i.f 36 24 + 1)) (i.f 44 43) = 0 ∨
      (if write then s.mayWrite i.p (i.gl.gpr (i.f 54 50)).toNat (tableBytes (64 * (i.f 36 24 + 1)) (i.f 44 43))
      else s.mayRead i.p (i.gl.gpr (i.f 54 50)).toNat (tableBytes (64 * (i.f 36 24 + 1)) (i.f 44 43))) = true) :
    s.memChecks i write k = k (i.gl.gpr (i.f 49 45)).toNat (i.gl.gpr (i.f 54 50)).toNat := by
  unfold State.memChecks
  dsimp only
  refine checks_pass ?_
  have h1 : ((i.f 44 43 == 0 || (i.f 44 43 == 3 && !write)) && i.f 54 50 != 0) = false := by
    rcases ht with h | h | h <;> simp [h]
  have h2 : (!write && s.isaOne i.p && decide (i.f 44 43 ≥ 2)) = false := by
    cases write with
    | true => rfl
    | false =>
      rcases (show i.f 44 43 < 2 ∨ s.isaOne i.p = false from hw) with h | h
      · simp [Nat.not_le.2 h]
      · simp [h]
  have h3 : (write && i.f 44 43 == 3) = false := by
    cases write with
    | true => simpa using hw
    | false => rfl
  have h4 : (decide (tableBytes (64 * (i.f 36 24 + 1)) (i.f 44 43) > 0) && !(if write then
      s.mayWrite i.p (i.gl.gpr (i.f 54 50)).toNat (tableBytes (64 * (i.f 36 24 + 1)) (i.f 44 43))
      else s.mayRead i.p (i.gl.gpr (i.f 54 50)).toNat (tableBytes (64 * (i.f 36 24 + 1)) (i.f 44 43)))) = false := by
    rcases hmt with h | h
    · rw [h]; rfl
    · rw [h, Bool.not_true, Bool.and_false]
  rw [h1, h2, h3, h4, hm]
  simp [hz, hc, ha, hs, hd, spadSize]

/-- Drawing the form of a row to elide leaves the glades as they are. -/
theorem State.pickForm_glades {n : Nat} : (s.pickForm n).2.glades = s.glades := by
  unfold State.pickForm
  dsimp only
  split <;> rfl

/-- Drawing the form of a row to elide leaves the routes as they are. -/
theorem State.pickForm_routeTo {n : Nat} {dst : BitVec 24} : (s.pickForm n).2.routeTo dst = s.routeTo dst := by
  unfold State.pickForm
  dsimp only
  split <;> rfl

/-- A first send whose route is known is kept, goes out and counts (R333). -/
theorem State.finishSend_first {k : KeptSend} {ctr : Nat} {src : List Byte} {port : Option Nat} (hr : s.routeTo k.dst = .inr port)
    (hk : k.resent = false) : s.finishSend k ctr src = ((s.keepSend k).launch port (s.fabBuild (fabDesc k.desc) k.glade.toNat
      k.plot.toNat k.tstep.toNat (k.body src))).countUp k.glade.toNat ctr 1 := by
  unfold State.finishSend
  rw [hr]
  dsimp only
  rw [if_neg (by rw [hk]; exact Bool.false_ne_true)]

/-- Settles O24: each instruction's tests pass, it enters the empty transfer queue and starts there. -/
theorem transferInstructionsStart : Obligations.TransferInstructionsStart := by
  intro s g i t plot ht hq
  have hg : mwf Glade.init s.glades = true := ht.2.1
  refine ⟨fun h hc hb => ?_, ?_, fun h hz => ?_⟩
  · intro r
    show execMsgSend g s = _
    unfold execMsgSend
    rw [atInstr_of_issues h (by decide), if_neg (Nat.not_le.2 hc)]
    refine congrArg _ ((if_neg (Nat.not_lt.2 hb)).trans ?_)
    have hop : i.op = 0x84 := h.2.2
    rw [State.toQueue_of_empty ht hq (by rw [hop]; decide)]
    have hstart : t.startTransfer g.toNat (i.entry []) = { t with mesh := s.mesh ++
        [{ route := r.word, bytes := i.gl.read (8 * i.f 63 48) (64 * (i.f 47 40 + 1)), rank := none, extra := [] }] } := by
      rw [State.startTransfer_send (by show (BitVec.ofNat 8 i.op).toNat = _; rw [hop]; rfl), State.requeue_entry ht]
      rfl
    rw [hstart]
    refine drainQueue_of_empty ?_
    exact (congrArg Glade.queue (State.glade_setGlade hg)).trans hq
  · intro spa len addr table chk opened tb hz hc ha hs hd hck
    have harg0 : (i.entry [BitVec.ofNat 64 addr, BitVec.ofNat 64 table]).arg 0 = addr := by
      show (BitVec.ofNat 64 (i.gl.gpr (i.f 49 45)).toNat).toNat = _
      rw [BitVec.ofNat_toNat, BitVec.setWidth_eq]
    have harg1 : (i.entry [BitVec.ofNat 64 addr, BitVec.ofNat 64 table]).arg 1 = table := by
      show (BitVec.ofNat 64 (i.gl.gpr (i.f 54 50)).toNat).toNat = _
      rw [BitVec.ofNat_toNat, BitVec.setWidth_eq]
    have hopened : ∀ write, t.addTransfer i.g (transferOf { i with gl := i.gl.step i } write addr table) = opened write := by
      intro write
      show t.addTransfer g.toNat _ = _
      unfold State.addTransfer
      rw [State.glade_setGlade hg, State.setGlade_setGlade hg]
      rfl
    have hempty : ∀ write, ((opened write).glade g.toNat).queue = [] := fun write =>
      (congrArg Glade.queue (State.glade_setGlade hg)).trans hq
    have hchk : (BitVec.ofNat 2 chk).toNat = chk := by
      have hlt : i.f 44 43 < 2 ^ 2 := Nat.mod_lt _ (by decide)
      rw [BitVec.toNat_ofNat, Nat.mod_eq_of_lt hlt]
    refine ⟨fun h hv hm hmt => ?_, fun h hv hm hmt hl hlt => ?_⟩
    · show execMemRd g s = _
      unfold execMemRd
      have hop : i.op = 0x88 := h.2.2
      rw [atInstr_of_issues h (by decide), State.memChecks_pass (write := false) hz hc ha hs hd hck hv hm hmt,
        State.toQueue_of_empty ht hq (by rw [hop]; decide),
        State.startTransfer_read (by show (BitVec.ofNat 8 i.op).toNat = _; rw [hop]; rfl), State.requeue_entry ht]
      have hstart : t.startMem { i with gl := i.gl.step i } false ((i.entry [BitVec.ofNat 64 addr, BitVec.ofNat 64 table]).arg 0)
          ((i.entry [BitVec.ofNat 64 addr, BitVec.ofNat 64 table]).arg 1)
          = if tb = 0 then (opened false).touchReadOn (dieOf g.toNat) addr len
            else ((opened false).touchReadOn (dieOf g.toNat) addr len).touchReadOn (dieOf g.toNat) table tb := by
        rw [harg0, harg1]
        unfold State.startMem
        dsimp only
        rw [hopened false, if_neg Bool.false_ne_true]
        have hlen : (transferOf { i with gl := i.gl.step i } false addr table).chk.toNat = chk := hchk
        rw [hlen]
        rfl
      rw [hstart]
      refine congrArg _ (drainQueue_of_empty ?_)
      split
      · exact (congrArg (fun x => (mget Glade.init x g.toNat).queue) State.touchReadOn_glades).trans (hempty false)
      · exact (congrArg (fun x => (mget Glade.init x g.toNat).queue)
          (State.touchReadOn_glades.trans State.touchReadOn_glades)).trans (hempty false)
    · show execMemWr g s = _
      unfold execMemWr
      have hop : i.op = 0x89 := h.2.2
      rw [atInstr_of_issues h (by decide), State.memChecks_pass (write := true) hz hc ha hs hd hck hv hm hmt]
      have hl' : s.leaseMissing i.p addr (64 * (i.f 36 24 + 1)) = none := hl
      have hlt' : (if tableBytes (64 * (i.f 36 24 + 1)) (i.f 44 43) > 0 then
          s.leaseMissing i.p table (tableBytes (64 * (i.f 36 24 + 1)) (i.f 44 43)) else none) = none := by
        rcases hlt with h | h
        · exact if_neg (by rw [show tableBytes _ _ = 0 from h]; exact Nat.lt_irrefl 0)
        · split
          · exact h
          · rfl
      dsimp only
      rw [hl', hlt']
      dsimp only
      rw [State.toQueue_of_empty ht hq (by rw [hop]; decide),
        State.startTransfer_write (by show (BitVec.ofNat 8 i.op).toNat = _; rw [hop]; rfl), State.requeue_entry ht]
      have hstart : t.startMem { i with gl := i.gl.step i } true ((i.entry [BitVec.ofNat 64 addr, BitVec.ofNat 64 table]).arg 0)
          ((i.entry [BitVec.ofNat 64 addr, BitVec.ofNat 64 table]).arg 1) = opened true := by
        rw [harg0, harg1]
        exact hopened true
      rw [hstart]
      exact congrArg _ (drainQueue_of_empty (hempty true))
  · intro bs d sh src tstep hb hres hcls hp0 hp hctr hdctr hlease hmay hspad hel hgood port hport hver body u kept
    show execFabSend g s = _
    unfold execFabSend
    have hop : i.op = 0x8C := h.2.2
    rw [atInstr_of_issues h (by decide), if_neg (not_not.2 hz), State.toQueue_of_empty ht hq (by rw [hop]; decide),
      State.startTransfer_fab (by show (BitVec.ofNat 8 i.op).toNat = _; rw [hop]; rfl), State.requeue_entry ht]
    refine congrArg _ (congrArg _ ?_)
    have hok : spadOk (8 * i.f 23 8) 32 8 = true := spadOk_iff.2 ⟨Nat.mul_mod_right 8 _, hb⟩
    have hglades : sh.2.glade g.toNat = i.gl.step i := by
      have : sh.2.glades = t.glades := by
        simp only [sh]
        split
        · exact State.pickForm_glades
        · rfl
      exact (congrArg (fun x => mget Glade.init x g.toNat) this).trans (State.glade_setGlade hg)
    have hseq : (sh.2.glade g.toNat).seq = i.gl.seq := by rw [hglades]; rfl
    have hshape : sh.2.routeTo d.dst = .inr port := by
      simp only [sh]
      split
      · exact State.pickForm_routeTo.trans hport
      · exact hport
    show t.fabSend { i with gl := i.gl.step i } = _
    unfold State.fabSend
    dsimp only
    have hread : (i.gl.step i).read (8 * i.f 23 8) 32 = bs := rfl
    have hf : ∀ x y, ({ i with gl := i.gl.step i } : Issue).f x y = i.f x y := fun _ _ => rfl
    have hroute : t.routeTo d.dst = .inr port := hport
    have hlt : t.holdsLease i.p 4 d.xslot = true := hlease
    have hsh : (if d.elided then t.pickForm d.plen else (none, t)) = sh := rfl
    rw [hf, hok, if_neg (by decide), hread, if_neg (by rw [hres]; exact Bool.false_ne_true),
      if_neg (by simpa using And.intro ⟨⟨⟨hcls, hp0⟩, hp⟩, hctr⟩ hdctr), if_neg (by rw [hlt]; exact Bool.false_ne_true), hroute]
    dsimp only
    rw [if_neg]
    swap
    · cases hpv : port with
      | none => exact Bool.false_ne_true
      | some p =>
        intro hh
        simp only [Bool.and_eq_true, Bool.or_eq_true, decide_eq_true_eq] at hh
        obtain ⟨hv, hx⟩ := hh
        obtain ⟨hc2, hel'⟩ := hver p hpv hv
        rcases hx with hx | hx
        · exact absurd hc2 (Nat.not_lt.2 hx)
        · rw [show (fabDesc bs).elided = false from hel'] at hx
          exact Bool.false_ne_true hx
    have h1 : ¬ ((fabDesc bs).dsrc && !t.mayRead i.p (fabDesc bs).saddr (fabDesc bs).plen) = true := by
      cases hds : (fabDesc bs).dsrc with
      | false => exact Bool.false_ne_true
      | true =>
        rw [show t.mayRead i.p (fabDesc bs).saddr (fabDesc bs).plen = true from hmay hds]
        exact Bool.false_ne_true
    have h2 : ¬ (!(fabDesc bs).dsrc && decide ((fabDesc bs).saddr + (fabDesc bs).plen > spadSize)) = true := by
      cases hds : (fabDesc bs).dsrc with
      | true => exact Bool.false_ne_true
      | false =>
        have := hspad hds
        simpa [spadSize] using this
    have h3 : ¬ (!(fabDesc bs).dsrc && (decide ((fabDesc bs).chk = 1) || decide ((fabDesc bs).chk = 2)) &&
        !payloadGood (fabDesc bs).chk ((i.gl.step i).read (fabDesc bs).saddr (fabDesc bs).plen)) = true := by
      intro hh
      simp only [Bool.and_eq_true, Bool.or_eq_true, decide_eq_true_eq, Bool.not_eq_true'] at hh
      obtain ⟨⟨hds, hck⟩, hbad⟩ := hh
      exact absurd ((hgood hds hck).symm.trans hbad) (by decide)
    rw [if_neg h1, if_neg h2, hsh, if_neg, if_neg h3]
    · have hgn : BitVec.ofNat 10 i.g = g := by
        show BitVec.ofNat 10 g.toNat = g
        rw [BitVec.ofNat_toNat, BitVec.setWidth_eq]
      have hpn : (BitVec.ofNat 6 i.p).toNat = i.p := by
        show (BitVec.ofNat 6 i.gl.plot.toNat).toNat = i.gl.plot.toNat
        rw [BitVec.ofNat_toNat, BitVec.setWidth_eq]
      have htn : (BitVec.ofNat 16 tstep).toNat = tstep := by
        rw [BitVec.toNat_ofNat]
        exact Nat.mod_eq_of_lt (Nat.mod_lt _ (by decide))
      have hseq' : (sh.2.glade i.g).seq = i.gl.seq := hseq
      have hur : u.routeTo kept.dst = .inr port := by
        simp only [u]
        split <;> exact hshape
      rw [hseq', hgn]
      by_cases hds : d.dsrc = true
      · rw [if_pos hds]
        exact (if_pos hds).symm
      · rw [if_neg hds, if_neg hds]
        refine (State.finishSend_first hur rfl).trans ?_
        show ((u.keepSend kept).launch port (u.fabBuild d g.toNat (BitVec.ofNat 6 i.p).toNat (BitVec.ofNat 16 tstep).toNat
          (kept.body src))).countUp g.toNat (i.f 29 24) 1 = _
        rw [hpn, htn]
        rfl
    · cases hx : sh.1 with
      | some x =>
        have hel' : d.elided = true := by
          by_contra hne
          simp only [sh] at hx
          rw [if_neg hne] at hx
          exact absurd hx (by simp)
        obtain ⟨y, hy, hy2⟩ := hel hel'
        obtain rfl : x = y := Option.some.inj (hx.symm.trans hy)
        exact fun hbig => absurd (of_decide_eq_true hbig) (Nat.not_lt.2 hy2)
      | none =>
        intro hbig
        obtain ⟨y, hy, -⟩ := hel hbig
        exact absurd (hx.symm.trans hy) (by simp)

end Sys2Proof.Machine

/-!
# A checked read over a traced source

A MEM.RD with a check whose bytes lie where another checked read's did: the bytes lose their old traced source (R117).
-/

namespace Sys2Proof.Machine

/-- A region of 64 KiB of stack memory at the bottom of the device range, open to plot 0. -/
def rereadRegion : Region :=
  { base := 0, size := 16, kind := 0, place := 0, ro := false, mirror := false, hrep := false, leaseWr := false, gran := 0
    plots := 1, smask := 0xFF, umask := 0, sOff := 0, sLen := 2, uOff := 0, uLen := 0, mOff := 0, gt0 := 0 }

/-- A checked read of 64 bytes to the bottom of the scratchpad. -/
def rereadTransfer : Transfer :=
  { write := false, spa := 0, len := 64, ctr := 61, chk := 1, addr := 0, table := 4096, data := [], pc := 0, good := []
    waiting := [], send := none, slots := [] }

/-- The traced source that the scratchpad bytes of the read have already. -/
def rereadSource : SourceRun := { lo := 0, hi := 64, spa := 0, len := 64, addr := 128, chk := 1, table := 8192 }

/-- Glade 0 with the read under way over bytes that have a traced source; the table holds the check value of 64 zero bytes. -/
def rereadState : State :=
  { State.reset with
    glades := [(0, { Glade.init with inService := true, transfers := [rereadTransfer], sources := [rereadSource] })]
    mem := { State.reset.mem with regions := [(0, rereadRegion)] } }.devWrite 4096 (leBytes 4 (crc32c (zeroBytes 64)))

/-- How many traced sources glade 0 has after an outcome. -/
def sourcesAfter : Out → Option Nat
  | .next t => some (t.glade 0).sources.length
  | _ => none

/-- The read completes and leaves its own traced source alone. -/
theorem sourcesAfter_reread : sourcesAfter (exec (.memRdComplete 0 0 [] []) rereadState) = some 1 := by decide +kernel

/-- The state satisfies what the statement asks of a checked read. -/
theorem rereadState_reads :
    rereadState.tablesOk ∧ (rereadState.glade 0).transfers[0]? = some rereadTransfer ∧ rereadState.joinsFor rereadTransfer = []
    ∧ rereadState.unmappedUnit 0 64 = none ∧ rereadState.mem.regionOf 0 64 = some (0, rereadRegion)
    ∧ ∀ b ∈ rereadState.blocksFor rereadTransfer, rereadState.failsFor rereadTransfer b = false := by decide +kernel

/-- The glade that the statement names keeps the old traced source beside the new one. -/
theorem sourcesAfter_claimed {gl : Glade} {r : SourceRun} (h : (gl.ctr 61).toNat + 1 ≤ 65535) :
    sourcesAfter (.next ((rereadState.setGlade 0 { gl with sources := r :: (rereadState.glade 0).sources }).countUp 0 61 1))
      = some 2 := by
  have hg : mwf Glade.init rereadState.glades = true := rereadState_reads.1.2.1
  have hg' : mwf Glade.init (rereadState.setGlade 0 { gl with sources := r :: (rereadState.glade 0).sources }).glades = true :=
    mwf_mset hg
  rw [State.countUp_of_le (by rw [State.glade_setGlade hg]; exact h)]
  show some (((State.setGlade _ 0 _).glade 0).sources.length) = _
  rw [State.glade_setGlade hg', State.glade_setGlade hg]
  rfl

/-- Refutes O26: a checked read over bytes with a traced source takes that source away, which the statement keeps. -/
theorem not_transfersComplete : ¬ Obligations.TransfersComplete := by
  intro h
  obtain ⟨hok, ht, hj, hu, hr, hf⟩ := rereadState_reads
  obtain ⟨hread, -⟩ := h rereadState 0 0 rereadTransfer [] [] hok ht
  obtain ⟨-, hdone⟩ := hread rfl rfl hj
  obtain ⟨-, -, hchk⟩ := hdone hu
  obtain ⟨heq, -⟩ := hchk (by decide) rfl (0, rereadRegion) hr hf (by decide)
  have hc := sourcesAfter_reread
  rw [heq rfl] at hc
  exact absurd ((sourcesAfter_claimed (by decide +kernel)).symm.trans hc) (by decide)

end Sys2Proof.Machine

/-!
# The canopy pipelines

Acceptance into a pipeline, the turn of CNP.APP and CNP.ATT, and the slices and late pages of a CNP.ATT in progress.
-/

namespace Sys2Proof.Machine

variable {s : State}

/-- What is read does not lie in a block under repair: the reader goes on. -/
theorem State.whenReadable_of_free {p : Option (BitVec 6)} {es : List (Nat × Nat)} {k : State} (h : s.mem.blocked es = false) :
    s.whenReadable p es k = k := if_neg (by rw [h]; exact Bool.false_ne_true)

/-- What is read lies in a block under repair: the reads are held, and nothing else happens (R322). -/
theorem State.whenReadable_of_blocked {p : Option (BitVec 6)} {es : List (Nat × Nat)} {k : State} (h : s.mem.blocked es = true) :
    s.whenReadable p es k = holdEach p es { s with mem := { s.mem with held := s.mem.stillHeld } } := if_pos h

/-- An unpaired pipeline takes the instruction. -/
theorem State.acceptTwin_unpaired {i : Issue} {ci : CanopyInstr} {gv : Nat} (h : s.twin gv = none) :
    s.acceptTwin i ci gv = s.acceptHead i.g gv ci := by
  unfold State.acceptTwin
  dsimp only
  rw [h]

/-- The opcode of a canopy instruction at the head of the transfer queue passes the first test of acceptance. -/
theorem not_other_opcode {q : QueuedInstr} (h : q.op = 0x68 ∨ q.op = 0x69) : ¬ (q.op ≠ 0x68 ∧ q.op ≠ 0x69) :=
  fun hh => h.elim hh.1 hh.2

/-- Taking the head of the transfer queue, written out. -/
theorem State.acceptHead_eq {g gv : Nat} {ci : CanopyInstr} {q : QueuedInstr} {qs : List QueuedInstr}
    (h : (s.glade g).queue = q :: qs) :
    s.acceptHead g gv ci = drainQueue g 16 ((s.setGlade g { s.glade g with queue := qs }).setCanopy gv
      { s.canopy gv with queue := (s.canopy gv).queue ++ [ci] }) := by
  unfold State.acceptHead
  dsimp only
  rw [h]
  rfl

/-- In a pipeline's turn the head of its queue runs once what it reads is free of repair (R225, R322). -/
theorem runCanopy_of_head {u : BitVec 10} {app : Bool} {i : CanopyInstr} {rest : List CanopyInstr} (hu : u.toNat < 16)
    (hr : s.groveRuns u.toNat = true) (hq : (s.canopy u.toNat).queue = i :: rest) (hop : decide (i.q.op = 0x68) = app)
    (hrun : app = true ∨ (s.canopy u.toNat).run = none) (hb : s.mem.blocked (s.canopyReads i) = false) :
    runCanopy s u app = .next (if app then (s.setCanopy u.toNat { s.canopy u.toNat with queue := rest }).runAppend i
      else ((s.setCanopy u.toNat { s.canopy u.toNat with queue := rest }).startAtt u.toNat i).advanceBoth u.toNat) := by
  have hrun' : ¬ ((s.canopy u.toNat).run.isSome && !app) = true := by
    rcases hrun with h | h <;> simp [h]
  have hstay : ¬ (decide (i.q.op = 0x68) ≠ app ∨ (!s.groveRuns u.toNat) = true) := by
    rw [hr]
    rintro (h | h)
    · exact h hop
    · exact Bool.false_ne_true h
  unfold runCanopy
  dsimp only
  rw [if_neg (Nat.not_le.2 hu), if_neg hrun', hq]
  dsimp only
  rw [if_neg hstay, State.whenReadable_of_free hb]

/-- Settles O28: the branches of acceptance and of a pipeline's turn that the statement names. -/
theorem canopyAcceptsAndRuns : Obligations.CanopyAcceptsAndRuns := by
  intro s g
  refine ⟨?_, ?_⟩
  · intro q qs hq hop hr gl gv i c dropped
    have hgn : i.g = g.toNat := rfl
    refine ⟨fun hl => ?_, fun hl hready hlen htw h68 h69 => ?_⟩
    · show execCanopyInstructionAccept g s = _
      unfold execCanopyInstructionAccept
      dsimp only
      rw [hq]
      dsimp only
      rw [if_neg (not_other_opcode hop), if_neg (by rw [hr]; exact Bool.false_ne_true),
        if_pos (by rw [show s.holdsLease (s.requeue g.toNat q).p 1 (groveOf g.toNat) = _ from hl]; rfl)]
      refine congrArg _ (congrArg (fun x => State.leaseFault x _ _ _ _ _) ?_)
      show s.setGlade g.toNat { gl with queue := gl.queue.drop 1 } = _
      rw [hq]
      rfl
    · have hhead : s.acceptTwin i { glade := g, plot := gl.plot, attempt := (s.plot gl.plot.toNat).tag, q } gv
          = drainQueue g.toNat 16 (dropped.setCanopy gv
            { c with queue := c.queue ++ [{ glade := g, plot := gl.plot, attempt := (s.plot gl.plot.toNat).tag, q }] }) :=
        (State.acceptTwin_unpaired htw).trans (State.acceptHead_eq hq)
      show execCanopyInstructionAccept g s = _
      unfold execCanopyInstructionAccept
      dsimp only
      rw [hq]
      dsimp only
      rw [if_neg (not_other_opcode hop), if_neg (by rw [hr]; exact Bool.false_ne_true),
        if_neg (by rw [show s.holdsLease (s.requeue g.toNat q).p 1 (groveOf g.toNat) = _ from hl]; exact Bool.false_ne_true),
        if_neg (by rw [hready]; simpa using hlen)]
      rcases hop with hop | hop
      · have hrange : (attDesc ((s.requeue g.toNat q).gl.attBytes (s.requeue g.toNat q).w)).outOfRange s = false := h68 hop
        rw [if_pos hop, if_neg (by rw [hrange]; exact Bool.false_ne_true)]
        exact congrArg _ hhead
      · rw [if_neg (by rw [hop]; decide), List.find?_eq_none.2 fun f hf => by rw [h69 hop f hf]; exact Bool.false_ne_true]
        exact congrArg _ hhead
  · intro i rest po hg hr hq hb t w gl rows
    refine ⟨?_, ?_⟩
    · intro hop kg last hk hv
      show runCanopy s g true = _
      rw [runCanopy_of_head hg hr hq (by rw [hop]; rfl) (.inl rfl) hb, if_pos rfl]
      refine congrArg _ (if_neg ?_)
      rintro (h | h)
      · exact absurd hk (Nat.not_le.2 h)
      · exact absurd hv (Nat.not_le.2 h)
    · intro hop hrun desc a d o n hn x u
      show runCanopy s g false = _
      rw [runCanopy_of_head hg hr hq (by rw [hop]; rfl) (.inr hrun) hb, if_neg Bool.false_ne_true]
      refine congrArg _ (congrArg (fun y => State.advanceBoth y g.toNat) (if_neg ?_))
      rintro ⟨h0, h⟩
      obtain ⟨hq', hs', hd'⟩ := hn.resolve_left h0
      rcases h with h | h | h
      · exact absurd hq' (Nat.not_le.2 h)
      · exact absurd hs' (Nat.not_le.2 h)
      · exact absurd hd' (Nat.not_le.2 h)

/-- The slice read of a round: its branches, by what came (R215, R220, R307). -/
theorem execSliceReadComplete_of_waiting {grove : BitVec 4} {k : Nat} {bad1 bad2 : Bool} {run : AttRun} {r : Round} {page num : Nat}
    {t : DWord} {late : Bool} (hc : (s.canopy grove.toNat).run = some run) (hr : run.rounds[k]? = some r)
    (hk : r.kind = .visit page num (some t) none late) {bs : List Byte} {good : Bool} {at_ : Nat}
    (hat : at_ = s.sliceAddr (attDesc run.desc) page)
    (hbs : bs = (s.mem.withSlots r.slots).read at_ (sliceSize s.kvForm))
    (hgood : good = ((List.range 16).filter fun x => decide (16 * num + x < r.len)).all (slotGood s.kvForm bs)) :
    exec (.sliceReadComplete grove k bad1 bad2) s = .next (s.whenReadable (some run.instr.plot) [(at_, sliceSize s.kvForm)]
      (((if good && !bad1 then (if bad1 then s.countPoison at_ else s)
        else (if bad2 then (if bad1 then s.countPoison at_ else s).countPoison at_
          else (if bad1 then s.countPoison at_ else s)).touchReadOn (grove.toNat / 4) at_ (sliceSize s.kvForm)).giveItem grove.toNat k
        run r (if good && (!bad1 || !bad2) then .slice bs else .bad)).advanceBoth grove.toNat)) := by
  subst hat hbs hgood
  show execSliceReadComplete grove k bad1 bad2 s = _
  unfold execSliceReadComplete
  dsimp only
  rw [hc]
  dsimp only
  rw [hr]
  dsimp only
  rw [hk]

/-- A round that waits for its slice is given what came. -/
theorem State.giveItem_of_waiting {gv k page num : Nat} {run : AttRun} {r : Round} {x : SliceItem} {t own : _} {late : Bool}
    (hk : r.kind = .visit page num t own late) : s.giveItem gv k run r x
      = s.setRun gv (some { run with rounds := setAt run.rounds k { r with kind := .visit page num t (some x) late } }) := by
  unfold State.giveItem
  rw [hk]

/-- Settles O29: the arrival of a slice by what came and by repair, and the rows of Table 8.5 for a late page. -/
theorem slicesArriveOrAreReplaced : Obligations.SlicesArriveOrAreReplaced := by
  intro s grove run gv f hc
  refine ⟨?_, ?_⟩
  · intro k r page num t late bad1 bad2 hr hk at_ bs good given
    rw [execSliceReadComplete_of_waiting (at_ := at_) (bs := bs) (good := good) hc hr hk rfl rfl rfl]
    refine ⟨fun hb => ?_, fun hb => ?_⟩
    · rw [State.whenReadable_of_blocked hb]
    · rw [State.whenReadable_of_free hb, State.giveItem_of_waiting hk]
      refine ⟨fun hg h1 => ?_, fun hg h1 h2 => ?_, fun h => ?_⟩
      · rw [hg, h1]
        rfl
      · rw [hg, h1, h2]
        rfl
      · intro s0 u
        have hbad : (good && (!bad1 || !bad2)) = false := by
          rcases h with h | ⟨h1, h2⟩
          · rw [h]
            rfl
          · rw [h1, h2, Bool.or_self, Bool.not_true, Bool.and_false]
        have hagain : (good && !bad1) = false := by
          rcases h with h | ⟨h1, h2⟩
          · rw [h]
            rfl
          · rw [h1, Bool.not_true, Bool.and_false]
        rw [hbad, hagain]
        rfl
  · intro r rest page num t badDigest hr hk hdue hb a p kept u may dvalid dAt row
    have hmay : may → (decide (s.field Reg.cnpLate 16 16 = 1) && decide (s.image.standSize ≤ 1024)) = true := fun h => by
      rw [decide_eq_true h.1, decide_eq_true h.2]
      rfl
    have hnot : ¬ may → (decide (s.field Reg.cnpLate 16 16 = 1) && decide (s.image.standSize ≤ 1024)) = false := fun h => by
      rw [← Bool.decide_and]
      exact decide_eq_false h
    refine ⟨fun hx hm hv => ?_, fun hm => ?_, fun hx hm => ⟨fun hv => ?_, fun hv hd hg => ?_⟩⟩
    all_goals
      show execLatePage grove badDigest s = _
      unfold execLatePage
      dsimp only
      rw [hc]
      dsimp only
      rw [hr]
      dsimp only
      rw [hk]
      dsimp only
      rw [if_neg (Nat.not_le.2 hdue), if_neg (by rw [hb]; exact Bool.false_ne_true)]
    · rw [if_pos hx, if_pos (by rw [hmay hm, show bitOf (s.pte page) 3 = true from hv]; rfl)]
    · have hmay' := hnot hm
      rw [hmay', Bool.false_and]
      by_cases hx : (s.plot p).exact = true
      · rw [if_pos hx]
        rfl
      · rw [if_neg hx]
        rfl
    · rw [if_neg (by rw [hx]; exact Bool.false_ne_true), if_neg (by rw [hmay hm]; exact Bool.false_ne_true),
        if_pos (by rw [show bitOf (s.pte page) 3 = false from hv]; rfl)]
    · rw [if_neg (by rw [hx]; exact Bool.false_ne_true), if_neg (by rw [hmay hm]; exact Bool.false_ne_true),
        if_neg (by rw [show bitOf (s.pte page) 3 = true from hv]; exact Bool.false_ne_true),
        if_neg (by rw [hd, show digestGood s.kvForm (s.dev _ _) = true from hg]; exact Bool.false_ne_true)]
      refine congrArg _ (congrArg (fun y => State.advanceBoth y grove.toNat) ?_)
      exact State.giveItem_of_waiting (r := kept) rfl

end Sys2Proof.Machine

/-!
# Free values that a routing instruction's reads draw

The look-aside buffer that takes a routing engine's read of a MIGRATE granule is that of a die which the spec does not name: the
read draws a free value (log entry 106), and what RTE.ROUTE draws comes after it.
-/

namespace Sys2Proof.Machine

/-- A MIGRATE region of 64 KiB at the bottom of the device range. -/
def routedRegion : Region :=
  { base := 0, size := 16, kind := 0, place := 2, ro := false, mirror := false, hrep := false, leaseWr := false, gran := 1
    plots := 1, smask := 0xFF, umask := 0, sOff := 0, sLen := 16, uOff := 0, uLen := 16, mOff := 0, gt0 := 0 }

/-- An RTE.ROUTE of one row whose descriptor is zero. -/
def routedInstr : RouteInstr := { glade := 0, plot := 0, pc := 0, op := 0x6C, words := 0 }

/-- A module whose routing engine has an RTE.ROUTE in turn; its scores lie in a MIGRATE granule that a slot holds, its
biases beyond the region. -/
def routedState : State :=
  { State.reset with
    regs := { State.reset.regs with vals := [(Reg.rteBiasBaseLo, 0x10000)] }
    routing := { State.reset.routing with queue := [routedInstr] }
    mem := { State.reset.mem with
      regions := [(0, routedRegion)]
      granules := [(0, { Granule.init with valid := true })] } }

/-- The next free value after an outcome. -/
def freshAfter : Out → Option Nat
  | .next t => some t.fresh
  | _ => none

/-- The RTE.ROUTE draws after the free value of its read. -/
theorem freshAfter_rteRoute : freshAfter (exec (.rteRoute (.run none) 0) routedState) = some 4097 := by decide +kernel

/-- What the RTE.ROUTE reads lies in no block under repair, and slots hold it. -/
theorem routedState_reads : routedState.mem.blocked (State.routeReads routedInstr routedState) = false
    ∧ ∀ e ∈ State.routeReads routedInstr routedState, routedState.unmappedUnit e.1 e.2 = none := by decide +kernel

/-- Refutes O30: the clause for RTE.ROUTE counts the free values that it draws from the state before its reads, but a read of a
MIGRATE granule draws one itself. -/
theorem not_routingEngineAcceptsAndRuns : ¬ Obligations.RoutingEngineAcceptsAndRuns := by
  intro h
  obtain ⟨-, hrun⟩ := h routedState 0
  obtain ⟨hb, hu⟩ := routedState_reads
  obtain ⟨-, hroute, -⟩ := hrun routedInstr [] rfl rfl hb hu
  have heq := congrArg freshAfter (hroute rfl (by decide +kernel))
  rw [freshAfter_rteRoute] at heq
  exact absurd heq (by decide +kernel)

end Sys2Proof.Machine

/-!
# Routed items, shape words and hints

The arrival of ROUTE messages and the finalisation of a layer, SHP.LD, SHP.ST and MEM.HINT.
-/

namespace Sys2Proof.Machine

variable {s : State}

/-- A command of a port that the module has runs on the port. -/
theorem onPort_of_lt {name : String} {p : BitVec 3} {k : Port → State} (hp : p.toNat < 6) :
    onPort name p s k = .next (k (s.port p.toNat)) := if_pos hp

/-- An item of a defined kind at a port of the module is treated by its kind. -/
theorem onItem_of_lt {name : String} {p : BitVec 3} {w0 : DWord} {k : Port → State} (hp : p.toNat < 6) (hw : wf w0 3 0 < 9) :
    onItem name p w0 s k = .next (k (s.port p.toNat)) := by
  rw [onItem, onPort_of_lt hp, if_neg]
  simp [hw]

/-- A ROUTE message for the module itself, at a live port of its own slice, is taken by its kind (R271 to R273). -/
theorem routeArrival_taken {name : String} {p : BitVec 3} {item : List Byte} {kinds : List Nat} (hp : p.toNat < 6)
    (hl : (s.port p.toNat).live = true) (hf : s.fireBroken p.toNat = false) (hw : wf (BitVec.ofNat 64 (leAt item 0 8)) 3 0 = 1)
    (hc : (fabMsg item).cls = 2) (hk : kinds.contains (itemHdr item).kind = true) (hs : (fabMsg item).slice = s.slice)
    (hd : (fabMsg item).dst = s.torus) (hctl : s.field Reg.fabCtl 0 0 = 1) :
    routeArrival name p item kinds s
      = .next ((s.setPort p.toNat ((s.port p.toNat).heardItem item)).takeRoute p.toNat item) := by
  rw [routeArrival, onItem_of_lt hp (by rw [hw]; decide)]
  dsimp only
  rw [if_neg (by rw [hl, hc, hk]; decide), if_neg (by rw [hf]; simp [hs]), if_neg (not_not.2 hd), if_neg (by rw [hctl]; decide)]

/-- A copy or end mark for the next step is held while there is room (R272). -/
theorem State.takeEarly_of_next {port : Nat} {item : List Byte} (h : (itemHdr item).step = (s.step16.toNat + 1) % 65536)
    (hroom : heldBytes (s.routing.hold ++ [{ port := port, item := item }]) ≤ 8388608) :
    s.takeEarly port item
      = { s with routing := { s.routing with hold := s.routing.hold ++ [{ port := port, item := item }] } } := by
  have hlt : s.step16.toNat < 65536 := s.step16.isLt
  unfold State.takeEarly
  dsimp only
  rw [if_neg fun hh => hh.2 h, if_pos (by rw [h]; omega), if_neg (Nat.not_lt.2 hroom)]

/-- A copy or end mark of the current step's routed layer is treated at once (R271, R272). -/
theorem State.takeEarly_of_current {port : Nat} {item : List Byte} {l : RouteLayer} (h : (itemHdr item).step = s.step16.toNat)
    (hl : s.routeLayer (itemHdr item).layer = some l) (hr : l.routed = true) :
    s.takeEarly port item = if (itemHdr item).kind = 3 then s.takeEnd l item else s.takeCopy port l item := by
  unfold State.takeEarly
  dsimp only
  rw [if_neg fun hh => hh.1 h, if_neg (not_not.2 h), hl]
  dsimp only
  rw [if_neg (by rw [hr]; exact Bool.false_ne_true)]

/-- A complete layer has every peer's end mark and the copies that it counts (R272). -/
theorem RouteLayer.complete_of {l : RouteLayer} (hr : l.routed = true) (hf : l.finalised = false)
    (he : ∀ peer, 1 ≤ peer → peer ≤ (routeDesc l.desc).npeer → ∃ e, l.ends.find? (fun e => e.1 = peer) = some e ∧
      (l.gotten.filter fun c => c.peer = peer).length = e.2) : l.complete = true := by
  unfold RouteLayer.complete
  dsimp only
  rw [hr, hf, Bool.not_false, Bool.and_true, Bool.true_and, List.all_eq_true]
  intro peer hp
  obtain ⟨k, hk, rfl⟩ := List.mem_map.1 hp
  obtain ⟨e, hfind, hlen⟩ := he (k + 1) (Nat.le_add_left 1 k) (List.mem_range.1 hk)
  rw [hfind]
  exact decide_eq_true hlen

/-- Settles O31: a ROUTE message at a live port by its kind and step, and the finalisation of a complete layer. -/
theorem routedItemsArriveAndFinalise : Obligations.RoutedItemsArriveAndFinalise := by
  refine ⟨?_, ?_⟩
  · intro s p item kind c hmem x m h t hp hl hf hw hc hk hs hd hctl
    have htake : exec c s = .next (t.takeRoute p.toNat item) := by
      simp only [List.mem_cons, List.not_mem_nil, or_false, Prod.mk.injEq] at hmem
      obtain ⟨rfl, rfl⟩ | ⟨rfl, rfl⟩ | ⟨rfl, rfl⟩ | ⟨rfl, rfl⟩ := hmem
      all_goals exact routeArrival_taken hp hl hf hw hc (by rw [show (itemHdr item).kind = _ from hk]; rfl) hs hd hctl
    rw [htake, State.takeRoute]
    have hk' : (itemHdr item).kind = kind := hk
    dsimp only
    rw [hk']
    refine ⟨fun h12 => ?_, fun h03 => ?_⟩
    · rw [if_neg (by rcases h12 with h | h <;> rw [h] <;> decide), if_pos h12]
    · rw [if_pos h03]
      refine ⟨fun h1 h2 => ?_, fun h1 h2 => ?_, fun l h1 h2 h3 => ?_⟩
      · exact congrArg _ (if_pos ⟨h1, h2⟩)
      · exact congrArg _ (State.takeEarly_of_next h1 h2)
      · rw [State.takeEarly_of_current (s := t) h1 h2 h3, hk']
        rfl
  · intro s plot layer l hl hp hr hf hb he
    show execLayerFinalise plot layer s = _
    unfold execLayerFinalise
    rw [hl]
    dsimp only
    rw [if_neg (by rw [RouteLayer.complete_of hr hf he]; simp [hp]), State.whenReadable_of_free hb]

section Shapes
variable {g : BitVec 10} {die : Option Nat} {n pc a : Nat} {k : State → State}

/-- An engine's read in a granule that no slot holds is a memory data fault (R315). -/
theorem State.engineReads_of_unmapped {len x : Nat} {poison : Option (Nat × Bool)} (h : s.unmappedUnit a len = some x) :
    s.engineReads die n pc [(a, len)] poison k = s.memoryFault n pc x := by
  unfold State.engineReads
  simp [h]

/-- An engine's read that comes whole counts its accesses, and the engine goes on (R310). -/
theorem State.engineReads_of_good {len : Nat} (h : s.unmappedUnit a len = none) :
    s.engineReads die n pc [(a, len)] none k = k (touchAll die [(a, len)] s) := by
  unfold State.engineReads
  simp [h]

/-- An engine's read that came poisoned and comes whole on the retry goes on (R308). -/
theorem State.engineReads_of_retried {len : Nat} (h : s.unmappedUnit a len = none) (hl : 0 < len) :
    s.engineReads die n pc [(a, len)] (some (a, false)) k = k (touchAll die [(a, len)] (s.countPoison a)) := by
  unfold State.engineReads
  simp [h, hl]

/-- An engine's read that comes poisoned twice is a memory data fault (R308). -/
theorem State.engineReads_of_poisoned {len : Nat} (h : s.unmappedUnit a len = none) (hl : 0 < len) :
    s.engineReads die n pc [(a, len)] (some (a, true)) k = ((s.countPoison a).countPoison a).memoryFault n pc a := by
  unfold State.engineReads
  simp [h, hl]

/-- One extent meets a block under repair, or not. -/
theorem Memory.blocked_single {m : Memory} {len : Nat} : m.blocked [(a, len)] = m.underRepair a len :=
  Bool.or_false _

/-- MEM.HINT at an address of a region asks for the region's lease and hints where the region migrates (R311). -/
theorem exec_memHint_of_region {r : Region} {j : Nat} (h : s.issues g 0x34) (hz : (s.issueOf g.toNat).f 31 23 = 0)
    (h3 : bitsOf (s.issueOf g.toNat).rb.toNat 1 0 ≠ 3) (hr : s.mem.regionOf (s.issueOf g.toNat).ra.toNat 1 = some (j, r)) :
    exec (.memHint g) s = .next (
      let i := s.issueOf g.toNat
      let life := bitsOf i.rb.toNat 63 32
      let i0 := (i.ra.toNat - r.base.toNat) / r.granBytes
      let n := min (bitsOf i.rb.toNat 21 2) (r.granCount - i0)
      if !s.holdsLease i.p 2 j then s.leaseFault i.p 2 j g.toNat i.pc
      else if r.place ≠ 2 then s.put i (i.gl.setGpr i.d 0)
      else hintGranules r (bitsOf i.rb.toNat 1 0) (if life = 0 then 0 else s.ringCount + BitVec.ofNat 64 life)
        ((List.range n).map (i0 + ·)) (s.put i (i.gl.setGpr i.d (BitVec.ofNat 64 n)))) := by
  show execMemHint g s = _
  unfold execMemHint
  rw [atInstr_form_of_issues (k := _) h (by decide) hz]
  dsimp only
  rw [if_neg h3, hr]
  rfl

end Shapes

/-- Settles O32: the branches of SHP.LD, SHP.ST and MEM.HINT. -/
theorem shapeWordsAndHints : Obligations.ShapeWordsAndHints := by
  intro s g i at_ count
  refine ⟨fun h => ?_, fun h hz => ?_, fun h hz => ?_⟩
  · have hld : ∀ po, exec (.shpLd g po) s = .next (if i.ea ≥ count then s.instrFault i 0x0C
        else s.whenReadable (some i.gl.plot) [(at_ i.ea, 8)] (
          s.engineReads (some (dieOf g.toNat)) g.toNat i.pc [(at_ i.ea, 8)] (po.map fun again => (at_ i.ea, again)) fun t =>
            t.put i (i.gl.setGpr i.d (BitVec.ofNat 64 (t.devNat (at_ i.ea) 8))))) := by
      intro po
      show execShpLd g po s = _
      unfold execShpLd
      rw [atInstr_of_issues h (by decide)]
      rfl
    refine ⟨fun hw hr => ⟨fun hu => ⟨?_, ?_, ?_⟩, fun a po hu => ?_⟩, fun hw hr po => ?_, fun hw po => ?_⟩
    · rw [hld, if_neg (Nat.not_le.2 hw), State.whenReadable_of_free (Memory.blocked_single.trans hr)]
      exact congrArg _ (State.engineReads_of_good hu)
    · rw [hld, if_neg (Nat.not_le.2 hw), State.whenReadable_of_free (Memory.blocked_single.trans hr)]
      exact congrArg _ (State.engineReads_of_retried hu (by decide))
    · rw [hld, if_neg (Nat.not_le.2 hw), State.whenReadable_of_free (Memory.blocked_single.trans hr)]
      exact congrArg _ (State.engineReads_of_poisoned hu (by decide))
    · rw [hld, if_neg (Nat.not_le.2 hw), State.whenReadable_of_free (Memory.blocked_single.trans hr)]
      exact congrArg _ (State.engineReads_of_unmapped hu)
    · rw [hld, if_neg (Nat.not_le.2 hw), State.whenReadable_of_blocked (Memory.blocked_single.trans hr)]
    · rw [hld, if_pos hw]
  · intro w
    have hst : exec (.shpSt g) s = .next (if w ≥ count then s.instrFault i 0x0C
        else if !s.holdsLease i.p 3 (w / 512) then s.leaseFault i.p 3 (w / 512) g.toNat i.pc
        else if s.mem.underRepair (at_ w) 8 then s
        else (s.put i i.gl).devWriteOn (dieOf g.toNat) (at_ w)
          (leBytes 8 (i.rb.toNat % 281474976710656 + s.step.num.toNat % 65536 * 281474976710656))) := by
      show execShpSt g s = _
      unfold execShpSt
      rw [atInstr_form_of_issues (k := _) h (by decide) hz]
      rfl
    rw [hst]
    refine ⟨fun hw hl hr => ?_, fun hw hl hr => ?_, fun hw hl => ?_, fun hw => ?_⟩
    · rw [if_neg (Nat.not_le.2 hw), hl, hr]
      rfl
    · rw [if_neg (Nat.not_le.2 hw), hl, hr]
      rfl
    · rw [if_neg (Nat.not_le.2 hw), hl]
      rfl
    · rw [if_pos hw]
  · intro kind life a
    refine ⟨fun h3 => ?_, fun h3 hreg => ?_, fun k r h3 hreg hl => ?_, fun k r h3 hreg hl => ⟨fun hp => ?_, fun hp => ?_⟩⟩
    · show execMemHint g s = _
      unfold execMemHint
      rw [atInstr_form_of_issues (k := _) h (by decide) hz]
      exact congrArg _ (if_pos h3)
    · show execMemHint g s = _
      unfold execMemHint
      rw [atInstr_form_of_issues (k := _) h (by decide) hz]
      dsimp only
      rw [if_neg h3, show s.mem.regionOf (s.issueOf g.toNat).ra.toNat 1 = none from hreg]
    · rw [exec_memHint_of_region h hz h3 hreg]
      exact congrArg _ (if_pos (by rw [show s.holdsLease (s.issueOf g.toNat).p 2 k = false from hl]; rfl))
    · rw [exec_memHint_of_region h hz h3 hreg]
      exact congrArg _ ((if_neg (by rw [show s.holdsLease (s.issueOf g.toNat).p 2 k = true from hl]; decide)).trans
        (if_pos hp))
    · rw [exec_memHint_of_region h hz h3 hreg]
      exact congrArg _ ((if_neg (by rw [show s.holdsLease (s.issueOf g.toNat).p 2 k = true from hl]; decide)).trans
        (if_neg (not_not.2 hp)))

end Sys2Proof.Machine

/-!
# Glade failures, step boundaries, batches and the clearing

How a physical glade fails and is replaced, what a boundary does, how the batch is released, and how a step is cleared or replayed.
-/

namespace Sys2Proof.Machine

variable {s : State}

/-- A glade is replaced at once where its plot's step is abandoned, or no step runs (R195). -/
theorem State.mayRemap_of {p : Nat} (h : (s.plot p).run = .abandoned ∨ s.step.active = false) : s.mayRemap p = true := by
  rcases h with h | h <;> simp [State.mayRemap, h]

/-- The map keeps its entries while the plot's step runs (R195). -/
theorem State.mayRemap_of_running {p : Nat} (h : (s.plot p).run ≠ .abandoned) (ha : s.step.active = true) :
    s.mayRemap p = false := by
  simp [State.mayRemap, h, ha]

/-- Settles O33: the failure of a spare, of a glade that is replaced now or at the clearing's end, and the end of a refill. -/
theorem gladesFailAndRefill : Obligations.GladesFailAndRefill := by
  intro s
  refine ⟨?_, ?_, ?_⟩
  · intro phys cause hp hf hon ph gv t u record
    have hon' : ¬ ((s.physGlade phys.toNat).failed || !s.board.on.getLsbD (phys.toNat / 66)) = true := by
      rw [hf, hon]
      decide
    refine ⟨fun hs => ?_, ?_⟩
    · show execGladeFailure phys cause s = _
      unfold execGladeFailure
      dsimp only
      rw [if_neg (Nat.not_le.2 hp), if_neg hon', show s.servedBy phys.toNat = none from hs]
    · intro g hs w lost v
      have hexec : exec (.gladeFailure phys cause) s = if v.mayRemap (s.glade g).plot.toNat then .next (v.replaceGlade gv g)
          else .next { v with dep := { v.dep with remaps := v.dep.remaps ++ [BitVec.ofNat 10 g] } } := by
        show execGladeFailure phys cause s = _
        unfold execGladeFailure
        dsimp only
        rw [if_neg (Nat.not_le.2 hp), if_neg hon', show s.servedBy phys.toNat = some g from hs]
      refine ⟨fun hr => ?_, fun ⟨hr, ha⟩ => ?_⟩
      · rw [hexec, State.mayRemap_of hr, if_pos rfl]
      · rw [hexec, State.mayRemap_of_running hr ha, if_neg Bool.false_ne_true]
  · intro t gv g u
    refine ⟨fun k hk => ?_, fun hk hin => ?_⟩
    · unfold State.replaceGlade
      dsimp only
      rw [show (List.range 2).find? (fun k => ((t.failSlow gv 0).failSlow gv 1).spareFit gv k) = some k from hk]
    · unfold State.replaceGlade
      dsimp only
      rw [show (List.range 2).find? (fun k => ((t.failSlow gv 0).failSlow gv 1).spareFit gv k) = none from hk]
      exact if_pos hin
  · intro g
    refine ⟨fun hm => ?_, fun hn hm => ?_⟩
    · show execGladeRemapRefillDone g s = _
      unfold execGladeRemapRefillDone
      rw [if_pos (List.contains_iff_mem.2 hm)]
      rfl
    · show execGladeRemapRefillDone g s = _
      unfold execGladeRemapRefillDone
      rw [if_neg (fun h => hn (List.contains_iff_mem.1 h)), if_pos (List.contains_iff_mem.2 hm)]

/-- A boundary with no suspension due and no resumption due leaves the suspension as it is (R431). -/
theorem State.suspendAt_of_none {n : Nat} (ha : s.power.suspArmed = none)
    (hr : s.power.suspended = false ∨ s.power.resArmed = none) : s.suspendAt n = s := by
  unfold State.suspendAt
  rw [ha]
  dsimp only
  rcases hr with h | h
  · rw [if_neg (by rw [h]; exact Bool.false_ne_true)]
  · rw [h]
    exact ite_self s

/-- A step can begin where each of its five conditions holds (R45, R322, R348, R447). -/
theorem State.canStep_of (hm : s.ring.mode = .aligned ∨ s.ring.mode = .holdover) (ha : s.step.active = false)
    (hr : s.dep.refills = []) (hp : s.power.state.toNat ≤ 1) (hh : s.servingHeld = false) : s.canStep = true := by
  have hmode : s.ringSteps = true := by rcases hm with h | h <;> simp [State.ringSteps, h]
  simp [State.canStep, hmode, ha, hr, hp, hh]

/-- A step cannot begin where one of the conditions fails. -/
theorem State.canStep_of_not (h : s.ring.mode ≠ .aligned ∧ s.ring.mode ≠ .holdover ∨ s.step.active = true ∨ s.dep.refills ≠ []
    ∨ 1 < s.power.state.toNat ∨ s.servingHeld = true) : s.canStep = false := by
  rw [State.canStep]
  rcases h with ⟨h1, h2⟩ | h | h | h | h
  · simp [State.ringSteps, h1, h2]
  · simp [h]
  · simp [h]
  · simp [Nat.not_le.2 h]
  · simp [h]

/-- Counting missed boundaries leaves where stepping stands. -/
@[simp] theorem State.noteMissed_step {k : Nat} : (s.noteMissed k).step = s.step := by
  rw [State.noteMissed]
  split
  · rfl
  · simp

/-- Settles O34: the stop, the suspended boundary, the step that begins and the boundary that is missed. -/
theorem stepsBeginAtBoundaries : Obligations.StepsBeginAtBoundaries := by
  intro s n hb ha hr
  have hexec : exec .stepBoundary s =
      if s.step.stopAsked && !s.step.active then
        .next ((s.setReg Reg.stepPeriod 0).setStep { s.step with stopAsked := false })
      else if s.power.suspended then .next (s.setStep { s.step with next := n + 1 })
      else if s.canStep then .next (((s.noteMissed (n - s.step.next)).leaveS1.imageAtBoundary n s.rt true).startStep n)
      else .next ((((s.noteMissed (n - s.step.next + 1)).setStep
        { s.step with next := n + 1 })).imageAtBoundary n s.rt false) := by
    show execStepBoundary s = _
    unfold execStepBoundary
    rw [hb]
    dsimp only
    rw [State.suspendAt_of_none ha hr]
  refine ⟨fun hs hact => ?_, fun hs => ?_⟩
  · rw [hexec, if_pos (by rw [hs, hact]; rfl)]
    rfl
  · rw [hexec, if_neg (by rcases hs with h | h <;> simp [h])]
    refine ⟨fun hsusp => ?_, fun hsusp => ?_⟩
    · rw [if_pos hsusp]
      rfl
    · rw [if_neg (by rw [hsusp]; exact Bool.false_ne_true)]
      refine ⟨fun hm hact hre hp hh => ?_, fun hno => ?_⟩
      · rw [State.canStep_of hm hact hre hp hh, if_pos rfl]
      · rw [State.canStep_of_not hno, if_neg Bool.false_ne_true, State.noteMissed_step]

/-- Settles O36: the release of the batch and the landing of its broadcasts. -/
theorem batchIsReleasedAndLands : Obligations.BatchIsReleasedAndLands := by
  intro s b hb
  refine ⟨?_, ?_⟩
  · intro hr ha hc hh t
    show execBatchRelease s = _
    unfold execBatchRelease
    rw [hb]
    dsimp only
    rw [if_neg (by rw [hr, ha, hc]; decide), if_neg (by rw [hh]; exact Bool.false_ne_true)]
    rfl
  · intro k dest rest hk
    show execBroadcastArrival s = _
    unfold execBroadcastArrival
    rw [hk, hb] <;> rfl

/-- A plot can replay where its time has come, its mesh is empty, the ring runs and no glade of it is refilled (R444, R448). -/
theorem State.canReplay_of {p : Nat} (hr : (s.plot p).run = .abandoned) (ht : (s.plot p).replayFrom.toNat ≤ s.rt)
    (hm : s.inMesh p = false) (hf : s.ring.faulted = false) (hg : ∀ g ∈ s.dep.refills, s.plotOf g.toNat ≠ p) :
    s.canReplay p = true := by
  simpa [State.canReplay, hr, ht, hm, hf] using hg

/-- Settles O37: the clearing, its end, and the replay of an abandoned plot. -/
theorem clearingEndsOrReplaysTheStep : Obligations.ClearingEndsOrReplaysTheStep := by
  refine ⟨fun s => ⟨?_, ?_⟩, ?_⟩
  · intro ha hc hd hh u rows cancelled v out capped
    show execClearing s = _
    unfold execClearing
    rw [if_neg (by rw [ha, hc, hd]; decide), if_neg (by rw [hh]; exact Bool.false_ne_true)]
  · intro hc ht ho
    show execClearingComplete s = _
    unfold execClearingComplete
    rw [if_neg]
    simp [hc, Nat.not_lt.2 ht, Nat.not_lt.2 ho]
  · intro s plot p x hr ht hm hf hg t
    show execReplayStart plot s = _
    unfold execReplayStart
    dsimp only
    rw [if_pos (State.canReplay_of hr ht hm hf hg)]
    rfl

end Sys2Proof.Machine

/-!
# Host records

How a record of an inbound channel is taken, what the serving block makes of commands and data, and the host engines.
-/

namespace Sys2Proof.Machine

variable {s : State}

section Records
variable {chan kind : Nat} {bs : List Byte} {k : State → State}

/-- A record that fails its checks on an item of a reserved kind retrains the link (Table 13.6, R369). -/
theorem takeRecord_of_reserved (hu : s.ohmip.up = true) (hr : s.ohmip.reserved (leAt bs 0 1 % 16) = true) :
    takeRecord chan kind bs s k = .next s.ohmipRetrain := by
  unfold takeRecord
  dsimp only
  rw [if_neg (by rw [hu]; decide), if_pos hr]

/-- A record that fails its checks makes the channel wait for its sequence (R374). -/
theorem takeRecord_of_damaged (hu : s.ohmip.up = true) (hr : s.ohmip.reserved (leAt bs 0 1 % 16) = false)
    (hi : recIntact chan bs = false) :
    takeRecord chan kind bs s k = .next (((s.setInChan chan { s.inChan chan with
      failed := some ((s.inChan chan).failed.getD (s.inChan chan).expects), nak := true, dirty := true }).returnCredit
        chan bs).hostLinkFault ((s.inChan chan).failed.getD (s.inChan chan).expects).toNat) := by
  unfold takeRecord
  dsimp only
  rw [if_neg (by rw [hu]; decide), if_neg (by rw [hr]; exact Bool.false_ne_true), if_pos (by rw [hi]; rfl)]

/-- An intact record of the row's kind goes by its sequence (R373, R374). -/
theorem takeRecord_of_intact (hu : s.ohmip.up = true) (hr : s.ohmip.reserved (leAt bs 0 1 % 16) = false)
    (hi : recIntact chan bs = true) (hk : recKind bs = kind) :
    takeRecord chan kind bs s k =
      if (s.inChan chan).accepted.any fun q => decide ((BitVec.ofNat 32 (leAt bs 8 4)).toNat ≤ q.toNat) then
        .next ((s.returnCredit chan bs).bump Reg.ohmDup 1)
      else if (s.inChan chan).failed.any (· ≠ BitVec.ofNat 32 (leAt bs 8 4)) then .next (s.returnCredit chan bs)
      else
        let t := s.setInChan chan { s.inChan chan with
          accepted := some (BitVec.ofNat 32 (leAt bs 8 4)), failed := none, dirty := true }
        .next (k { t with ohmip := { t.ohmip with discarding := false } }) := by
  unfold takeRecord
  dsimp only
  rw [if_neg (by rw [hu]; decide), if_neg (by rw [hr]; exact Bool.false_ne_true), if_neg (by rw [hi]; decide),
    if_neg (not_not.2 hk)]

/-- A record that came before counts as a duplicate (R374). -/
theorem takeRecord_of_duplicate {q : BitVec 32} (hu : s.ohmip.up = true)
    (hr : s.ohmip.reserved (leAt bs 0 1 % 16) = false) (hi : recIntact chan bs = true) (hk : recKind bs = kind)
    (ha : (s.inChan chan).accepted = some q) (hq : (BitVec.ofNat 32 (leAt bs 8 4)).toNat ≤ q.toNat) :
    takeRecord chan kind bs s k = .next ((s.returnCredit chan bs).bump Reg.ohmDup 1) := by
  rw [takeRecord_of_intact hu hr hi hk, if_pos (by rw [ha]; exact decide_eq_true hq)]

/-- No accepted sequence reaches that of a record that is new. -/
theorem any_le_eq_false {o : Option (BitVec 32)} {n : Nat} (h : ∀ q, o = some q → q.toNat < n) :
    (o.any fun q => decide (n ≤ q.toNat)) = false := by
  cases o with
  | none => rfl
  | some q => exact decide_eq_false (Nat.not_le.2 (h q rfl))

/-- A record of another sequence than a waiting channel wants only returns its credit (R374). -/
theorem takeRecord_of_other {q : BitVec 32} (hu : s.ohmip.up = true)
    (hr : s.ohmip.reserved (leAt bs 0 1 % 16) = false) (hi : recIntact chan bs = true) (hk : recKind bs = kind)
    (ha : ∀ q, (s.inChan chan).accepted = some q → q.toNat < (BitVec.ofNat 32 (leAt bs 8 4)).toNat)
    (hf : (s.inChan chan).failed = some q) (hq : q ≠ BitVec.ofNat 32 (leAt bs 8 4)) :
    takeRecord chan kind bs s k = .next (s.returnCredit chan bs) := by
  rw [takeRecord_of_intact hu hr hi hk, if_neg (by rw [any_le_eq_false ha]; exact Bool.false_ne_true),
    if_pos (by rw [hf]; exact decide_eq_true hq)]

/-- An intact record of the row's kind that comes in its turn is taken (R373, R374). -/
theorem takeRecord_of_turn (hu : s.ohmip.up = true) (hr : s.ohmip.reserved (leAt bs 0 1 % 16) = false)
    (hi : recIntact chan bs = true) (hk : recKind bs = kind)
    (hf : (s.inChan chan).failed = none ∨ (s.inChan chan).failed = some (BitVec.ofNat 32 (leAt bs 8 4)))
    (ha : ∀ q, (s.inChan chan).accepted = some q → q.toNat < (BitVec.ofNat 32 (leAt bs 8 4)).toNat) :
    takeRecord chan kind bs s k =
      (let t := s.setInChan chan { s.inChan chan with
        accepted := some (BitVec.ofNat 32 (leAt bs 8 4)), failed := none, dirty := true }
      .next (k { t with ohmip := { t.ohmip with discarding := false } })) := by
  rw [takeRecord_of_intact hu hr hi hk, if_neg (by rw [any_le_eq_false ha]; exact Bool.false_ne_true), if_neg]
  rcases hf with hf | hf <;> simp [hf]

end Records

/-- The command rows of channel 0, each by its kind, take their record as any command row does. -/
theorem exec_of_commandRow {rec : List Byte} {kind : Nat} {c : Instr}
    (hmem : (kind, c) ∈ [(1, Instr.admitReq rec), (2, .appendReq rec), (3, .cancelReq rec), (4, .pauseReq rec),
      (5, .resumeReq rec), (6, if bitOf (leAt rec 17 1) 7 then .loadGraftAbort rec else .loadGraft rec), (7, .phaseHint rec),
      (8, .opPoint rec)]) : exec c s = commandRow kind rec s := by
  simp only [List.mem_cons, List.not_mem_nil, or_false, Prod.mk.injEq] at hmem
  obtain ⟨rfl, rfl⟩ | ⟨rfl, rfl⟩ | ⟨rfl, rfl⟩ | ⟨rfl, rfl⟩ | ⟨rfl, rfl⟩ | ⟨rfl, rfl⟩ | ⟨rfl, rfl⟩ | ⟨rfl, rfl⟩ := hmem
  case inr.inr.inr.inr.inr.inl =>
    cases hb : bitOf (leAt rec 17 1) 7 with
    | true => exact if_neg (by rw [hb]; simp)
    | false => exact if_neg (by rw [hb]; simp)
  all_goals rfl

/-- Settles O38: a command record by its checks, its sequence and the state of its channel. -/
theorem hostCommandsAreTaken : Obligations.HostCommandsAreTaken := by
  intro s rec kind c hmem hu x seq
  rw [exec_of_commandRow hmem]
  refine ⟨fun hr _ => takeRecord_of_reserved hu hr, fun hr => ⟨fun hi => takeRecord_of_damaged hu hr hi, fun hi hk =>
    ⟨fun q ha hq => takeRecord_of_duplicate hu hr hi hk ha hq, fun ha => ⟨fun q hf hq =>
      takeRecord_of_other hu hr hi hk ha hf hq, ?_⟩⟩⟩⟩
  intro hf a t old act cmd
  have htake : commandRow kind rec s = .next ((t (s.ohmip.inbox ++ [cmd])).bump Reg.ohmCmd 1).drainInbox :=
    takeRecord_of_turn hu hr hi hk hf ha
  rw [htake, State.drainInbox]
  refine ⟨fun hoff => ?_, fun hin hon => ?_⟩
  · rw [hoff, if_neg Bool.false_ne_true]
  · rw [hin, List.nil_append, hon, if_pos rfl]
    rfl

section Commands
variable {bs : List Byte}

/-- An entry in none of the states listed. -/
theorem LedgerEntry.isIn_eq_false {e : LedgerEntry} {l : List EntryState} (h : ∀ x ∈ l, e.state ≠ x) : e.isIn l = false := by
  rw [LedgerEntry.isIn, Bool.eq_false_iff]
  exact fun hc => h _ (List.contains_iff_mem.1 hc) rfl

/-- A command of an entry's current epoch is not refused for its tag, where it may find the entry being sealed (R229). -/
theorem State.tagCause_of_epoch (hi : cmdIndex bs < ledgerSize) (he : (s.entry (cmdIndex bs)).epoch.toNat = cmdEpoch bs) :
    s.tagCause bs false = none := by
  unfold State.tagCause
  dsimp only
  rw [if_neg (Nat.not_le.2 hi), if_neg (not_not.2 he)]
  rfl

/-- A command of an entry's current epoch is not refused for its tag, where the entry is neither sealed nor restored (R229). -/
theorem State.tagCause_of_open (hi : cmdIndex bs < ledgerSize) (he : (s.entry (cmdIndex bs)).epoch.toNat = cmdEpoch bs)
    (ho : (s.entry (cmdIndex bs)).isIn [.sealing, .restoring] = false) : s.tagCause bs true = none := by
  unfold State.tagCause
  dsimp only
  rw [if_neg (Nat.not_le.2 hi), if_neg (not_not.2 he), ho]
  rfl

/-- A command of another epoch than its entry's is refused with cause 0x02 (R229). -/
theorem State.tagCause_of_stale {b : Bool} (hi : cmdIndex bs < ledgerSize)
    (he : (s.entry (cmdIndex bs)).epoch.toNat ≠ cmdEpoch bs) : s.tagCause bs b = some 0x02 := by
  unfold State.tagCause
  dsimp only
  rw [if_neg (Nat.not_le.2 hi), if_pos he]

/-- An ADMIT that meets every condition is accepted (R231, R377, R378). -/
theorem State.admitCause_of_free (hi : cmdIndex bs < ledgerSize) (hs : (s.entry (cmdIndex bs)).state = .free)
    (hw : s.waits (cmdIndex bs) 1 = false) (ht : leAt bs 44 2 % 4096 ≠ 0)
    (hb : bitOf (leAt bs 32 1) 7 = false ∨ leAt bs 72 4 = 0) (hc : leAt bs 72 4 ≤ s.ringCap)
    (hp : ceilDiv (leAt bs 72 4) 16 ≤ leAt bs 64 4 % 16777216) : s.admitCause bs = none := by
  unfold State.admitCause
  dsimp only
  rw [if_neg (Nat.not_le.2 hi), if_neg (by rw [hs, hw]; decide), if_neg ht, if_neg (by rcases hb with h | h <;> rw [h] <;> simp),
    if_neg (Nat.not_lt.2 hc)]
  exact if_neg (Nat.not_lt.2 hp)

/-- A command under the tag of an entry of the ledger is refused with the entry's epoch (R231). -/
theorem State.refuseTag_of_lt {cause : Nat} (hi : cmdIndex bs < ledgerSize) :
    s.refuseTag bs cause = s.refuseCmd (cmdIndex bs) (s.entry (cmdIndex bs)).epoch.toNat 0 cause := by
  rw [State.refuseTag, if_pos hi]

end Commands

section Process
variable {x : InboxCmd}

/-- Processing a command record returns its credit and treats it by its kind (R376). -/
theorem State.processCmd_of_kind (t : State) (ht : t = s.returnCredit 0 x.bytes) :
    (recKind x.bytes = 1 → s.processCmd x = t.acceptAdmit x) ∧ (recKind x.bytes = 2 → s.processCmd x = t.acceptAppend x)
    ∧ (recKind x.bytes = 3 → s.processCmd x = t.acceptCancel x) ∧ (recKind x.bytes = 4 → s.processCmd x = t.acceptPause x)
    ∧ (recKind x.bytes = 5 → s.processCmd x = t.acceptResume x) ∧ (recKind x.bytes = 6 → s.processCmd x =
      if bitOf (leAt x.bytes 17 1) 7 then t.acceptGraftAbort x.bytes else t.acceptLoadGraft x.bytes)
    ∧ (recKind x.bytes = 7 → s.processCmd x = t.acceptHint x.bytes) := by
  subst ht
  refine ⟨?_, ?_, ?_, ?_, ?_, ?_, ?_⟩ <;> intro h <;> rw [State.processCmd, h] <;> rfl

/-- A command of a stale tag is refused with cause 0x02 (R229, R231). -/
theorem State.processCmd_of_stale (hk : recKind x.bytes = 2 ∨ recKind x.bytes = 3 ∨ recKind x.bytes = 4)
    (hi : cmdIndex x.bytes < ledgerSize) (he : (s.entry (cmdIndex x.bytes)).epoch.toNat ≠ cmdEpoch x.bytes) :
    s.processCmd x = (s.returnCredit 0 x.bytes).refuseTag x.bytes 0x02 := by
  obtain ⟨-, h2, h3, h4, -⟩ := State.processCmd_of_kind (s := s) (x := x) _ rfl
  have hc : ∀ b, (s.returnCredit 0 x.bytes).tagCause x.bytes b = some 0x02 := fun b => State.tagCause_of_stale hi he
  rcases hk with hk | hk | hk
  · rw [h2 hk, State.acceptAppend, hc]
  · rw [h3 hk, State.acceptCancel, hc]
  · rw [h4 hk, State.acceptPause, hc]

end Process

/-- Settles O39: each command by its kind and by the causes for which it is refused. -/
theorem commandsAreAcceptedOrRefused : Obligations.CommandsAreAcceptedOrRefused := by
  intro s x bs t i e k refused
  obtain ⟨hk1, -, hk3, hk4, hk5, hk6, hk7⟩ := State.processCmd_of_kind (s := s) (x := x) t rfl
  refine ⟨fun hk => ⟨?_, ?_⟩, ?_, ?_, ?_, ?_, fun hk hb => ⟨?_, ?_⟩, ?_, ?_⟩
  · intro cause hc hi
    rw [hk1 hk, State.acceptAdmit, show t.admitCause x.bytes = some cause from hc]
    exact State.refuseTag_of_lt hi
  · intro hi hs hw ht hb hcap hp
    rw [hk1 hk, State.acceptAdmit, show t.admitCause x.bytes = none from State.admitCause_of_free hi hs hw ht hb hcap hp]
    rfl
  · intro hk hi he hs1 hs2
    rw [hk3 hk, State.acceptCancel, State.tagCause_of_epoch (s := t) hi he]
    exact if_neg (by rw [LedgerEntry.isIn_eq_false (by simpa using ⟨hs1, hs2⟩)]; exact Bool.false_ne_true)
  · intro hk hi he hs
    have hs' : (t.entry (cmdIndex x.bytes)).state = .live ∨ (t.entry (cmdIndex x.bytes)).state = .held := hs
    rw [hk4 hk, State.acceptPause, State.tagCause_of_open (s := t) hi he]
    · exact if_pos (by rcases hs' with h | h <;> simp [LedgerEntry.isIn, h])
    · rcases hs' with h | h <;> rw [LedgerEntry.isIn, h] <;> rfl
  · intro hk hb hi hv hs hw
    rw [hk5 hk, State.acceptResume]
    exact (if_pos hb).trans ((if_neg (Nat.not_le.2 hi)).trans ((if_neg (by rw [hv]; exact Bool.false_ne_true)).trans
      (if_neg (by simp [show (t.entry (cmdIndex x.bytes)).state = .free from hs,
        show t.waits (cmdIndex x.bytes) 1 = false from hw]))))
  · intro hk hi he
    rw [State.processCmd_of_stale hk hi he]
    exact State.refuseTag_of_lt hi
  · intro h
    rw [hk6 hk, if_neg (by rw [show bitOf (leAt x.bytes 17 1) 7 = false from hb]; exact Bool.false_ne_true),
      State.acceptLoadGraft]
    exact if_pos (by simpa using show leAt x.bytes 16 1 = 0 ∨ (t.graft (leAt x.bytes 16 1)).state ≠ 0 from h)
  · intro h0 hg
    rw [hk6 hk, if_neg (by rw [show bitOf (leAt x.bytes 17 1) 7 = false from hb]; exact Bool.false_ne_true),
      State.acceptLoadGraft]
    exact if_neg (by simp [show leAt x.bytes 16 1 ≠ 0 from h0, show (t.graft (leAt x.bytes 16 1)).state = 0 from hg])
  · intro hk hb h0 hg
    rw [hk6 hk, if_pos hb, State.acceptGraftAbort]
    exact if_neg (by simp [show leAt x.bytes 16 1 ≠ 0 from h0, show (t.graft (leAt x.bytes 16 1)).state = 1 from hg])
  · intro hk hg ht hl
    have hno : ¬ (grovesIn (leAt x.bytes 44 2)).any t.groveBatch = true := by
      rw [List.any_eq_true]
      rintro ⟨g, hmem, hgb⟩
      exact Bool.false_ne_true ((hg g hmem).symm.trans hgb)
    rw [hk7 hk, State.acceptHint]
    dsimp only
    rw [if_neg hno, if_neg]
    · rfl
    · simpa using ⟨ht, hl⟩

/-- The element at an index that was just replaced is the new one, or the list has no such element. -/
theorem getD_setAt_self {α : Type} {v d : α} : ∀ {l : List α} {i : Nat}, (setAt l i v).getD i d = v ∨ (setAt l i v).getD i d = d
  | [], _ => .inr rfl
  | _ :: _, 0 => .inl rfl
  | _ :: xs, i + 1 => getD_setAt_self (l := xs) (i := i)

/-- A channel whose failure was just cleared wants no sequence again. -/
theorem State.inChan_setInChan_failed {chan : Nat} {x : InChannel} (h : x.failed = none) :
    ((s.setInChan chan x).inChan chan).failed = none := by
  rw [State.inChan, State.setInChan]
  rcases getD_setAt_self (l := s.ohmip.chans) (i := chan) (v := x)
    (d := { accepted := none, failed := none, nak := false, dirty := false }) with hv | hv
  · exact (congrArg InChannel.failed hv).trans h
  · exact congrArg InChannel.failed hv

/-- The records that wait, kept as they are. -/
theorem State.with_dataIn {l : List (List Byte)} (h : s.ohmip.dataIn = l) :
    { s with ohmip := { s.ohmip with dataIn := l } } = s := by
  subst h
  rfl

/-- The one record that waits is applied while the device range is up (R434). -/
theorem State.drainData_single {rec : List Byte} (hu : s.deviceUp = true) (hf : (s.inChan 1).failed = none)
    (hd : s.ohmip.dataIn = []) : State.drainData { s with ohmip := { s.ohmip with dataIn := [rec] } } = s.applyData rec := by
  rw [State.drainData]
  refine (if_pos hu).trans ?_
  show applyAllData [rec] { s with ohmip := { s.ohmip with dataIn := [] } } = _
  rw [State.with_dataIn hd, applyAllData, hf]
  rfl

/-- The data rows of channel 1, each by its kind, take their record as any data row does. -/
theorem exec_of_dataRow {rec : List Byte} {kind : Nat} {c : Instr}
    (hmem : (kind, c) ∈ [(0x20, Instr.loadRec rec), (0x21, .graftData rec), (0x22, .bundleIn rec), (0x23, .repairRec rec)]) :
    exec c s = dataRow kind rec s := by
  simp only [List.mem_cons, List.not_mem_nil, or_false, Prod.mk.injEq] at hmem
  obtain ⟨rfl, rfl⟩ | ⟨rfl, rfl⟩ | ⟨rfl, rfl⟩ | ⟨rfl, rfl⟩ := hmem <;> rfl

/-- A graft record for an open slot that fits it writes the slot's bytes (R259, R379). -/
theorem State.applyGraftData_of_open {bs : List Byte} {k : Nat} {g : GraftSlot} (hk : k = leAt bs 16 1) (hg : g = s.graft k)
    (h0 : k ≠ 0) (hs : g.state = 1) (hc : g.closed = false) (ha : g.aborted = false) (ht : g.timedOut = false)
    (hf : leAt bs 24 8 + (bs.drop 32).length ≤ 4096 * g.size.toNat) :
    s.applyGraftData bs = (((s.returnCredit 1 bs).devWriteQuiet (g.addr.toNat + leAt bs 24 8) (bs.drop 32)).setGraft k
      { g with lastData := s.ringCount, received := leAt bs 24 8 + (bs.drop 32).length, closed := bitOf (leAt bs 17 1) 0 }) := by
  subst hk hg
  rw [State.applyGraftData]
  refine if_neg ?_
  simpa [show (s.returnCredit 1 bs).graft (leAt bs 16 1) = s.graft (leAt bs 16 1) from rfl, h0, hs, hc, ha, ht] using hf

/-- A LOAD into a region that is not of parameters, off the guarded tables, writes its bytes (R381). -/
theorem State.applyLoad_of_region {bs : List Byte} {e : Nat × Region} (ha : leAt bs 16 6 % 8 = 0)
    (hg : ((s.returnCredit 1 bs).guarded (leAt bs 16 6) (bs.drop 32).length).1 = false)
    (hr : s.mem.regionOf (leAt bs 16 6) (bs.drop 32).length = some e) (hk : e.2.kind ≠ 2) :
    s.applyLoad bs = ((s.returnCredit 1 bs).guarded (leAt bs 16 6) (bs.drop 32).length).2.devWriteQuiet
      (leAt bs 16 6) (bs.drop 32) := by
  unfold State.applyLoad
  dsimp only
  rw [show (s.returnCredit 1 bs).mem.regionOf (leAt bs 16 6) (bs.drop 32).length = some e from hr]
  exact if_neg (by rw [hg]; simpa [ha] using hk)

/-- Settles O40: a data record of channel 1 waits in S3 and S4, and is applied by its kind otherwise. -/
theorem hostDataIsApplied : Obligations.HostDataIsApplied := by
  intro s rec kind c hmem hu hr hi hk hd x seq hf ha a t u
  have htake : exec c s = .next (State.drainData { t with ohmip := { t.ohmip with dataIn := [rec] } }) := by
    rw [exec_of_dataRow hmem, dataRow, takeRecord_of_turn hu hr hi hk hf ha]
    show Host.Outcome.next (State.drainData { t with ohmip := { t.ohmip with dataIn := s.ohmip.dataIn ++ [rec] } }) = _
    rw [hd, List.nil_append]
  rw [htake]
  refine ⟨fun h3 => ?_, fun h3 => ?_⟩
  · exact congrArg _ (if_neg (fun h => absurd (of_decide_eq_true h) (Nat.not_lt.2 h3)))
  · rw [State.drainData_single (s := t) (decide_eq_true h3) (State.inChan_setInChan_failed rfl) hd, State.applyData, hk]
    refine ⟨?_, ?_, ?_, ?_⟩
    · rintro rfl g hal hg ⟨e, hreg, hkind⟩
      exact congrArg _ (State.applyLoad_of_region (s := t) hal hg hreg hkind)
    · rintro rfl k g off data h0 hs hc hab ht hfit
      exact congrArg _ (State.applyGraftData_of_open (s := t) rfl rfl h0 hs hc hab ht hfit)
    · rintro rfl
      rfl
    · rintro rfl hst
      exact congrArg _ (if_pos hst)

section Engines

/-- The records due to be sent again on a channel from the sequence that the host has discarded (R374). -/
def resendDue (chan nak : Nat) (r : OutRecord) : Bool := decide (r.chan = chan) && decide (nak ≤ r.seq.toNat)

/-- A discard of no sequence, or of one that no record reaches, sends nothing again (R374). -/
theorem State.resendFrom_of_none {chan nak : Nat} (h : nak = noRecord ∨ s.ohmip.sent.find? (resendDue chan nak) = none) :
    s.resendFrom chan nak = s := by
  unfold State.resendFrom
  dsimp only
  have hf : s.ohmip.sent.find? (fun r => nak ≠ noRecord && decide (r.chan = chan) && decide (nak ≤ r.seq.toNat)) = none := by
    rcases h with h | h
    · simp [h]
    · rw [List.find?_eq_none] at h ⊢
      intro r hr hc
      exact h r hr (by simp_all [resendDue])
  rw [hf]

/-- A discard sends again the channel's records from its sequence on, ahead of anything new (R370, R374). -/
theorem State.resendFrom_of_some {chan nak : Nat} {r : OutRecord} (hn : nak ≠ noRecord)
    (h : s.ohmip.sent.find? (resendDue chan nak) = some r) :
    s.resendFrom chan nak = State.pump { s with ohmip := { s.ohmip with
      sent := s.ohmip.sent.filter fun e => !resendDue chan nak e
      nextOut := setAt s.ohmip.nextOut chan r.seq
      outq := ((s.ohmip.sent.filter (resendDue chan nak)).map fun e => { e with cls := 0 }) ++ s.ohmip.outq } } := by
  have hdue : ∀ r : OutRecord, (decide (nak ≠ noRecord) && decide (r.chan = chan) && decide (nak ≤ r.seq.toNat))
      = resendDue chan nak r := fun r => by simp [hn, resendDue]
  unfold State.resendFrom
  dsimp only
  simp only [hdue]
  rw [show s.ohmip.sent.find? (fun r => resendDue chan nak r) = some r from h]

/-- A closed graft is checked once nothing of it is under repair: marked where its signature and its checks hold, refused
otherwise (R258, R478). -/
theorem exec_graftVerifyComplete_of_closed {slot : BitVec 8} (h0 : slot.toNat ≠ 0) (hs : (s.graft slot.toNat).state = 1)
    (hab : (s.graft slot.toNat).aborted = false) (ht : (s.graft slot.toNat).timedOut = false)
    (hc : (s.graft slot.toNat).closed = true) (hv : (s.graft slot.toNat).verified = false)
    (hb : s.mem.blocked [((s.graft slot.toNat).addr.toNat, (s.graft slot.toNat).received)] = false) :
    exec (.graftVerifyComplete slot) s = .next (
      let t := { s with fresh := s.fresh + 1 }
      if s.graftSigned (s.graft slot.toNat) = false then
        ((t.bump Reg.secVfail 1).setGraft slot.toNat GraftSlot.init).refuseSlot slot.toNat 0x0A
      else if Config.freeBool s.fresh then t.setGraft slot.toNat { s.graft slot.toNat with verified := true }
      else (t.setGraft slot.toNat GraftSlot.init).refuseSlot slot.toNat 0x0A) := by
  have hd : s.drawBool = (Config.freeBool s.fresh, { s with fresh := s.fresh + 1 }) := rfl
  show execGraftVerifyComplete slot s = _
  unfold execGraftVerifyComplete
  dsimp only
  rw [if_neg (by simp [h0, hs, hab, ht, hc, hv]), if_neg (by rw [hb]; exact Bool.false_ne_true), hd]
  cases hsig : s.graftSigned (s.graft slot.toNat) with
  | false => rfl
  | true => exact (apply_ite Host.Outcome.next _ _ _).symm

/-- The sealing engine works on an entry that is sealing, while there is a key and the stream carries bundles (R254, R378). -/
theorem exec_sealBundle_of_key {index : BitVec 14} {r : SealRun} {k : BundleKey} (hr : s.sealRun index.toNat = some r)
    (hst : (s.entry index.toNat).state = .sealing) (hd : r.done = false) (hdev : s.deviceUp = true)
    (hu : s.ohmip.up = true) (hver : s.ohmip.ver ≠ 1)
    (hb : s.mem.blocked ((s.listAddr (s.entry index.toNat) 0, 4 * (s.entry index.toNat).npages.toNat)
      :: (s.listPages (s.entry index.toNat)).map fun p => (s.pageAddr p, s.pageBytes)) = false)
    (hk : r.version.elim (s.bundleKeys (s.entry index.toNat).tenant).head?
      (fun v => s.bundleKey (s.entry index.toNat).tenant v) = some k) :
    exec (.sealBundle index) s = .next (r.start.elim (s.startSeal r k) fun st => s.nextSegment r st k) := by
  have hdown : (!s.ohmip.up || s.ohmip.ver == 1) = false := by simp [hu, hver]
  have hrun : execSealBundle index s = .next (r.start.elim (s.startSeal r k) fun st => s.nextSegment r st k) := by
    unfold execSealBundle
    dsimp only
    rw [hr]
    dsimp only
    rw [if_neg (by simp [hst, hd, hdev]), if_neg (by rw [hb]; exact Bool.false_ne_true), hdown]
    obtain ⟨i, version, blockedKey, blockedLink, start⟩ := r
    cases version with
    | none =>
      dsimp only [Option.elim] at hk
      cases start <;> simp [hk]
    | some v =>
      dsimp only [Option.elim] at hk
      cases start <;> simp [hk]
  exact hrun

end Engines

/-- Settles O41: acknowledgements both ways, the check and the timeout of a graft, and a seal's header and segments. -/
theorem hostEnginesWork : Obligations.HostEnginesWork := by
  intro s
  refine ⟨?_, ?_, ?_, ?_⟩
  · intro rec hu hr hi hk x seq hf ha a kept t due
    have htake : exec (.hostAck rec) s = .next ((t.resendFrom (leAt rec 28 1) (leAt rec 24 4)).returnCredit 0 rec) :=
      takeRecord_of_turn (k := fun u => (State.resendFrom { u with ohmip := { u.ohmip with
        sent := ackList 1 (leAt rec 20 4) (ackList 0 (leAt rec 16 4) u.ohmip.sent) } } (leAt rec 28 1)
          (leAt rec 24 4)).returnCredit 0 rec) hu hr hi hk hf ha
    refine ⟨fun hno => ?_, fun r hn hfind => ?_⟩
    · rw [htake, State.resendFrom_of_none (s := t) hno]
    · rw [htake, State.resendFrom_of_some (s := t) (chan := leAt rec 28 1) hn hfind]
      rfl
  · intro c0 c1 hu hd h0 h1
    show execOhmipAckSend s = _
    unfold execOhmipAckSend
    dsimp only
    rw [if_pos (by rw [hu]; rcases hd with h | h <;> simp [show (s.inChan _).dirty = true from h]),
      show (s.inChan 0).nak = false from h0, show (s.inChan 1).nak = false from h1]
    rfl
  · intro slot k g h0 hs hab ht
    refine ⟨fun hc hv hb => ?_, fun htime => ?_⟩
    · exact exec_graftVerifyComplete_of_closed h0 hs hab ht hc hv hb
    · show execGraftLoadTimeout slot s = _
      unfold execGraftLoadTimeout
      dsimp only
      rw [if_neg (by simp [show slot.toNat ≠ 0 from h0, show (s.graft slot.toNat).state = 1 from hs,
        show (s.graft slot.toNat).aborted = false from hab, show (s.graft slot.toNat).timedOut = false from ht,
        show (s.graft slot.toNat).lastData.toNat + s.regN Reg.srvGtmo ≤ s.rt from htime])]
  · intro index r k e hr hst hd hdev hu hver hb
    refine ⟨fun hv hk hstart => ?_, fun v st hv hk hstart => ?_⟩
    · rw [exec_sealBundle_of_key hr hst hd hdev hu hver hb (by rw [hv]; exact hk), hstart]
      rfl
    · rw [exec_sealBundle_of_key hr hst hd hdev hu hver hb (by rw [hv]; exact hk), hstart]
      rfl

end Sys2Proof.Machine

/-!
# Memory: training, generators, migration and repair

What training leaves, how a traffic generator starts and passes, how granules move, and how a block under repair goes through
its steps.
-/

namespace Sys2Proof.Machine

variable {s : State}

/-- A channel trains at the fast rate, else at the slow one, else it is degraded with its record (R295). -/
theorem State.trainChan_of {c : Nat} {t : ChanTrain} {fast slow : Bool} (hf : s.chanPasses t.eyes8533 t.sweepErr8533 = fast)
    (hs : (!fast && s.chanPasses t.eyes6400 t.sweepErr6400) = slow) :
    let u := { s with mem := { s.mem with
      uch := setAt s.mem.uch c (if fast ∨ slow then 2 else 3)
      uslow := BitVec.ofNat 16 (s.mem.uslow.toNat - natOfBool (bitOf s.mem.uslow.toNat c) * 2 ^ c + natOfBool slow * 2 ^ c) } }
    s.trainChan c t = if fast || slow then u else u.raise { cls := 0x12, cause := 2, detail := [BitVec.ofNat 8 c] } := by
  unfold State.trainChan
  dsimp only
  rw [hf, hs]
  cases fast <;> cases slow <;> rfl

/-- Settles O42: the write of MEM_TRN, the training of stacks and channels, and the understory's retiming. -/
theorem memoryTrains : Obligations.MemoryTrains := by
  intro s
  refine ⟨?_, ?_, ?_, ?_, rfl⟩
  · intro data hup t
    have hexec : exec (.memRetrain data) s = .next (if !data.getLsbD 31 then t else if s.imageApplied then s else t.startTraining) :=
      onReg_of_regUp hup
    refine ⟨fun hd => ?_, fun hd ha => ?_, fun hd ha => ?_⟩
    · rw [hexec, hd]
      rfl
    · rw [hexec, hd, ha]
      rfl
    · rw [hexec, hd, ha]
      rfl
  · intro sts chans hr
    exact if_pos hr
  · intro st t
    refine ⟨fun hw => ?_, fun hw => ⟨fun hp => ?_, fun hp => ?_⟩⟩
    · rw [State.trainStack, if_pos hw]
    · rw [State.trainStack, if_neg (Nat.not_le.2 hw), if_pos hp]
    · intro u
      rw [State.trainStack, if_neg (Nat.not_le.2 hw), if_neg (by rw [hp]; exact Bool.false_ne_true)]
      exact (apply_ite (fun x => (addRepairs st t.eyes64 u).setStack st x true t.temp) _ 2 3).symm
  · intro c t fast slow u
    refine ⟨fun h => ?_, fun hf hs => ?_⟩
    · rw [State.trainChan_of (fast := fast) (slow := slow) rfl rfl, if_pos (by rcases h with h | h <;> simp [h])]
    · rw [State.trainChan_of (fast := fast) (slow := slow) rfl rfl, if_neg (by rw [hf, hs]; decide)]

section Generators
variable {data : BitVec 32} {k : Nat}

/-- When a generator may start: idle, in a legal mode, and, but for mode 4, as its unit's state allows (R295, R318). -/
theorem tgMayStart_iff {busy deg applied allowed : Bool} {mode : Nat} :
    (!busy && decide (1 ≤ mode ∧ mode ≤ 4) && (mode = 4 || (if deg then allowed else mode = 2 || !applied))) = true
      ↔ busy = false ∧ 1 ≤ mode ∧ mode ≤ 4 ∧ (mode = 4 ∨ deg = false ∧ (mode = 2 ∨ applied = false) ∨ deg = true ∧ allowed = true) := by
  cases deg <;> simp [and_assoc]

/-- A write of MEM_TG_CTL that asks for a start: it starts the generator where it may, and is refused otherwise (R318). -/
theorem State.tgWrite_of_start (hk : k = s.field Reg.memTgSel 7 0) (h : k < 144) (hb : bitOf data.toNat 8 = true) :
    s.tgWrite data =
      if !(s.tgUnit k).busy && decide (1 ≤ bitsOf data.toNat 2 0 ∧ bitsOf data.toNat 2 0 ≤ 4)
          && (bitsOf data.toNat 2 0 = 4 || (if s.tgDegraded k then Config.degradedModes
            else bitsOf data.toNat 2 0 = 2 || !s.imageApplied)) then
        s.setTg k { s.tgUnit k with
          mode := BitVec.ofNat 3 (bitsOf data.toNat 2 0), pattern := BitVec.ofNat 3 (bitsOf data.toNat 5 3)
          order := BitVec.ofNat 2 (bitsOf data.toNat 7 6), loop := bitOf data.toNat 10
          busy := true, stopping := bitOf data.toNat 9, done := false, refused := false, err := false, passes := 0
          errCount := 0, faddr := 0, fbits := 0 }
      else s.setTg k { s.tgUnit k with refused := true } := by
  subst hk
  unfold State.tgWrite
  dsimp only
  rw [if_neg (Nat.not_le.2 h), if_pos hb]

end Generators

/-- Counting poisoned places does not depend on the draws so far. -/
theorem poisonPlaces_with_fresh {n : Nat} : ∀ {ps : List Nat} {s : State},
    poisonPlaces ps { s with fresh := n } = { poisonPlaces ps s with fresh := n }
  | [], _ => rfl
  | p :: ps, s => (poisonPlaces_with_fresh (ps := ps) (s := s.poisonAt (some p)))

/-- A draw on a condition changes the count of draws alone. -/
theorem State.draw_of_cond {n : Nat} {c : Prop} [Decidable c] :
    (if c then (s.draw n).2 else s) = { s with fresh := if c then s.fresh + 1 else s.fresh } := by
  split <;> rfl

/-- Settles O43: the start, the refusal and the stop of a generator, and a pass of it. -/
theorem trafficGeneratorsRun : Obligations.TrafficGeneratorsRun := by
  intro s
  refine ⟨?_, ?_⟩
  · intro data c hc hup k u mode set
    have hexec : exec c s = .next (s.tgWrite data) := by
      rcases hc with rfl | rfl <;> exact onReg_of_regUp hup
    rw [hexec]
    refine ⟨fun hk => congrArg _ (if_pos hk), fun hk => ⟨fun hb hbusy h1 h4 hm => ?_, fun hb hno => ?_, fun hb => ?_⟩⟩
    · rw [State.tgWrite_of_start rfl hk hb, if_pos (tgMayStart_iff.2 ⟨hbusy, h1, h4, hm⟩)]
    · rw [State.tgWrite_of_start rfl hk hb, if_neg]
      intro hok
      obtain ⟨hbusy, h1, h4, hm⟩ := tgMayStart_iff.1 hok
      have hm' : mode = 4 ∨ s.tgDegraded k = false ∧ (mode = 2 ∨ s.imageApplied = false)
        ∨ s.tgDegraded k = true ∧ Config.degradedModes = true := hm
      have hbusy' : u.busy = false := hbusy
      have h1' : 1 ≤ mode := h1
      have h4' : mode ≤ 4 := h4
      clear_value mode u
      rcases hno with h | h | h | ⟨h, ha, hd⟩ | ⟨h, hd, ha⟩
      · exact Bool.false_ne_true (hbusy'.symm.trans h)
      · omega
      · omega
      · rw [ha, hd] at hm'
        simp at hm'
        omega
      · rw [ha, hd] at hm'
        simp at hm'
        omega
    · exact congrArg _ ((if_neg (Nat.not_le.2 hk)).trans (if_neg (by rw [hb]; exact Bool.false_ne_true)))
  · intro chan flips poisoned c u hc hb
    have hexec : exec (.memTgRunComplete chan flips poisoned) s = execMemTgRunComplete chan flips poisoned s := rfl
    rw [hexec]
    unfold execMemTgRunComplete
    dsimp only
    rw [if_neg (Nat.not_le.2 hc), if_neg (by rw [show (s.tgUnit chan.toNat).busy = true from hb]; decide),
      State.draw_of_cond (s := s), poisonPlaces_with_fresh (s := s), State.draw_of_cond]
    dsimp only
    refine ⟨if u.stopping then min (s.draw 26).1.toNat u.len.toNat else u.len.toNat, _, _, rfl, ?_⟩
    refine ⟨fun h => ?_, ?_, ?_, rfl, rfl, rfl, fun h hp => ?_, rfl, rfl, rfl, rfl⟩
    · exact if_neg (by rw [h]; exact Bool.false_ne_true)
    · split
      · exact Nat.min_le_right _ _
      · exact Nat.le_refl _
    · show (!(u.stopping || !u.loop)) = _
      rw [Bool.not_or, Bool.not_not, Bool.and_comm]
    · exact if_neg (by rintro (h' | h'); exact Bool.false_ne_true (h.symm.trans h'); exact hp h')

section Halving
variable {α : Type} [DecidableEq α] {d : α}

/-- The keys of a canonical table are at least its bound. -/
theorem le_of_mem_of_mwfFrom {e : Nat × α} : ∀ {lo : Nat} {m : SMap α}, mwfFrom d lo m = true → e ∈ m → lo ≤ e.1
  | lo, (k, v) :: m, h, he => by
    simp only [mwfFrom, Bool.and_eq_true, decide_eq_true_eq] at h
    obtain ⟨⟨hle, -⟩, hm⟩ := h
    rcases List.mem_cons.1 he with rfl | he
    · exact hle
    · exact le_trans (by omega) (le_of_mem_of_mwfFrom hm he)

omit [DecidableEq α] in
/-- A key that a table does not list reads as the default. -/
theorem mget_of_not_mem {k : Nat} : ∀ {m : SMap α}, (∀ e ∈ m, e.1 ≠ k) → mget d m k = d
  | [], _ => rfl
  | (k', v) :: m, h => by
    rw [mget, if_neg fun hk => h (k', v) List.mem_cons_self hk.symm]
    exact mget_of_not_mem fun e he => h e (List.mem_cons_of_mem _ he)

/-- Writing a function of every value of a list leaves keys that the list does not have. -/
theorem mget_foldl_of_not_mem {f : α → α} {k : Nat} : ∀ {l : SMap α} {m : SMap α}, (∀ e ∈ l, e.1 ≠ k) →
    mget d (l.foldl (fun m e => mset d m e.1 (f e.2)) m) k = mget d m k
  | [], _, _ => rfl
  | (k', v) :: l, m, h => by
    rw [List.foldl_cons, mget_foldl_of_not_mem fun e he => h e (List.mem_cons_of_mem _ he)]
    exact mget_mset_other fun hk => h (k', v) List.mem_cons_self hk.symm

/-- Writing a function of every value of a canonical list writes each key that it has. -/
theorem mget_foldl_of_mem {f : α → α} {k : Nat} : ∀ {lo : Nat} {l : SMap α} {m : SMap α}, mwfFrom d lo l = true →
    mwf d m = true → (∃ e ∈ l, e.1 = k) →
    mget d (l.foldl (fun m e => mset d m e.1 (f e.2)) m) k = f (mget d l k)
  | lo, (k', v) :: l, m, hl, hm, hk => by
    simp only [mwfFrom, Bool.and_eq_true] at hl
    rw [List.foldl_cons, mget]
    by_cases heq : k = k'
    · subst heq
      rw [if_pos rfl, mget_foldl_of_not_mem fun e he hc => by
        have := le_of_mem_of_mwfFrom hl.2 he
        omega]
      exact mget_mset_same hm
    · rw [if_neg heq]
      refine mget_foldl_of_mem hl.2 (mwf_mset hm) ?_
      obtain ⟨e, he, hek⟩ := hk
      rcases List.mem_cons.1 he with rfl | he
      · exact absurd hek.symm heq
      · exact ⟨e, he, hek⟩

/-- Halving the counts of a canonical table halves each granule's count (R310). -/
theorem halveCounts_count {k n : Nat} {gs : SMap Granule} (h : mwf Granule.init gs = true) :
    (mget Granule.init (halveCounts n gs) k).count = (mget Granule.init gs k).count >>> min 16 n := by
  by_cases hk : ∃ e ∈ gs, e.1 = k
  · rw [halveCounts, mget_foldl_of_mem (f := fun g : Granule => { g with count := g.count >>> min 16 n }) h h hk]
  · have hno : ∀ e ∈ gs, e.1 ≠ k := fun e he hek => hk ⟨e, he, hek⟩
    rw [halveCounts, mget_foldl_of_not_mem (f := fun g : Granule => { g with count := g.count >>> min 16 n }) hno,
      mget_of_not_mem hno]
    exact (BitVec.zero_ushiftRight ..).symm

end Halving

section Visits
variable {k i : Nat} {r : Region}

/-- A visit of a granule that moves or holds nothing leaves it (R313). -/
theorem State.visit_of_idle (h : (s.mem.gran r i).moving = true ∨ (s.mem.gran r i).valid = false) : s.visit k r i = s := by
  rw [State.visit]
  exact if_pos (by rcases h with h | h <;> simp [h])

/-- A visit of a granule that holds data and stays decides by its hint, its count and its tier (R313). -/
theorem State.visit_of_valid (hm : (s.mem.gran r i).moving = false) (hv : (s.mem.gran r i).valid = true)
    (hr : s.mem.underRepair (r.base.toNat + i * r.granBytes) r.granBytes = false) {g : Granule} (hg : g = s.mem.gran r i)
    {h : Nat} (hh : h = if g.hexp ≠ 0 ∧ g.hexp.toNat ≤ s.rt then 0 else g.hint.toNat) :
    s.visit k r i =
      if g.under then
        if h = 1 || (h ≠ 2 && decide (s.field Reg.memMigThr 15 0 ≤ g.count.toNat)) then
          if (s.openSlots k r false).isEmpty then s.bump Reg.memNoslot 1 else s.startMove k r i false
        else s
      else if h = 2 || (h ≠ 1 && s.poolLow k r && decide (g.count.toNat < s.field Reg.memMigThr 31 16)) then
        s.startMove k r i true
      else s := by
  subst hg hh
  unfold State.visit
  dsimp only
  rw [if_neg (by rw [hm, hv, hr]; decide)]

end Visits

/-- Settles O44: the visits of the migration engine, the end of a copy, the halving of counts and the lapse of a hint. -/
theorem migrationMovesGranules : Obligations.MigrationMovesGranules := by
  intro s
  refine ⟨fun h => ?_, ?_, ?_, ?_, ?_⟩
  · exact if_pos (by rcases h with h | h <;> simp [h])
  · intro hon hp k i rest r hvs hreg t g thr h
    have hexec : exec .migrationVisit s = .next (t.visit k r i) := by
      show execMigrationVisit s = _
      unfold execMigrationVisit
      rw [if_neg (by simp [hon, Nat.not_le.2 hp])]
      simp only [List.isEmpty_iff]
      rw [hvs]
      dsimp only
      rw [hreg]
    rw [hexec]
    refine ⟨fun hidle => congrArg _ (State.visit_of_idle hidle), fun hm hv hr => ?_⟩
    rw [State.visit_of_valid (s := t) hm hv hr (g := g) rfl (h := h) rfl]
    refine ⟨fun hu hh => ?_, fun hu h1 hh => ?_, fun hu h2 => ?_⟩
    · have hup : (h = 1 || (h ≠ 2 && decide (t.field Reg.memMigThr 15 0 ≤ g.count.toNat))) = true := by
        simpa using show h = 1 ∨ h ≠ 2 ∧ t.field Reg.memMigThr 15 0 ≤ g.count.toNat from hh
      rw [if_pos hu, if_pos hup]
      refine ⟨fun ho => congrArg _ (if_neg (by simpa using ho)), fun ho => congrArg _ (if_pos (by simpa using ho))⟩
    · rw [if_pos hu, if_neg]
      rcases hh with hh | hh
      · simp [hh]
      · simp [h1, show g.count.toNat < t.field Reg.memMigThr 15 0 from hh]
    · rw [if_neg (by rw [hu]; exact Bool.false_ne_true), if_pos (by simp [h2])]
  · intro k v r hv hreg
    have hdrop : ∀ {o : Host.Outcome State Fault Refusal}, execMigrationCopyComplete k s = o
        → exec (.migrationCopyComplete k) s = o := id
    refine ⟨fun hr => hdrop ?_, fun hr => ?_⟩
    · unfold execMigrationCopyComplete
      rw [hv]
      dsimp only
      rw [hreg]
      exact if_pos hr
    · intro g m
      refine ⟨fun hd => hdrop ?_, fun hd hw => hdrop ?_⟩
      · unfold execMigrationCopyComplete
        rw [hv]
        dsimp only
        rw [hreg]
        dsimp only
        rw [if_neg (by rw [hr]; exact Bool.false_ne_true)]
        exact if_pos (Bool.or_eq_true_iff.2 hd)
      · unfold execMigrationCopyComplete
        rw [hv]
        dsimp only
        rw [hreg]
        dsimp only
        rw [if_neg (by rw [hr]; exact Bool.false_ne_true)]
        exact if_neg (by rw [show (s.mem.gran r v.gran).dirty = false from hd, hw]; decide)
  · intro d
    refine ⟨fun h => ?_, fun h => ?_, fun k n gs => halveCounts_count⟩
    · exact if_neg (Nat.sub_ne_zero_of_lt h)
    · exact if_pos (Nat.sub_eq_zero_of_le h)
  · intro granule g
    refine ⟨fun h1 h2 h3 => if_pos ⟨h1, h2, h3⟩, ?_⟩
    rintro (h | h | h)
    · exact if_neg fun hc => hc.1 h
    · exact if_neg fun hc => hc.2.1 h
    · exact if_neg fun hc => Nat.not_le.2 h hc.2.2

/-- Counting a poisoned access leaves the memory tiers. -/
@[simp] theorem State.poisonAt_mem {p : Option Nat} : (s.poisonAt p).mem = s.mem := by
  cases p <;> rfl

/-- Counting a poisoned access of a block leaves the memory tiers. -/
@[simp] theorem State.repairPoison_mem {e : RepairEntry} {other : Bool} : (s.repairPoison e other).mem = s.mem :=
  State.poisonAt_mem

section Repairs
variable {k : Nat} {e : RepairEntry} {r : Region}

/-- A good retry delivers its block; after another the next copy is asked (R320, R321). -/
theorem exec_repairRetryComplete_of_whole (hk : s.mem.repairs[k]? = some e) (hs : e.step = .retry) :
    exec (.repairRetryComplete k false) s =
      if s.repairGood e then .next (((s.deliver (s.mem.repairAddr e)).dropRepair k).bump Reg.memRetry 1)
      else .next (s.afterRetry k e) := by
  show execRepairRetryComplete k false s = _
  unfold execRepairRetryComplete
  rw [hk]
  exact if_neg (not_not.2 hs)

/-- After a retry that came poisoned the next copy is asked (R320, R321). -/
theorem exec_repairRetryComplete_of_poisoned (hk : s.mem.repairs[k]? = some e) (hs : e.step = .retry) :
    exec (.repairRetryComplete k true) s = .next ((s.repairPoison e false).afterRetry k e) := by
  show execRepairRetryComplete k true s = _
  unfold execRepairRetryComplete
  rw [hk]
  dsimp only
  rw [if_neg (not_not.2 hs), if_neg (by simp), if_pos (by rw [hs]; rfl)]

/-- After the retry comes the mirror where the region has one, else the host (R320). -/
theorem State.afterRetry_of_region (hr : s.mem.region e.region = some r) :
    s.afterRetry k e = if r.mirror then s.setRepair k { e with step := .mirror } else s.askHost k e := by
  rw [State.afterRetry, hr]

/-- A bad retry, poisoned or failing its check, asks the next copy (R320). -/
theorem exec_repairRetryComplete_of_bad {bad : Bool} (hk : s.mem.repairs[k]? = some e) (hs : e.step = .retry)
    (hb : bad = true ∨ s.repairGood e = false) (hr : s.mem.region e.region = some r) :
    exec (.repairRetryComplete k bad) s =
      .next (let t := if bad then s.repairPoison e false else s
        if r.mirror then t.setRepair k { e with step := .mirror } else t.askHost k e) := by
  cases bad with
  | true =>
    rw [exec_repairRetryComplete_of_poisoned hk hs, State.afterRetry_of_region (State.repairPoison_mem ▸ hr)]
    rfl
  | false =>
    rw [exec_repairRetryComplete_of_whole hk hs, State.afterRetry_of_region hr, if_neg (by simpa using hb)]
    rfl

/-- A mirror copy that is good is written back, one that is not asks the host (R320). -/
theorem exec_repairMirrorComplete_of {bad : Bool} (hk : s.mem.repairs[k]? = some e) (hs : e.step = .mirror)
    (hr : s.mem.region e.region = some r) :
    exec (.repairMirrorComplete k bad) s =
      .next (let t := if bad then s.repairPoison e true else s
        if !bad && e.chk.good (t.repairBytes e true) then t.writeBack k e r (t.repairBytes e true) false
        else t.askHost k { e with mirrorBad := true }) := by
  show execRepairMirrorComplete k bad s = _
  unfold execRepairMirrorComplete
  rw [hk]
  dsimp only
  rw [hr]
  cases bad with
  | true =>
    dsimp only
    rw [if_neg (not_not.2 hs), hs]
    rfl
  | false =>
    dsimp only
    rw [if_neg (not_not.2 hs)]
    exact (apply_ite Host.Outcome.next _ _ _).symm

/-- The verification read closes the entry, counts the repair, and marks the block weak where it failed (R321). -/
theorem exec_writebackVerifyComplete_of {bad h : Bool} (hk : s.mem.repairs[k]? = some e) (hs : e.step = .verify h) :
    exec (.writebackVerifyComplete k bad) s =
      .next (let t := if bad then s.repairPoison e false else s
        let u := (t.dropRepair k).bump (if h then Reg.memReph else Reg.memRepm) 1
        if bad || !t.repairGood e then u.markWeak e else u) := by
  show execWritebackVerifyComplete k bad s = _
  unfold execWritebackVerifyComplete
  rw [hk]
  dsimp only
  rw [hs]

/-- The patrol reads its next block when it is due, but not in S3 and S4 (R325, R434). -/
theorem exec_patrolRead_of_due {bad : Bool} {off : Nat} {mir : Bool} {after : Nat × Nat × Bool}
    (hon : s.field Reg.memPatrol 16 16 = 1) (hdue : s.mem.patrolDue.toNat ≤ s.rt) (hp : s.power.state.toNat < 3)
    (hnext : s.patrolNext = some (k, r, off, mir, after)) :
    exec (.patrolRead bad) s =
      if bad && decide (s.mem.repairs.length ≥ 64) then .next s
      else .next (let t := { s with mem := { s.mem with
          patrolAt := after, patrolDue := s.ringCount + BitVec.ofNat 64 (s.field Reg.memPatrol 15 0) } }
        if bad then t.openRepairOf mir k off (min 16384 (r.bytes - off)) .patrol else t) := by
  show execPatrolRead bad s = _
  unfold execPatrolRead
  rw [if_neg (by simp [hon, Nat.not_lt.2 hdue, Nat.not_le.2 hp]), hnext]

end Repairs

/-- Settles O45: the steps of a block under repair, and the reads of the patrol. -/
theorem blocksAreRepaired : Obligations.BlocksAreRepaired := by
  intro s
  refine ⟨?_, ?_⟩
  · intro k e bad hk at_ t
    refine ⟨fun hs => ⟨fun hb hg => ?_, fun hb r hr => ⟨fun hm => ?_, fun hm => ?_⟩⟩, fun hs r hr => ?_, fun h hs => ?_,
      fun hs ht => ?_⟩
    · rw [hb, exec_repairRetryComplete_of_whole hk hs, if_pos hg]
    · rw [exec_repairRetryComplete_of_bad hk hs hb hr]
      exact congrArg _ (if_pos hm)
    · rw [exec_repairRetryComplete_of_bad hk hs hb hr]
      exact congrArg _ (if_neg (by rw [hm]; exact Bool.false_ne_true))
    · intro bs
      rw [exec_repairMirrorComplete_of hk hs hr]
      refine ⟨?_, fun hb => congrArg _ (if_neg ?_)⟩
      · rintro rfl hg
        exact congrArg _ (if_pos hg)
      · cases bad with
        | true => simp
        | false => simpa using hb
    · intro u
      rw [exec_writebackVerifyComplete_of hk hs]
      refine ⟨?_, fun hb => congrArg _ (if_pos ?_)⟩
      · rintro rfl hg
        exact congrArg _ (if_neg (by simp [hg]))
      · cases bad with
        | true => rfl
        | false => simpa using hb
    · show execRepairHostTimeout k s = _
      unfold execRepairHostTimeout
      rw [hk]
      dsimp only
      rw [if_neg (Nat.not_lt.2 ht), hs]
  · intro bad
    refine ⟨fun h => ?_, ?_⟩
    · exact if_pos (by rcases h with h | h | h <;> simp [h])
    · intro k r off mir after hon hdue hp hnext t
      rw [exec_patrolRead_of_due hon hdue hp hnext]
      refine ⟨?_, ?_, ?_⟩
      · rintro rfl
        rfl
      · rintro rfl hl
        exact if_neg (by simpa using hl)
      · rintro rfl hl
        exact if_pos (by simpa using hl)

end Sys2Proof.Machine

/-!
# Fabric messages, the ring count and the stand frequency

What a fabric message meets at a port, how the ring count changes its state, and how the stand's frequency is agreed.
-/

namespace Sys2Proof.Machine

variable {s : State}

section Fabric
variable {p : BitVec 3} {item : List Byte}

/-- A fabric message of the module's own, at a live port of its slice, meets the checks of its destination (R335). -/
theorem exec_fabricMessageArrival_of_live (hp : p.toNat < 6) (hl : (s.port p.toNat).live = true) (hc : (fabMsg item).cls ≠ 2)
    (hw : wf (BitVec.ofNat 64 (leAt item 0 8)) 3 0 = 1) :
    exec (.fabricMessageArrival p item) s = .next (
      let t := s.setPort p.toNat ((s.port p.toNat).heardItem item)
      if s.fireBroken p.toNat || decide ((fabMsg item).slice ≠ s.slice) then t.fireBreak (fabMsg item)
      else if (fabMsg item).dst ≠ s.torus then t.forward (fabMsg item) item
      else if s.field Reg.fabCtl 0 0 = 0 then t
      else t.acceptFab p.toNat (fabMsg item)) := by
  show execFabricMessageArrival p item s = _
  unfold execFabricMessageArrival
  rw [onItem_of_lt hp (by rw [hw]; decide)]
  dsimp only
  rw [if_neg (by simp [hl, hc])]

/-- A message of a defined class that is neither stale nor a duplicate is judged by its target, then by its payload (R335). -/
theorem State.acceptFab_of_class {port : Nat} {m : FabMsg} {d : Delivered} (h3 : m.cls ≤ 3) (hlen : m.cls = 3 → m.plen = 832)
    (hd : d = { xslot := BitVec.ofNat 8 m.xslot, tstep := BitVec.ofNat 16 m.tstep, mslot := BitVec.ofNat 12 m.mslot }) :
    s.acceptFab port m =
      if m.tstep ≠ s.step.num.toNat % 65536 ∧ m.tstep ≠ (s.step.num.toNat % 65536 + 1) % 65536 then s.bump Reg.fabStale 1
      else if s.fabric.delivered.contains d then s.bump Reg.fabDup 1
      else if s.fabRefused m then
        (s.bump Reg.fabNref 1).plotFault (s.plotOf m.glade)
          { cls := 0x08, cause := 5, glade := some m.glade,
            detail := leBytes 3 m.src.toNat ++ [BitVec.ofNat 8 m.xslot] ++ leBytes 2 m.mslot }
      else (if m.elided then unelide m.payload else if payloadGood m.chk m.payload then some m.payload else none).elim
        ((s.linkFault port m.src).askResend port m) fun bs => s.fabWrite m bs := by
  subst hd
  unfold State.acceptFab
  dsimp only
  rw [if_neg]
  · cases (if m.elided then unelide m.payload else if payloadGood m.chk m.payload then some m.payload else none) <;> rfl
  · simpa [Nat.not_lt.2 h3] using hlen

/-- A resend request at a live port that names no kept message is passed on toward the source, if that is another module. -/
theorem exec_resendRequest_of_none {w0 w1 : BitVec 64} (hp : p.toNat < 6) (hl : (s.port p.toNat).live = true)
    (hf : s.fireBroken p.toNat = false) (hw : wf w0 3 0 = 7)
    (hk : s.fabric.kept.find? (fun k => k.named (wf w0 15 8) (wf w0 27 16) (wf w1 15 0) (BitVec.ofNat 24 (wf w0 63 40))) = none) :
    exec (.resendRequest p w0 w1) s = .next (
      let t := s.setPort p.toNat (s.port p.toNat).heard
      if BitVec.ofNat 24 (wf w0 63 40) = s.torus then t else t.passRequest p.toNat w0 w1) := by
  show execResendRequest p w0 w1 s = _
  unfold execResendRequest
  rw [onItem_of_lt hp (by rw [hw]; decide)]
  dsimp only
  rw [if_neg (by rw [hl, hf]; decide), hk]

/-- A resend request at a live port sends the kept message that it names once more (R336). -/
theorem exec_resendRequest_of_some {w0 w1 : BitVec 64} {k : KeptSend} (hp : p.toNat < 6)
    (hl : (s.port p.toNat).live = true) (hf : s.fireBroken p.toNat = false) (hw : wf w0 3 0 = 7)
    (hk : s.fabric.kept.find? (fun k => k.named (wf w0 15 8) (wf w0 27 16) (wf w1 15 0) (BitVec.ofNat 24 (wf w0 63 40)))
      = some k) :
    exec (.resendRequest p w0 w1) s = .next (
      let t := s.setPort p.toNat (s.port p.toNat).heard
      let u := t.markResent (wf w0 15 8) (wf w0 27 16) (wf w1 15 0) (BitVec.ofNat 24 (wf w0 63 40))
      let d := fabDesc k.desc
      if k.resent then t
      else if d.dsrc then u.addTransfer k.glade.toNat (KeptSend.transfer { k with resent := true } 0 0 0)
      else u.finishSend { k with resent := true } 0 ((u.glade k.glade.toNat).read d.saddr d.plen)) := by
  show execResendRequest p w0 w1 s = _
  unfold execResendRequest
  rw [onItem_of_lt hp (by rw [hw]; decide)]
  dsimp only
  rw [if_neg (by rw [hl, hf]; decide), hk]

/-- A resent message with a route is launched again, and counts in FAB_RSND (R336). -/
theorem State.finishSend_again {k : KeptSend} {ctr : Nat} {src : List Byte} {port : Option Nat} (hr : k.resent = true)
    (hroute : s.routeTo k.dst = .inr port) :
    s.finishSend k ctr src = (s.launch port
      (s.fabBuild (fabDesc k.desc) k.glade.toNat k.plot.toNat k.tstep.toNat (k.body src))).bump Reg.fabRsnd 1 := by
  rw [State.finishSend, hroute]
  exact if_pos hr

end Fabric

/-- Settles O47: a fabric message by the checks of Table 12.8, and a resend request by the message that it names. -/
theorem fabricMessagesArrive : Obligations.FabricMessagesArrive := by
  intro s p hp hl x fbrk
  refine ⟨?_, ?_⟩
  · intro item hc hw t m d cur
    rw [exec_fabricMessageArrival_of_live hp hl hc hw]
    refine ⟨fun h => ?_, fun hf hs => ⟨fun hd => ?_, fun hd hctl h3 hlen => ?_⟩⟩
    · exact congrArg _ (if_pos (by
        rcases h with h | h
        · rw [show s.fireBroken p.toNat = true from h, Bool.true_or]
        · rw [decide_eq_true h, Bool.or_true]))
    · exact congrArg _ ((if_neg (by simp [show s.fireBroken p.toNat = false from hf, show (fabMsg item).slice = s.slice from hs])).trans
        (if_pos hd))
    · rw [if_neg (by simp [show s.fireBroken p.toNat = false from hf, show (fabMsg item).slice = s.slice from hs]),
        if_neg (not_not.2 hd), if_neg (by rw [hctl]; decide), State.acceptFab_of_class (d := d) h3 hlen rfl]
      refine ⟨fun h1 h2 => congrArg _ (if_pos ⟨h1, h2⟩), fun hstep => ?_⟩
      rw [if_neg (by rintro ⟨h1, h2⟩; exact hstep.elim h1 h2)]
      refine ⟨fun hdel => ?_, fun hdel href => ?_, fun hdel href bs hbs => ?_, fun hdel href hbs => ?_⟩
      · exact congrArg _ (if_pos (List.contains_iff_mem.2 hdel))
      · exact congrArg _ ((if_neg fun h => hdel (List.contains_iff_mem.1 h)).trans (if_pos href))
      · exact congrArg _ ((if_neg fun h => hdel (List.contains_iff_mem.1 h)).trans
          ((if_neg fun h => Bool.false_ne_true (href.symm.trans h)).trans (congrArg (Option.elim · _ _) hbs)))
      · exact congrArg _ ((if_neg fun h => hdel (List.contains_iff_mem.1 h)).trans
          ((if_neg fun h => Bool.false_ne_true (href.symm.trans h)).trans (congrArg (Option.elim · _ _) hbs)))
  · intro w0 w1 hf hw t dst want
    refine ⟨fun hk => ⟨fun hd => ?_, fun hd => ?_⟩, fun k hk => ⟨fun hr => ?_, fun hr => ?_⟩⟩
    · rw [exec_resendRequest_of_none hp hl hf hw hk]
      exact congrArg _ (if_pos hd)
    · rw [exec_resendRequest_of_none hp hl hf hw hk]
      exact congrArg _ (if_neg hd)
    · rw [exec_resendRequest_of_some hp hl hf hw hk]
      exact congrArg _ (if_pos hr)
    · intro u d src body
      rw [exec_resendRequest_of_some hp hl hf hw hk]
      refine ⟨fun hd => ?_, fun hd port hport => ?_⟩
      · exact congrArg _ ((if_neg (by rw [hr]; exact Bool.false_ne_true)).trans (if_pos hd))
      · refine congrArg _ ((if_neg (by rw [hr]; exact Bool.false_ne_true)).trans
          ((if_neg (by rw [show (fabDesc k.desc).dsrc = false from hd]; exact Bool.false_ne_true)).trans ?_))
        exact State.finishSend_again rfl hport

/-- A marker pulse on the marker, or with the Ranger's domain off, changes nothing (R347). -/
theorem exec_frameMarkerPulse_of_on (h : s.board.on.getLsbD 29 = false ∨ s.ring.marker = true ∧ s.ring.lc.toNat % 65536 = 0) :
    exec .frameMarkerPulse s = .next s := by
  show execFrameMarkerPulse s = _
  unfold execFrameMarkerPulse
  rcases h with h | ⟨hm, hl⟩
  · exact if_pos (by rw [h]; rfl)
  · cases h : s.board.on.getLsbD 29 with
    | false => rfl
    | true => exact (if_neg (by decide)).trans ((if_neg (by rw [hm]; decide)).trans (if_neg (not_not.2 hl)))

/-- The loss of the reference takes ALIGNED to HOLDOVER, and LOCAL to FREE (R353). -/
theorem exec_rackReferenceLoss_of_run (hr : s.ring.rref = true) (ho : s.board.on.getLsbD 29 = true) :
    exec .rackReferenceLoss s = .next (
      let t := (s.setRing { s.ring with rref := false }).clockFault 1
      if s.ring.mode = .aligned then
        ((t.setRing { t.ring with mode := .holdover, lossAt := s.ring.lc }).bumpField Reg.ringHold 15 0 1).setCause 2
      else if s.ring.mode = .locl then t.setRing { t.ring with mode := .free, okRun := 0 } else t) := by
  show execRackReferenceLoss s = _
  unfold execRackReferenceLoss
  dsimp only
  rw [if_neg (by rw [hr]; decide), if_neg (by rw [ho]; decide)]
  cases s.ring.mode <;> rfl

/-- The reference's return ends HOLDOVER, in ALIGNED or in FAULT, and settles the count otherwise (R353). -/
theorem exec_rackReferenceReturn_of_run {off : Int} (hr : s.ring.rref = false) (ho : s.board.on.getLsbD 29 = true) :
    exec (.rackReferenceReturn off) s = .next (
      let t := s.setRing { s.ring with rref := true }
      if s.ring.mode = .holdover then
        if s.ring.lc.toNat - s.ring.lossAt.toNat ≤ 2 ^ s.field Reg.ringCfg 20 16 ∧ off.natAbs ≤ 64 then
          t.setRing { t.ring with mode := .aligned }
        else t.ringFault 4
      else t.setRing t.ring.settle) := by
  have happly : ∀ {c : Prop} [Decidable c] (a b : State),
      (if c then Host.Outcome.next a else .next b : Host.Outcome State Fault Refusal) = .next (if c then a else b) :=
    fun a b => (apply_ite _ _ _ _).symm
  show execRackReferenceReturn off s = _
  unfold execRackReferenceReturn
  dsimp only
  rw [if_neg (by rw [hr]; decide), if_neg (by rw [ho]; decide), happly]
  cases s.ring.mode <;> rfl

section Phase
variable {p : BitVec 3} {w0 t2 t3 t4 : BitVec 64} {a : PhaseAsk}

/-- A response to the question asked gives offset and delay, which act by the state of the count (R350 to R352). -/
theorem exec_phaseResponse_of_asked (hp : p.toNat < 6) (hl : (s.port p.toNat).live = true) (hw : wf w0 3 0 = 5)
    (hask : (s.port p.toNat).ask = some a) (hseq : a.seq.toNat = wf w0 15 8) :
    exec (.phaseResponse p w0 t2 t3 t4) s = .next (
      let nbr := wf w0 63 56
      let nbr2 := if t3.toNat < t2.toNat then (nbr + 255) % 256 else nbr
      let back := stampDiff (fullStamp (s.rt / 2 ^ 56) t4) (fullStamp nbr t3)
      let out := stampDiff (fullStamp nbr2 t2) (fullStamp a.hi.toNat a.t1)
      let o := (back - out) / 2
      let algn := decide (wf w0 16 16 = 1)
      let t := (s.setPort p.toNat { (s.port p.toNat).heard with
          ask := none, nalgn := algn, downSeen := false, idleFar := false, nbrFreq := BitVec.ofNat 12 (wf w0 31 20) }).setRing
        { s.ring with ofs := sat32 o, dly := BitVec.ofInt 32 ((back + out) / 2)
                      localAt := if s.ring.mode = .locl ∧ algn then s.ring.lc else s.ring.localAt }
      if s.ring.mode = .locl then if t.source = some p.toNat then t.applyLocal p.toNat o (wf w0 31 20) else t
      else if s.ring.mode = .aligned then if s.ring.port.toNat = p.toNat then t.applyAligned o else t
      else t) := by
  show execPhaseResponse p w0 t2 t3 t4 s = _
  unfold execPhaseResponse
  rw [onItem_of_lt hp (by rw [hw]; decide)]
  dsimp only
  rw [hask]
  dsimp only
  rw [if_neg (by simp [hl, hseq])]
  split
  · rename_i hm
    rw [if_pos hm]
  · rename_i hm
    rw [if_neg (show s.ring.mode ≠ .locl by rw [hm]; decide), if_pos hm]
  · rename_i h1 h2
    rw [if_neg h1, if_neg h2]

/-- The root's load makes a root in LOCAL with no aligned neighbour ALIGNED, at a marker edge (R349). -/
theorem exec_rootRingLoad_of_armed (hm : s.ring.mode = .locl) (hroot : s.field Reg.ringCfg 2 0 = 7) (harm : s.ring.armed = true)
    (hports : ∀ p, p < 6 → (s.port p).live = false ∨ (s.port p).nalgn = false)
    (hlate : s.ring.localAt.toNat + 16777216 ≤ s.ring.lc.toNat) (hedge : s.ring.lc.toNat % 65536 = 0) :
    exec .rootRingLoad s = .next (
      let a := { s.ring with
        delta := BitVec.ofNat 64 (s.reg64 Reg.ringLoadLo) - s.ring.lc, phi := 0, mode := .aligned, okRun := 0
        loaded := true, rejoin := false, port := 7, armed := false, faulted := false }
      (s.setRing (if s.livePorts.isEmpty then { a with cur := BitVec.ofNat 11 s.offer, held := true } else a)).setRails) := by
  have hseen : ((List.range 6).any fun p => (s.port p).live && (s.port p).nalgn) = false := by
    rw [List.any_eq_false]
    intro p hp
    rcases hports p (List.mem_range.1 hp) with h | h <;> simp [h]
  exact if_pos ⟨hm, hroot, harm, hseen, hlate, hedge⟩

/-- In ALIGNED a measurement moves φ by one unit toward zero (R352). -/
theorem State.applyAligned_of_small {o : Int} (h1 : o.natAbs ≤ s.field Reg.ringCfg 15 8) (h2 : o.natAbs < 128) :
    s.applyAligned o = s.setRing { s.ring with
      phi := BitVec.ofInt 8 ((s.ring.phi.toNat : Int) + (if 0 < o then 1 else if o < 0 then -1 else 0))
      delta := s.ring.delta
        - BitVec.ofInt 64 (((s.ring.phi.toNat : Int) + (if 0 < o then 1 else if o < 0 then -1 else 0)) / 256) } := by
  have hsgn : sgn o = if 0 < o then 1 else if o < 0 then -1 else 0 := by
    rw [sgn]
    split_ifs <;> omega
  rw [State.applyAligned, if_neg (Nat.not_lt.2 h1), hsgn]
  refine (if_neg (Nat.not_le.2 h2)).trans ?_
  rw [Ring.shift, Int.zero_add]

/-- In ALIGNED a slip of half a tick is FAULT (R352, R354). -/
theorem State.applyAligned_of_slip {o : Int} (h1 : o.natAbs ≤ s.field Reg.ringCfg 15 8) (h2 : 128 ≤ o.natAbs) :
    s.applyAligned o = s.ringFault 3 := by
  rw [State.applyAligned, if_neg (Nat.not_lt.2 h1)]
  exact if_pos h2

end Phase

/-- Settles O48: the commands of the ring count, and the three of a phase measurement. -/
theorem ringCountAndPhase : Obligations.RingCountAndPhase := by
  refine ⟨?_, ?_⟩
  · intro s r run
    refine ⟨?_, ?_, ?_, ?_, ?_, ?_, ?_, ?_, ?_, ?_, ?_⟩
    · intro hr hm
      exact (if_neg (by rw [show s.board.on.getLsbD 29 = true from hr]; decide)).trans
        (if_pos (by rw [show s.ring.marker = false from hm]; rfl))
    · intro hr hm hl
      exact (if_neg (by rw [show s.board.on.getLsbD 29 = true from hr]; decide)).trans
        ((if_neg (by rw [show s.ring.marker = true from hm]; decide)).trans (if_pos hl))
    · exact fun h => exec_frameMarkerPulse_of_on h
    · intro hm hr hl
      exact if_pos (by
        rw [show s.ring.marker = true from hm, show s.ring.rref = true from hr]
        exact decide_eq_true hl)
    · intro hr ho
      exact (if_neg (by rw [show s.ring.rref = true from hr]; decide)).trans
        (if_pos (by rw [show s.board.on.getLsbD 29 = false from ho]; rfl))
    · intro hr ho t
      rw [exec_rackReferenceLoss_of_run hr ho]
      exact ⟨fun hm => congrArg _ (if_pos hm),
        fun hm => congrArg _ ((if_neg (by rw [show s.ring.mode = .locl from hm]; decide)).trans (if_pos hm)),
        fun h1 h2 => congrArg _ ((if_neg h1).trans (if_neg h2))⟩
    · intro off hr ho
      exact (if_neg (by rw [show s.ring.rref = false from hr]; decide)).trans
        (if_pos (by rw [show s.board.on.getLsbD 29 = false from ho]; rfl))
    · intro off hr ho held
      rw [exec_rackReferenceReturn_of_run hr ho]
      exact ⟨fun hm hh => congrArg _ ((if_pos hm).trans (if_pos hh)), fun hm hh => congrArg _ ((if_pos hm).trans (if_neg hh)),
        fun hm => congrArg _ (if_neg hm)⟩
    · intro hm hl
      exact if_pos ⟨hm, hl⟩
    · intro data hup
      exact onReg_of_regUp hup
    · intro hm hroot harm hports hlate hedge a
      rw [exec_rootRingLoad_of_armed hm hroot harm hports hlate hedge]
      exact ⟨fun hne => congrArg (fun x => Host.Outcome.next (s.setRing x).setRails) (if_neg (by simpa using hne)),
        fun he => congrArg (fun x => Host.Outcome.next (s.setRing x).setRails) (if_pos (by simpa using he))⟩
  · intro s p hp hl x heard word
    refine ⟨fun hdue => ?_, fun w0 t1 hw => ?_, ?_⟩
    · refine ⟨Config.freeBits 8 s.fresh, ?_⟩
      show execPhaseMeasurementTimer p s = _
      unfold execPhaseMeasurementTimer
      rw [onPort_of_lt hp]
      exact congrArg _ (if_pos (Bool.and_eq_true_iff.2 ⟨hl, hdue⟩))
    · refine ⟨Config.freeBits 8 s.fresh, Config.freeBits 8 (s.fresh + 1), ?_⟩
      show execPhaseRequest p w0 t1 s = _
      unfold execPhaseRequest
      rw [onItem_of_lt hp (by rw [hw]; decide)]
      exact congrArg _ (if_pos hl)
    · intro w0 t2 t3 t4 a hw hask hseq nbr nbr2 back out o algn t
      rw [exec_phaseResponse_of_asked hp hl hw hask hseq]
      refine ⟨fun hm => ⟨fun hs => ?_, fun hs => ?_⟩, fun hm hport => ⟨fun h1 h2 => ?_, fun h1 h2 => ?_⟩, fun h1 h2 => ?_⟩
      · exact congrArg _ ((if_pos hm).trans (if_pos hs))
      · exact congrArg _ ((if_pos hm).trans (if_neg hs))
      · exact congrArg _ ((if_neg (by rw [hm]; decide)).trans ((if_pos hm).trans ((if_pos (congrArg BitVec.toNat hport)).trans
          (State.applyAligned_of_small (s := t) h1 h2))))
      · exact congrArg _ ((if_neg (by rw [hm]; decide)).trans ((if_pos hm).trans ((if_pos (congrArg BitVec.toNat hport)).trans
          (State.applyAligned_of_slip (s := t) h2 h1))))
      · exact congrArg _ ((if_neg h1).trans (if_neg h2))

section Frequency
variable {p : BitVec 3} {w0 w1 : BitVec 64} {v c : Nat}

/-- At an agreement count an ALIGNED module sends its round, the first with its own offer (R355). -/
theorem exec_freqRoundSend_of_aligned (hm : s.ring.mode = .aligned) (hi : s.agreement.2 % 1000 = 0)
    (hn : s.agreement.2 / 1000 < s.field Reg.freqCfg 23 16) :
    exec .freqRoundSend s =
      let i := s.agreement.2 / 1000
      let r := if i = 0 then { s.ring with
          roundV := BitVec.ofNat 12 s.offer, roundA := BitVec.ofNat 64 s.agreement.1, roundI := 0, roundOn := true }
        else { s.ring with roundI := i }
      if i ≠ 0 ∧ (s.ring.roundOn = false ∨ s.ring.roundA.toNat ≠ s.agreement.1) then .next s
      else .next ((s.setRing r).broadcastItem (freqItem 0 i r.roundV.toNat s.agreement.1)) := by
  show execFreqRoundSend s = _
  unfold execFreqRoundSend
  exact if_pos ⟨hm, hi, hn⟩

/-- A frequency item at a live port that its condition does not meet is heard and changes nothing else. -/
theorem State.hear_of_live (hl : (s.port p.toNat).live = true) :
    s.hear p.toNat (s.port p.toNat) = s.setPort p.toNat (s.port p.toNat).heard := if_pos hl

/-- The pending count that has come applies the lowest value due, and the rails follow it (R355, R356, R429). -/
theorem exec_freqApply_of_due (hn : s.ring.nextPend = some (v, c)) (hc : c ≤ s.rt) {b : Bool}
    (hb : (s.ring.pendFromRounds && decide (s.ring.pendAt.toNat ≤ c)) = b) :
    exec .freqApply s = .next (
      let r := s.ring
      let base := if b then r.pend.toNat else r.cur.toNat
      let due := r.lowers.filter fun w => decide (w.at_.toNat ≤ c)
      s.setRing { r with
        cur := BitVec.ofNat 11 ((due.map fun w => w.value.toNat).foldl min base), held := true
        pend := if b then 0 else r.pend, pendAt := if b then 0 else r.pendAt
        pendFromRounds := r.pendFromRounds && !b
        lowers := r.lowers.filter fun w => decide (c < w.at_.toNat), preRaised := false }).setRails := by
  subst hb
  show execFreqApply s = _
  unfold execFreqApply
  rw [hn]
  exact if_neg (Nat.not_lt.2 hc)

end Frequency

/-- Settles O49: the rounds, the final and lower items, the rise of the rails and the application of a pending value. -/
theorem standFrequencyIsAgreed : Obligations.StandFrequencyIsAgreed := by
  intro s r per a since rounds
  refine ⟨?_, ?_, ?_, ?_, ?_⟩
  · intro hm hn h0 v
    have h0' : s.agreement.2 = 0 := h0
    rw [exec_freqRoundSend_of_aligned hm (by rw [h0']) (by rw [h0']; exact hn), h0',
      show BitVec.ofNat 12 v = BitVec.ofNat 12 s.offer from BitVec.eq_of_toNat_eq (by simp [v])]
    exact if_neg fun hc => hc.1 rfl
  · intro i hm h0 hi hs hon ha
    have hs' : s.agreement.2 = 1000 * i := hs
    have hdiv : 1000 * i / 1000 = i := Nat.mul_div_cancel_left i (by decide)
    rw [exec_freqRoundSend_of_aligned hm (by rw [hs']; exact Nat.mul_mod_right 1000 i) (by rw [hs', hdiv]; exact hi), hs', hdiv]
    refine (if_neg fun hc => hc.2.elim (fun h => Bool.false_ne_true (h.symm.trans hon)) fun h => h ha).trans ?_
    rw [if_neg (Nat.pos_iff_ne_zero.1 h0)]
    rfl
  · intro hm hs hon ha
    exact if_pos ⟨hm, hs, hon, ha⟩
  · intro p w0 w1 hp hl t v hw
    have hk : wf w0 3 0 < 9 := by rw [hw]; decide
    refine ⟨fun h0 hon hr => ?_, fun h1 hr hv => ?_, fun h2 hv => ?_, fun h2 hv => ?_⟩
    · show execFreqRoundItem p w0 w1 s = _
      unfold execFreqRoundItem
      rw [onItem_of_lt hp hk]
      exact congrArg _ (if_pos (by simp [hl, h0, show s.ring.roundOn = true from hon, show s.ring.roundA = w1 from hr]))
    · show execFreqFinalItem p w0 w1 s = _
      unfold execFreqFinalItem
      rw [onItem_of_lt hp hk]
      exact congrArg _ (if_pos (by simp [hl, h1, show s.ring.roundA = w1 from hr, show wf w0 27 16 ≠ s.ring.roundV.toNat from hv]))
    · show execFreqLowerItem p w0 w1 s = _
      unfold execFreqLowerItem
      rw [onItem_of_lt hp hk]
      exact congrArg _ (if_pos (by simp [hl, h2, show wf w0 27 16 < s.ring.pendingValue from hv]))
    · show execFreqLowerItem p w0 w1 s = _
      unfold execFreqLowerItem
      rw [onItem_of_lt hp hk]
      exact congrArg _ ((if_neg (by simp [show s.ring.pendingValue ≤ wf w0 27 16 from hv])).trans (State.hear_of_live hl))
  · intro v c hn
    refine ⟨fun h1 h2 => ?_, fun h => ?_, fun h => ?_, fun h => ?_⟩
    · show execFreqRailPreraise s = _
      unfold execFreqRailPreraise
      rw [show s.ring.nextPend = some (v, c) from hn]
      exact if_pos ⟨h1, h2⟩
    · show execFreqRailPreraise s = _
      unfold execFreqRailPreraise
      rw [show s.ring.nextPend = some (v, c) from hn]
      exact if_neg fun hc => h.elim (Nat.not_le.2 hc.1) (Nat.not_lt.2 hc.2)
    · show execFreqApply s = _
      unfold execFreqApply
      rw [show s.ring.nextPend = some (v, c) from hn]
      exact if_pos h
    · intro due later
      refine ⟨fun hb => ?_, fun hp hc => ?_⟩
      · have hno : (s.ring.pendFromRounds && decide (s.ring.pendAt.toNat ≤ c)) = false := by
          rcases hb with hb | hb
          · rw [show s.ring.pendFromRounds = false from hb, Bool.false_and]
          · rw [decide_eq_false (Nat.not_le.2 hb), Bool.and_false]
        rw [exec_freqApply_of_due hn h hno]
        simp only [Bool.not_false, Bool.and_true]
        rfl
      · have hyes : (s.ring.pendFromRounds && decide (s.ring.pendAt.toNat ≤ c)) = true := by
          rw [show s.ring.pendFromRounds = true from hp, decide_eq_true hc, Bool.and_true]
        rw [exec_freqApply_of_due hn h hyes]
        simp only [Bool.not_true, Bool.and_false]
        rfl

end Sys2Proof.Machine

/-!
# The host links

The Alapor frame and link, and the training, credit, blocks and lanes of the Ohmip stream.
-/

namespace Sys2Proof.Machine

variable {s : State}

section Frames
variable {f : List Byte}

/-- The frame that a module sends after a host frame does not touch the rest of the link. -/
theorem State.frameEnd_of_good (h : goodFrame f = true) :
    s.frameEnd f = { s with alapor := if s.alapor.up then s.alapor.sideband (leAt f 52 1) else s.alapor.trains f } :=
  if_pos h

/-- A bad frame acts on the link alone, whether or not its CRC held (R368). -/
theorem State.frameEnd_alapor_of_bad (h : goodFrame f = false) : (s.frameEnd f).alapor = s.badFrame.alapor := by
  rw [State.frameEnd, if_neg (by rw [h]; exact Bool.false_ne_true)]
  cases frameCrc f <;> rfl

/-- A good frame of the training counts toward lock (R368). -/
theorem Alapor.trains_counts {x : Alapor} : (x.trains f).badRun = 0 ∧ (x.trains f).goodRun = min 32 (x.goodRun + 1) := by
  rw [Alapor.trains]
  dsimp only
  split <;> exact ⟨rfl, rfl⟩

/-- The training frame that locks the module brings the version (R368). -/
theorem Alapor.trains_of_lock {x : Alapor} (h : x.goodRun = 31) (ht : bitsOf (leAt f 2 1) 5 4 = 1) :
    (x.trains f).trainVer = highestCommon x.mask.toNat (leAt f 4 2) 3
      ∧ (x.trains f).vfault = decide (highestCommon x.mask.toNat (leAt f 4 2) 3 = 0) := by
  rw [Alapor.trains]
  dsimp only
  rw [if_pos (by simp [Alapor.locked, isTraining, h, ht])]
  exact ⟨rfl, rfl⟩

/-- A bad frame that is not the sixteenth in a row leaves the link as it is (R368). -/
theorem State.badFrame_alapor_of_lt (h : s.alapor.badRun < 15) : s.badFrame.alapor = s.alapor.spoilt := by
  rw [State.badFrame, if_neg (Nat.not_le.2 h)]

/-- The sixteenth bad frame in a row takes the link down (R368). -/
theorem State.badFrame_of_le (h : 15 ≤ s.alapor.badRun) : s.badFrame = s.alaporDown := if_pos h

/-- A link that is down stays down through the end of a frame. -/
theorem State.frameEnd_up (h : s.alapor.up = false) : (s.frameEnd f).alapor.up = false := by
  cases hg : goodFrame f with
  | true =>
    rw [State.frameEnd_of_good hg, h, if_neg Bool.false_ne_true, Alapor.trains]
    dsimp only
    split <;> exact h
  | false =>
    rw [State.frameEnd_alapor_of_bad hg]
    rcases Nat.lt_or_ge s.alapor.badRun 15 with hb | hb
    · rw [State.badFrame_alapor_of_lt hb]
      exact h
    · rw [State.badFrame_of_le hb]
      rfl

/-- The host's first normal frame of the version that training found, or any frame on a link that is up (R368). -/
theorem Alapor.opens_of {x : Alapor} (hu : x.up = false) (hl : 32 ≤ x.goodRun) (hv : x.trainVer ≠ 0) (hg : goodFrame f = true)
    (ht : bitsOf (leAt f 2 1) 5 4 ≠ 1) (hver : leAt f 2 1 % 16 = x.trainVer) : x.opens f = true := by
  simp [Alapor.opens, Alapor.locked, isTraining, frameVer, hu, hl, hv, hg, ht, hver]

/-- A link that is not locked opens with no frame (R368). -/
theorem Alapor.opens_of_not_locked {x : Alapor} (hl : x.goodRun < 32) : x.opens f = false := by
  simp [Alapor.opens, Alapor.locked, Nat.not_le.2 hl]

/-- A frame of a link that is up, or comes up with it: its operations, its end, and the module's frame (R361 to R368). -/
theorem State.hostFrame_of_up {u b t : State} {r : List Byte × State} (hio : s.hostIo = true)
    (ho : (s.alapor.up || s.alapor.opens f) = true) (hu : u = if s.alapor.up then s else s.alaporUp)
    (hb : b = u.newFrame.bankLosses)
    (hr : r = alaporOps f (if isTraining f then 0 else opsOf u.alapor.ver) [0, 1, 2, 3] b b) (ht : t = r.2.frameEnd f) :
    s.hostFrame f = { t with alapor := { t.alapor with
      frame := if t.alapor.up then u.moduleFrame (f.getD 3 0) r.1 else t.trainingFrame (f.getD 3 0) } } := by
  subst ht hr hb hu
  unfold State.hostFrame
  dsimp only
  rw [if_neg (by rw [hio]; decide), if_pos ho]

/-- A frame of a link that stays in training (R368). -/
theorem State.hostFrame_of_training (hio : s.hostIo = true) (ho : (s.alapor.up || s.alapor.opens f) = false) :
    s.hostFrame f = { s.frameEnd f with alapor := { (s.frameEnd f).alapor with
      frame := (s.frameEnd f).trainingFrame (f.getD 3 0) } } := by
  unfold State.hostFrame
  dsimp only
  rw [if_neg (by rw [hio]; decide), if_neg (by rw [ho]; exact Bool.false_ne_true)]

/-- The frames of several periods are heard one after the other. -/
theorem State.hostFrames_eq_foldl : ∀ {fs : List (List Byte)} {s : State}, s.hostFrames fs = fs.foldl State.hostFrame s
  | [], _ => rfl
  | _ :: fs, _ => State.hostFrames_eq_foldl (fs := fs)

end Frames

/-- Where an uncorrectable block counts leaves the stream's state (R369). -/
theorem fecLanes_ohmip : ∀ {ks : List Nat} {s : State}, (fecLanes ks s).ohmip = s.ohmip
  | [], _ => rfl
  | k :: ks, s => (fecLanes_ohmip (ks := ks) (s := s.countFec k 15)).trans rfl

/-- The stream discards from a block on, and its replay request names the block (R369). -/
theorem State.ohmipItem_replay {t : State} {block : BitVec 16} (h : t.ohmip = s.ohmip) :
    State.ohmipItem { t with ohmip := { t.ohmip with discarding := true, blockIn := block } }
      (leBytes 8 (3 + 2 ^ 16 * block.toNat))
      = { t with ohmip := { s.ohmip with
          discarding := true, blockIn := block, wire := s.ohmip.wire ++ [leBytes 8 (3 + 65536 * block.toNat)] } } := by
  rw [h]
  rfl

/-- The stream's coming up where the host has accepted everything that was sent (R373). -/
theorem State.streamUp_of_sent_nil {v : Nat} {w0 w1 w2 : BitVec 64} (h : s.ohmip.sent = []) :
    s.streamUp v w0 w1 w2 = State.pump { s with ohmip := { s.ohmip with
      up := true, ver := v, vfault := false, hello := false, discarding := false
      nextOut := [s.ohmip.nextOut.getD 0 0, s.ohmip.nextOut.getD 1 0], initial := [wf w0 47 24, wf w1 23 0]
      credit := [wf w0 47 24, wf w1 23 0], used := [0, 0], returned := [0, 0], maxRecord := 8 * wf w1 39 24 } } := by
  unfold State.streamUp
  dsimp only
  rw [h]
  rfl

/-- An item of a reserved kind retrains the link (Table 13.6). -/
theorem Ohmip.reserved_of {o : Ohmip} {n : Nat} (hu : o.up = true ∨ o.hello = true) (hn : 5 ≤ n) : o.reserved n = true := by
  rcases hu with h | h <;> simp [Ohmip.reserved, h, hn]

/-- An item of a defined kind does not (Table 13.6). -/
theorem Ohmip.reserved_of_lt {o : Ohmip} {n : Nat} (hn : n < 5) : o.reserved n = false := by
  rw [Ohmip.reserved, decide_eq_false (Nat.not_le.2 hn), Bool.false_and]

/-- Settles O50: the Alapor frames and their link, and the commands of the Ohmip stream. -/
theorem hostLinksWork : Obligations.HostLinksWork := by
  refine ⟨?_, ?_, ?_, ?_, ?_, ?_, ?_, ?_, ?_, ?_, ?_, ?_, ?_⟩
  · intro s frame hio hup u b carried r head
    have hopen : (s.alapor.up || s.alapor.opens frame) = true := by
      cases hs : s.alapor.up with
      | true => rfl
      | false =>
        obtain ⟨hl, hv, hg, ht, hver⟩ := hup.resolve_left (by rw [hs]; exact Bool.false_ne_true)
        exact Alapor.opens_of hs hl hv hg ht hver
    have hcarried : (if isTraining frame then 0 else opsOf u.alapor.ver) = carried := by
      simp only [isTraining, beq_iff_eq]
      rfl
    have hframe := State.hostFrame_of_up (r := r) (b := b) (u := u) hio hopen rfl rfl (by rw [hcarried]) rfl
    refine ⟨s.hostFrame frame, rfl, ?_⟩
    rw [hframe]
    refine ⟨fun h => if_pos h, fun hr => ⟨fun hg => ?_, fun hg hb => ?_, fun hg hb => ?_⟩⟩
    · rw [State.frameEnd_of_good hg, if_pos hr]
    · have hal : (r.2.frameEnd frame).alapor = r.2.alapor.spoilt :=
        (State.frameEnd_alapor_of_bad hg).trans (State.badFrame_alapor_of_lt hb)
      show (r.2.frameEnd frame).alapor.up = true ∧ (r.2.frameEnd frame).alapor.badRun = _
        ∧ (r.2.frameEnd frame).alapor.lastCode = 0
      rw [hal]
      exact ⟨hr, rfl, rfl⟩
    · have hal : (r.2.frameEnd frame).alapor = r.2.alaporDown.alapor :=
        (State.frameEnd_alapor_of_bad hg).trans (congrArg State.alapor (State.badFrame_of_le hb))
      show (r.2.frameEnd frame).alapor.up = false ∧ (r.2.frameEnd frame).alapor.ver = 0
        ∧ (r.2.frameEnd frame).alapor.badRun = 0 ∧ (r.2.frameEnd frame).alapor.wakeAsked = _
      rw [hal]
      exact ⟨rfl, rfl, rfl, rfl⟩
  · intro s frame hio hup hrun
    have hopen : (s.alapor.up || s.alapor.opens frame) = false := by
      rw [hup, Alapor.opens_of_not_locked hrun]
      rfl
    refine ⟨s.hostFrame frame, rfl, ?_⟩
    rw [State.hostFrame_of_training hio hopen]
    refine ⟨State.frameEnd_up hup, fun hg => ?_, fun hg hb => ?_⟩
    · have hal : (s.frameEnd frame).alapor = s.alapor.trains frame :=
        (congrArg State.alapor (State.frameEnd_of_good hg)).trans (if_neg (by rw [hup]; exact Bool.false_ne_true))
      have hmin : min 32 (s.alapor.goodRun + 1) = s.alapor.goodRun + 1 := Nat.min_eq_right hrun
      show (s.frameEnd frame).alapor.badRun = 0 ∧ (s.frameEnd frame).alapor.goodRun = _ ∧ (_ → _ → (s.frameEnd frame).alapor.trainVer = _
        ∧ (s.frameEnd frame).alapor.vfault = _)
      obtain ⟨hbad, hgood⟩ := Alapor.trains_counts (f := frame) (x := s.alapor)
      rw [hal]
      exact ⟨hbad, hgood.trans hmin, Alapor.trains_of_lock⟩
    · have hal : (s.frameEnd frame).alapor = s.alapor.spoilt :=
        (State.frameEnd_alapor_of_bad hg).trans (State.badFrame_alapor_of_lt hb)
      show (s.frameEnd frame).alapor.badRun = _ ∧ (s.frameEnd frame).alapor.goodRun = 0
      rw [hal]
      exact ⟨rfl, if_neg (by simpa [Alapor.locked] using hrun)⟩
  · intro s frames
    refine ⟨fun h => ?_, fun h => ?_⟩
    · rw [← State.hostFrames_eq_foldl]
      exact if_neg (by rw [h]; exact Bool.false_ne_true)
    · rw [← State.hostFrames_eq_foldl]
      exact if_pos h
  · exact fun s h => if_pos h
  · exact fun s hu hr => if_pos (by rw [hu, hr]; decide)
  · exact fun s hu hr => if_pos (by rw [hu, hr]; decide)
  · intro s hu hio hi t
    exact if_neg (by rw [hu, hio, hi]; decide)
  · intro s w0 w1 w2 hh hw v
    have hexec : exec (.hello w0 w1 w2) s = if v = 0 then .next { s with ohmip := { s.ohmip with hello := false, vfault := true } }
        else .next (s.streamUp v w0 w1 w2) := by
      show execHello w0 w1 w2 s = _
      unfold execHello
      rw [if_neg (by rw [Ohmip.reserved_of_lt (by rw [hw]; decide)]; exact Bool.false_ne_true), if_neg (by simp [hh, hw])]
    rw [hexec]
    refine ⟨fun hv => if_pos hv, fun hv hs => ?_, fun hv => if_neg hv⟩
    rw [if_neg hv, State.streamUp_of_sent_nil hs]
  · intro s w0 w1 hu hw
    show execOhmipLinkStatus w0 w1 s = _
    unfold execOhmipLinkStatus
    rw [if_neg (by rw [Ohmip.reserved_of_lt (by rw [hw]; decide)]; exact Bool.false_ne_true), if_neg (by simp [hu, hw])]
  · intro s w0 hu hw
    show execOhmipReplayRequest w0 s = _
    unfold execOhmipReplayRequest
    rw [if_neg (by rw [Ohmip.reserved_of_lt (by rw [hw]; decide)]; exact Bool.false_ne_true), if_neg (by simp [hu, hw])]
  · intro s w0 w1 w2 hu hw c hc
    simp only [List.mem_cons, List.not_mem_nil, or_false] at hc
    rcases hc with rfl | rfl | rfl <;> exact if_pos (Ohmip.reserved_of hu hw)
  · intro s block hu t
    have hexec : exec (.ohmipUncorrectableBlock block) s = if s.ohmip.discarding then .next t
        else .next (State.ohmipItem { t with ohmip := { t.ohmip with discarding := true, blockIn := block } }
          (leBytes 8 (3 + 2 ^ 16 * block.toNat))) := if_neg (by rw [hu]; decide)
    rw [hexec]
    refine ⟨fun hd => if_pos hd, fun hd => ?_⟩
    rw [if_neg (by rw [hd]; exact Bool.false_ne_true), State.ohmipItem_replay (s := s) (t := t) fecLanes_ohmip]
  · intro s lane hu
    exact (if_pos hu).trans (congrArg _ (if_pos hu))

end Sys2Proof.Machine

/-!
# Registers and the fault window

What a read of a register shows and takes, what a write changes, and how the fault window is read and popped.
-/

namespace Sys2Proof.Machine

variable {s : State}

section Reads
variable {a : Nat} {r : RegSpec}

/-- A word is made of the bits that a read clears and of those that it keeps. -/
theorem and_not_or_and {x m : Word} : (x &&& ~~~m) ||| (x &&& m) = x := by
  ext i hi
  cases hm : m[i] <;> simp [hm]

/-- Taking the counts of a register whose frame has just begun takes those that it shows (R9). -/
theorem State.rcTaken_self {rc : Word} : s.rcTaken s a rc = s.peek a &&& rc := by
  unfold State.rcTaken
  dsimp only
  exact ite_self _

/-- A register without RC bits has no counts to take (R9). -/
theorem State.rcTaken_zero {base : State} : s.rcTaken base a 0 = 0 := by
  unfold State.rcTaken
  simp

/-- A read of a register that answers and is not latched shows its word, latches its high word and takes its counts. -/
theorem State.readReg_of_up (hr : regSpec? a = some r) (hup : s.regUp a = true) (hw : a ≠ Reg.fltWin) {l : SMap Word}
    (hl : (l.find? fun e => e.1 = a) = none) :
    s.readReg s l a =
      { word := s.peek a, status := 0,
        latches := if lowWords.contains a then mput l (a + 4) (s.peek (a + 4)) else l,
        after := s.clearRead a r.rc (s.peek a &&& r.rc), base := s.clearRead a r.rc (s.peek a &&& r.rc) } := by
  unfold State.readReg
  rw [hr]
  dsimp only
  rw [if_neg (by rw [hup]; decide), if_neg hw, hl]
  dsimp only
  rw [State.rcTaken_self, and_not_or_and]

/-- Answering does not depend on the counts of bank conflicts, which the draws add to. -/
theorem State.regUp_bankLosses : s.bankLosses.regUp a = s.regUp a := by
  have hreg : s.bankLosses.reg Reg.memTgSel = s.reg Reg.memTgSel :=
    (State.reg_setReg_other (by decide)).trans (State.reg_setReg_other (by decide))
  have hchan : s.bankLosses.tgChan = s.tgChan := congrArg (fun w : Word => bitsOf w.toNat 7 0) hreg
  rw [State.regUp, hchan]
  rfl

/-- A read over Alapor of a register that answers and is not latched (R6, R8). -/
theorem State.readShown_of_up {t : State} (ht : t = if a = Reg.gldBank ∨ a = Reg.expStall then s.bankLosses else s)
    (hr : regSpec? a = some r) (hup : s.regUp a = true) (hw : a ≠ Reg.fltWin)
    (hl : (s.alapor.hiLatch.find? fun e => e.1 = a) = none) :
    s.readShown a = State.show { t.clearRead a r.rc (t.peek a &&& r.rc) with
      alapor := { (t.clearRead a r.rc (t.peek a &&& r.rc)).alapor with
        hiLatch := if lowWords.contains a then mput s.alapor.hiLatch (a + 4) (t.peek (a + 4)) else s.alapor.hiLatch } }
      (t.peek a) 0 := by
  have hup' : t.regUp a = true := by
    rw [ht]
    split
    · rw [State.regUp_bankLosses, hup]
    · exact hup
  have hal : t.alapor = s.alapor := by
    rw [ht]
    split <;> rfl
  unfold State.readShown
  dsimp only
  rw [← ht, State.readReg_of_up hr hup' hw (hal ▸ hl), hal]

/-- The read of a low word latches its high word (R6). -/
theorem exec_lowWordReadLatch_of_low {addr : BitVec 32} (hrun : s.rangerRuns = true) (hr : regSpec? addr.toNat = some r)
    (hup : s.regUp addr.toNat = true) (hl : (s.alapor.hiLatch.find? fun e => e.1 = addr.toNat) = none)
    (hlow : addr.toNat ∈ lowWords) (hrc : r.rc = 0) :
    exec (.lowWordReadLatch addr) s = .next { s with
      alapor := { s.alapor with hiLatch := mput s.alapor.hiLatch (addr.toNat + 4) (s.peek (addr.toNat + 4)) }
      regs := { s.regs with readout := s.peek addr.toNat, status := 0 } } := by
  have hne : addr.toNat ≠ Reg.gldBank ∧ addr.toNat ≠ Reg.expStall ∧ addr.toNat ≠ Reg.fltWin := by
    refine ⟨?_, ?_, ?_⟩ <;> intro h <;> rw [h] at hlow <;> revert hlow <;> decide
  obtain ⟨h1, h2, h3⟩ := hne
  have hexec : exec (.lowWordReadLatch addr) s = .next (s.readShown addr.toNat) :=
    if_pos (by rw [hrun, Bool.true_and]; exact List.contains_iff_mem.2 hlow)
  rw [hexec, State.readShown_of_up (t := s) (if_neg (by rintro (h | h); exacts [h1 h, h2 h])).symm hr hup h3 hl,
    if_pos (List.contains_iff_mem.2 hlow), hrc, State.clearRead, if_pos rfl]
  rfl

/-- The read of a register with RC bits shows its word and takes their counts (R8, R9). -/
theorem exec_readClearRead_of_rc {addr : BitVec 32} {t : State}
    (ht : t = if addr.toNat = Reg.gldBank ∨ addr.toNat = Reg.expStall then s.bankLosses else s) (hrun : s.rangerRuns = true)
    (hr : regSpec? addr.toNat = some r) (hup : s.regUp addr.toNat = true) (hw : addr.toNat ≠ Reg.fltWin)
    (hl : (s.alapor.hiLatch.find? fun e => e.1 = addr.toNat) = none) (hlow : addr.toNat ∉ lowWords) (hrc : r.rc ≠ 0) :
    exec (.readClearRead addr) s
      = .next ((t.clearRead addr.toNat r.rc (t.peek addr.toNat &&& r.rc)).show (t.peek addr.toNat) 0) := by
  have hexec : exec (.readClearRead addr) s = .next (s.readShown addr.toNat) := by
    show execReadClearRead addr s = _
    unfold execReadClearRead
    rw [hr]
    exact if_pos (by rw [hrun, Bool.true_and, bne_iff_ne]; exact hrc)
  have hal : (t.clearRead addr.toNat r.rc (t.peek addr.toNat &&& r.rc)).alapor = s.alapor := by
    have hal' : t.alapor = s.alapor := by
      rw [ht]
      split <;> rfl
    rw [← hal', State.clearRead]
    repeat' split
    all_goals rfl
  rw [hexec, State.readShown_of_up ht hr hup hw hl, if_neg fun h => hlow (List.contains_iff_mem.1 h), ← hal]

/-- The register that counts a generator's errors has RC bits. -/
theorem rc_of_regSpec_memTgErr (h : regSpec? Reg.memTgErr = some r) : r.rc ≠ 0 := by
  have hspec : (regSpec? Reg.memTgErr).map (fun r => r.rc) = some 0xFFFFFFFF := by decide +kernel
  rw [h] at hspec
  have hrc : r.rc = 0xFFFFFFFF := Option.some.inj hspec
  rw [hrc]
  decide

end Reads

section Writes
variable {addr data : BitVec 32}

/-- A write that has no row of its own goes by the register's access code (R8). -/
theorem exec_registerWrite_of_running (hrun : s.rangerRuns = true) (hown : hasOwnRow addr.toNat = false) :
    exec (.registerWrite addr data) s =
      .next ((s.newFrame.writeReg false addr.toNat data).2.show 0 (s.newFrame.writeReg false addr.toNat data).1) :=
  if_neg (by rw [hrun, hown]; decide)

/-- A write of a register that answers (R8, R486). -/
theorem State.writeReg_of_up {a : Nat} {w : Word} {r : RegSpec} (hr : regSpec? a = some r) (hup : s.regUp a = true)
    (hown : hasOwnRow a = false) :
    s.writeReg false a w =
      let x := if isTgReg a then (false, s.writeTg a w)
        else if a = Reg.gblStat then (false, s.clearCauses w)
        else if Reg.mbxData ≤ a ∧ a < Reg.mbxData + 4096 then (false, s.writeMbxData a w)
        else s.writePlain r a w
      (if x.1 then 3 else 0, x.2) := by
  have hw : s.writeUp false r a w = if isTgReg a then (false, s.writeTg a w)
        else if a = Reg.gblStat then (false, s.clearCauses w)
        else if Reg.mbxData ≤ a ∧ a < Reg.mbxData + 4096 then (false, s.writeMbxData a w)
        else s.writePlain r a w := if_neg (by rw [hown]; exact Bool.false_ne_true)
  unfold State.writeReg
  rw [hr]
  dsimp only
  rw [if_neg (by rw [hup]; decide), hw]

section Plain
variable {a : Nat} {w : Word} {r : RegSpec}

/-- A write of a register without RW and LK bits changes nothing (R8). -/
theorem State.writePlain_of_none (hlk : r.lk = 0) (hrw : r.rw = 0) : s.writePlain r a w = (false, s) := by
  simp [State.writePlain, hlk, hrw]

/-- A write of a register without LK bits stores its RW bits (R8). -/
theorem State.writePlain_of_rw (hlk : r.lk = 0) (hrw : r.rw ≠ 0) : s.writePlain r a w = (false, s.storeReg a w) := by
  rw [State.writePlain, if_neg (by simp [hlk]), if_neg (not_not.2 hlk), if_pos hrw]

/-- While an image is being applied a write drops the LK bits (R491). -/
theorem State.writePlain_of_dropped (hlk : r.lk ≠ 0) (hap : s.applying = true) :
    s.writePlain r a w = (true, (s.setReg a (keptValue a (maskWord (s.reg a) w r.rw))).setCause 8) :=
  if_pos (by rw [hap, decide_eq_true hlk]; rfl)

/-- Otherwise a write of a register with LK bits stores it, checks the configuration and acts at once (R491). -/
theorem State.writePlain_of_lk (hlk : r.lk ≠ 0) (hap : s.applying = false) :
    s.writePlain r a w = (false, ((s.storeReg a w).checkWrite a w (s.configFaults .none)).afterWrite a) := by
  rw [State.writePlain, if_neg (by rw [hap, Bool.and_false]; exact Bool.false_ne_true), if_pos hlk]

end Plain

/-- The registers of MBX_DATA are none of a generator's, and none of them is GBL_STAT. -/
theorem isTgReg_of_mbxData {a : Nat} (h1 : Reg.mbxData ≤ a) (h2 : a < Reg.mbxData + 4096) :
    isTgReg a = false ∧ a ≠ Reg.gblStat := by
  have hsel : Reg.memTgSel = 94272 := rfl
  have hst : Reg.gblStat = 32 := rfl
  have hmbx : Reg.mbxData = 4096 := rfl
  refine ⟨?_, by omega⟩
  rw [isTgReg, decide_eq_false (by omega), Bool.false_and]

end Writes

section Window

/-- A read of FLT_WIN0 latches the head record (R493). -/
theorem State.latchFault_of_queued {r : FaultRec} {rs : List FaultRec} (hq : s.dep.queue = r :: rs) :
    s.latchFault = { s with dep := { s.dep with window := r.bytes, latched := true } } := by
  rw [State.latchFault, hq]

/-- The window's first word is that of the head record once it is latched (R493). -/
theorem State.peek_fltWin_of_latched {r : FaultRec} {rs : List FaultRec} (hq : s.dep.queue = r :: rs) :
    s.latchFault.peek Reg.fltWin = BitVec.ofNat 32 (leAt r.bytes 0 4) := by
  have hspec : (regSpec? Reg.fltWin).map (fun r => r.wo) = some 0 := by decide +kernel
  have hraw : s.latchFault.peekRaw Reg.fltWin = wordAt s.latchFault.windowBytes 0 := rfl
  have hwin : s.latchFault.windowBytes = r.bytes := by
    rw [State.latchFault_of_queued hq, State.windowBytes]
    dsimp only
    rw [hq]
    rfl
  obtain ⟨sp, hsp⟩ : ∃ sp, regSpec? Reg.fltWin = some sp := Option.isSome_iff_exists.1 (by decide +kernel)
  rw [hsp] at hspec
  have hwo : sp.wo = 0 := Option.some.inj hspec
  rw [State.peek, hsp]
  dsimp only
  rw [hwo, hraw, hwin]
  exact BitVec.and_allOnes

/-- A read of FLT_WIN0 latches the head record and shows its first word (R493). -/
theorem exec_faultWindowLatch_of_queued {r : FaultRec} {rs : List FaultRec} (hrun : s.rangerRuns = true)
    (hq : s.dep.queue = r :: rs) (hl : (s.alapor.hiLatch.find? fun e => e.1 = Reg.fltWin) = none)
    (hup : s.regUp Reg.fltWin = true) :
    exec .faultWindowLatch s = .next { s with
      dep := { s.dep with window := r.bytes, latched := true }
      regs := { s.regs with readout := BitVec.ofNat 32 (leAt r.bytes 0 4), status := 0 } } := by
  have hspec : (regSpec? Reg.fltWin).map (fun r => r.rc) = some 0 := by decide +kernel
  obtain ⟨sp, hsp⟩ : ∃ sp, regSpec? Reg.fltWin = some sp := Option.isSome_iff_exists.1 (by decide +kernel)
  rw [hsp] at hspec
  have hrc : sp.rc = 0 := Option.some.inj hspec
  have hread : s.readReg s s.alapor.hiLatch Reg.fltWin
      = { word := s.latchFault.peek Reg.fltWin, status := 0, latches := s.alapor.hiLatch, after := s.latchFault, base := s } := by
    unfold State.readReg
    rw [hsp]
    dsimp only
    rw [if_neg (by rw [hup]; decide), if_pos rfl, hl]
    dsimp only
    rw [hrc, State.rcTaken_zero, State.clearRead, State.clearRead, if_pos rfl, if_pos rfl, if_neg (by decide),
      show (s.latchFault.peek Reg.fltWin &&& ~~~0) ||| 0 = s.latchFault.peek Reg.fltWin from
        BitVec.or_zero.trans BitVec.and_allOnes]
  have hexec : exec .faultWindowLatch s = .next (s.readShown Reg.fltWin) := if_pos hrun
  rw [hexec, State.readShown]
  dsimp only
  rw [if_neg (by decide), hread, State.peek_fltWin_of_latched hq, State.latchFault_of_queued hq]
  rfl

end Window

/-- Settles O51: reads that latch or clear, writes by access code, and the fault window. -/
theorem registersAndFaultWindow : Obligations.RegistersAndFaultWindow := by
  intro s hrun
  refine ⟨?_, ?_, ?_, ?_⟩
  · intro addr r hr hup hl
    refine ⟨fun hlow hrc => exec_lowWordReadLatch_of_low hrun hr hup hl hlow hrc, fun hlow hrc hw he => ?_, fun he hc => ?_⟩
    · intro t
      rw [exec_readClearRead_of_rc (t := t) rfl hrun hr hup hw hl hlow hrc, State.clearRead, if_neg hrc, if_neg he]
    · have hspec : r.rc ≠ 0 := rc_of_regSpec_memTgErr (he ▸ hr)
      rw [exec_readClearRead_of_rc (t := s) (if_neg (by rw [he]; decide)).symm hrun hr hup (by rw [he]; decide) hl
        (by rw [he]; decide) hspec, State.clearRead, if_neg hspec, if_pos he, if_pos hc, he]
  · intro addr data hown t a
    have hplain : ∀ r, regSpec? addr.toNat = some r → s.regUp addr.toNat = true → isTgReg addr.toNat = false →
        addr.toNat ≠ Reg.gblStat → ¬(Reg.mbxData ≤ addr.toNat ∧ addr.toNat < Reg.mbxData + 4096) →
        s.newFrame.writeReg false addr.toNat data = (if (s.newFrame.writePlain r addr.toNat data).1 then 3 else 0,
          (s.newFrame.writePlain r addr.toNat data).2) := by
      intro r hr hup htg hst hmb
      rw [State.writeReg_of_up (s := s.newFrame) hr hup hown, if_neg (by rw [htg]; exact Bool.false_ne_true), if_neg hst,
        if_neg hmb]
    rw [exec_registerWrite_of_running hrun hown]
    refine ⟨fun hr => ?_, fun r hr => ⟨fun hup => ?_, fun hup htg hst hmb => ⟨fun hlk hrw => ?_, fun hlk hrw => ?_,
      fun hlk hap => ?_, fun hlk hap => ?_⟩, fun hup htg => ?_, fun hup hst => ?_, fun hup h1 h2 => ?_⟩⟩
    · rw [State.writeReg, hr]
      rfl
    · rw [State.writeReg, hr]
      dsimp only
      rw [if_pos (by rw [show s.newFrame.regUp addr.toNat = false from hup]; rfl)]
      rfl
    · rw [hplain r hr hup htg hst hmb, State.writePlain_of_none hlk hrw]
      rfl
    · rw [hplain r hr hup htg hst hmb, State.writePlain_of_rw hlk hrw]
      rfl
    · rw [hplain r hr hup htg hst hmb, State.writePlain_of_dropped (s := s.newFrame) hlk hap]
      rfl
    · rw [hplain r hr hup htg hst hmb, State.writePlain_of_lk (s := s.newFrame) hlk hap]
      rfl
    · rw [State.writeReg_of_up (s := s.newFrame) hr hup hown, if_pos htg]
      rfl
    · rw [State.writeReg_of_up (s := s.newFrame) hr hup hown, if_neg (by rw [hst]; decide), if_pos hst]
      rfl
    · obtain ⟨htg, hst⟩ := isTgReg_of_mbxData h1 h2
      rw [State.writeReg_of_up (s := s.newFrame) hr hup hown, if_neg (by rw [htg]; exact Bool.false_ne_true), if_neg hst,
        if_pos ⟨h1, h2⟩]
      rfl
  · intro r rs hq
    have hpop : ∀ data, exec (.faultPop data) s = .next (s.popFault data) := fun data => if_pos hrun
    refine ⟨fun hl hup => exec_faultWindowLatch_of_queued hrun hq hl hup, ?_, fun data hd => ?_⟩
    · rw [hpop, State.popFault, hq]
      exact congrArg _ (if_pos rfl)
    · rw [hpop, State.popFault, hq]
      exact congrArg _ (if_neg hd.symm)
  · intro hq data
    have hpop : exec (.faultPop data) s = .next (s.popFault data) := if_pos hrun
    rw [hpop, State.popFault, hq]

end Sys2Proof.Machine

/-!
# The stand image

The image commands, the boot image, and the drain limit of a phase.
-/

namespace Sys2Proof.Machine

variable {s : State}

section Commands
variable {k : State → State}

/-- An image command acts while the Ranger runs and no other does (R397). -/
theorem imageCommand_of_idle (hrun : s.rangerRuns = true) (hb : s.imageBusy = false) : imageCommand s k = .next (k s) := by
  rw [imageCommand, if_neg (by rw [hrun]; decide), if_neg (by rw [hb]; exact Bool.false_ne_true)]

/-- An image command is refused while another runs (R397). -/
theorem imageCommand_of_busy (hrun : s.rangerRuns = true) (hb : s.imageBusy = true) :
    imageCommand s k = .next (s.imageFault 0x0D 0 s.phasing) := by
  rw [imageCommand, if_neg (by rw [hrun]; decide), if_pos hb]
  rfl

/-- No operation is pending or running. -/
theorem State.imageOpOn_of_none (h : s.image.op = .none) : s.imageOpOn = false := by
  rw [State.imageOpOn, h]
  rfl

/-- A command ends when it completes; one that writes the SPI NOR waits for the input (R14, R397). -/
theorem exec_imageCommandComplete_of_run {r : ImageRun} (hrun : s.rangerRuns = true) (hr : s.image.run = some r)
    (hn : s.board.norHold = false ∨ r.op ≠ 2 ∧ r.op ≠ 8) :
    exec .imageCommandComplete s = .next (((s.setImage { s.image with run := none }).endImage r).setCause 4) := by
  show execImageCommandComplete s = _
  unfold execImageCommandComplete
  rw [hr]
  exact if_neg (by rcases hn with h | ⟨h2, h8⟩ <;> simp [*])

end Commands

/-- Settles O52: the image commands, their end, the boot image and the drain limit. -/
theorem imageCommandsAndPhasesRun : Obligations.ImageCommandsAndPhasesRun := by
  unfold Obligations.ImageCommandsAndPhasesRun
  intro start scheduled
  refine ⟨?_, ?_, ?_, ?_, ?_, ?_, ?_, ?_, ?_, ?_, ?_⟩
  · intro s slot bad hrun hb c hc
    simp only [List.mem_cons, List.not_mem_nil, or_false] at hc
    obtain rfl | rfl | rfl | rfl | rfl | rfl | rfl | rfl := hc
    · exact imageCommand_of_busy (k := State.verify) hrun hb
    · exact imageCommand_of_busy (k := fun t => t.store slot) hrun hb
    · exact imageCommand_of_busy (k := fun t => t.stage slot) hrun hb
    · exact imageCommand_of_busy (k := fun t => t.apply bad) hrun hb
    · exact imageCommand_of_busy (k := State.startRollback) hrun hb
    · exact imageCommand_of_busy (k := State.startReload) hrun hb
    · exact imageCommand_of_busy (k := State.cancelImage) hrun hb
    · exact imageCommand_of_busy (k := fun t => t.startImage 8 slot 0 []) hrun hb
  · exact fun s hrun hb => imageCommand_of_idle hrun hb
  · intro s slot hrun hb
    have hstore : exec (.storeImage slot) s = .next (s.store slot) :=
      imageCommand_of_idle (k := fun t => t.store slot) hrun hb
    refine ⟨fun h1 h2 => ?_, fun h => ?_, imageCommand_of_idle (k := fun t => t.stage slot) hrun hb,
      imageCommand_of_idle (k := fun t => t.startImage 8 slot 0 []) hrun hb⟩
    · exact hstore.trans (congrArg _ (if_neg (by simp [h1, h2])))
    · exact hstore.trans (congrArg _ (if_pos (by rcases h with h | h <;> simp [h])))
  · intro s bad hrun hb hop hok hid
    have hexec : exec (.applyImage bad) s = .next (s.apply bad) :=
      imageCommand_of_idle (k := fun t => t.apply bad) hrun hb
    have happly : s.apply bad = if s.image.state = 0 then (s.initialApply s.image.staged bad).1.setCause 4
        else if s.updateCause s.image.staged = 0 then s.schedule .update (s.myPhases s.image.staged)
        else s.imageFault (s.updateCause s.image.staged) 0 true := by
      unfold State.apply
      dsimp only
      rw [if_neg (by rw [State.imageOpOn_of_none hop, hok]; decide), if_neg (by rw [hid]; exact Bool.false_ne_true)]
    rw [hexec, happly]
    exact ⟨fun h => congrArg _ (if_pos h), fun h hk => congrArg _ ((if_neg h).trans (if_pos hk)),
      fun h hk => congrArg _ ((if_neg h).trans (if_neg hk))⟩
  · intro s hrun hb hop hst hret
    exact (imageCommand_of_idle (k := State.startRollback) hrun hb).trans (congrArg _ (if_neg (by
      simpa [State.imageOpOn_of_none hop, hret] using hst)))
  · intro s hrun hb hop hst m
    exact (imageCommand_of_idle (k := State.startReload) hrun hb).trans (congrArg _ (if_neg (by
      simpa [State.imageOpOn_of_none hop] using hst)))
  · intro s hrun hb
    refine ⟨fun hop hph => ?_, fun h => ?_⟩
    · exact (imageCommand_of_idle (k := State.cancelImage) hrun hb).trans (congrArg _ (if_pos (by
        simp [State.imageOpOn, State.phasing, hop, hph])))
    · exact (imageCommand_of_idle (k := State.cancelImage) hrun hb).trans (congrArg _ (if_neg (by
        rcases h with h | h <;> simp [State.imageOpOn, State.phasing, h])))
  · intro s r hrun hr t
    refine ⟨fun hop => ?_, fun hop hn => ?_, fun hop => ?_, fun hop hn => ?_⟩
    · rw [exec_imageCommandComplete_of_run hrun hr (.inr (by rw [hop]; decide)), State.endImage, hop]
      rfl
    · rw [exec_imageCommandComplete_of_run hrun hr (.inl hn), State.endImage, hop]
      rfl
    · rw [exec_imageCommandComplete_of_run hrun hr (.inr (by rw [hop]; decide)), State.endImage, hop]
      rfl
    · rw [exec_imageCommandComplete_of_run hrun hr (.inl hn), State.endImage, hop]
      rfl
  · intro s bad bad2 hrun hdue hap hid hr htr hseq t
    have hexec : exec (.bootImageApply bad bad2) s = .next (s.boot bad bad2) := if_neg (by simp [hrun, hdue, hap, hid, hr, htr, hseq])
    rw [hexec, State.boot]
    refine ⟨fun hk => ?_, fun k hk => ?_⟩
    · rw [hk]
    · rw [hk]
  · intro s hph
    refine ⟨fun h => ?_, fun hd ht => ?_⟩
    · exact if_pos (by rcases h with h | h <;> simp [h])
    · exact if_neg (by simp [State.phasing, hph, hd, Nat.not_lt.2 ht])
  · intro t p ps
    refine ⟨fun hh hr => ?_, fun h => ?_⟩
    · rw [drainPlots, if_pos (by simp [hh, hr])]
      rfl
    · rw [drainPlots, if_neg (by rcases h with h | h <;> simp [h])]

end Sys2Proof.Machine

/-!
# Supply and power sequence

The limits of the input supply, and the power sequence with its pins, trip and leak.
-/

namespace Sys2Proof.Machine

variable {s : State}

/-! ### What a restart of every domain but the Ranger's keeps -/

/-- Returning LK registers to their reset values changes the registers alone. -/
theorem resetLk_frame (vals : List (Nat × Word)) : (resetLk vals s).board = s.board ∧ (resetLk vals s).ring = s.ring ∧
    (resetLk vals s).dep = s.dep ∧ (resetLk vals s).security = s.security := by
  induction vals generalizing s with
  | nil => exact ⟨rfl, rfl, rfl, rfl⟩
  | cons e es ih =>
    rw [resetLk]
    cases regSpec? e.1 with
    | none => exact ih
    | some r => exact ih

/-- An Ohmip stream that goes down leaves the fault queue and the keys alone. -/
@[simp] theorem State.ohmipDown_dep : s.ohmipDown.dep = s.dep := by
  unfold State.ohmipDown
  dsimp only
  split
  · exact State.setCause_dep
  · rfl

@[simp] theorem State.ohmipDown_security : s.ohmipDown.security = s.security := by
  unfold State.ohmipDown
  dsimp only
  split
  · exact State.setCause_security
  · rfl

@[simp] theorem State.rangerOnly_on : s.rangerOnly.board.on = 0x20000000 := by
  unfold State.rangerOnly
  rw [(resetLk_frame _).1]

@[simp] theorem State.rangerOnly_lc : s.rangerOnly.ring.lc = s.ring.lc := by
  unfold State.rangerOnly
  rw [(resetLk_frame _).2.1]
  rfl

@[simp] theorem State.rangerOnly_queue : s.rangerOnly.dep.queue = s.dep.queue := by
  unfold State.rangerOnly
  rw [(resetLk_frame _).2.2.1]

@[simp] theorem State.rangerOnly_tenants : s.rangerOnly.security.tenants = s.security.tenants := by
  unfold State.rangerOnly
  rw [(resetLk_frame _).2.2.2]
  exact congrArg Security.tenants (State.ohmipDown_security (s := s.alaporDown))

/-! ### Zones of the input and starts of the sequence -/

/-- The input is above 58.5 V in two zones. -/
theorem State.inputGood_iff : s.inputGood = true ↔ s.board.zone = .ok ∨ s.board.zone = .recovering := by
  simp [State.inputGood]

/-- A start of the sequence with PERST_N low does nothing; with SVC_HOLD_N low the Ranger stays in reset (R22, R29). -/
theorem State.powerReturns_eq : s.powerReturns = if s.board.perstN = false then s
    else if s.board.svcHoldN then s.fromStep1 else s.setBoard { s.board with on := 0x20000000, rangerReset := true } := by
  unfold State.powerReturns
  cases s.board.perstN <;> rfl

theorem State.powerReturns_of_high (hp : s.board.perstN = true) (hh : s.board.svcHoldN = true) : s.powerReturns = s.fromStep1 := by
  rw [State.powerReturns_eq, if_neg (by rw [hp]; decide), if_pos hh]

theorem State.powerReturns_of_hold (hp : s.board.perstN = true) (hh : s.board.svcHoldN = false) :
    s.powerReturns = s.setBoard { s.board with on := 0x20000000, rangerReset := true } := by
  rw [State.powerReturns_eq, if_neg (by rw [hp]; decide), if_neg (by rw [hh]; decide)]

/-- The Ranger runs only in a domain that is on. -/
theorem State.on_of_rangerRuns (h : s.rangerRuns = true) : s.board.on.getLsbD 29 = true := by
  rw [State.rangerRuns, Bool.and_eq_true] at h
  exact h.1

/-- Without liquid at the sensor a start of the sequence goes ahead. -/
theorem State.orLeak_of_dry {t : State} (h : s.board.wet = false) : s.orLeak t = t := by
  rw [State.orLeak, if_pos (by rw [h]; rfl)]

/-- Liquid not seen before makes the power-down due instead of a start (R36). -/
theorem State.orLeak_of_wet {t : State} (h : s.board.wet = true) (hb : s.board.status.getLsbD 3 = false) :
    s.orLeak t = s.leakFound := by
  rw [State.orLeak, if_neg (by rw [h]; decide), if_neg (by rw [hb]; decide)]

theorem State.orLeak_of_leak {t : State} (h : s.board.wet = true) (hb : s.board.status.getLsbD 3 = true) :
    s.orLeak t = s.setBoard { s.board with seq := .down } := by
  rw [State.orLeak, if_neg (by rw [h]; decide), if_pos hb]

/-- The boot ROM does not touch the leak sensor. -/
@[simp] theorem State.bootRom_wet : s.bootRom.board.wet = s.board.wet := by
  unfold State.bootRom
  split <;> rfl

/-- Settles O55: each limit is one conditional of its command. -/
theorem supplyLimitsAct : Obligations.SupplyLimitsAct := by
  unfold Obligations.SupplyLimitsAct
  intro zone fresh back
  have hback : ∀ s, back s = s.powerReturns := fun s => State.powerReturns_eq.symm
  refine ⟨fun s v hv hz => ?_, fun s v hv hz => ?_, fun s hz hr => ?_, fun s hz hr => ?_, fun s v hv hz => ?_, fun s v hv hz => ?_,
    fun s v hv hz => ?_, fun s v hv hz => ?_, fun s v hz hv => ?_, fun s => ⟨rfl, rfl, ?_⟩⟩
  · have hc : (v.toNat < 5700 && (decide (s.board.zone = .ok) || decide (s.board.zone = .recovering))) = true := by simp [hv, hz]
    exact ⟨fun hr => (if_pos hc).trans (if_pos hr), fun hr => (if_pos hc).trans (if_neg (by rw [hr]; decide))⟩
  · have hc : (5850 < v.toNat && decide (s.board.zone = .warned)) = true := by simp [hv, hz]
    refine ⟨fun hr => (if_pos hc).trans (if_pos hr), fun hr => (if_pos hc).trans ((if_neg (by rw [hr]; decide)).trans ?_)⟩
    rw [hback]
    rfl
  · exact if_pos (by simp [hz, hr])
  · exact if_neg (by simp [hz]; omega)
  · have hc : (v.toNat < 5600 && (decide (s.board.zone = .ok) || decide (s.board.zone = .warned)
        || decide (s.board.zone = .recovering))) = true := by simp [hv, hz, or_assoc]
    exact ⟨fun hr => (if_pos hc).trans ((if_pos (State.on_of_rangerRuns hr)).trans (if_pos hr)),
      fun hr hon => (if_pos hc).trans ((if_pos hon).trans (if_neg (by rw [hr]; decide))),
      fun hon => (if_pos hc).trans (if_neg (by rw [hon]; decide))⟩
  · exact ⟨if_pos (by simp [hv, hz]), rfl⟩
  · have hc : (5850 < v.toNat && (decide (s.board.zone = .under) || decide (s.board.zone = .cutoff))) = true := by simp [hv, hz]
    refine ⟨fun hr hh => (if_pos hc).trans (if_pos (by rw [hr, hh]; rfl)), fun hr => ?_⟩
    rw [hback]
    exact (if_pos hc).trans (if_neg (by rcases hr with hr | hr <;> simp [hr]))
  · exact if_pos (by simp [hv, hz])
  · have hc : (v.toNat < 8100 && decide (s.board.zone = .over)) = true := by simp [hv, hz]
    refine ⟨fun hg => ?_, fun hg => (if_pos hc).trans (if_neg (by omega))⟩
    rw [hback]
    exact (if_pos hc).trans (if_pos hg)
  · simp

/-! ### The sequence -/

/-- A sequence that is due from step 1 waits for the input, and then runs the boot ROM (Table 1.3, R465). -/
theorem exec_powerOnSequence_of_due1 (h : s.board.seq = .due 1) : exec .powerOnSequence s =
    if !s.inputGood then .next s else if s.bootRom.board.bootRom then .next (s.bootRom.orLeak s.bootRom)
      else .next (s.bootRom.orLeak (s.bootRom.powerOn.raiseStep 3 0)) := by
  show execPowerOnSequence s = _
  unfold execPowerOnSequence
  rw [h]
  exact if_pos rfl

/-- A sequence that is due from step 3 needs firmware that runs and an input that has not fallen below 56 V. -/
theorem exec_powerOnSequence_of_due3 (h : s.board.seq = .due 3) (hb : s.board.bootRom = false)
    (hi : s.inputGood = true ∨ s.board.zone = .warned) :
    exec .powerOnSequence s = .next (s.orLeak (s.powerOn.raiseStep 3 0)) := by
  show execPowerOnSequence s = _
  unfold execPowerOnSequence
  rw [h]
  exact (if_neg (by decide)).trans (if_neg (by rcases hi with hi | hi <;> simp [hb, hi]))

/-- Power good in step `n` raises the step after it, grove by grove in step 8 (R17). -/
theorem exec_sequenceStepPowerGood_of_up {n gv : Nat} (h : s.board.seq = .up n gv) : exec .sequenceStepPowerGood s =
    if n < 7 then .next (s.raiseStep (n + 1) 0) else if n = 7 then .next (s.raiseStep 8 0)
    else if gv < 15 then .next ((s.groveRises gv).raiseStep 8 (gv + 1))
    else .next ((s.groveRises gv).setBoard { s.board with seq := .idle }).startTraining := by
  show execSequenceStepPowerGood s = _
  unfold execSequenceStepPowerGood
  rw [h]
  rfl

/-- Settles O56: each command of the sequence is a short conditional; a start goes through `State.orLeak`. -/
theorem powerSequenceRuns : Obligations.PowerSequenceRuns := by
  unfold Obligations.PowerSequenceRuns
  refine ⟨fun s h hi hw => ?_, fun s h hb hi => ?_, fun s h hi => ?_, fun s n gv h => ?_, fun s n gv rail h => ?_,
    fun s n gv => ?_, fun s h => ?_, fun s hp => ?_, fun s ga hp => ?_, fun s hh hp => ?_, fun s hh hp => ?_,
    fun s stack unit temp hr hu hlo hhi => ?_, fun s hr hw => ?_, fun s => ?_, fun s ho hr => ?_, fun s ho hr => ?_, fun s ho => ?_⟩
  · have hd : s.bootRom.board.wet = false := by rw [State.bootRom_wet, hw]
    rw [exec_powerOnSequence_of_due1 h, if_neg (by rw [hi]; decide), State.orLeak_of_dry hd, State.orLeak_of_dry hd]
    exact ⟨fun hb => if_neg (by rw [hb]; decide), fun hb => if_pos hb⟩
  · rw [exec_powerOnSequence_of_due3 h hb hi]
    exact ⟨fun hw => by rw [State.orLeak_of_dry hw], fun hw hl => by rw [State.orLeak_of_wet hw hl],
      fun hw hl => by rw [State.orLeak_of_leak hw hl]⟩
  · rw [exec_powerOnSequence_of_due1 h, if_pos (by rw [hi]; rfl)]
  · rw [exec_sequenceStepPowerGood_of_up h]
    exact ⟨fun hn => if_pos hn, fun hn => (if_neg (by omega)).trans (if_pos hn),
      fun hn hg => (if_neg (by omega)).trans ((if_neg (by omega)).trans (if_pos hg)),
      fun hn hg => (if_neg (by omega)).trans ((if_neg (by omega)).trans (if_neg (by omega)))⟩
  · intro t u
    show execRailPowerGoodMiss rail s = _
    unfold execRailPowerGoodMiss
    rw [h]
    rfl
  · rfl
  · show execPowerDownSequence s = _
    unfold execPowerDownSequence
    rw [h]
  · exact ⟨if_neg (by rw [hp]; decide), rfl⟩
  · intro t
    have hn : exec (.perstNRise ga) s = if t.inputGood then .next t.powerReturns else .next t := if_neg (by rw [hp]; decide)
    have hg : t.inputGood = s.inputGood := rfl
    rw [hn, hg]
    refine ⟨fun hi => if_neg (by rw [hi]; decide), fun hi hh => (if_pos hi).trans ?_, fun hi hh => (if_pos hi).trans ?_, rfl, rfl⟩
    · rw [State.powerReturns_of_high (s := t) rfl hh]
    · rw [State.powerReturns_of_hold (s := t) rfl hh]
  · exact (if_neg (by rw [hh]; decide)).trans (if_neg (by rw [hp]; decide))
  · intro t
    have ht : t.powerReturns = t.fromStep1 := State.powerReturns_of_high hp rfl
    rw [← ht, apply_ite Host.Outcome.next]
    exact (if_neg (by rw [hh]; decide)).trans (if_neg (by rw [hp]; decide))
  · refine (if_neg ?_).trans (if_pos ?_)
    · cases stack
      · have := hu rfl
        simp; omega
      · simp
    · simp [hr, hlo, hhi]
  · intro t u
    refine if_neg ?_
    rw [hr]
    rcases hw with hw | hw <;> rw [hw] <;> simp
  · rfl
  · exact (if_neg (by rw [ho]; decide)).trans (if_neg (by rw [hr]; decide))
  · exact (if_neg (by rw [ho]; decide)).trans (if_pos (by rw [hr]; rfl))
  · exact if_neg (by rw [ho]; decide)

end Sys2Proof.Machine

/-!
# Idle states

Entry to and exit from the idle states, the latency tolerance, and the arming of a suspension.
-/

namespace Sys2Proof.Machine

variable {s : State}

/-! ### Counter registers -/

/-- A field of all 32 bits is the word itself. -/
theorem withField_all (w : Word) {x : Nat} (hx : x < 2 ^ 32) : (withField w 31 0 x).toNat = x := by
  have hw := w.isLt
  have hb : bitsOf w.toNat 31 0 = w.toNat := by simp only [bitsOf]; omega
  rw [withField, hb, BitVec.toNat_ofNat]
  omega

/-- A 32-bit counter that resets to 0 counts up below its end. -/
theorem State.reg_bump_one {a : Nat} (ha : regReset a = 0) (h : (s.reg a).toNat < 2 ^ 32 - 1) :
    ((s.bump a 1).reg a).toNat = (s.reg a).toNat + 1 := by
  have hf : s.field a 31 0 = (s.reg a).toNat := by
    have := (s.reg a).isLt
    simp only [State.field, State.regN, bitsOf]
    omega
  have hmin : min (s.field a 31 0 + 1) (2 ^ (31 + 1 - 0) - 1) = (s.reg a).toNat + 1 := by rw [hf]; omega
  have hw : (withField (s.reg a) 31 0 ((s.reg a).toNat + 1)).toNat = (s.reg a).toNat + 1 := withField_all _ (by omega)
  unfold State.bump State.bumpField State.setField
  rw [hmin, State.reg_setReg_same, hw]
  intro h0
  rw [h0, ha] at hw
  simp at hw

/-! ### What an entry leaves alone -/

/-- Setting a cause changes no register but GBL_STAT. -/
theorem State.setCause_reg {a bit : Nat} (ha : a ≠ Reg.gblStat) : (s.setCause bit).reg a = s.reg a := by
  show (s.setField Reg.gblStat bit bit 1).reg a = s.reg a
  exact State.reg_setReg_other ha

/-- A later state with the idle state, the board and a register of the earlier one. -/
def KeepsIdle (a : Nat) (s t : State) : Prop := t.power.state = s.power.state ∧ t.board = s.board ∧ t.reg a = s.reg a

theorem KeepsIdle.trans {a : Nat} {t u : State} (h : KeepsIdle a s t) (h' : KeepsIdle a t u) : KeepsIdle a s u := by
  obtain ⟨hp, hb, hr⟩ := h
  obtain ⟨hp', hb', hr'⟩ := h'
  exact ⟨hp'.trans hp, hb'.trans hb, hr'.trans hr⟩

theorem KeepsIdle.refl {a : Nat} : KeepsIdle a s s := ⟨rfl, rfl, rfl⟩

theorem KeepsIdle.setCause {a bit : Nat} (ha : a ≠ Reg.gblStat) : KeepsIdle a s (s.setCause bit) :=
  ⟨rfl, rfl, State.setCause_reg ha⟩

theorem KeepsIdle.mapGlades {a : Nat} {f : Glade → Glade} : ∀ (gs : List Nat) (s : State), KeepsIdle a s (mapGlades f gs s)
  | [], _ => .refl
  | _ :: gs, _ => KeepsIdle.mapGlades gs _

/-- Sending an item changes the ports alone. -/
theorem KeepsIdle.sendItem {a p : Nat} {item : Item} : KeepsIdle a s (s.sendItem p item) := by
  unfold State.sendItem
  dsimp only
  split <;> exact .refl

theorem KeepsIdle.sendAll {a : Nat} {item : Item} : ∀ (ps : List Nat) (s : State), KeepsIdle a s (sendAll item ps s)
  | [], _ => .refl
  | _ :: ps, _ => KeepsIdle.sendItem.trans (KeepsIdle.sendAll ps _)

theorem KeepsIdle.portsDown {a : Nat} : ∀ (ps : List Nat) (s : State), KeepsIdle a s (portsDown ps s)
  | [], _ => .refl
  | _ :: ps, _ => KeepsIdle.portsDown ps _

/-- An Ohmip stream that goes down changes no register but GBL_STAT. -/
theorem KeepsIdle.ohmipDown {a : Nat} (ha : a ≠ Reg.gblStat) : KeepsIdle a s s.ohmipDown := by
  unfold State.ohmipDown
  dsimp only
  split
  · exact KeepsIdle.trans ⟨rfl, rfl, rfl⟩ (KeepsIdle.setCause ha)
  · exact .refl

/-- The entry's state, its domains and its count in PWR_IDLEC (R433). -/
def State.idleCounted (s : State) (k : Nat) : State :=
  ((s.setBoard { s.board with on := idleOn k, asleep := idleAsleep k }).setPower
    { s.power with state := BitVec.ofNat 3 k }).bump (Reg.pwrIdlec + 4 * (k - 1)) 1

/-- What a deeper entry loses comes after its count. -/
theorem State.enterIdle_eq (k : Nat) : s.enterIdle k =
    let u := s.idleCounted k
    let gs := s.glades.map (·.1)
    if k < 2 then u
    else if k = 2 then { mapGlades Glade.sleep gs u with groves := [] }
    else
      let v := mapGlades Glade.powerOff gs u
      let w := { v with groves := [], power := v.power.grovesOff }
      if k = 3 then w
      else
        let x := (portsDown (List.range 6) (w.broadcastItem downItem)).ohmipDown
        { x with ohmip := { x.ohmip with idle := true } } := rfl

/-- An entry keeps its count, its state and its domains through what it loses. -/
theorem State.enterIdle_keeps_idle {a k : Nat} (ha : a ≠ Reg.gblStat) : KeepsIdle a (s.idleCounted k) (s.enterIdle k) := by
  rw [State.enterIdle_eq]
  dsimp only
  have hoff : ∀ gs, KeepsIdle a (s.idleCounted k) { mapGlades Glade.powerOff gs (s.idleCounted k) with
      groves := [], power := (mapGlades Glade.powerOff gs (s.idleCounted k)).power.grovesOff } := fun gs =>
    KeepsIdle.mapGlades gs _
  split_ifs
  · exact .refl
  · exact KeepsIdle.mapGlades _ (s.idleCounted k)
  · exact hoff _
  · exact (hoff _).trans ((KeepsIdle.sendAll _ _).trans ((KeepsIdle.portsDown _ _).trans (KeepsIdle.ohmipDown ha)))

/-! ### The state that R430 chooses -/

/-- The deepest state that meets R430 lies above every limit that it passes and below every state that fails. -/
theorem State.deepest_eq {k n : Nat} (hk : k ≤ n) (hm : k = 0 ∨ s.idleMeets k = true)
    (hno : ∀ j, k < j → j ≤ n → s.idleMeets j = false) : s.deepest n = k := by
  induction n with
  | zero => exact (Nat.le_zero.mp hk).symm
  | succ n ih =>
    rw [State.deepest]
    rcases Nat.lt_or_eq_of_le hk with hlt | heq
    · rw [if_neg (by rw [hno _ hlt (Nat.le_refl _)]; decide), ih (by omega) fun j hj hn => hno j hj (by omega)]
    · subst heq
      rcases hm with h0 | hm
      · exact absurd h0 (by omega)
      · exact if_pos hm

/-- No deeper state is chosen than those that meet R430. -/
theorem State.deepest_le {k : Nat} : ∀ n, (∀ j, k < j → j ≤ n → s.idleMeets j = false) → s.deepest n ≤ k
  | 0, _ => Nat.zero_le k
  | n + 1, hno => by
    rw [State.deepest]
    split_ifs with h
    · refine Nat.le_of_not_lt fun hk => ?_
      rw [hno _ hk (Nat.le_refl _)] at h
      cases h
    · exact State.deepest_le n fun j hj hn => hno j hj (by omega)

theorem State.idleTarget_of_awake (h : s.awakeHeld = true) : s.idleTarget = 0 := if_pos h

theorem State.idleTarget_of_free (h : s.awakeHeld = false) : s.idleTarget = s.deepest 4 := if_neg (by rw [h]; decide)

/-! ### Exit -/

/-- A wake ends an idle state in S0 (R436). -/
theorem State.checkExit_of_awake (h0 : s.power.state ≠ 0) (h : s.awakeHeld = true) : s.checkExit = s.exitIdle := by
  have hs : s.idleStays = false := by simp [State.idleStays, h]
  have ht : s.exitTo = 0 := by simp [State.exitTo, h]
  rw [State.checkExit, if_neg (by rw [hs, Bool.or_false]; simpa using h0), ht]
  rfl

/-- An idle state that meets R430 goes on until a resume comes near. -/
theorem State.checkExit_of_stays (h : s.awakeHeld = false) (hal : s.idleAllowed s.power.state.toNat = true)
    (htol : exitRt s.power.state.toNat ≤ s.tolRt) (hres : ∀ d, s.toResume = some d → exitRt s.power.state.toNat < d) :
    s.checkExit = s := by
  have hs : s.idleStays = true := by
    simp only [State.idleStays, h, hal, htol, Bool.not_false, Bool.and_true, Bool.true_and, decide_true]
    cases hd : s.toResume with
    | none => rfl
    | some d => exact decide_eq_true (hres d hd)
  exact if_pos (by rw [hs, Bool.or_true])

/-- An idle state beyond the tolerance is left for the deepest shallower state that meets R430. -/
theorem State.checkExit_of_tolerance (h0 : s.power.state ≠ 0) (h : s.awakeHeld = false)
    (htol : s.tolRt < exitRt s.power.state.toNat) (hres : s.toResume = none) :
    s.checkExit = s.leaveFor (s.deepest (s.power.state.toNat - 1)) := by
  have hs : s.idleStays = false := by simp [State.idleStays, Nat.not_le.mpr htol]
  have ht : s.exitTo = s.deepest (s.power.state.toNat - 1) := by simp [State.exitTo, h, hres]
  rw [State.checkExit, if_neg (by rw [hs, Bool.or_false]; simpa using h0), ht]

/-! ### Suspension -/

/-- The next boundary to come is the least step at or after the ring count that has not begun. -/
theorem State.nextBoundary_eq {m : Nat} (hp : s.period ≠ 0) (h0 : s.s0 ≤ s.rt)
    (hm : s.rt < s.stepAt m ∨ s.rt = s.stepAt m ∧ s.step.next ≤ m)
    (hmin : ∀ j, (s.rt < s.stepAt j ∨ s.rt = s.stepAt j ∧ s.step.next ≤ j) → m ≤ j) : s.nextBoundary = m := by
  obtain ⟨q, hq⟩ : ∃ q, (s.rt - s.s0) / s.period = q := ⟨_, rfl⟩
  have hlo : s.stepAt q ≤ s.rt := by
    have := Nat.div_mul_le_self (s.rt - s.s0) s.period
    rw [hq] at this
    simp only [State.stepAt]
    omega
  have hhi : s.rt < s.stepAt (q + 1) := by
    have := Nat.lt_div_mul_add (a := s.rt - s.s0) (Nat.pos_of_ne_zero hp)
    rw [hq] at this
    simp only [State.stepAt, Nat.succ_mul]
    omega
  have hmono : ∀ {i j : Nat}, i < j → s.stepAt i < s.stepAt j := fun h =>
    Nat.add_lt_add_left (Nat.mul_lt_mul_of_pos_right h (Nat.pos_of_ne_zero hp)) _
  have hle : m ≤ q + 1 := hmin _ (.inl hhi)
  have hge : q ≤ m := Nat.le_of_not_lt fun h => by
    have := hmono h
    omega
  rw [State.nextBoundary, hq]
  split_ifs with hc
  · exact Nat.le_antisymm hge (hmin q (.inr hc))
  · refine Nat.le_antisymm ?_ hle
    rcases Nat.lt_or_eq_of_le hge with hlt | heq
    · exact hlt
    · subst heq
      rcases hm with h | h
      · omega
      · exact absurd h hc

/-- Settles O54: entries choose `State.deepest`, exits follow `State.checkExit`. -/
theorem idleStatesFollowTheTolerance : Obligations.IdleStatesFollowTheTolerance := by
  unfold Obligations.IdleStatesFollowTheTolerance
  intro s
  refine ⟨fun k hk h4 ha hm hno => ?_, fun hno => ?_, fun h0 => ?_, fun h1 hsus hb => ?_, fun hb => ?_, fun hon data => ?_⟩
  · have ht : s.idleTarget = k := (State.idleTarget_of_free ha).trans (State.deepest_eq h4 (.inr hm) hno)
    have hreg : regReset (Reg.pwrIdlec + 4 * (k - 1)) = 0 ∧ Reg.pwrIdlec + 4 * (k - 1) ≠ Reg.gblStat := by
      interval_cases k <;> decide
    obtain ⟨hst, hbd, hrg⟩ := State.enterIdle_keeps_idle (s := s) (k := k) hreg.2
    refine ⟨?_, hst.trans rfl, by rw [hbd]; rfl, fun hc => ?_⟩
    · show (if s.power.state.toNat < s.idleTarget then _ else _) = _
      rw [ht, if_pos hk]
    · rw [hrg]
      exact State.reg_bump_one hreg.1 hc
  · refine if_neg ?_
    rcases hno with ha | hno
    · rw [State.idleTarget_of_awake ha]
      exact Nat.not_lt_zero _
    · by_cases ha : s.awakeHeld = true
      · rw [State.idleTarget_of_awake ha]
        exact Nat.not_lt_zero _
      · rw [State.idleTarget_of_free (by simpa using ha)]
        exact Nat.not_lt.mpr (State.deepest_le 4 hno)
  · intro k up
    refine ⟨fun ha => ?_, fun hk => ?_, fun ha hal htol hres => ?_, fun ha htol hres => ?_⟩
    · exact congrArg _ (State.checkExit_of_awake h0 ha)
    · exact if_pos hk
    · exact congrArg _ (State.checkExit_of_stays ha hal htol hres)
    · exact congrArg _ (State.checkExit_of_tolerance h0 ha htol hres)
  · exact (if_pos (by simp [h1, hsus, hb])).trans (congrArg _ (if_pos h1))
  · exact if_neg (by simp; omega)
  · have hkeep : (s.storeReg Reg.gblLtr data).power = s.power ∧ (s.storeReg Reg.gblLtr data).rt = s.rt := by
      unfold State.storeReg
      split <;> exact ⟨rfl, rfl⟩
    obtain ⟨hpw, hrt⟩ := hkeep
    have hltr : exec (.latencyToleranceWrite data) s = .next (s.storeReg Reg.gblLtr data).checkExit := if_pos hon
    refine ⟨fun h0 => ?_, ?_, ?_, if_pos hon⟩
    · rw [hltr, State.checkExit, hpw, if_pos (by simp [h0])]
    · intro u h0 htol ha hres
      have hst : u.power = s.power := hpw
      rw [hltr, State.checkExit_of_tolerance (by rw [hpw]; exact h0) ?_ (by rw [hpw]; exact htol) ?_, hpw]
      · rw [State.awakeHeld, hpw, hrt]
        exact ha
      · rw [State.toResume, Option.map_eq_none_iff] at hres ⊢
        rw [hpw]
        exact hres
    · intro t k
      have hsus : exec (.suspendArm data) s = .next (if s.period ≠ 0 ∧ s.stepAt k ≤ s.rt then
          { t.setReg64 Reg.pwrSuspLo s.nextBoundary with power := { s.power with suspArmed := some (BitVec.ofNat 64 s.nextBoundary) } }
          else { t with power := { s.power with suspArmed := some (BitVec.ofNat 64 k) } }) := if_pos hon
      rw [hsus]
      refine ⟨fun hc => congrArg _ (if_neg (by omega)), fun hp hk m => ?_⟩
      intro toCome hm hmin
      have h0 : s.s0 ≤ s.rt := (Nat.le_add_right _ _).trans hk
      rw [if_pos ⟨hp, hk⟩, State.nextBoundary_eq hp h0 hm hmin]

end Sys2Proof.Machine

/-!
# The mailbox

One command at a time with its reply at completion, and what each command does.
-/

namespace Sys2Proof.Machine

variable {s : State}

/-! ### Start and end of a command -/

section Start
variable {smb : Bool} {code : Byte} {len : BitVec 13} {k : List Byte → State → State × Byte × List Byte}

/-- A command that starts runs at once and publishes its status and reply later (R494). -/
theorem mboxStart_of_free (hr : s.rangerRuns = true) (hb : s.board.bootRom = false) (h : s.security.run = none)
    (hl : len.toNat ≤ 4096) :
    let u := s.setSec { s.security with done := false, refused := false, lastSrc := smb }
    let r := k (s.mboxData len.toNat) u
    mboxStart smb code len s k =
      .next (r.1.setSec { r.1.security with run := some { smb, code, status := r.2.1, reply := r.2.2 } }) :=
  (if_neg (by rw [hr, hb]; decide)).trans ((if_neg (by rw [h]; decide)).trans (if_neg (by omega)))

/-- A length beyond 4,096 ends at once with status 0x01 (R494). -/
theorem mboxStart_of_long (hr : s.rangerRuns = true) (hb : s.board.bootRom = false) (h : s.security.run = none)
    (hl : 4096 < len.toNat) : mboxStart smb code len s k =
      .next ((s.setSec { s.security with done := false, refused := false, lastSrc := smb }).mboxEnd 0x01 []) :=
  (if_neg (by rw [hr, hb]; decide)).trans ((if_neg (by rw [h]; decide)).trans (if_pos hl))

/-- A command is refused while another runs (R494). -/
theorem mboxStart_of_busy (hr : s.rangerRuns = true) (hb : s.board.bootRom = false) (h : s.security.run ≠ none) :
    mboxStart smb code len s k = .next (s.setSec { s.security with refused := true }) :=
  (if_neg (by rw [hr, hb]; decide)).trans (if_pos (Option.isSome_iff_ne_none.mpr h))

end Start

/-- A reply changes MBX_DATA alone. -/
theorem putWords_security (bs : List Byte) : ∀ (n k : Nat) (t : State), (putWords n bs k t).security = t.security
  | 0, _, _ => rfl
  | n + 1, k, _ => putWords_security (bs.drop 4) n (k + 1) _

/-- The end of a command publishes its status and the length of its reply. -/
theorem State.mboxEnd_security (status : Byte) (reply : List Byte) : (s.mboxEnd status reply).security =
    { s.security with run := none, done := true, status := status, rlen := reply.length } := by
  have h : (s.putReply reply).security = s.security := putWords_security _ _ _ _
  show { (s.putReply reply).security with run := none, done := true, status := status, rlen := reply.length } = _
  rw [h]

/-- A running command completes, but waits with what it writes to the SPI NOR for the end of a power-fail warning (R14). -/
theorem exec_mailboxCommandComplete_of_run {r : MboxRun} (h : s.security.run = some r) : exec .mailboxCommandComplete s =
    if !s.rangerRuns || (s.board.norHold && decide (s.security.job ≠ .none)) then .next s
    else .next (s.norJob.mboxEnd r.status r.reply) := by
  show execMailboxCommandComplete s = _
  unfold execMailboxCommandComplete
  rw [h]

theorem State.norJob_of_none (h : s.security.job = .none) : s.norJob = s := by
  have hx : { s.security with job := .none } = s.security := by rw [← h]
  unfold State.norJob
  rw [h, hx]
  rfl

theorem State.norJob_of_firmware {b : Bool} {img : List Byte} (h : s.security.job = .firmware b img) :
    s.norJob = (s.setSec { s.security with job := .none }).putFirmware b img := by
  unfold State.norJob
  rw [h]

theorem State.norJob_of_operators {ks : List OperatorKey} {erase : Bool} (h : s.security.job = .operators ks erase) :
    s.norJob = (s.setSec { s.security with job := .none }).putOperators ks erase := by
  unfold State.norJob
  rw [h]

/-- Settles O59: every command goes through `mboxStart`. -/
theorem mailboxRunsOneCommand : Obligations.MailboxRunsOneCommand := by
  unfold Obligations.MailboxRunsOneCommand
  intro s hr hb smb len x
  refine ⟨fun c code f hc => ?_, fun code hcode => ⟨fun h => ?_, fun h => ?_⟩, fun r h => ?_, fun h => ?_, fun b img h => ?_,
    fun ks erase h => ?_⟩
  · intro u r
    have hex : exec c s = mboxStart smb (BitVec.ofNat 8 code) len s fun q t => f t q := by
      simp only [List.mem_cons, List.not_mem_nil, or_false, Prod.mk.injEq] at hc
      rcases hc with ⟨rfl, rfl, rfl⟩ | ⟨rfl, rfl, rfl⟩ | ⟨rfl, rfl, rfl⟩ | ⟨rfl, rfl, rfl⟩ | ⟨rfl, rfl, rfl⟩ | ⟨rfl, rfl, rfl⟩ |
        ⟨rfl, rfl, rfl⟩ | ⟨rfl, rfl, rfl⟩ | ⟨rfl, rfl, rfl⟩ | ⟨rfl, rfl, rfl⟩ <;> rfl
    rw [hex]
    exact ⟨fun h hl => mboxStart_of_free hr hb h hl, fun h hl => mboxStart_of_long hr hb h hl, fun h => mboxStart_of_busy hr hb h⟩
  · refine (if_neg ?_).trans ((if_neg (by rw [hr, hb]; decide)).trans (if_neg ?_))
    · rw [Bool.and_eq_true, decide_eq_true_iff, decide_eq_true_iff]
      omega
    · rw [show s.security.run = none from h]
      decide
  · refine (if_neg ?_).trans ((if_neg (by rw [hr, hb]; decide)).trans (if_pos (Option.isSome_iff_ne_none.mpr h)))
    rw [Bool.and_eq_true, decide_eq_true_iff, decide_eq_true_iff]
    omega
  · rw [exec_mailboxCommandComplete_of_run h]
    refine ⟨fun hj => ⟨if_neg ?_, State.mboxEnd_security _ _⟩, fun hn hj => if_pos ?_⟩
    · rcases hj with hj | hj
      · simp [hr, hj]
      · simp [hr, show s.security.job = .none from hj]
    · rw [hn, decide_eq_true (show s.security.job ≠ .none from hj)]
      simp
  · exact State.norJob_of_none h
  · rw [State.norJob_of_firmware h]
    rfl
  · rw [State.norJob_of_operators h]
    rfl

/-! ### What the commands do -/

/-- Removing a key that the table does not hold (R470). -/
theorem State.removeOperator_of_unknown {pub : List Byte} (h : ∀ k ∈ s.security.operators, k.pub ≠ pub) :
    s.removeOperator pub = (s, 0x03, []) := by
  have hk : (s.security.operators.any fun k => k.pub = pub) = false := by simpa using h
  unfold State.removeOperator
  exact if_pos (by rw [hk]; rfl)

/-- Adding a key to a table of at most seven others (R470). -/
theorem State.addOperator_of_unknown {pub : List Byte} (h : ∀ k ∈ s.security.operators, k.pub ≠ pub) :
    s.addOperator pub = if 8 ≤ s.security.operators.length then (s, 0x04, [])
      else (s.setOperators (s.security.operators ++ [operatorKey pub]) false, 0x00, []) := by
  have hk : (s.security.operators.any fun k => k.pub = pub) = false := by simpa using h
  unfold State.addOperator
  exact if_neg (by rw [hk]; decide)

theorem State.addOperator_of_known {pub : List Byte} (h : ∃ k ∈ s.security.operators, k.pub = pub) :
    s.addOperator pub = (s, 0x00, []) := by
  unfold State.addOperator
  exact if_pos (by simpa using h)

/-- Removing a key: the last one stays while an image is applied (R470). -/
theorem State.removeOperator_of_known {pub : List Byte} (h : ∃ k ∈ s.security.operators, k.pub = pub) :
    s.removeOperator pub = if s.security.operators.length = 1 && s.imageApplied then (s, 0x06, [])
      else (s.setOperators (s.security.operators.filter fun k => k.pub ≠ pub) true, 0x00, []) := by
  have hk : (s.security.operators.any fun k => k.pub = pub) = true := by simpa using h
  unfold State.removeOperator
  exact if_neg (by rw [hk]; decide)

section Requests
variable {req : List Byte}

/-- The first operator key needs no signature (R470). -/
theorem State.opEnroll_of_empty (h : s.security.operators = []) (hl : req.length = 517) (h0 : leAt req 0 1 = 0) :
    s.opEnroll req = ({ s with security := { s.security with
      job := .operators [operatorKey (sliceBytes req 1 516)] false } }, 0x00, []) := by
  have hadd : s.opEnroll req = s.addOperator (sliceBytes req 1 516) := by
    unfold State.opEnroll
    simp [h, hl, h0]
  rw [hadd, State.addOperator_of_unknown (by simp [h]), if_neg (by simp [h]), h]
  rfl

/-- A later change of the operator table needs a signature of an enrolled key (R470). -/
theorem State.opEnroll_of_signed (h : s.security.operators ≠ []) (hl : req.length = 1541) (h1 : leAt req 0 1 ≤ 1) :
    s.opEnroll req = (s.operatorSigned (req.take 517 ++ leBytes 4 s.security.opSeq.toNat) (req.drop 517)).elim
      (if leAt req 0 1 = 0 then s.addOperator (sliceBytes req 1 516) else s.removeOperator (sliceBytes req 1 516))
      fun st => (s.bump Reg.secVfail 1, st, []) := by
  unfold State.opEnroll
  dsimp only
  rw [if_neg (by simp [hl]; omega), if_neg (by simpa using h), if_neg (by simp [hl])]
  cases s.operatorSigned (req.take 517 ++ leBytes 4 s.security.opSeq.toNat) (req.drop 517) <;> rfl

/-- A tenant's key needs an operator's signature (R472). -/
theorem State.tenEnroll_of_signed (hl : req.length = 1542) (ht : leAt req 0 2 ≤ 0xFFE) (hd : s.security.debug = false) :
    s.tenEnroll req = (s.operatorSigned (req.take 518) (req.drop 518)).elim
      (s.putTenant (BitVec.ofNat 12 (leAt req 0 2)) (sliceBytes req 2 516)) fun st => (s.bump Reg.secVfail 1, st, []) := by
  unfold State.tenEnroll
  dsimp only
  rw [if_neg (by simp [hl]; omega), if_neg (by rw [hd]; decide)]
  cases s.operatorSigned (req.take 518) (req.drop 518) <;> rfl

/-- A bundle key for a tenant, as the device's identity and the debug state allow (R473). -/
theorem State.tenKey_of_tenant (hl : req.length = 1030) (ht : leAt req 0 2 ≤ 0xFFE) (hv : leAt req 2 4 ≠ 0)
    (hd : s.security.debug = false) (hi : s.security.idFail = false) :
    s.tenKey req = (s.tenant (leAt req 0 2)).elim (s, 0x03, []) fun k =>
      if Config.rsaVerify k.pub (req.take 518) (req.drop 518) then (Config.oaepOpen (sliceBytes req 6 512)).elim (s, 0x01, [])
        fun p => if p.length = 38 ∧ leAt p 32 2 = leAt req 0 2 ∧ leAt p 34 4 = leAt req 2 4
          then s.putBundleKey (BitVec.ofNat 12 (leAt req 0 2)) (BitVec.ofNat 32 (leAt req 2 4)) (p.take 32) else (s, 0x01, [])
      else (s.bump Reg.secVfail 1, 0x02, []) := by
  unfold State.tenKey
  dsimp only
  rw [if_neg (by simp [hl, hv]; omega), if_neg (by rw [hd, hi]; decide)]
  cases s.tenant (leAt req 0 2) with
  | none => rfl
  | some k =>
    dsimp only [Option.elim_some]
    cases Config.rsaVerify k.pub (req.take 518) (req.drop 518) with
    | false => rfl
    | true =>
      rw [if_neg (by decide), if_pos rfl]
      cases Config.oaepOpen (sliceBytes req 6 512) with
      | none => rfl
      | some p =>
        by_cases hp : p.length = 38 ∧ leAt p 32 2 = leAt req 0 2 ∧ leAt p 34 4 = leAt req 2 4
        · exact (if_neg (by simp [hp])).trans (if_pos hp).symm
        · refine (if_pos ?_).trans (if_neg hp).symm
          simp only [Bool.or_eq_true, decide_eq_true_iff]
          tauto

/-- Without a challenge there is no debug grant (R479). -/
theorem State.dbgAuth_of_none (hl : req.length = 1028) (h : s.security.challenge = none) :
    s.dbgAuth req = ({ s with security := { s.security with challenge := none } }, 0x06, []) := by
  unfold State.dbgAuth
  dsimp only
  rw [if_neg (by simp [hl]), h]
  rfl

/-- A debug grant answers the challenge at hand, which is used up (R479). -/
theorem State.dbgAuth_of_some {c : List Byte} {a : BitVec 64} (hl : req.length = 1028)
    (h : s.security.challenge = some (c, a)) : s.dbgAuth req =
    let u := s.setSec { s.security with challenge := none }
    if decide (s.rt ≥ a.toNat + 2 ^ 32) || s.imageApplied || s.imageBusy then (u, 0x06, [])
    else (s.operatorSigned c (req.drop 4)).elim ({ s with security := { s.security with
        challenge := none, tenants := [], debug := true, debugMask := BitVec.ofNat 32 (leAt req 0 4) } }, 0x00, [])
      fun st => (u.bump Reg.secVfail 1, st, []) := by
  unfold State.dbgAuth
  dsimp only
  rw [if_neg (by simp [hl]), h]
  dsimp only
  generalize (decide (s.rt ≥ a.toNat + 2 ^ 32) || s.imageApplied || s.imageBusy) = b
  cases b with
  | true => rfl
  | false => cases s.operatorSigned c (req.drop 4) <;> rfl

/-- A firmware image in the staging region is verified, and stored over the image that does not run (R466). -/
theorem State.fwStore_of_idle (hl : req.length = 4) (hn : leAt req 0 4 ≤ 8388608) (hr : s.image.run = none) :
    let img := s.dev stagingRegion.base.toNat (leAt req 0 4)
    s.fwStore req = (fwStatus s.security.minSvn.toNat img).elim
      ({ s with security := { s.security with job := .firmware (!s.security.image) img } }, 0x00, [])
      fun st => (if st = 0x02 then s.bump Reg.secVfail 1 else s, st, []) := by
  unfold State.fwStore
  dsimp only
  rw [if_neg (by simp [hl]; omega), if_neg (by rw [hr]; decide)]
  cases fwStatus s.security.minSvn.toNat (s.dev stagingRegion.base.toNat (leAt req 0 4)) with
  | none => rfl
  | some st =>
    dsimp only [Option.elim_some]
    split <;> rfl

/-- A version of a tenant is dropped unless it is in use (R474). -/
theorem State.tenDrop_of_length (hl : req.length = 6) (ht : leAt req 0 2 ≤ 0xFFE) : s.tenDrop req =
    let t := BitVec.ofNat 12 (leAt req 0 2)
    let v := BitVec.ofNat 32 (leAt req 2 4)
    if (s.bundleKey t v).isNone then (s, 0x01, []) else if s.versionInUse t v then (s, 0x05, [])
    else ({ s with security := { s.security with
      tenants := s.security.tenants.map fun y => if y.tenant = t then { y with bundles := y.bundles.filter fun k => k.version ≠ v }
        else y } }, 0x00, []) := by
  have hc : (decide (req.length ≠ 6) || decide (0xFFE < leAt req 0 2)) = false := by simp [hl]; omega
  unfold State.tenDrop
  dsimp only
  rw [hc, Bool.false_or]
  rfl

end Requests

/-- The first bytes of a string are those of its first part. -/
theorem sliceBytes_append_left {as bs : List Byte} {n : Nat} (h : as.length = n) : sliceBytes (as ++ bs) 0 n = as := by
  refine List.ext_getElem (by simp [sliceBytes, h]) fun i hi ha => ?_
  simp [sliceBytes, List.getElem?_append_left ha, List.getElem?_eq_getElem ha]

/-- A quote begins with its magic. -/
theorem State.quote_magic {req : List Byte} (hl : req.length = 66) (ht : leAt req 64 2 ≤ 0xFFF) (hi : s.security.idFail = false) :
    (s.quote req).1 = { s with security := { s.security with quoteSeq := s.security.quoteSeq + 1 }, fresh := s.fresh + 1 } ∧
    (s.quote req).2.1 = 0x00 ∧ sliceBytes (s.quote req).2.2 0 4 = [0x55, 0x58, 0x51, 0x54] := by
  unfold State.quote
  dsimp only
  rw [if_neg (by simp [hl]; omega), if_neg (by rw [hi]; decide)]
  refine ⟨rfl, rfl, ?_⟩
  unfold State.quoteBody
  simp only [List.append_assoc]
  rw [sliceBytes_append_left (by decide)]
  decide

/-- The minimum version rises only if both images reach the running image's version (R467). -/
theorem State.svnCommit_eq : s.svnCommit [] =
    if s.security.fwOk false = true ∧ s.security.svn.toNat ≤ (s.security.fw false).svn.toNat ∧
      s.security.fwOk true = true ∧ s.security.svn.toNat ≤ (s.security.fw true).svn.toNat
    then ({ s with security := { s.security with
      minSvn := if s.security.minSvn.toNat ≤ s.security.svn.toNat then s.security.svn else s.security.minSvn } }, 0x00, [])
    else (s, 0x06, []) := by
  unfold State.svnCommit
  dsimp only
  rw [if_neg (by decide)]
  refine if_congr ?_ rfl rfl
  simp only [Bool.and_eq_true, decide_eq_true_iff]
  tauto

/-- Settles O60: each request goes through its command's conditions; a signature stays a free outcome. -/
theorem mailboxCommandsAct : Obligations.MailboxCommandsAct := by
  unfold Obligations.MailboxCommandsAct
  intro s req x is
  refine ⟨fun hl hn ho => ?_, fun hl => ?_, fun hl ht => ⟨fun hi => ?_, fun hi => State.quote_magic hl ht hi⟩, fun he hl h0 => ?_,
    fun he hl h1 => ?_, fun pub hk => ⟨State.removeOperator_of_unknown hk, fun h8 => ?_, fun h8 => ?_⟩,
    fun pub hk => ⟨State.addOperator_of_known hk, fun h1 hi => ?_, fun h1 => ?_⟩, fun hl ht => ⟨fun hd => ?_, fun hd => ?_⟩,
    fun hl ht hv => ⟨fun hd => ?_, fun hd hi => ⟨fun hk => ?_, fun k hk => ?_⟩⟩, ?_, ?_, fun hl => ?_, fun hl hn hr => ?_, ?_⟩
  · exact if_neg (by simp [hl]; omega)
  · exact if_pos (by simp [hl])
  · exact (if_neg (by simp [hl]; omega)).trans (if_pos hi)
  · exact State.opEnroll_of_empty he hl h0
  · rw [State.opEnroll_of_signed he hl h1]
    cases s.operatorSigned (req.take 517 ++ leBytes 4 s.security.opSeq.toNat) (req.drop 517) <;> rfl
  · rw [State.addOperator_of_unknown hk]
    exact if_neg (Nat.not_le.mpr h8)
  · exact (State.addOperator_of_unknown hk).trans (if_pos h8)
  · exact (State.removeOperator_of_known hk).trans (if_pos (by simp [show s.security.operators.length = 1 from h1, hi]))
  · rw [State.removeOperator_of_known hk]
    refine if_neg ?_
    rcases h1 with h1 | h1
    · simp [show s.security.operators.length ≠ 1 from h1]
    · simp [h1]
  · exact (if_neg (by simp [hl]; omega)).trans (if_pos hd)
  · rw [State.tenEnroll_of_signed hl ht hd]
    cases s.operatorSigned (req.take 518) (req.drop 518) <;> rfl
  · exact (if_neg (by simp [hl, hv]; omega)).trans (if_pos (by simpa using hd))
  · show s.tenKey req = _
    rw [State.tenKey_of_tenant hl ht hv hd hi, hk]
    rfl
  · rw [State.tenKey_of_tenant hl ht hv hd hi, hk, Option.elim_some]
    cases Config.oaepOpen (sliceBytes req 6 512) <;> rfl
  · intro t v hl ht
    rw [State.tenDrop_of_length hl ht]
    refine ⟨fun hb => if_pos (Option.isNone_iff_eq_none.mpr hb), fun hb hu => ?_, fun hb hu => ?_⟩
    · exact (if_neg (by simpa using hb)).trans (if_pos hu)
    · exact (if_neg (by simpa using hb)).trans (if_neg (by rw [hu]; decide))
  · exact ⟨(s.drawRandom 32).1, by simp [State.drawRandom], rfl⟩
  · intro u
    refine ⟨fun hc => State.dbgAuth_of_none hl hc, fun c a hc => ⟨fun hd => ?_, fun ht hi hb => ?_⟩⟩
    · exact (State.dbgAuth_of_some hl hc).trans (if_pos (by simpa only [Bool.or_eq_true, decide_eq_true_iff, or_assoc] using hd))
    · have hfree : (decide (s.rt ≥ a.toNat + 2 ^ 32) || s.imageApplied || s.imageBusy) = false := by
        rw [hi, hb, decide_eq_false (Nat.not_le.mpr ht)]
        rfl
      rw [State.dbgAuth_of_some hl hc]
      dsimp only
      rw [hfree, if_neg Bool.false_ne_true]
      cases s.operatorSigned c (req.drop 4) <;> rfl
  · intro img b
    refine (State.fwStore_of_idle hl hn hr).trans ?_
    cases fwStatus x.minSvn.toNat img <;> rfl
  · intro both
    rw [State.svnCommit_eq]
    refine ⟨fun hb hm => (if_pos ?_).trans ?_, fun hb => if_neg fun h => hb ?_⟩
    · obtain ⟨hf, hfs⟩ := hb false
      obtain ⟨ht, hts⟩ := hb true
      exact ⟨hf, hfs, ht, hts⟩
    · rw [if_pos hm]
    · obtain ⟨hf, hfs, ht, hts⟩ := h
      intro b
      cases b
      · exact ⟨hf, hfs⟩
      · exact ⟨ht, hts⟩

end Sys2Proof.Machine

/-!
# Lifetime records

Snapshots, history entries and the calendar.
-/

namespace Sys2Proof.Machine

variable {s : State}

/-- Ageing codes change the physical glades alone. -/
theorem ageAll_frame : ∀ (phs : List Nat) (s : State), (ageAll phs s).dep = s.dep ∧ (ageAll phs s).nor = s.nor ∧
    (ageAll phs s).fresh = s.fresh
  | [], _ => ⟨rfl, rfl, rfl⟩
  | ph :: phs, s => by
    rw [ageAll]
    cases (s.physGlade ph).cur with
    | none => exact ageAll_frame phs s
    | some c => exact ageAll_frame phs _

section Write
variable {i seq : Nat}

/-- A snapshot that is written: the subsector is erased, and takes the bytes (R455). -/
theorem State.writeSnap_true : s.writeSnap i seq true =
    let bs := s.snapshotBytes seq (s.snapErases i + 1)
    ((s.norErase (snapAt i) (snapAt i + 4096)).norWrite (snapAt i) bs).setDep
      { s.dep with newest := bs, snapSub := i, snapSeq := BitVec.ofNat 32 seq } := rfl

/-- A write that fails leaves free bytes. -/
theorem State.writeSnap_false : s.writeSnap i seq false =
    let x := (s.norErase (snapAt i) (snapAt i + 4096)).drawBytes 4096
    x.2.norWrite (snapAt i) x.1 := rfl

end Write

/-- The subsector after the newest snapshot's. -/
theorem State.nextSnap_eq : s.nextSnap = if s.dep.newest = [] then 0 else (s.dep.snapSub + 1) % 768 := by
  rw [State.nextSnap]
  cases s.dep.newest <;> rfl

/-- A snapshot, tried once more in the next subsector after a write that failed (R455, R463). -/
theorem State.takeSnapshot_eq (ok again : Bool) : s.takeSnapshot ok again =
    let a := ageAll (s.power.phys.map (·.1)) s
    let seq := if s.dep.newest = [] then 0 else s.dep.snapSeq.toNat + 1
    let i := if s.dep.newest = [] then 0 else (s.dep.snapSub + 1) % 768
    let t := a.writeSnap i seq ok
    let u := if ok then t else t.writeSnap ((i + 1) % 768) seq again
    if ok || again then u.updateWear else (u.setDep { u.dep with lifeStat := u.dep.lifeStat ||| 4 }).raise { cls := 0x16, cause := 2 } := by
  have hd : (ageAll (s.power.phys.map (·.1)) s).dep = s.dep := (ageAll_frame _ s).1
  have hseq : (if s.dep.newest.isEmpty then 0 else s.dep.snapSeq.toNat + 1) =
      if s.dep.newest = [] then 0 else s.dep.snapSeq.toNat + 1 := by cases s.dep.newest <;> rfl
  have hi := State.nextSnap_eq (s := ageAll (s.power.phys.map (·.1)) s)
  rw [hd] at hi
  unfold State.takeSnapshot
  dsimp only
  rw [hd, hseq, hi]
  rfl

/-- Free bytes are as many as are drawn, and the draws are counted. -/
theorem State.drawBytes_eq (k : Nat) : ∃ bs : List Byte, bs.length = k ∧ s.drawBytes k = (bs, { s with fresh := s.fresh + k }) :=
  ⟨_, by simp, rfl⟩

/-- A waiting history entry is written while the SPI NOR may be (R14, R458). -/
theorem exec_historyEntryWrite_of_cons {e : HistEvent} {rest : List HistEvent} (h : s.dep.histQueue = e :: rest) :
    exec .historyEntryWrite s = if s.norWritable then .next (s.writeHist e rest) else .next s := by
  show execHistoryEntryWrite s = _
  unfold execHistoryEntryWrite
  rw [h]

/-- The entry written at the head of the log, which is consolidated when few subsectors are empty ahead (R458, R459). -/
theorem State.writeHist_eq {e : HistEvent} {rest : List HistEvent} : s.writeHist e rest =
    let u := (s.setDep { s.dep with histQueue := rest }).putHist (histBytes e.kind false e.unit e.ring e.cal e.detail)
    let v := if u.emptyAhead < 64 then u.consolidate else u
    if e.isModule then v.drawBool.2.drawBool.2.takeSnapshot v.drawBool.1 v.drawBool.2.drawBool.1 else v := rfl

/-- After an entry of a module-wide record comes a snapshot, with two free outcomes (R456). -/
theorem State.writeHist_of_module {e : HistEvent} {rest : List HistEvent} {u : State} {n : Nat} (hm : e.isModule = true)
    (hu : (s.setDep { s.dep with histQueue := rest }).putHist (histBytes e.kind false e.unit e.ring e.cal e.detail) = u)
    (hn : u.fresh = n) (h64 : 64 ≤ u.emptyAhead) :
    s.writeHist e rest = { u with fresh := n + 2 }.takeSnapshot u.drawBool.1 u.drawBool.2.drawBool.1 := by
  rw [State.writeHist_eq, hu]
  dsimp only
  rw [if_pos hm, if_neg (Nat.not_lt.mpr h64), ← hn]
  rfl

theorem State.putHist_fresh (bs : List Byte) : (s.putHist bs).fresh = s.fresh := rfl

/-- A history entry has 32 bytes. -/
theorem histBytes_length (kind : Byte) (b : Bool) (unit : BitVec 16) (ring cal detail : DWord) :
    (histBytes kind b unit ring cal detail).length = 32 := by
  simp [histBytes, leBytes]

/-- The carried calendar moves by one each 100 ring counts (R460). -/
theorem State.calNow_toInt (h : s.dep.calState ≠ 0) :
    s.calNow.toInt = (s.dep.calSet.toInt + ((s.rt : Int) - s.dep.calAt.toNat) / 100).bmod (2 ^ 64) := by
  have hc : ∀ z : Int, (BitVec.ofNat 64 (codeOf 64 z)).toInt = z.bmod (2 ^ 64) := fun z => by
    have hz : ((codeOf 64 z : Nat) : Int) = z % (2 ^ 64 : Nat) := Int.toNat_of_nonneg (Int.emod_nonneg _ (by decide))
    rw [BitVec.toInt_ofNat', hz, Int.emod_bmod]
  have hn : s.calNow = s.dep.calSet + BitVec.ofNat 64 (codeOf 64 (((s.rt : Int) - s.dep.calAt.toNat) / 100)) := if_neg h
  rw [hn, BitVec.toInt_add, hc, Int.add_bmod_bmod]

/-- Settles O58: a snapshot is one or two `State.writeSnap`, an entry one `State.writeHist`. -/
theorem lifetimeRecordsAreKept : Obligations.LifetimeRecordsAreKept := by
  unfold Obligations.LifetimeRecordsAreKept
  intro s
  refine ⟨fun ok again hw => ⟨fun h => ?_, fun h => ?_, fun hon data => ⟨fun h => ?_, fun h => ?_⟩⟩, ?_,
    fun e rest hq hw => ?_, fun hq hw => ?_, fun hon data => ?_⟩
  · exact if_pos (by rw [hw, decide_eq_true h]; rfl)
  · exact if_neg (by rw [hw, decide_eq_false h]; decide)
  · exact (if_pos hon).trans (congrArg _ (if_pos (by rw [h, hw]; rfl)))
  · exact (if_pos hon).trans (congrArg _ (if_neg (by rw [h, Bool.false_and]; decide)))
  · intro a seq i bs
    obtain ⟨hd, hn, hf⟩ := ageAll_frame (s.power.phys.map (·.1)) s
    have he : a.snapErases i = s.snapErases i := by
      unfold State.snapErases State.norRead
      rw [hn]
    obtain ⟨lost, hlost, hdraw⟩ := State.drawBytes_eq (s := a.norErase (snapAt i) (snapAt i + 4096)) 4096
    refine ⟨fun again => ?_, lost, hlost, ?_⟩
    · rw [State.takeSnapshot_eq]
      dsimp only
      rw [if_pos (by rfl), if_pos rfl, State.writeSnap_true]
      dsimp only
      rw [he, hd]
    · intro u j
      have hfail : a.writeSnap i seq false = u := by
        rw [State.writeSnap_false]
        dsimp only
        rw [hdraw, show (a.norErase (snapAt i) (snapAt i + 4096)).fresh = s.fresh from hf]
        rfl
      refine ⟨?_, ?_⟩
      · rw [State.takeSnapshot_eq]
        dsimp only
        rw [if_pos (by rfl), if_neg Bool.false_ne_true, hfail]
      · rw [State.takeSnapshot_eq]
        dsimp only
        rw [if_neg (by decide), if_neg Bool.false_ne_true, hfail]
  · intro bs u
    have hlen : bs.length = 32 := histBytes_length _ _ _ _ _ _
    have hu : (s.setDep { s.dep with histQueue := rest }).putHist (histBytes e.kind false e.unit e.ring e.cal e.detail) = u := rfl
    have hn : u.fresh = s.fresh := State.putHist_fresh _
    clear_value u bs
    have hwrite := State.writeHist_eq (s := s) (e := e) (rest := rest)
    rw [hu] at hwrite
    dsimp only at hwrite
    rw [exec_historyEntryWrite_of_cons hq, if_pos hw]
    refine ⟨hlen, fun hm h64 => ?_, fun hm h64 => ?_, fun hm h64 => ⟨u.drawBool.1, u.drawBool.2.drawBool.1, ?_⟩⟩
    · rw [hwrite, if_neg (by rw [hm]; decide), if_neg (Nat.not_lt.mpr h64)]
    · rw [hwrite, if_neg (by rw [hm]; decide), if_pos h64]
    · rw [State.writeHist_of_module hm hu hn h64]
  · obtain ⟨e, rest, hq⟩ := List.exists_cons_of_ne_nil hq
    rw [exec_historyEntryWrite_of_cons hq, if_neg (by rw [hw]; decide)]
  · intro u w d
    have hcommit : exec (.calendarCommit data) s = .next (if decide (s.dep.calState ≠ 0) && decide (1000000 < d.natAbs)
        then w.history 0x09 0 (BitVec.ofInt 64 d) else w) := if_pos hon
    refine ⟨State.calNow_toInt, fun h => ?_, fun h hd => ?_⟩
    · rw [hcommit]
      refine congrArg _ (if_neg fun hc => ?_)
      rw [Bool.and_eq_true, decide_eq_true_iff, decide_eq_true_iff] at hc
      exact h.elim hc.1 (Nat.not_le.mpr hc.2)
    · rw [hcommit]
      refine congrArg _ (if_pos ?_)
      rw [decide_eq_true h, decide_eq_true hd]
      rfl

end Sys2Proof.Machine

/-!
# The SMBus window

A register whose domain is asleep reads zero through the window.
-/

namespace Sys2Proof.Machine

variable {s : State} {a : Nat} {r : RegSpec}

/-- A register that does not answer reads zero, and nothing else happens (R486). -/
theorem State.readReg_of_down {l : SMap Word} (hr : regSpec? a = some r) (hd : s.regUp a = false) :
    s.readReg s l a = { word := 0, status := 2, latches := l, after := s, base := s } := by
  unfold State.readReg
  rw [hr]
  exact if_pos (by rw [hd]; rfl)

/-- A word of the window that does not answer reads four zero bytes. -/
theorem windowGet_of_down {n : Nat} (ha : a < 0x2000) (hr : regSpec? a = some r) (hd : s.regUp a = false) :
    windowGet (n + 1) a s = (zeroBytes 4 ++ (windowGet n (a + 4) s).1, (windowGet n (a + 4) s).2) := by
  rw [windowGet, if_pos (show inWindow a = true from decide_eq_true ha), State.readReg_of_down hr hd]
  have hs : s.setBoard { s.board with winLatch := s.board.winLatch } = s := rfl
  have hz : leBytes 4 (0 : Word).toNat = zeroBytes 4 := by decide
  dsimp only
  rw [hs, hz]

/-- The Ranger runs in a domain that is on and in retention, the ring count is 1, and the window's pointer stands at RING_LO. -/
def sleepingWindow : State :=
  let b := { Board.init with on := 0x20000000, asleep := 0x20000000, rangerReset := false, perstN := true, winPtr := Reg.ringLo }
  { State.reset with board := b, ring := { Ring.init with lc := 1 } }

/-- RING_LO and RING_HI are registers, and neither answers while the Ranger domain sleeps. -/
theorem sleepingWindow_down : (∃ r, regSpec? Reg.ringLo = some r) ∧ (∃ r, regSpec? (Reg.ringLo + 4) = some r) ∧
    sleepingWindow.regUp Reg.ringLo = false ∧ sleepingWindow.regUp (Reg.ringLo + 4) = false := by
  refine ⟨Option.isSome_iff_exists.mp ?_, Option.isSome_iff_exists.mp ?_, ?_, ?_⟩ <;> decide

/-- Eight bytes at RING_LO then read zero. -/
theorem windowGet_sleepingWindow : (windowGet 2 Reg.ringLo sleepingWindow).1 = zeroBytes 8 := by
  obtain ⟨⟨r, hr⟩, ⟨r', hr'⟩, hd, hd'⟩ := sleepingWindow_down
  rw [windowGet_of_down (by decide) hr hd, windowGet_of_down (by decide) hr' hd']
  rfl

/-- Refutes O57: the clause of eight bytes at RING_LO asks that the Ranger runs, but not that its domain is out of retention.
With `asleep` bit 29 set, a state that no command of the model reaches, RING_LO does not answer (R486) and the bytes read zero,
not the ring count 1. -/
theorem not_managementPortsAnswer : ¬ Obligations.ManagementPortsAnswer := by
  unfold Obligations.ManagementPortsAnswer
  intro h
  obtain ⟨-, -, hread, -⟩ := h
  obtain ⟨-, -, -, -, hring⟩ := hread sleepingWindow 8 (by decide) (by decide) (by decide) (by decide)
  obtain ⟨t, ht, hans⟩ := hring rfl rfl rfl
  have hexec : exec (.smbusWindowRead 8) sleepingWindow = .next
      ((windowGet 2 Reg.ringLo sleepingWindow).2.setBoard { (windowGet 2 Reg.ringLo sleepingWindow).2.board with
        winPtr := sleepingWindow.board.winPtr + 8, smbAnswer := (windowGet 2 Reg.ringLo sleepingWindow).1, smbNack := false }) := by
    show execSmbusWindowRead 8 sleepingWindow = _
    rw [execSmbusWindowRead, if_neg (by decide)]
    rfl
  rw [hexec] at ht
  injection ht with ht
  rw [← ht] at hans
  have hzero : zeroBytes 8 = leBytes 4 (sleepingWindow.rt % 2 ^ 32) ++ leBytes 4 (sleepingWindow.rt / 2 ^ 32) :=
    windowGet_sleepingWindow.symm.trans hans
  exact absurd hzero (by decide)

end Sys2Proof.Machine

/-!
# Power

The Warden's period, grove by grove, and what rails, droops and ageing reports bring.
-/

namespace Sys2Proof.Machine

variable {s : State}

/-! ### What a period leaves alone -/

/-- The registers that a period counts in. -/
def wardenCounts : List Nat := [Reg.wardenTmiss, Reg.memCe, Reg.wardenThrot]

/-- A later state of a period, with the input power, the pool and every register that the period does not count in. -/
def KeepsWarden (s t : State) : Prop :=
  t.power.pin = s.power.pin ∧ t.power.pool = s.power.pool ∧ ∀ a, a ∉ wardenCounts → t.reg a = s.reg a

theorem KeepsWarden.refl : KeepsWarden s s := ⟨rfl, rfl, fun _ _ => rfl⟩

/-- A step that changes neither the registers nor the two values of the Warden. -/
theorem KeepsWarden.of_eq {t : State} (hr : t.regs = s.regs) (hpin : t.power.pin = s.power.pin)
    (hpool : t.power.pool = s.power.pool) : KeepsWarden s t :=
  ⟨hpin, hpool, fun a _ => by rw [State.reg, hr]; rfl⟩

theorem KeepsWarden.trans {t u : State} (h : KeepsWarden s t) (h' : KeepsWarden t u) : KeepsWarden s u := by
  obtain ⟨hpin, hpool, hreg⟩ := h
  obtain ⟨hpin', hpool', hreg'⟩ := h'
  exact ⟨hpin'.trans hpin, hpool'.trans hpool, fun a ha => (hreg' a ha).trans (hreg a ha)⟩

theorem KeepsWarden.ite {c : Prop} [Decidable c] {t u : State} (h : KeepsWarden s t) (h' : KeepsWarden s u) :
    KeepsWarden s (if c then t else u) := by
  split
  · exact h
  · exact h'

theorem KeepsWarden.bump {a n : Nat} (ha : a ∈ wardenCounts) : KeepsWarden s (s.bump a n) :=
  ⟨rfl, rfl, fun _ hb => State.reg_setReg_other fun h => hb (h ▸ ha)⟩

/-- Lane errors change the memory and the lifetime records. -/
theorem KeepsWarden.laneErrors {st pc lane n : Nat} : KeepsWarden s (s.laneErrors st pc lane n) := by
  unfold State.laneErrors
  exact .ite (.of_eq rfl rfl rfl) (.of_eq rfl rfl rfl)

/-- Corrected errors count in MEM_CE, and in the memory and the lifetime records. -/
theorem KeepsWarden.countCorrected : ∀ (es : List CeCount) (s : State), KeepsWarden s (countCorrected es s)
  | [], _ => .refl
  | e :: es, s => by
    rw [Machine.countCorrected]
    refine KeepsWarden.trans ?_ (KeepsWarden.countCorrected es _)
    refine KeepsWarden.trans (KeepsWarden.bump (a := Reg.memCe) (n := e.count) (by decide)) ?_
    generalize s.bump Reg.memCe e.count = t
    have hlife : KeepsWarden t (if e.unit < 8 then t.setLife { t.dep.life with
        stkCe := setAt t.dep.life.stkCe e.unit (addCnt32 (t.dep.life.stkCe.getD e.unit 0) e.count) } else t) :=
      .ite (.of_eq rfl rfl rfl) .refl
    exact .ite (hlife.trans KeepsWarden.laneErrors) hlife

theorem KeepsWarden.takeTemps {r : WardenReport} : KeepsWarden s (s.takeTemps r) := by
  unfold State.takeTemps
  exact .ite (.of_eq rfl rfl rfl) (.of_eq rfl rfl rfl)

/-- The groves' points change neither the input power nor the pool. -/
theorem KeepsWarden.wardenGroves {pool : Nat} {all : List Bool} : ∀ (gvs : List Nat) (s : State),
    KeepsWarden s (wardenGroves pool all gvs s)
  | [], _ => .refl
  | _ :: gvs, _ => KeepsWarden.trans (.of_eq rfl rfl rfl) (KeepsWarden.wardenGroves gvs _)

/-- Board status bits are no register. -/
theorem KeepsWarden.setStatus {bits : Byte} : KeepsWarden s (s.setStatus bits) := .of_eq rfl rfl rfl

/-- The latched reports hold the input power; a report that is missing counts. -/
theorem State.latchReports_frame {r : WardenReport} : (s.latchReports r).power.pin = r.pin ∧
    ∀ a, a ∉ wardenCounts → (s.latchReports r).reg a = s.reg a := by
  unfold State.latchReports
  dsimp only
  generalize s.latchAll r = l
  generalize (l.map fun d => (d.filter (·.2.2)).length).sum = misses
  generalize hp : ({ s.power with rails := l.map fun d => d.map (·.1), missing := l.map fun d => d.map (·.2.1), pin := r.pin } : Power) = p
  have hpin : p.pin = r.pin := by rw [← hp]
  have hcount : KeepsWarden (s.setPower p) (if misses = 0 then s.setPower p else (s.setPower p).bump Reg.wardenTmiss misses) :=
    .ite .refl (.bump (by decide))
  obtain ⟨hk, -, hreg⟩ := KeepsWarden.ite (c := (l.any fun d => d.any fun e => decide (16 ≤ e.2.1)) = true)
    (hcount.trans (KeepsWarden.setStatus (bits := 0x20))) hcount
  exact ⟨hk.trans hpin, hreg⟩

/-- The registers of a state decide its fields. -/
theorem State.field_eq {t : State} {a hi lo : Nat} (h : t.reg a = s.reg a) : t.field a hi lo = s.field a hi lo := by
  rw [State.field, State.regN, h]
  rfl

/-! ### A grove's next point -/

theorem foldl_max_le {m : Nat} : ∀ (l : List Nat) (a : Nat), a ≤ m → (∀ x ∈ l, x ≤ m) → l.foldl max a ≤ m
  | [], _, ha, _ => ha
  | x :: xs, a, ha, h => foldl_max_le xs (max a x) (Nat.max_le.mpr ⟨ha, h x List.mem_cons_self⟩)
      fun y hy => h y (List.mem_cons_of_mem _ hy)

/-- A grove's floor is one of the eight points. -/
theorem State.floorOf_le (gv : Nat) : s.floorOf gv ≤ 7 := by
  have hth : (if s.power.fracBad then 7 else (s.power.therm.getD (gv / 4) 0).toNat) ≤ 7 := by
    split <;> omega
  unfold State.floorOf
  dsimp only
  split
  · have := (s.gpower gv).pref.isLt
    omega
  · refine foldl_max_le _ _ hth fun x hx => ?_
    obtain ⟨h, -, rfl⟩ := List.mem_map.mp hx
    have := h.preset.isLt
    omega

/-- A grove that is on after a period: its point, its rail, and whether it narrows or widens (R416, R417, R420). -/
theorem State.groveNext_op (gv pool : Nat) (all : Bool) :
    let x := s.gpower gv
    let y := s.groveNext gv pool all
    let share := pool * s.field (Reg.wardenFrac + 4 * gv) 16 0 / 65536
    let p := if 4 ≤ y.seen.toNat then s.power.domainSum gv else share
    let o := if share < p ∨ s.field Reg.wardenCap 13 0 < s.power.pin.toNat ∨ s.field Reg.wardenCfg 15 8 < x.droops
      then min 7 (x.op.toNat + 1) else if 8 * p ≤ 7 * share then x.op.toNat - 1 else x.op.toNat
    y.op.toNat = max o (s.floorOf gv) ∧ y.seen.toNat ≤ x.seen.toNat + 1 ∧
    let old := (x.raising.getD x.op).toNat
    y.raising = (if y.op.toNat < old then some (BitVec.ofNat 3 old) else none) ∧
    y.rail = BitVec.ofNat 16 (if y.op.toNat < old then s.railNow gv x else s.setPoint gv y.op.toNat) := by
  intro x y share p o
  have hop := x.op.isLt
  have hseen := x.seen.isLt
  have hfl := State.floorOf_le (s := s) gv
  obtain ⟨seen, hs⟩ : ∃ n, (if all && x.seen.toNat < 4 then x.seen.toNat + 1 else x.seen.toNat) = n := ⟨_, rfl⟩
  have hs8 : seen < 8 ∧ seen ≤ x.seen.toNat + 1 := by
    rw [← hs]
    split_ifs with h
    · rw [Bool.and_eq_true, decide_eq_true_iff] at h
      omega
    · omega
  have hyseen : y.seen.toNat = seen := by
    have : y.seen = BitVec.ofNat 3 seen := by rw [← hs]; rfl
    rw [this, BitVec.toNat_ofNat]
    omega
  have hp : (if 4 ≤ seen then s.power.domainSum gv else share) = p := by rw [← hyseen]
  obtain ⟨n, hn⟩ : ∃ n, nextOp x.op.toNat share (if 4 ≤ seen then s.power.domainSum gv else share)
    (decide (s.power.pin.toNat > s.field Reg.wardenCap 13 0) || decide (x.droops > s.field Reg.wardenCfg 15 8))
    (s.floorOf gv) = n := ⟨_, rfl⟩
  have hno : n = max o (s.floorOf gv) := by
    rw [← hn, hp, nextOp]
    refine congrArg (max · (s.floorOf gv)) (if_congr ?_ rfl rfl)
    simp only [Bool.or_eq_true, decide_eq_true_iff, gt_iff_lt]
  have ho : o ≤ 7 := by
    show (if _ then _ else _) ≤ 7
    split_ifs
    · exact Nat.min_le_left _ _
    · exact (Nat.sub_le _ _).trans (Nat.le_of_lt_succ hop)
    · exact Nat.le_of_lt_succ hop
  have hyop : y.op.toNat = n := by
    have : y.op = BitVec.ofNat 3 n := by rw [← hn, ← hs]; rfl
    rw [this, BitVec.toNat_ofNat]
    omega
  refine ⟨hyop.trans hno, hyseen.trans_le hs8.2, ?_⟩
  intro old
  rw [hyop, ← hn, ← hs]
  exact ⟨rfl, rfl⟩

/-! ### The period -/

/-- The state of a period with its reports, temperatures, points and hints in place. -/
def State.wardenTaken (s : State) (r : WardenReport) : State :=
  let v := s.latchReports r
  let a := countCorrected r.ce (((v.setBoard { v.board with vin := r.vin }).countEnergy r.pin).takeTemps r)
  (a.setBoard a.board.countInRange).takeHints

/-- What a period counts once its groves have moved from `s` to `t`: a point that rose, and an input power over the cap. -/
def State.wardenCounted (s t : State) : State :=
  let u := if steppedUp s t then t.bump Reg.wardenThrot 1 else t
  if u.power.pin.toNat > u.field Reg.wardenCap 13 0 then u.bump Reg.wardenOver 1 else u

/-- A period with its pool shared out over the groves (R415, R416). -/
theorem exec_wardenPeriod_of_due {r : WardenReport} (h0 : s.rt % 2500 = 0) (hr : s.rangerRuns = true) (hb : s.board.bootRom = false) :
    let all := (List.range 16).map fun d =>
      let rs := (s.latchAll r).getD d []
      !rs.isEmpty && rs.all fun e => !e.2.2 || decide (16 ≤ e.2.1)
    let u := s.wardenTaken r
    let png := ((List.range 14).map fun d => u.power.domainSum (d + 16)).sum
    let v := u.setPower { u.power with png := BitVec.ofNat 16 png, pool := BitVec.ofNat 16 (u.poolNow png) }
    exec (.wardenPeriod r) s = .next (v.wardenCounted (wardenGroves (u.poolNow png) all (List.range 16) v)) := by
  have hc : (decide (s.rt % 2500 ≠ 0) || !s.rangerRuns || s.board.bootRom) = false := by rw [h0, hr, hb]; decide
  show execWardenPeriod r s = _
  unfold execWardenPeriod State.wardenTaken State.wardenCounted
  rw [hc, if_neg Bool.false_ne_true]

theorem State.wardenCounted_power (t : State) : (s.wardenCounted t).power = t.power := by
  have h : (if steppedUp s t then t.bump Reg.wardenThrot 1 else t).power = t.power := by
    split
    · rfl
    · rfl
  unfold State.wardenCounted
  dsimp only
  generalize (if steppedUp s t then t.bump Reg.wardenThrot 1 else t) = u at h
  split
  · exact h
  · exact h

/-- A period over the cap counts in WARDEN_OVER (R415). -/
theorem State.wardenCounted_over {t : State} (hcap : t.field Reg.wardenCap 13 0 < t.power.pin.toNat)
    (hc : (t.reg Reg.wardenOver).toNat < 2 ^ 32 - 1) :
    ((s.wardenCounted t).reg Reg.wardenOver).toNat = (t.reg Reg.wardenOver).toNat + 1 := by
  have hk : KeepsWarden t (if steppedUp s t then t.bump Reg.wardenThrot 1 else t) := .ite (.bump (by decide)) .refl
  unfold State.wardenCounted
  dsimp only
  generalize (if steppedUp s t then t.bump Reg.wardenThrot 1 else t) = u at hk
  obtain ⟨hpin, -, hreg⟩ := hk
  have hover : u.reg Reg.wardenOver = t.reg Reg.wardenOver := hreg _ (by decide)
  rw [hpin, State.field_eq (hreg Reg.wardenCap (by decide)), if_pos hcap, State.reg_bump_one (by decide) (by rw [hover]; exact hc), hover]

/-- What a period takes in besides the reports leaves the input power and the registers alone. -/
theorem KeepsWarden.wardenTaken {r : WardenReport} : KeepsWarden (s.latchReports r) (s.wardenTaken r) := by
  unfold State.wardenTaken
  dsimp only
  generalize s.latchReports r = v
  have hin : KeepsWarden v ((v.setBoard { v.board with vin := r.vin }).countEnergy r.pin) := .of_eq rfl rfl rfl
  have ha : KeepsWarden v (Machine.countCorrected r.ce (((v.setBoard { v.board with vin := r.vin }).countEnergy r.pin).takeTemps r)) :=
    hin.trans (KeepsWarden.takeTemps.trans (KeepsWarden.countCorrected _ _))
  exact ha.trans (.of_eq rfl rfl rfl)

/-- Sharing the pool out keeps the input power and the registers, and the pool that was set. -/
theorem State.wardenShared {png left : BitVec 16} (pool : Nat) (all : List Bool) :
    let w := wardenGroves pool all (List.range 16) (s.setPower { s.power with png := png, pool := left })
    w.power.pin = s.power.pin ∧ w.power.pool = left ∧ ∀ a, a ∉ wardenCounts → w.reg a = s.reg a := by
  obtain ⟨hpin, hpool, hreg⟩ := KeepsWarden.wardenGroves (pool := pool) (all := all) (List.range 16)
    (s.setPower { s.power with png := png, pool := left })
  exact ⟨hpin, hpool, hreg⟩

/-! ### Reports of a glade -/

/-- A value other than the default is read back, from a canonical table or not. -/
theorem mget_mset_of_ne {α : Type} [DecidableEq α] {d v : α} {k : Nat} (hv : v ≠ d) : ∀ m : SMap α, mget d (mset d m k v) k = v
  | [] => by simp [mset, mget, hv]
  | (k', v') :: m => by
    rcases Nat.lt_trichotomy k k' with h | h | h
    · simp [mset, mget, hv, h]
    · simp [mset, mget, hv, h]
    · simp [mset, mget, Nat.lt_asymm h, Nat.ne_of_gt h, mget_mset_of_ne hv m]

/-- The fields of a physical glade that decide whether it serves. -/
theorem State.inServicePhys_setPhys {ph : Nat} {y : PhysGlade} (hne : y ≠ PhysGlade.init) (hy : y.failed = (s.physGlade ph).failed) :
    (s.setPhys ph y).inServicePhys ph = s.inServicePhys ph := by
  have hf : ∀ k, (mget PhysGlade.init (mset PhysGlade.init s.power.phys ph y) k).failed =
      (mget PhysGlade.init s.power.phys k).failed := fun k => by
    by_cases hk : k = ph
    · rw [hk, mget_mset_of_ne hne, hy]
      rfl
    · rw [mget_mset_other hk]
  have hp : (s.setPhys ph y).physOf = s.physOf := by
    funext g
    unfold State.physOf
    dsimp only
    rw [show (s.setPhys ph y).power.phys = mset PhysGlade.init s.power.phys ph y from rfl, hf]
    rfl
  unfold State.inServicePhys State.servicePhys
  rw [hp]
  rfl

/-- A grace that has been given ends at its ring count (R427). -/
theorem exec_marginalGraceExpiry_of_grace {phys : BitVec 11} {e : DWord} (h : (s.physGlade phys.toNat).graceEnd = some e) :
    exec (.marginalGraceExpiry phys) s = if e.toNat ≤ s.rt then .next (s.setPhys phys.toNat { s.physGlade phys.toNat with
      graceEnd := none, inFmax := s.inServicePhys phys.toNat }).checkOffer else .next s := by
  show execMarginalGraceExpiry phys s = _
  unfold execMarginalGraceExpiry
  dsimp only
  rw [h]

section Report
variable {ph cur : Nat} {y : PhysGlade}

/-- What is known of a glade is read back after a report. -/
theorem State.physGlade_setPhys (hy : y ≠ PhysGlade.init) : (s.setPhys ph y).physGlade ph = y := mget_mset_of_ne hy _

/-- A report at or above the stand frequency leaves the glade as it is. -/
theorem State.checkMarginal_of_le (h : s.ring.pendingValue ≤ cur) : s.checkMarginal ph cur = s :=
  if_pos (by rw [decide_eq_true h]; rfl)

/-- A report of an in-service glade below the stand frequency (R427). -/
theorem State.checkMarginal_of_lt (hy : y ≠ PhysGlade.init) (h : cur < s.ring.pendingValue)
    (hs : (s.setPhys ph y).inServicePhys ph = true) : (s.setPhys ph y).checkMarginal ph cur =
    if s.ring.pendingValue ≤ cur + s.field Reg.pwrFcfg 7 0 then
      (if y.marginal then s.setPhys ph y else (s.setPhys ph y).becomeMarginal ph cur)
    else (s.setPhys ph y).setPhys ph { y with inFmax := true } := by
  unfold State.checkMarginal
  dsimp only
  rw [State.physGlade_setPhys hy]
  exact if_neg (by rw [show (s.setPhys ph y).ring = s.ring from rfl, decide_eq_false (Nat.not_le.mpr h), hs]; decide)

/-- A glade that becomes marginal gets its grace, its record and its cause (R427). -/
theorem State.becomeMarginal_setPhys (hy : y ≠ PhysGlade.init) : (s.setPhys ph y).becomeMarginal ph cur =
    ((((s.setPhys ph y).setPhys ph { y with
      marginal := true, graceEnd := some (s.ringCount + BitVec.ofNat 64 (2 ^ s.field Reg.pwrFcfg 13 8)), inFmax := false }).raise
      { cls := 0x11, cause := 0, detail := leBytes 2 ph ++ leBytes 2 cur }).setCause 3) := by
  unfold State.becomeMarginal
  dsimp only
  rw [State.physGlade_setPhys hy]
  rfl

end Report

/-- Settles O53: a period is `exec_wardenPeriod_of_due`, a grove's point `State.groveNext_op`, a report `State.checkMarginal`. -/
theorem powerFollowsItsBudget : Obligations.PowerFollowsItsBudget := by
  unfold Obligations.PowerFollowsItsBudget
  intro s
  refine ⟨fun r h0 hr hb => ?_, fun gv pool all gvs bs => ?_, fun gv => ?_, fun phys mhz hlt => ?_⟩
  · intro v a u cap png pool all
    obtain ⟨hvpin, hvreg⟩ := State.latchReports_frame (s := s) (r := r)
    obtain ⟨hupin, -, hureg⟩ := KeepsWarden.wardenTaken (s := s) (r := r)
    have hexec := exec_wardenPeriod_of_due (r := r) h0 hr hb
    dsimp only at hexec
    rw [show s.wardenTaken r = u from rfl] at hupin hureg hexec
    have hreg : ∀ b, b ∉ wardenCounts → u.reg b = s.reg b := fun b hb => (hureg b hb).trans (hvreg b hb)
    have hpool : u.poolNow png = pool := by
      unfold State.poolNow
      rw [State.field_eq (hreg Reg.wardenCap (by decide)), State.field_eq (hreg Reg.wardenCap (by decide)),
        State.field_eq (hreg Reg.wardenCfg (by decide))]
    rw [hpool] at hexec
    obtain ⟨hpin, hgpool, hgreg⟩ := State.wardenShared (s := u) (png := BitVec.ofNat 16 png) (left := BitVec.ofNat 16 pool) pool all
    have hkept := fun b hb => (hgreg b hb).trans (hreg b hb)
    have hrpin := hpin.trans (hupin.trans hvpin)
    have hpw := State.wardenCounted_power (s := u.setPower { u.power with png := BitVec.ofNat 16 png, pool := BitVec.ofNat 16 pool })
      (wardenGroves pool all (List.range 16) (u.setPower { u.power with png := BitVec.ofNat 16 png, pool := BitVec.ofNat 16 pool }))
    refine ⟨_, hexec, hpw, ?_, ?_, fun hcap hc => ?_⟩
    · rw [hpw]
      exact hrpin
    · rw [hpw]
      exact hgpool
    · have hover := hkept Reg.wardenOver (by decide)
      rw [State.wardenCounted_over, hover]
      · rw [State.field_eq (hkept Reg.wardenCap (by decide)), hrpin]
        exact hcap
      · rw [hover]
        exact hc
  · intro x y share p o old
    obtain ⟨hop, hseen, hraise, hrail⟩ := State.groveNext_op (s := s) gv pool all
    refine ⟨hop, rfl, hseen, rfl, fun h => ⟨hraise.trans (if_pos h), hrail.trans (congrArg _ (if_pos h))⟩,
      fun h => ⟨hraise.trans (if_neg (Nat.not_lt.mpr h)), hrail.trans (congrArg _ (if_neg (Nat.not_lt.mpr h)))⟩,
      fun hon => ?_, fun hon => ?_⟩
    · rw [wardenGroves, if_pos hon]
    · rw [wardenGroves, if_neg (by rw [hon]; decide)]
      rfl
  · intro x
    refine ⟨fun h => if_pos (Option.isSome_iff_ne_none.mpr h), fun hg hst => if_pos ?_, fun cycles hst hc => if_pos ?_⟩
    · rw [hg, show (s.gpower gv.toNat).stretched = false from hst]
      rfl
    · rw [show (s.gpower gv.toNat).stretched = true from hst, decide_eq_true hc]
      rfl
  · intro ph x
    refine ⟨fun hg => ?_, fun e he => ?_⟩
    · intro cur y u
      have hy : y ≠ PhysGlade.init := fun h => Option.some_ne_none _ (congrArg PhysGlade.cur h)
      have hserve : u.inServicePhys ph = s.inServicePhys ph := State.inServicePhys_setPhys hy rfl
      have hexec : exec (.ageingReport phys mhz) s = .next (u.checkMarginal ph cur).checkOffer :=
        (if_neg (Nat.not_le.mpr hlt)).trans (if_neg (by rw [show s.groveRuns (phys.toNat / 66) = true from hg]; decide))
      refine ⟨fun h => ?_, fun hs h => ⟨fun hguard hm => ?_, fun hguard => ?_⟩⟩
      · rw [hexec, State.checkMarginal_of_le (s := u) h]
      · rw [hexec, State.checkMarginal_of_lt hy h (hserve.trans hs), if_pos hguard,
          if_neg (by rw [show y.marginal = false from hm]; decide), State.becomeMarginal_setPhys hy]
      · rw [hexec, State.checkMarginal_of_lt hy h (hserve.trans hs), if_neg (Nat.not_le.mpr hguard)]
    · rw [exec_marginalGraceExpiry_of_grace he]
      exact ⟨fun h => if_pos h, fun h => if_neg (Nat.not_le.mpr h)⟩

end Sys2Proof.Machine
